-- ==== Sys2Proof/Word.lean ====
section
/-!
DEFINITION. The number types of the KV208 model: register words, stamps, and the sparse
tables that hold every array of the machine.
-/

namespace Sys2Proof

/-- A register word (R9, R118): 32 bits. -/
abbrev Word := BitVec 32

/-- A 64-bit quantity: lane time, a register pair (R15, R74). -/
abbrev DWord := BitVec 64

/-- A vector register of a context: four 32-bit elements, element 0 in bits 31:0 (R99). -/
abbrev VWord := BitVec 128

/-- One byte of SRAM, of flash or of a frame. -/
abbrev Byte := BitVec 8

/-- A sparse array: index and value pairs, indices strictly rising, no entry equal to the
array's default. An index that is not listed holds the default. -/
abbrev Tab (α : Type) := List (Nat × α)

/-- A serial-number reading of a 32-bit difference (R15): the signed difference. -/
abbrev serialDiff (x y : Word) : Int := (x - y).toInt

end Sys2Proof
end

