-- ==== Sys2Proof/Machine/Tab.lean ====
section
/-!
DEFINITION. Reading and writing the sparse tables, bit fields of words, and the byte order of
the machine (little-endian, R7).
-/

namespace Sys2Proof.Machine

/-- Entry `k` of a table whose unlisted entries are `d`. -/
def Tab.get {α : Type} (t : Tab α) (d : α) (k : Nat) : α :=
  match t with
  | [] => d
  | (j, v) :: rest => if j = k then v else Tab.get rest d k

/-- Insert, keeping the keys rising; no test of the value. -/
def Tab.put {α : Type} (t : Tab α) (k : Nat) (v : α) : Tab α :=
  match t with
  | [] => [(k, v)]
  | (j, w) :: rest =>
    if k < j then (k, v) :: (j, w) :: rest
    else if k = j then (k, v) :: rest
    else (j, w) :: Tab.put rest k v

/-- Remove entry `k`. -/
def Tab.drop {α : Type} (t : Tab α) (k : Nat) : Tab α :=
  match t with
  | [] => []
  | (j, w) :: rest => if j = k then Tab.drop rest k else (j, w) :: Tab.drop rest k

/-- Write entry `k`: writing the default removes the entry, so equal tables are equal data. -/
def Tab.set {α : Type} [DecidableEq α] (t : Tab α) (d : α) (k : Nat) (v : α) : Tab α :=
  if v = d then Tab.drop t k else Tab.put t k v

/-- Change entry `k` by a function. -/
def Tab.modify {α : Type} [DecidableEq α] (t : Tab α) (d : α) (k : Nat) (f : α → α) : Tab α :=
  Tab.set t d k (f (Tab.get t d k))

/-- The canonical form: keys strictly rising and no listed default. -/
def Tab.wf {α : Type} [DecidableEq α] (t : Tab α) (d : α) : Bool :=
  match t with
  | [] => true
  | [(_, v)] => decide (v ≠ d)
  | (j, v) :: (k, w) :: rest => decide (v ≠ d) && decide (j < k) && Tab.wf ((k, w) :: rest) d

/-- The field of width `w` at bit `lo`, as a number. -/
def fieldNat (x : Word) (lo w : Nat) : Nat := (x.toNat >>> lo) % 2 ^ w

/-- Bit `i` of a word. -/
def bitOf (x : Word) (i : Nat) : Bool := x.getLsbD i

/-- `x` with the field of width `w` at bit `lo` set to `v` (reduced to the width). -/
def setFieldNat (x : Word) (lo w v : Nat) : Word :=
  BitVec.ofNat 32
    (x.toNat - ((x.toNat >>> lo) % 2 ^ w) * 2 ^ lo + (v % 2 ^ w) * 2 ^ lo)

/-- `x` with bit `i` set to `b`. -/
def setBit (x : Word) (i : Nat) (b : Bool) : Word := setFieldNat x i 1 (if b then 1 else 0)

/-- A Bool as a one-bit number. -/
def b2n (b : Bool) : Nat := if b then 1 else 0

/-- A saturating 32-bit count plus `n`. -/
def satAdd (x : Word) (n : Nat) : Word := BitVec.ofNat 32 (min (x.toNat + n) 0xFFFFFFFF)

/-- A number reduced to a word, saturating at the greatest. -/
def satWord (n : Nat) : Word := BitVec.ofNat 32 (min n 0xFFFFFFFF)

/-- A signed number as a word, saturating at both ends. -/
def satInt (i : Int) : Word :=
  BitVec.ofInt 32 (max (-0x80000000) (min i 0x7FFFFFFF))

/-- The low and the high word of a 64-bit number. -/
def loWord (n : Nat) : Word := BitVec.ofNat 32 n
/-- See `loWord`. -/
def hiWord (n : Nat) : Word := BitVec.ofNat 32 (n / 2 ^ 32)
/-- A 64-bit number from its two words. -/
def pairNat (lo hi : Word) : Nat := lo.toNat + hi.toNat * 2 ^ 32

/-- The four bytes of a word, least significant first (R7). -/
def wordBytes (x : Word) : List Byte :=
  [x.extractLsb' 0 8, x.extractLsb' 8 8, x.extractLsb' 16 8, x.extractLsb' 24 8]

/-- `n` bytes of a number, least significant first. -/
def natBytes (x : Nat) (n : Nat) : List Byte :=
  match n with
  | 0 => []
  | n + 1 => BitVec.ofNat 8 x :: natBytes (x / 256) n

/-- A little-endian number from bytes. -/
def bytesNat (bs : List Byte) : Nat :=
  match bs with
  | [] => 0
  | b :: rest => b.toNat + 256 * bytesNat rest

/-- A big-endian number from bytes. -/
def bytesNatBE (bs : List Byte) : Nat := bytesNat bs.reverse

/-- A word from its little-endian bytes. -/
def bytesWord (bs : List Byte) : Word := BitVec.ofNat 32 (bytesNat bs)

/-- Clamp a number into a closed range. -/
def clampNat (lo hi x : Nat) : Nat := max lo (min hi x)
/-- Clamp an integer into a closed range. -/
def clampInt (lo hi x : Int) : Int := max lo (min hi x)

/-- The set bits of a word below `n`, as indices. -/
def bitsBelow (x : Word) (n : Nat) : List Nat := (List.range n).filter (fun i => x.getLsbD i)

/-- All the numbers below `n` that meet `p`, in rising order. -/
def allBelow (n : Nat) (p : Nat → Bool) : List Nat := (List.range n).filter p

/-- The first of `xs` that meets `p`. -/
def firstWhere {α : Type} (p : α → Bool) (xs : List α) : Option α := xs.find? p

/-- Apply `f` for each of `xs`, in order. -/
def forAll {α σ : Type} (xs : List α) (f : α → σ → σ) (s : σ) : σ :=
  xs.foldl (fun t x => f x t) s

/-- A list with entry `n` replaced. -/
def listSet {α : Type} (xs : List α) (n : Nat) (v : α) : List α := xs.set n v

/-- Insert into a list kept rising by a key. -/
def insertBy {α : Type} (key : α → Nat) (x : α) (xs : List α) : List α :=
  match xs with
  | [] => [x]
  | y :: ys => if key x < key y then x :: y :: ys else y :: insertBy key x ys

end Sys2Proof.Machine
end

