-- ==== Sys2Proof/Syntax.lean ====
section
/-!
DEFINITION. The commands of the block: one constructor per row of the opcode table.  The operands
name the lane, the context or the unit the command acts on, the fields of an instruction word, and
what the world outside the part supplies (pin levels, currents, frames, samples).
-/

namespace Sys2Proof

/-- The two lanes (R17). -/
inductive LaneId where
  | a | b
deriving DecidableEq, Repr, Inhabited

/-- A context number (R99). -/
abbrev CtxNo := Fin 128
/-- A register number of a 5-bit field (R136). -/
abbrev RegNo := Fin 32
/-- A channel index (R8): 0 to 191 N class, 192 to 207 H class. -/
abbrev ChNo := Fin 208
/-- A bridge unit index (R8). -/
abbrev BrNo := Fin 24
/-- A pulse unit of R536: 0 to 207 channels, 208 to 231 bridges. -/
abbrev UnitNo := Fin 232
/-- An output bank index, bank k at k - 1 (R8). -/
abbrev BankNo := Fin 8
/-- A DIRECT input index (R450). -/
abbrev DirNo := Fin 16
/-- An SRAM bank (R116). -/
abbrev SramNo := Fin 24

/-- What ended a lane's reset (R73). -/
abbrev BootCause := Fin 9

/-- Who writes RIND.PWR_CTRL (R67): a lane's program, or the host through the management port
with the management key. -/
inductive PwrWriter where
  | lane (l : LaneId)
  | host
deriving DecidableEq, Repr

/-- A word of SRAM by its index. -/
abbrev SramWord := Fin 0x180000

/-- A write of another master that meets a store in one cycle (R552): the word's address, the bytes it
touches, the word written, and the master's number m of R543. -/
structure Clash where
  addr : Word
  mask : BitVec 4
  val : Word
  master : Fin 14
deriving DecidableEq, Repr


/-- A register write together with what the hardware does in the same cycle (R12): the word written, and the W1C bits that
the hardware sets. -/
structure SyncWord where
  value : Word
  set : Word
deriving DecidableEq, Repr

/-- The end of a debug halt (R125, R150): the lane, and the PC that the debug port has written for the context halted by
brk, if it has. -/
structure DebugGo where
  lane : LaneId
  pc : Option Word
deriving DecidableEq, Repr

/-- The trip sources of a unit as they stand (R417): the filtered pads (bits 7:0), the software trip (bit 8) and ISn above
ITH (bit 9), with the instant of their change (R83). -/
structure TripPads where
  src : BitVec 10
  stamp : Nat
deriving DecidableEq, Repr

/-- A pad's level that has passed its filter, with the instant of the first sample of the run (R83). -/
structure PadLevel where
  level : Bool
  stamp : Nat
deriving DecidableEq, Repr

/-- A feedback input (R457): ENC1 to ENC24 at index 0 to 23. -/
abbrev FbNo := Fin 24

/-- What a baseband measures of one signal at an epoch (R346, R347): system 1 to 3, PRN, signal, antenna (true:
ANT2), elevation in degrees, whether carrier continuity was lost, carrier valid, C/N0, the source of the
satellite's ephemeris (R328), whether an assisted one has the broadcast issue, whether the ephemeris is
more than 300 m out, pseudorange, carrier phase and Doppler. -/
structure GnsObs where
  sys : Fin 4
  prn : Fin 64
  sig : Fin 8
  ant : Bool
  elev : Fin 91
  slip : Bool
  phv : Bool
  cn0 : BitVec 7
  eph : Fin 4
  iod : Bool
  far : Bool
  pr : BitVec 64
  cp : BitVec 64
  dop : Word
deriving DecidableEq, Repr

/-- What reaches a baseband at an epoch: the LT of the epoch, the signals, the adaptive notches (which, settled,
centre), and leap seconds decoded. -/
structure GnsEpoch where
  epoch : Nat
  obs : List GnsObs
  notches : List (Fin 24 × Bool × BitVec 16)
  leap : Option (BitVec 8)
deriving DecidableEq, Repr

/-- A CAN frame as a controller receives it (R486): identifier, format bits, data, and the stamp of R83. -/
structure CanFrame where
  id : BitVec 29
  ext : Bool
  rmt : Bool
  fd : Bool
  brs : Bool
  esi : Bool
  data : List Byte
  ts : Word
deriving DecidableEq, Repr

/-- A transmit request of a CAN controller: urgent slot 0 to 7, or 8 for the head of the ring (R490). -/
abbrev CanSrc := Fin 9

/-- An Ethernet frame as the MAC receives it (R503, R505): the octets without FCS, whether the FCS and the length
are good, and the stamp of R83. -/
structure EthFrame where
  data : List Byte
  fcsOk : Bool
  lenOk : Bool
  ts : BitVec 64
deriving DecidableEq, Repr
inductive Instr where
  -- Registers, links and the section cycle
  /-- REGISTER_WRITE (R9): A write to a register field that has no step of its own takes effect under its access code. -/
  | registerWrite (l : LaneId) (addr : Word) (v : SyncWord)
  /-- RC_READ (R9): A read of an RC field returns the field and then clears it. -/
  | rcRead (l : LaneId) (addr : Word)
  /-- IMU_SAMPLE (R19): The lane reads its own IMU at data-ready, stamps the sample and forwards it to the partner lane. -/
  | imuSample (l : LaneId) (gx gy gz ax ay az : Word)
  /-- SWITCH_LINK_FRAME (R22): A frame arrives over a switch link; a frame that fails its CRC is discarded and repeated. -/
  | switchLinkFrame (l : LaneId) (toDie crcOk : Bool)
  /-- SWITCH_LINK_TRAINED (R22): A lane's switch link finishes training after the lane leaves reset, and UP becomes 1. -/
  | switchLinkTrained (l : LaneId)
  /-- SWITCH_LINK_DOWN (R174): A lane's switch link goes down; the switch die discards that port's commands not yet due, and the SPX resolves pending entries as drained. -/
  | switchLinkDown (l : LaneId)
  /-- LANE_LINK_MIRROR (R24): The lane link mirrors state between the lanes once per millisecond. -/
  | laneLinkMirror
  /-- PULSE_COMMAND_EXECUTE (R25): The switch die executes a stamped pulse command when replica LT reaches its stamp. -/
  | pulseCommandExecute (l : LaneId)
  /-- SECTION_ENGINE_CYCLE (R34): Each millisecond the section engine computes nozzle kinematics, predicts crossings, and issues, sets or drains edges. -/
  | sectionEngineCycle (l : LaneId)
  -- Supply and power
  /-- RESET_N_ASSERT (R49): RESET_N has been low for 1 us; both lanes are held in reset, outputs go off and every stored command is discarded. -/
  | resetNAssert
  /-- RESET_N_RELEASE (R49): RESET_N rises; DIRECT channels follow their pads again and the lanes boot. -/
  | resetNRelease
  /-- BANK_FORCED_OFF (R55): VBATk has been below 3.2 V for more than 2 ms; the bank's channels go off, the flags are set and E93 is raised. -/
  | bankForcedOff (k : BankNo)
  /-- BANK_RESTORE_START (R57): VBATk has been at or above 5.0 V for 2 ms and the supervisor begins restoring the bank. -/
  | bankRestoreStart (k : BankNo)
  /-- BANK_RESTORE_STEP (R57): Each millisecond of a restore, the lowest waiting channel turns on; when the set is empty, BANK_OFF clears. -/
  | bankRestoreStep (k : BankNo)
  /-- VLOG_LOSS (R59): VLOG has been below 3.2 V for more than 2 ms; the lanes are held in reset, outputs go off and commands are discarded. -/
  | vlogLoss
  /-- HOLD_STORE_EMPTY (R59): The hold store runs empty and the rind loses its state. -/
  | holdStoreEmpty
  /-- VLOG_POWER_UP (R72): VLOG rises through 6.0 V, or a CAVE exit begins, and the module starts its power-up order. -/
  | vlogPowerUp (strap : Fin 4)
  /-- LANE_RESET_RELEASE (R72): A lane leaves reset, samples MODE, locks its PLLs and starts its boot ROM. -/
  | laneResetRelease (l : LaneId) (mode : Fin 8) (tests : List (SramNo × BitVec 9))
  /-- BOOT_COMPLETE (R72): The lane has checked its image and selected its configuration; context 0 or the loader starts. -/
  | bootComplete (l : LaneId)
  /-- XT32_FAIL (R64): The 32.768 kHz crystal has stopped for 2 ms; the rind switches to its RC oscillator and raises E95. -/
  | xt32Fail
  /-- XT32_RESTORE (R64): The crystal has run for 500 ms and the rind returns to it. -/
  | xt32Restore
  /-- PWR_TARGET_WRITE (R67): A write of RIND.PWR_CTRL.TARGET requests a power-state transition, which the rind starts or refuses. -/
  | pwrTargetWrite (w : PwrWriter) (v : Word)
  /-- PWR_TRANSITION_COMPLETE (R68): A power-state entry or exit completes and STATE changes. -/
  | pwrTransitionComplete
  /-- WAKE (R69): An enabled wake source ends a state below RUN or abandons an entry and sets its WAKE_SRC bit. -/
  | wake (src : BitVec 13)
  /-- PARK_BURST (R70): At each RTC second in DOZE with PARK set, the active lane powers ANT1, its PLL and its baseband for 40 ms. -/
  | parkBurst
  /-- PARK_BURST_END (R329): A park burst ends and its snapshot fix updates position, time and PRED ephemerides. -/
  | parkBurstEnd (sats : List (Fin 4 × Fin 64))
  /-- SOFTWARE_RESET (R73): Context 0 writes SYS.BOOT.SWRST; the lane gives up control and resets. -/
  | softwareReset (l : LaneId) (c : CtxNo)
  /-- WDOG_KICK (R124): A write to SYS.WDOG_KICK restarts the lane watchdog. -/
  | wdogKick (l : LaneId) (v : Word)
  /-- WATCHDOG_EXPIRY (R124): The lane watchdog expires; it is a lane fault and the lane resets with cause 4. -/
  | watchdogExpiry (l : LaneId)
  -- Lane time
  /-- TIMING_FIX_ACQUIRED (R78): The first timing fix after LT starts from 0 fixes the mapping offset M. -/
  | timingFixAcquired (gt : Nat)
  /-- HOLDOVER_ENTRY (R89): Neither lane has a timing fix; LT enters holdover and E47 is raised. -/
  | holdoverEntry (sigmaA sigmaB : Rat)
  /-- TP_SUPPRESS (R90): The holdover uncertainty exceeds TP_LIMIT and the time pulse generators stop driving their pads. -/
  | tpSuppress (l : LaneId) (n : Fin 2)
  /-- TIMING_FIX_RETURN (R91): A timing fix returns; GNSS time is stepped, and LT slews or M is rebased. -/
  | timingFixReturn (gt : Nat)
  /-- SLEW_END (R91): The mapping error falls below 10 ns and MODE becomes LOCKED. -/
  | slewEnd (l : LaneId)
  /-- TP_LEADING_EDGE (R87): A time pulse generator reaches a leading edge, drives or withholds it, and applies pending settings. -/
  | tpLeadingEdge (l : LaneId) (n : Fin 2)
  /-- PEER_OFFSET_MEASURE (R80): Once per millisecond each lane measures the partner's LT offset and updates PEER_OK and readiness. -/
  | peerOffsetMeasure (l : LaneId) (up : Bool)
  /-- XSUB_GO (R85): A write to LT.XSUB_GO submits a pair to an external-clock estimator slot. -/
  | xsubGo (l : LaneId) (v : Word)
  /-- XSRC_CFG_WRITE (R98): A write that changes a slot's TICK or WIN empties its pairs and clears VALID. -/
  | xsrcCfgWrite (l : LaneId) (n : Fin 32) (tick : Bool) (v : Word)
  /-- TP_CFG_WRITE (R88): A write of LT.TP_CFG takes effect at the next leading edge, or at once when there is none, with width clamping. -/
  | tpCfgWrite (l : LaneId) (n : Fin 2) (v : Word)
  /-- NOW_LO_READ (R93): A read of LT.NOW_LO latches NOW_HI for the reading context. -/
  | nowLoRead (l : LaneId) (c : CtxNo)
  /-- GT_LO_READ (R93): A read of LT.GT_LO latches GT_HI, GT_AT_LO and GT_AT_HI for the reading context. -/
  | gtLoRead (l : LaneId) (c : CtxNo)
  -- Contexts and engines
  /-- START (R130): CTX.CMD START moves a FREE context to READY and sets its deadline. -/
  | start (l : LaneId) (t : CtxNo)
  /-- HALT (R130): CTX.CMD HALT moves a context to HALTED and abandons its wait. -/
  | halt (l : LaneId) (t : CtxNo)
  /-- RESUME (R130): CTX.CMD RESUME moves a HALTED context to READY. -/
  | resume (l : LaneId) (t : CtxNo)
  /-- KILL (R106): CTX.CMD KILL frees a context and releases its locks, wait and queue positions. -/
  | kill (l : LaneId) (t : CtxNo)
  /-- CTX_CMD_NO_EFFECT (R130): A CTX.CMD with OP 0, 5, 6 or 7 has no effect. -/
  | ctxCmdNoEffect (l : LaneId) (v : Word)
  /-- SCHEDULER_DISPATCH (R108): Once per core cycle the scheduler gives cores to READY contexts in rank order. -/
  | schedulerDispatch (l : LaneId)
  /-- DEADLINE_MISS (R110): LT reaches a READY or RUNNING context's deadline; its miss bit and counter are set. -/
  | deadlineMiss (l : LaneId) (c : CtxNo)
  /-- WAIT_COMPLETE (R112): A waiting context's condition is met and it becomes READY with result 0. -/
  | waitComplete (l : LaneId) (c : CtxNo)
  /-- WAIT_TIMEOUT (R112): A wait's timeout expires and the context becomes READY with result 1. -/
  | waitTimeout (l : LaneId) (c : CtxNo)
  /-- DEBUG_HALT (R125): The lane's cores stop at instruction boundaries for a debug halt. -/
  | debugHalt (l : LaneId)
  /-- DEBUG_RESUME (R125): A debug halt ends and the waits that fell due complete. -/
  | debugResume (g : DebugGo)
  /-- CONTEXT_FILE_WRITE (R126): Context 0 writes a context's file, which takes effect only if that context is FREE or HALTED. -/
  | contextFileWrite (l : LaneId) (ofs : Fin 0x10000) (v : Word)
  /-- ENGINE_COMMAND_ACCEPT (R133): An engine accepts a waiting X-format command when its queue has room. -/
  | engineCommandAccept (l : LaneId) (c : CtxNo)
  /-- MATRIX_COMMAND_COMPLETE (R168): The small-matrix unit completes a command and writes its result and status. -/
  | matrixCommandComplete (l : LaneId)
  /-- ILLEGAL_ENCODING (R137): An undefined encoding faults ILLEGAL. -/
  | illegalEncoding (l : LaneId) (c : CtxNo) (w : Word)
  -- Integer arithmetic
  /-- ADD (R142): rd = rs1 + rs2. -/
  | add (l : LaneId) (c : CtxNo) (rd rs1 rs2 : RegNo)
  /-- SUB (R142): rd = rs1 - rs2. -/
  | sub (l : LaneId) (c : CtxNo) (rd rs1 rs2 : RegNo)
  /-- AND (R142): Bitwise and. -/
  | and (l : LaneId) (c : CtxNo) (rd rs1 rs2 : RegNo)
  /-- OR (R142): Bitwise or. -/
  | or (l : LaneId) (c : CtxNo) (rd rs1 rs2 : RegNo)
  /-- XOR (R142): Bitwise exclusive or. -/
  | xor (l : LaneId) (c : CtxNo) (rd rs1 rs2 : RegNo)
  /-- SLL (R142): Logical left shift. -/
  | sll (l : LaneId) (c : CtxNo) (rd rs1 rs2 : RegNo)
  /-- SRL (R142): Logical right shift. -/
  | srl (l : LaneId) (c : CtxNo) (rd rs1 rs2 : RegNo)
  /-- SRA (R142): Arithmetic right shift. -/
  | sra (l : LaneId) (c : CtxNo) (rd rs1 rs2 : RegNo)
  /-- SLT (R142): Signed set-less-than. -/
  | slt (l : LaneId) (c : CtxNo) (rd rs1 rs2 : RegNo)
  /-- SLTU (R142): Unsigned set-less-than. -/
  | sltu (l : LaneId) (c : CtxNo) (rd rs1 rs2 : RegNo)
  /-- MIN (R142): Signed minimum. -/
  | min (l : LaneId) (c : CtxNo) (rd rs1 rs2 : RegNo)
  /-- MAX (R142): Signed maximum. -/
  | max (l : LaneId) (c : CtxNo) (rd rs1 rs2 : RegNo)
  /-- MINU (R142): Unsigned minimum. -/
  | minu (l : LaneId) (c : CtxNo) (rd rs1 rs2 : RegNo)
  /-- MAXU (R142): Unsigned maximum. -/
  | maxu (l : LaneId) (c : CtxNo) (rd rs1 rs2 : RegNo)
  /-- CLZ (R142): Counts the leading zero bits of rs1. -/
  | clz (l : LaneId) (c : CtxNo) (rd rs1 : RegNo)
  /-- MUL (R142): Low 32 bits of the product. -/
  | mul (l : LaneId) (c : CtxNo) (rd rs1 rs2 : RegNo)
  /-- MULH (R142): High 32 bits of the signed product. -/
  | mulh (l : LaneId) (c : CtxNo) (rd rs1 rs2 : RegNo)
  /-- MULHU (R142): High 32 bits of the unsigned product. -/
  | mulhu (l : LaneId) (c : CtxNo) (rd rs1 rs2 : RegNo)
  /-- DIV (R143): Signed quotient, never trapping. -/
  | div (l : LaneId) (c : CtxNo) (rd rs1 rs2 : RegNo)
  /-- DIVU (R143): Unsigned quotient. -/
  | divu (l : LaneId) (c : CtxNo) (rd rs1 rs2 : RegNo)
  /-- REM (R143): Signed remainder. -/
  | rem (l : LaneId) (c : CtxNo) (rd rs1 rs2 : RegNo)
  /-- REMU (R143): Unsigned remainder. -/
  | remu (l : LaneId) (c : CtxNo) (rd rs1 rs2 : RegNo)
  -- Float
  /-- FADD (R145): Float addition. -/
  | fadd (l : LaneId) (c : CtxNo) (rd rs1 rs2 : RegNo)
  /-- FSUB (R145): Float subtraction. -/
  | fsub (l : LaneId) (c : CtxNo) (rd rs1 rs2 : RegNo)
  /-- FMUL (R145): Float multiplication. -/
  | fmul (l : LaneId) (c : CtxNo) (rd rs1 rs2 : RegNo)
  /-- FDIV (R145): Float division. -/
  | fdiv (l : LaneId) (c : CtxNo) (rd rs1 rs2 : RegNo)
  /-- FSQRT (R145): Float square root. -/
  | fsqrt (l : LaneId) (c : CtxNo) (rd rs1 : RegNo)
  /-- FMIN (R145): Float minimum under the NaN rules. -/
  | fmin (l : LaneId) (c : CtxNo) (rd rs1 rs2 : RegNo)
  /-- FMAX (R145): Float maximum under the NaN rules. -/
  | fmax (l : LaneId) (c : CtxNo) (rd rs1 rs2 : RegNo)
  /-- FNEG (R145): Inverts the sign bit. -/
  | fneg (l : LaneId) (c : CtxNo) (rd rs1 : RegNo)
  /-- FABS (R145): Clears the sign bit. -/
  | fabs (l : LaneId) (c : CtxNo) (rd rs1 : RegNo)
  /-- FMA (R145): Fused multiply-add. -/
  | fma (l : LaneId) (c : CtxNo) (rd rs1 rs2 rs3 : RegNo)
  /-- FMS (R145): Fused multiply-subtract. -/
  | fms (l : LaneId) (c : CtxNo) (rd rs1 rs2 rs3 : RegNo)
  /-- FNMA (R145): Negated fused multiply-add. -/
  | fnma (l : LaneId) (c : CtxNo) (rd rs1 rs2 rs3 : RegNo)
  /-- FNMS (R145): Negated fused multiply-subtract. -/
  | fnms (l : LaneId) (c : CtxNo) (rd rs1 rs2 rs3 : RegNo)
  /-- FEQ (R145): Float equality compare. -/
  | feq (l : LaneId) (c : CtxNo) (rd rs1 rs2 : RegNo)
  /-- FLT (R145): Float less-than compare. -/
  | flt (l : LaneId) (c : CtxNo) (rd rs1 rs2 : RegNo)
  /-- FLE (R145): Float less-or-equal compare. -/
  | fle (l : LaneId) (c : CtxNo) (rd rs1 rs2 : RegNo)
  /-- FTOI (R145): Float to signed integer, saturating. -/
  | ftoi (l : LaneId) (c : CtxNo) (rd rs1 : RegNo)
  /-- FTOU (R145): Float to unsigned integer, saturating. -/
  | ftou (l : LaneId) (c : CtxNo) (rd rs1 : RegNo)
  /-- ITOF (R145): Signed integer to float. -/
  | itof (l : LaneId) (c : CtxNo) (rd rs1 : RegNo)
  /-- UTOF (R145): Unsigned integer to float. -/
  | utof (l : LaneId) (c : CtxNo) (rd rs1 : RegNo)
  /-- FMVX (R145): Moves the bit pattern of an f register to an x register. -/
  | fmvx (l : LaneId) (c : CtxNo) (rd rs1 : RegNo)
  /-- FMVF (R145): Moves the bit pattern of an x register to an f register. -/
  | fmvf (l : LaneId) (c : CtxNo) (rd rs1 : RegNo)
  -- Vector
  /-- VADD (R147): Saturating Q16.16 vector sum. -/
  | vadd (l : LaneId) (c : CtxNo) (rd rs1 rs2 : RegNo)
  /-- VSUB (R147): Saturating Q16.16 vector difference. -/
  | vsub (l : LaneId) (c : CtxNo) (rd rs1 rs2 : RegNo)
  /-- VMUL (R146): Q16.16 vector product, rounded and saturated. -/
  | vmul (l : LaneId) (c : CtxNo) (rd rs1 rs2 : RegNo)
  /-- VMAC (R146): Q16.16 vector multiply-accumulate. -/
  | vmac (l : LaneId) (c : CtxNo) (rd rs1 rs2 : RegNo)
  /-- VMIN (R147): Element-wise signed minimum. -/
  | vmin (l : LaneId) (c : CtxNo) (rd rs1 rs2 : RegNo)
  /-- VMAX (R147): Element-wise signed maximum. -/
  | vmax (l : LaneId) (c : CtxNo) (rd rs1 rs2 : RegNo)
  /-- VABS (R147): Element-wise magnitude. -/
  | vabs (l : LaneId) (c : CtxNo) (rd rs1 : RegNo)
  /-- VNEG (R147): Element-wise negation. -/
  | vneg (l : LaneId) (c : CtxNo) (rd rs1 : RegNo)
  /-- VFADD (R147): Binary32 vector sum. -/
  | vfadd (l : LaneId) (c : CtxNo) (rd rs1 rs2 : RegNo)
  /-- VFSUB (R147): Binary32 vector difference. -/
  | vfsub (l : LaneId) (c : CtxNo) (rd rs1 rs2 : RegNo)
  /-- VFMUL (R147): Binary32 vector product. -/
  | vfmul (l : LaneId) (c : CtxNo) (rd rs1 rs2 : RegNo)
  /-- VFMA (R147): Binary32 vector fused multiply-add. -/
  | vfma (l : LaneId) (c : CtxNo) (rd rs1 rs2 : RegNo)
  /-- VFMIN (R147): Binary32 vector minimum. -/
  | vfmin (l : LaneId) (c : CtxNo) (rd rs1 rs2 : RegNo)
  /-- VFMAX (R147): Binary32 vector maximum. -/
  | vfmax (l : LaneId) (c : CtxNo) (rd rs1 rs2 : RegNo)
  /-- VSPLT (R147): Sets every element to xa. -/
  | vsplt (l : LaneId) (c : CtxNo) (rd rs1 : RegNo)
  /-- VINS (R147): Inserts xa into element e. -/
  | vins (l : LaneId) (c : CtxNo) (rd rs1 e : RegNo)
  /-- VEXT (R147): Extracts element e. -/
  | vext (l : LaneId) (c : CtxNo) (rd rs1 e : RegNo)
  /-- VSUM (R147): Sums the four elements. -/
  | vsum (l : LaneId) (c : CtxNo) (rd rs1 : RegNo)
  /-- VDOT (R147): Dot product of two vectors. -/
  | vdot (l : LaneId) (c : CtxNo) (rd rs1 rs2 : RegNo)
  /-- VTOF (R147): Converts Q16.16 elements to binary32. -/
  | vtof (l : LaneId) (c : CtxNo) (rd rs1 : RegNo)
  /-- VTOQ (R147): Converts binary32 elements to Q16.16. -/
  | vtoq (l : LaneId) (c : CtxNo) (rd rs1 : RegNo)
  -- Immediate and system
  /-- ADDI (R148): Adds a sign-extended immediate. -/
  | addi (l : LaneId) (c : CtxNo) (rd rs1 : RegNo) (imm : BitVec 14)
  /-- ANDI (R148): Ands a zero-extended immediate. -/
  | andi (l : LaneId) (c : CtxNo) (rd rs1 : RegNo) (imm : BitVec 14)
  /-- ORI (R148): Ors a zero-extended immediate. -/
  | ori (l : LaneId) (c : CtxNo) (rd rs1 : RegNo) (imm : BitVec 14)
  /-- XORI (R148): Exclusive-ors a zero-extended immediate. -/
  | xori (l : LaneId) (c : CtxNo) (rd rs1 : RegNo) (imm : BitVec 14)
  /-- SLLI (R148): Shifts left by an immediate. -/
  | slli (l : LaneId) (c : CtxNo) (rd rs1 : RegNo) (imm : BitVec 14)
  /-- SRLI (R148): Shifts right logically by an immediate. -/
  | srli (l : LaneId) (c : CtxNo) (rd rs1 : RegNo) (imm : BitVec 14)
  /-- SRAI (R148): Shifts right arithmetically by an immediate. -/
  | srai (l : LaneId) (c : CtxNo) (rd rs1 : RegNo) (imm : BitVec 14)
  /-- SLTI (R148): Signed compare with an immediate. -/
  | slti (l : LaneId) (c : CtxNo) (rd rs1 : RegNo) (imm : BitVec 14)
  /-- SLTIU (R148): Unsigned compare with an immediate. -/
  | sltiu (l : LaneId) (c : CtxNo) (rd rs1 : RegNo) (imm : BitVec 14)
  /-- LHI (R148): Loads imm19 into bits 31:13. -/
  | lhi (l : LaneId) (c : CtxNo) (rd : RegNo) (imm : BitVec 19)
  /-- JLR (R149): Jumps to a register target and links, checking alignment first. -/
  | jlr (l : LaneId) (c : CtxNo) (rd rs1 : RegNo) (imm : BitVec 14)
  /-- YIELD (R150): The context becomes READY and loses ties. -/
  | yield (l : LaneId) (c : CtxNo)
  /-- EXIT (R150): The context becomes FREE and its locks become ABANDONED. -/
  | exit (l : LaneId) (c : CtxNo)
  /-- HALT_INSTRUCTION (R150): The context halts itself and sets its FAULT_PEND bit. -/
  | haltInstruction (l : LaneId) (c : CtxNo)
  /-- BRK (R150): Enters debug halt, or faults BREAK while the debug port is closed. -/
  | brk (l : LaneId) (c : CtxNo)
  /-- RELINQ (R150): The lane gives up control with a reason code. -/
  | relinq (l : LaneId) (c : CtxNo) (rs1 : RegNo)
  /-- RDFLG (R148): Reads FLG. -/
  | rdflg (l : LaneId) (c : CtxNo) (rd : RegNo)
  /-- WRFLG (R148): Writes FLG. -/
  | wrflg (l : LaneId) (c : CtxNo) (rs1 : RegNo)
  /-- CTXC (R150): Applies a context command as a write to CTX.CMD and returns whether it was ignored. -/
  | ctxc (l : LaneId) (c : CtxNo) (rd rs1 : RegNo)
  -- Memory
  /-- LB (R151): Loads a sign-extended byte. -/
  | lb (l : LaneId) (c : CtxNo) (rt rs1 : RegNo) (off : BitVec 14)
  /-- LBU (R151): Loads a zero-extended byte. -/
  | lbu (l : LaneId) (c : CtxNo) (rt rs1 : RegNo) (off : BitVec 14)
  /-- LH (R151): Loads a sign-extended halfword. -/
  | lh (l : LaneId) (c : CtxNo) (rt rs1 : RegNo) (off : BitVec 14)
  /-- LHU (R151): Loads a zero-extended halfword. -/
  | lhu (l : LaneId) (c : CtxNo) (rt rs1 : RegNo) (off : BitVec 14)
  /-- LW (R151): Loads a word, from SRAM, the flash window or a register block. -/
  | lw (l : LaneId) (c : CtxNo) (rt rs1 : RegNo) (off : BitVec 14)
  /-- LDP (R151): Loads a register pair as one access. -/
  | ldp (l : LaneId) (c : CtxNo) (rt rs1 : RegNo) (off : BitVec 14)
  /-- FLW (R151): Loads a word into an f register. -/
  | flw (l : LaneId) (c : CtxNo) (rt rs1 : RegNo) (off : BitVec 14)
  /-- VLD (R151): Loads a vector as one access. -/
  | vld (l : LaneId) (c : CtxNo) (rt rs1 : RegNo) (off : BitVec 14)
  /-- SB (R151): Stores a byte. -/
  | sb (l : LaneId) (c : CtxNo) (rt rs1 : RegNo) (off : BitVec 14) (clash : List Clash)
  /-- SH (R151): Stores a halfword. -/
  | sh (l : LaneId) (c : CtxNo) (rt rs1 : RegNo) (off : BitVec 14) (clash : List Clash)
  /-- SW (R151): Stores a word. -/
  | sw (l : LaneId) (c : CtxNo) (rt rs1 : RegNo) (off : BitVec 14) (clash : List Clash)
  /-- SDP (R151): Stores a register pair in one bank cycle. -/
  | sdp (l : LaneId) (c : CtxNo) (rt rs1 : RegNo) (off : BitVec 14) (clash : List Clash)
  /-- FSW (R151): Stores an f register. -/
  | fsw (l : LaneId) (c : CtxNo) (rt rs1 : RegNo) (off : BitVec 14) (clash : List Clash)
  /-- VST (R151): Stores a vector in one bank cycle. -/
  | vst (l : LaneId) (c : CtxNo) (rt rs1 : RegNo) (off : BitVec 14) (clash : List Clash)
  -- Branches
  /-- BEQ (R153): Branches if equal. -/
  | beq (l : LaneId) (c : CtxNo) (rs1 rs2 : RegNo) (off : BitVec 14)
  /-- BNE (R153): Branches if not equal. -/
  | bne (l : LaneId) (c : CtxNo) (rs1 rs2 : RegNo) (off : BitVec 14)
  /-- BLT (R153): Branches if signed less. -/
  | blt (l : LaneId) (c : CtxNo) (rs1 rs2 : RegNo) (off : BitVec 14)
  /-- BGE (R153): Branches if signed greater or equal. -/
  | bge (l : LaneId) (c : CtxNo) (rs1 rs2 : RegNo) (off : BitVec 14)
  /-- BLTU (R153): Branches if unsigned less. -/
  | bltu (l : LaneId) (c : CtxNo) (rs1 rs2 : RegNo) (off : BitVec 14)
  /-- BGEU (R153): Branches if unsigned greater or equal. -/
  | bgeu (l : LaneId) (c : CtxNo) (rs1 rs2 : RegNo) (off : BitVec 14)
  /-- JAL (R153): Jumps relative and links. -/
  | jal (l : LaneId) (c : CtxNo) (rd : RegNo) (off : BitVec 19)
  -- Time, events, queues and locks
  /-- LTRD (R154): Reads 64-bit LT in one step. -/
  | ltrd (l : LaneId) (c : CtxNo) (rd rs1 : RegNo)
  /-- WTLT (R154): Waits until LT reaches a target. -/
  | wtlt (l : LaneId) (c : CtxNo) (rd rs1 : RegNo)
  /-- WTEV (R154): Waits on an event or signal bit. -/
  | wtev (l : LaneId) (c : CtxNo) (rd : RegNo) (tm : Bool) (rs2 : RegNo) (n : BitVec 8)
  /-- EVPOST (R154): Posts a program signal. -/
  | evpost (l : LaneId) (c : CtxNo) (n : BitVec 8)
  /-- QPUT (R114): Appends a word to a hardware queue or waits for space. -/
  | qput (l : LaneId) (c : CtxNo) (rd rs1 : RegNo) (tm : Bool) (rs2 : RegNo) (n : BitVec 8)
  /-- QGET (R114): Takes a word from a hardware queue or waits for data. -/
  | qget (l : LaneId) (c : CtxNo) (rd rs1 : RegNo) (tm : Bool) (rs2 : RegNo) (n : BitVec 8)
  /-- LKACQ (R156): Acquires a lock or waits for it. -/
  | lkacq (l : LaneId) (c : CtxNo) (rd : RegNo) (tm : Bool) (rs2 : RegNo) (n : BitVec 8)
  /-- LKREL (R115): Releases a lock and hands it to the highest-ranked waiter. -/
  | lkrel (l : LaneId) (c : CtxNo) (n : BitVec 8)
  /-- WTFLT (R154): Context 0 waits for any fault. -/
  | wtflt (l : LaneId) (c : CtxNo) (rd : RegNo) (tm : Bool) (rs2 : RegNo)
  -- Engine commands
  /-- EDGE (R158): Commands a channel level at an absolute LT as a set edge. -/
  | edge (l : LaneId) (c : CtxNo) (rs1 rs2 : RegNo)
  /-- PAIR (R161): Commands a grouped period and duty update of a pulse unit. -/
  | pair (l : LaneId) (c : CtxNo) (rs1 rs2 rs3 : RegNo)
  /-- CURD (R162): Enters a curd edge into the curd queue and sends its command. -/
  | curd (l : LaneId) (c : CtxNo) (rd rs1 rs2 rs3 : RegNo)
  /-- SET (R165): Confirms a curd edge as set. -/
  | setEdge (l : LaneId) (c : CtxNo) (rd rs1 : RegNo)
  /-- DRAIN (R165): Cancels a curd edge, silently or with compensation. -/
  | drain (l : LaneId) (c : CtxNo) (rd rs1 : RegNo)
  /-- CRDST (R164): Reports the state of a curd edge. -/
  | crdst (l : LaneId) (c : CtxNo) (rd rs1 : RegNo)
  /-- LPWR (R166): Writes a loop parameter, including enables checked under R395. -/
  | lpwr (l : LaneId) (c : CtxNo) (rs1 rs2 : RegNo) (p : Fin 32)
  /-- LPRD (R166): Reads a loop parameter as at the last boundary. -/
  | lprd (l : LaneId) (c : CtxNo) (rd rs1 : RegNo) (p : Fin 32)
  /-- LPHOLD (R166): Sets or clears a loop's HOLD bit. -/
  | lphold (l : LaneId) (c : CtxNo) (rs1 rs2 : RegNo)
  /-- MMUL (R168): Queues C = A times B. -/
  | mmul (l : LaneId) (c : CtxNo) (rd rs1 rs2 rs3 : RegNo)
  /-- MMULT (R168): Queues C = A transposed times B. -/
  | mmult (l : LaneId) (c : CtxNo) (rd rs1 rs2 rs3 : RegNo)
  /-- MADD (R168): Queues C = A + B. -/
  | madd (l : LaneId) (c : CtxNo) (rd rs1 rs2 rs3 : RegNo)
  /-- MSUB (R168): Queues C = A - B. -/
  | msub (l : LaneId) (c : CtxNo) (rd rs1 rs2 rs3 : RegNo)
  /-- MSCAL (R168): Queues C = f[s] times A. -/
  | mscal (l : LaneId) (c : CtxNo) (rd rs1 rs2 rs3 : RegNo)
  /-- MCHOL (R168): Queues a Cholesky factorisation. -/
  | mchol (l : LaneId) (c : CtxNo) (rd rs1 rs2 : RegNo)
  /-- MSOLVE (R168): Queues a solve against a Cholesky factor. -/
  | msolve (l : LaneId) (c : CtxNo) (rd rs1 rs2 rs3 : RegNo)
  /-- MWAIT (R169): Waits for a matrix ticket and returns its status. -/
  | mwait (l : LaneId) (c : CtxNo) (rd rs1 : RegNo)
  -- Curd edges and the ledger
  /-- CURD_FIRE (R176): A pending curd edge reaches its issue time, fires at the pin and gets a FIRED_CURD record. -/
  | curdFire (l : LaneId) (e : Fin 1024)
  /-- CONFIRM_DEADLINE (R182): An unresolved edge reaches its deadline; a turn-on is drained and a turn-off is set. -/
  | confirmDeadline (l : LaneId) (e : Fin 1024)
  /-- CANCEL_ARRIVAL (R172): A cancel reaches the switch die, which removes the command or reports it executed. -/
  | cancelArrival (l : LaneId) (h : BitVec 22)
  /-- DRAIN_LATE_CANCEL (R173): The report that a cancelled command executed reaches the lane, which treats the edge as drained after firing. -/
  | drainLateCancel (l : LaneId) (h : BitVec 22)
  /-- LEDGER_BLOCK_SEAL (R598): The ledger writer seals a signed, chained block at 120 records or after 250 ms. -/
  | ledgerBlockSeal (l : LaneId)
  -- Section engine
  /-- SEC_LOAD (R194): A write of SEC.CTRL.LOAD requests a boom model load at the next cycle. -/
  | secLoad (l : LaneId) (v : Word)
  /-- BIN_SUB_GO (R201): A write of SEC.BIN_SUB_GO submits a boom-motion sample. -/
  | binSubGo (l : LaneId) (v : Word)
  /-- BOOM_INPUT_STALE (R203): A boom-motion input has had no sample for STALE_N periods and becomes stale. -/
  | boomInputStale (l : LaneId) (n : Fin 16)
  /-- PAGE_ENABLE (R211): PAGE_EN rises; the window is placed around the reference point and every tile is requested. -/
  | pageEnable (l : LaneId)
  /-- PAGE_TIMEOUT (R216): A pending tile is not answered within PAGE_TMO and becomes UNKNOWN. -/
  | pageTimeout (l : LaneId) (k : Fin 31)
  /-- RX_ACTIVATE (R224): RX_CMD OP 1 starts verification of a prescription map for a layer. -/
  | rxActivate (l : LaneId) (v : Word)
  /-- RX_DEACTIVATE (R224): RX_CMD OP 2 deactivates a layer at the next cycle. -/
  | rxDeactivate (l : LaneId) (v : Word)
  /-- RX_VERIFY_COMPLETE (R224): Map verification ends and the layer becomes ACTIVE or REJECTED. -/
  | rxVerifyComplete (l : LaneId) (layer : Fin 4)
  /-- FIELD_WRITE (R225): A write of SEC.FIELD deactivates every layer at the next cycle. -/
  | fieldWrite (l : LaneId) (v : Word)
  -- Learning and metering
  /-- SIGNATURE_WINDOW_END (R238): A signature window ends with POINT, TRUNC or NONE, and the result goes to both lanes. -/
  | signatureWindowEnd (n : ChNo) (i0 : Rat) (xs : List Rat)
  /-- PRS_SUB_GO (R237): A write of SEC.PRS_SUB_GO submits a pressure sample. -/
  | prsSubGo (l : LaneId) (v : Word)
  /-- PRESSURE_STALE (R237): No pressure sample has been accepted for PRS_STALE. -/
  | pressureStale (l : LaneId)
  /-- METER_LOAD (R257): A write of MCTRL.LOAD requests a meter table load, checked at the next cycle. -/
  | meterLoad (l : LaneId) (v : Word)
  /-- FLOW_TOLERANCE_EXPIRY (R255): A section's measured flow has been out of tolerance for TOL_T. -/
  | flowToleranceExpiry (l : LaneId) (sect : Fin 64)
  /-- METER_TOLERANCE_EXPIRY (R260): A meter's speed has been out of tolerance for TOL_T. -/
  | meterToleranceExpiry (l : LaneId) (m : Fin 24)
  -- Fusion
  /-- ORG_GO (R263): A write of FUS.ORG_GO loads the field origin at the next cycle, or is ignored. -/
  | orgGo (l : LaneId) (v : Word)
  /-- FUSION_SUBMIT (R267): A write of FUS.SUB_GO submits a source sample, which is tested and accepted or dropped. -/
  | fusionSubmit (l : LaneId) (v : Word)
  /-- FUSION_SOURCE_STALE (R270): A fusion source has had no sample for STALE_N periods and becomes stale. -/
  | fusionSourceStale (l : LaneId) (n : Fin 32)
  /-- FUSION_NC_CYCLE (R271): At a nozzle-class cut-off, fusion processes the window, replays late samples and releases its output. -/
  | fusionNcCycle (l : LaneId)
  /-- FUSION_PC_CYCLE (R271): At a perception window's cut-off, fusion forms and releases the perception-class output. -/
  | fusionPcCycle (l : LaneId)
  -- Tracks and calibration
  /-- TRACK_UPDATE (R295): The track engine predicts, assigns, births, confirms, deletes and releases the track table. -/
  | trackUpdate (l : LaneId)
  /-- TRACK_CLEAR (R302): A write of TRK.CTRL.CLR clears the table at the next update. -/
  | trackClear (l : LaneId) (v : Word)
  /-- CAL_LOAD (R317): A write of CAL_CTRL.LOAD loads a calibration set at the next cycle, or refuses it. -/
  | calLoad (l : LaneId) (v : Word)
  /-- CAL_SNAP (R318): A write of CAL_CTRL.SNAP writes the current calibration into the set at the end of the next cycle. -/
  | calSnap (l : LaneId) (v : Word)
  -- GNSS
  /-- GNSS_START (R327): GNS.CTRL.EN rises and the baseband starts hot, warm or cold. -/
  | gnssStart (l : LaneId) (v : Word)
  /-- GNSS_EPOCH (R346): At each epoch the baseband measures, delivers its measurements and releases its solution. -/
  | gnssEpoch (l : LaneId) (e : GnsEpoch)
  /-- ANTENNA_SHORT (R325): The bias current stays at the limit for 10 ms; the bias is removed. -/
  | antennaShort (a : Fin 2)
  /-- ANTENNA_BIAS_RETRY (R325): Each second during a short, the bias is reapplied for 10 ms. -/
  | antennaBiasRetry (a : Fin 2) (gone : Bool)
  /-- ANTENNA_OPEN (R325): The bias current falls below 2 mA or returns to normal and E46 is raised. -/
  | antennaOpen (a : Fin 2) (ma : Nat)
  /-- JAM_MEASURE (R333): Every 100 ms the band power is measured and the jamming indicator is updated. -/
  | jamMeasure (l : LaneId) (a : Fin 2) (b : Fin 3) (excess : Int)
  /-- NOTCH_WRITE (R332): A write to a notch changes it and sets SLIP for its band at the next epoch. -/
  | notchWrite (l : LaneId) (m : Fin 24) (v : Word)
  /-- CORR_P_DATA (R336): A write of CORR_P_DATA adds four bytes to queue P, or drops them when the queue is full. -/
  | corrPData (l : LaneId) (v : Word)
  /-- CORR_P_GO (R336): A write of CORR_P_GO completes a frame in queue P, or discards it. -/
  | corrPGo (l : LaneId) (v : Word)
  /-- CORRECTION_FRAME (R338): The baseband takes a completed correction frame and checks and applies it. -/
  | correctionFrame (l : LaneId)
  /-- STN_RESET (R337): A write of STN_RESET deselects the station. -/
  | stnReset (l : LaneId) (v : Word)
  /-- AID_CLR (R327): A write of AID_CLR empties the aid store. -/
  | aidClr (l : LaneId) (v : Word)
  -- Line keeping
  /-- LKP_CYCLE (R356): Every 5 ms the LKP takes references, votes, forms errors, solves the allocation and issues outputs. -/
  | lkpCycle (l : LaneId)
  /-- LKP_SOLVE_LATE (R357): The allocation solve has not completed by t_k + 760 us; the outputs are issued unchanged. -/
  | lkpSolveLate (l : LaneId)
  /-- LKP_MODE_REQUEST (R363): A write of LKP.CTRL.MODE requests a mode, acted on at the next cycle. -/
  | lkpModeRequest (l : LaneId) (v : Word)
  /-- STOP_REQ (R374): A write of CTRL.STOP_REQ requests a stop. -/
  | stopReq (l : LaneId) (v : Word)
  /-- STOP_CLR (R374): A write of CTRL.STOP_CLR clears a stop when its cause is gone and the vehicle is still. -/
  | stopClr (l : LaneId) (v : Word)
  /-- IMP_SUB_GO (R366): A write of IMP_SUB_GO submits an implement offset sample. -/
  | impSubGo (l : LaneId) (v : Word)
  /-- IMP_STALE (R366): 100 ms pass without an implement sample. -/
  | impStale (l : LaneId)
  /-- DR_TIMEOUT (R360): DR has lasted DR_MAX and a stop is requested. -/
  | drTimeout (l : LaneId)
  -- Loop engine
  /-- LOOP_BOUNDARY (R383): At a loop boundary the LPE samples the input, parameters and setpoint. -/
  | loopBoundary (l : LaneId) (k : Fin 64) (sense : Option Word)
  /-- LOOP_EVALUATION (R391): The LPE completes a loop evaluation and sends the output stamped for the next boundary. -/
  | loopEvaluation (l : LaneId) (k : Fin 64)
  /-- LOOP_OVERRUN (R385): An evaluation has not completed within 25 us; nothing is sent. -/
  | loopOverrun (l : LaneId) (k : Fin 64)
  /-- LOOP_MIRROR (R399): Each millisecond the standby lane replaces loop integrator and model states with the active lane's. -/
  | loopMirror
  -- Pulse units
  /-- PULSE_REGISTER_APPLY (R406): The switch die applies an unstamped PGC or PGB register write at the next pulse-clock tick. -/
  | pulseRegisterApply (l : LaneId)
  /-- CHANNEL_PERIOD_START (R408): A channel unit in PWM begins a period and transfers pending shadows. -/
  | channelPeriodStart (n : ChNo)
  /-- CHANNEL_DUTY_END (R408): A channel unit's on time in the period ends and the line falls. -/
  | channelDutyEnd (n : ChNo)
  /-- BRIDGE_PERIOD_START (R410): A bridge unit begins a period, transfers shadows and may insert a bootstrap refresh. -/
  | bridgePeriodStart (n : BrNo)
  /-- BRIDGE_MID_PERIOD (R411): A bridge unit reaches mid-period M, with its centre-aligned edge or its mid-period update. -/
  | bridgeMidPeriod (n : BrNo)
  /-- BRIDGE_DUTY_END (R410): A bridge unit's reference h falls and GH turns off. -/
  | bridgeDutyEnd (n : BrNo)
  /-- DEAD_TIME_EXPIRY (R410): Dead time ends and the waiting gate turns on. -/
  | deadTimeExpiry (n : BrNo)
  /-- COMMIT (R412): A write of CFG.COMMIT marks the staged PER and DUTY pending as a group. -/
  | commit (l : LaneId) (u : UnitNo)
  /-- FORCE (R415): A write of CFG.FORCE forces or releases a unit's outputs. -/
  | forceWrite (l : LaneId) (u : UnitNo) (v : Fin 4)
  /-- TRIP (R418): A selected trip source becomes active; the unit latches TRIP and enters its trip action. -/
  | trip (u : UnitNo) (src : TripPads)
  /-- TCLR (R419): A write of CFG.TCLR requests a trip clear, which is accepted or refused. -/
  | tclr (l : LaneId) (u : UnitNo) (active : BitVec 10)
  /-- SHUTDOWN_COMPLETE (R420): A shutdown completes and any held enable is applied. -/
  | shutdownComplete (u : UnitNo)
  /-- UNIT_FREEZE (R421): A lane's debug halt freezes every unit steered to its port. -/
  | unitFreeze (l : LaneId)
  /-- UNIT_RELEASE (R422): A debug halt ends, or the link goes down, and the frozen units resume. -/
  | unitRelease (l : LaneId)
  -- Load switches
  /-- TURN_ON (R429): A channel's input line rises and an inrush window opens. -/
  | turnOn (n : ChNo)
  /-- TURN_OFF (R429): A channel's input line falls and the switch performs its soft-off. -/
  | turnOff (n : ChNo)
  /-- INRUSH_WINDOW_END (R431): An inrush window closes and the fast test applies. -/
  | inrushWindowEnd (n : ChNo)
  /-- FAST_CUT (R432): The current has stayed at or above FAST for 5 us and the channel is cut. -/
  | fastCut (n : ChNo)
  /-- HEAT_UPDATE (R433): Every 10 us the heat state is updated and may trigger a curve cut. -/
  | heatUpdate (n : ChNo) (cur vout : Rat)
  /-- ENERGY_CUT (R436): A retry's energy account reaches 2 J less E_MAX and the retry is cut. -/
  | energyCut (n : ChNo)
  /-- RETRY (R435): A backoff ends; the channel retries, waits, or enters LOCKOUT. -/
  | retry (n : ChNo)
  /-- BACKOFF_RESET (R435): A channel has stayed on for 60 s without a cut and its backoff resets. -/
  | backoffReset (n : ChNo)
  /-- CUTS_AGE_OUT (R435): A cut leaves the 600 s window of CUTS. -/
  | cutsAgeOut (n : ChNo)
  /-- RE_AGE_OUT (R436): A retry's energy leaves the 3,600 s window of RE. -/
  | reAgeOut (n : ChNo)
  /-- LCLR (R437): A CH_CMD with LCLR clears a LOCKOUT, or is refused. -/
  | lclr (l : LaneId) (n : ChNo)
  /-- THERMAL_CLEAR (R439): A CH_CMD with TCLR clears a thermal latch, or is refused. -/
  | thermalClear (l : LaneId) (n : ChNo)
  /-- THERMAL_SAMPLE (R438): Every 100 us the junction and case sensors are sampled and latches or case failures may set. -/
  | thermalSample (n : ChNo) (tj caseT : Int)
  /-- BANK_BUDGET_SAMPLE (R442): Every 10 us the supervisor sums bank current and sets or clears OVER. -/
  | bankBudgetSample (k : BankNo)
  /-- DEFERRED_TURN_ON_STEP (R443): After recovery, each millisecond the next deferred channel turns on. -/
  | deferredTurnOnStep (k : BankNo)
  /-- CURRENT_SENSE_SAMPLE (R446): At 2 kHz each channel's current is sampled and sent to both lanes. -/
  | currentSenseSample (n : ChNo) (cur : Rat)
  -- DIRECT and feedback inputs
  /-- DIRECT_REQUEST (R451): The active lane writes DIR_CFG.REQ to request or end DIRECT, or the lane refuses. -/
  | directRequest (l : LaneId) (j : DirNo) (on : Bool)
  /-- DIRECT_APPLY (R451): The rind's arbiters apply a forwarded DIRECT request when they agree. -/
  | directApply (j : DirNo) (agree : Bool)
  /-- DIRIN_CHANGE (R450): A DIRINn pad's filtered level changes and a DIRECT channel follows it. -/
  | dirinChange (j : DirNo) (level : PadLevel)
  /-- ENCODER_EVENT (R459): A counted encoder event updates COUNT and the rate, or is an illegal transition. -/
  | encoderEvent (l : LaneId) (n : FbNo) (a b : Bool) (stamp : Nat)
  /-- ENCODER_INDEX (R464): An index captures COUNT and checks or corrects the mismatch. -/
  | encoderIndex (l : LaneId) (n : FbNo) (z : Bool) (stamp : Nat)
  /-- RATE_TIMEOUT (R463): No event for PTMO and the rate is set to 0 with STOP. -/
  | rateTimeout (l : LaneId) (n : FbNo)
  /-- COUNT_WRITE (R466): A write of COUNT takes effect at the next sample. -/
  | countWrite (l : LaneId) (n : FbNo) (v : Word)
  /-- RATE_READ (R471): A read of RATE latches RATE_T for the context. -/
  | rateRead (l : LaneId) (c : CtxNo) (n : FbNo)
  /-- ZCAP_READ (R471): A read of ZCAP latches ZMIS and ZT for the context. -/
  | zcapRead (l : LaneId) (c : CtxNo) (n : FbNo)
  /-- ABS_FRAME_START (R469): An absolute serial frame starts at a multiple of FPER. -/
  | absFrameStart (p : Fin 4)
  /-- ABS_FRAME_END (R469): A frame is decoded as valid or invalid and POS is updated. -/
  | absFrameEnd (p : Fin 4) (started low : Bool) (data : Word) (err warn : Bool) (crc : BitVec 6) (stamp : Nat)
  -- CAN
  /-- CAN_MODE_REQUEST (R478): A write of CAN CTRL.MODE requests a controller mode. -/
  | canModeRequest (l : LaneId) (c : Fin 4) (v : Word)
  /-- CAN_TXEN_CHANGE (R479): At the end of intermission after the rind's record changes, the TXEN bits swap. -/
  | canTxenChange (b : Fin 4)
  /-- CAN_FRAME_RX (R487): A received frame is matched against the rules and stored in a stream or mailbox, or discarded. -/
  | canFrameRx (l : LaneId) (c : Fin 4) (f : CanFrame)
  /-- CAN_CONFIG_WRITE (R499): An accepted write of MRAM_BASE, RX_PART or TXR_CNT resets the ring pointers. -/
  | canConfigWrite (l : LaneId) (c : Fin 4) (which : Fin 3) (v : Word)
  /-- TXU_REQ (R490): A write of TXU_REQ requests an urgent slot, or completes it at once when not ACTIVE. -/
  | txuReq (l : LaneId) (c : Fin 4) (v : Word)
  /-- TXR_WR (R490): A write of TXR_WR appends transmit ring entries. -/
  | txrWr (l : LaneId) (c : Fin 4) (v : Word)
  /-- TXU_ABORT (R490): A write of TXU_ABORT withdraws a pending urgent slot. -/
  | txuAbort (l : LaneId) (c : Fin 4) (v : Word)
  /-- FLUSH (R490): A write of TXR_CTL.FLUSH withdraws every pending ring entry. -/
  | flush (l : LaneId) (c : Fin 4) (v : Word)
  /-- CAN_TX_COMPLETE (R491): A transmit request completes; TS and CST are written and the slot or ring advances. -/
  | canTxComplete (l : LaneId) (c : Fin 4) (src : CanSrc) (sent : Bool) (att : Nat) (ts : Word)
  /-- BUS_OFF_RECOVERY (R494): A bus-off controller completes 128 recessive sequences and recovers. -/
  | busOffRecovery (l : LaneId) (c : Fin 4)
  /-- CAN_DOMINANT_TIMEOUT (R495): A transceiver or the bus has been dominant for 2 ms. -/
  | canDominantTimeout (l : LaneId) (c : Fin 4) (bus : Bool)
  /-- CAN_DETECT_DWELL (R484): In DETECT the dwell at a rate ends and the next rate is tried. -/
  | canDetectDwell (l : LaneId) (c : Fin 4)
  /-- CAN_DETECT_TIMEOUT (R484): Rate detection times out with FAIL, or with a data rate of 0. -/
  | canDetectTimeout (l : LaneId) (c : Fin 4)
  /-- CAN_WAKE_DOMINANT (R496): Below RUN, a dominant phase of 2 us on an enabled bus wakes the module. -/
  | canWakeDominant (b : Fin 4)
  /-- CAN_WAKE_FRAME (R497): The rind decodes a frame below RUN and wakes on a match or on FEC reaching 32. -/
  | canWakeFrame (b : Fin 4) (ok : Bool) (f : CanFrame) (dlc : Fin 16)
  -- Ethernet
  /-- ETH_LINK_CHANGE (R502): An Ethernet link comes up or goes down. -/
  | ethLinkChange (l : LaneId) (n : Fin 2) (up : Bool) (sqi : Fin 8)
  /-- ETH_FRAME_RX (R506): A received frame is filtered and stored by DMA, or dropped. -/
  | ethFrameRx (l : LaneId) (n : Fin 2) (f : EthFrame)
  /-- TX_KICK (R507): A write of TX_KICK starts the transmit scan. -/
  | txKick (l : LaneId) (n : Fin 2) (v : Word)
  /-- ETH_TX_COMPLETE (R507): A transmit descriptor completes with its status and stamp. -/
  | ethTxComplete (l : LaneId) (n : Fin 2) (ts : BitVec 64)
  -- Host port
  /-- STATUS (R521): A STATUS frame returns the latched status word. -/
  | statusFrame (l : LaneId)
  /-- FETCH (R517): A FETCH frame clocks out the waiting response and, when complete, commits its effects. -/
  | fetch (l : LaneId) (complete : Bool)
  /-- SESS_INIT (R594): Opens a host session by key agreement. -/
  | sessInit (l : LaneId) (f : List Byte)
  /-- SESS_FIN (R596): Closes a host session. -/
  | sessFin (l : LaneId) (f : List Byte)
  /-- EV_READ (R517): Reads up to n event entries queued before the frame's stamp. -/
  | evRead (l : LaneId) (stamp : BitVec 64) (f : List Byte)
  /-- OWN_READ (R514): Returns OWN_SUM and STEER from one instant. -/
  | ownRead (l : LaneId) (f : List Byte)
  /-- VIS_READ (R181): Returns SPX.VIS. -/
  | visRead (l : LaneId) (f : List Byte)
  /-- MSG_WRITE (R522): Writes a message into the inbox ring and may post its index to a queue. -/
  | msgWrite (l : LaneId) (f : List Byte)
  /-- MSG_READ (R523): Returns the next outbox message, skipping refused provisional ones. -/
  | msgRead (l : LaneId) (f : List Byte)
  /-- CORR (R335): Puts an RTCM frame into correction queue H. -/
  | corrFrame (l : LaneId) (f : List Byte)
  /-- TILE_TAKE (R514): Returns the export record at XOUT_RD. -/
  | tileTake (l : LaneId) (f : List Byte)
  /-- TILE_REQ (R514): Returns the header of the outstanding import request. -/
  | tileReq (l : LaneId) (f : List Byte)
  /-- TILE_ANS (R215): Writes the host's answer into the import slot and advances XIN_DONE. -/
  | tileAns (l : LaneId) (f : List Byte)
  /-- LDG_READ (R599): Returns the next sealed ledger block. -/
  | ldgRead (l : LaneId) (f : List Byte)
  /-- BEGIN (R612): UPD BEGIN starts an update and restarts the lane into its loader, or is refused. -/
  | updBegin (l : LaneId) (f : List Byte) (vlog : Nat) (vbat : List Nat)
  /-- DATA (R614): UPD DATA erases, programs and verifies one image sector. -/
  | updData (l : LaneId) (f : List Byte) (vlog : Nat) (vbat : List Nat)
  /-- END (R614): UPD END restarts the lane to boot the new image. -/
  | updEnd (l : LaneId) (f : List Byte)
  /-- QUERY (R611): UPD QUERY reports the update state. -/
  | updQuery (l : LaneId) (f : List Byte)
  /-- LOADER_RESTART (R613): After an accepted BEGIN, the lane restarts into its loader after the FETCH or after 100 ms. -/
  | loaderRestart (l : LaneId)
  /-- RESPONSE_READY (R519): A command's response becomes ready and HRDY rises. -/
  | responseReady (l : LaneId)
  /-- ATTENTION_PULSE (R520): An event entering the queue drops HRDY for 1 us. -/
  | attentionPulse (l : LaneId)
  /-- ATTENTION_PULSE_END (R520): The 1 us attention pulse ends and HRDY rises. -/
  | attentionPulseEnd (l : LaneId)
  /-- SESSION_TIMEOUT (R596): A session has had no accepted request for 30 s and closes. -/
  | sessionTimeout (l : LaneId) (n : Fin 4)
  -- Management port and ownership
  /-- MGMT_WRITE (R529): A management write transfer writes registers as their fourth bytes are acknowledged. -/
  | mgmtWrite (addr : BitVec 16) (data : List Byte)
  /-- MGMT_READ (R529): A management read transfer latches and returns words. -/
  | mgmtRead (addr : BitVec 16) (n : Nat)
  /-- MG_GO (R531): A write of MG_GO checks the tag and performs the protected write, or fails. -/
  | mgGo
  /-- MG_LOCK_EXPIRY (R531): The 10 s refusal after 8 failures ends. -/
  | mgLockExpiry
  /-- OWNERSHIP_VIEW_ADOPT (R539): A lane adopts the changed steering-ownership register as its view. -/
  | ownershipViewAdopt (l : LaneId)
  /-- OWNERSHIP_DISAGREE (R539): A lane's view has differed from the register for 200 us and E86 is raised. -/
  | ownershipDisagree (l : LaneId)
  -- SRAM banks
  /-- BANK_OWNER_WRITE (R548): Context 0 writes BANK_CFG.OWN and starts a hand-over, or the write is ignored. -/
  | bankOwnerWrite (l : LaneId) (c : CtxNo) (k : SramNo) (own : Fin 8)
  /-- HANDOVER_COMPLETE (R548): In-flight accesses drain, the new owner takes effect and E82 is raised. -/
  | handoverComplete (l : LaneId) (k : SramNo)
  /-- BANK_POWER_WRITE (R550): A write of BANK_CFG.PWR changes a bank's power mode, or is refused. -/
  | bankPowerWrite (l : LaneId) (c : CtxNo) (k : SramNo) (p : Fin 4)
  /-- FILL_COMPLETE (R551): A bank's zero-fill completes and waiting accesses proceed. -/
  | fillComplete (l : LaneId) (k : SramNo)
  /-- SCRUB (R555): The scrubber reads a word and corrects or reports any error. -/
  | scrub (l : LaneId) (a : SramWord) (err : Fin 3)
  -- Lanes and redundancy
  /-- HEARTBEAT (R564): Every 10 us a lane's monitor sends HOLD and READY to the rind. -/
  | heartbeat (l : LaneId)
  /-- HEARTBEAT_MISSED (R565): The rind receives no heartbeat from a lane for 40 us and the lane gives up control. -/
  | heartbeatMissed (l : LaneId)
  /-- ARBITER_PROPOSAL (R566): Every microsecond both arbiters propose steering; the register changes when they agree. -/
  | arbiterProposal (agree : Bool)
  /-- ARBITER_DISAGREEMENT (R566): The arbiters' proposals have differed for 10 us; ARB_DIS is set. -/
  | arbiterDisagreement
  /-- NONE_TIMEOUT (R572): No lane has held control for NONE_TMO and the outputs are turned off. -/
  | noneTimeout
  /-- HOME_READY_TIMEOUT (R573): The home lane is not ready within 1 s of the other lane and the other lane takes control. -/
  | homeReadyTimeout
  /-- PLANNED_HANDOVER (R574): At instant T the steering moves between two healthy lanes without a gap. -/
  | plannedHandover
  /-- PROOF (R577): The active lane writes LNK.CTRL.PROOF to request a proof swap, which starts or is refused. -/
  | proofRequest (l : LaneId)
  /-- PROOF_SWAP_END (R578): At T2 control hands back and PROOF_RES is written. -/
  | proofSwapEnd (confirmed : Bool)
  /-- PROOF_AGE_HOUR (R579): Each hour in RUN adds to each lane's PROOF_AGE. -/
  | proofAgeHour
  -- Security and configuration
  /-- ENR_GO (R589): A write of VLT.ENR_GO starts burning the owner root hash, or is refused. -/
  | enrGo (l : LaneId) (v : Word)
  /-- ENROLMENT_COMPLETE (R589): The burn completes; ENROLLED is set and debug locks, or ENR_FAIL is set. -/
  | enrolmentComplete (l : LaneId) (ok : Bool)
  /-- COMMIT_IMAGE_FLOOR (R593): A write of VLT.CTRL.COMMIT sets the lane's image floor to the running SVN. -/
  | commitImageFloor (l : LaneId)
  /-- CFG_FLOOR_WRITE (R593): A write of VLT.CFG_FLOOR advances the configuration floor, or is refused. -/
  | cfgFloorWrite (l : LaneId) (v : Word)
  /-- DBG_CHAL_READ (R600): A read of DBG_CHAL[0] issues a new debug challenge. -/
  | dbgChalRead (l : LaneId)
  /-- DEBUG_RESPONSE (R600): A submitted response opens the debug port, or fails and withdraws the challenge. -/
  | debugResponse (l : LaneId) (pub sig : List Byte)
  /-- DEBUG_LOCK_EXPIRY (R600): The 60 s without challenges after 3 failures ends. -/
  | debugLockExpiry (l : LaneId)
  /-- CFG_WR (R608): A write of NVM.CTRL.CFG_WR starts a sealed configuration copy write, or is refused. -/
  | cfgWr (l : LaneId)
  /-- CFG_WRITE_COMPLETE (R608): The copy write and read-back finish with WR_DONE or WR_FAIL. -/
  | cfgWriteComplete (l : LaneId) (ok : Bool)
  /-- PD_WR (R608): A write of NVM.CTRL.PD_WR erases and writes a program-data sector, or is refused. -/
  | pdWr (l : LaneId)
  /-- PD_WRITE_COMPLETE (R608): A program-data write completes and BUSY clears. -/
  | pdWriteComplete (l : LaneId)
  -- Later rows
  /-- LANE_LINK_DOWN (R81): The lane link between the two lanes goes down; PEER_OK falls, PEER_OFS holds and readiness condition 4 applies. -/
  | laneLinkDown
  /-- LANE_LINK_UP (R81): The lane link comes up again and the standby lane resumes steering its LT towards the partner. -/
  | laneLinkUp
  /-- LANE_MONITOR_FIRE (R565): A lane monitor fires on loss of the TCXO or a lane PLL, or on the lane supply falling below its operating limit; the lane gives up control and resets. -/
  | laneMonitorFire (l : LaneId)
  /-- CAN_BUS_ERROR (R494): A bus error is detected, the ISO 11898-1 error counters change and the controller may pass to error-passive or bus-off with E32 and E33. -/
  | canBusError (l : LaneId) (c : Fin 4) (tec : Fin 512) (rec_ : Fin 256) (brs : Bool)
  /-- DOMINANT_FAULT_CLEAR (R495): Eleven recessive bits end a transmit dominant time-out or a bus dominant condition. -/
  | dominantFaultClear (l : LaneId) (c : Fin 4)
  /-- TP_TRAILING_EDGE (R96): A time pulse reaches the end of its WIDTH and the pad returns to its inactive level. -/
  | tpTrailingEdge (l : LaneId) (n : Fin 2)
  /-- BOOTSTRAP_REFRESH_END (R414): At S + DT + BSW of a refresh period, GL turns off before GH is allowed on. -/
  | bootstrapRefreshEnd (n : BrNo)
  /-- COMPENSATION_SLOT (R178): LT reaches a compensation slot s, and the SPX reverts the flow target and SPX.VIS to the compensating level. -/
  | compensationSlot (l : LaneId)
  /-- UNKNOWN_OPCODE (R516): A host command frame with an opcode that R514 does not assign is answered with RESULT 1 and no effect. -/
  | unknownOpcode (l : LaneId) (op : Byte) (f : List Byte)
deriving DecidableEq, Repr

end Sys2Proof
end

