-- ==== Sys2Proof/Decode.lean ====
section
/-!
DEFINITION. What a word spells.  The table of commands gives no bits, so no word spells a command by it; a KFX
instruction word spells an instruction by R136 to R169, and a word that spells none is ILLEGAL (R137).
-/

namespace Sys2Proof

/-- The command that a word spells by the table's bits: the table gives none. -/
def decodeTableWord (_nbits _w : Nat) : Option Instr := none

namespace Machine

/-! ### Operand checks (R137, R138, R154) -/

/-- A v field accepts 0 to 7 only (R138). -/
def vOk (r : RegNo) : Bool := decide (r.val < 8)
/-- A pair field must hold an even number (R138). -/
def pairOk (r : RegNo) : Bool := r.val % 2 == 0
/-- The absolute timeout of a wait: the pair named by rs2 when TM is 1; TM 0 requires rs2 0 (R154). -/
def tmOk (tm : Bool) (rs2 : RegNo) : Bool := if tm then pairOk rs2 else rs2.val == 0
/-- A shift amount: imm[13:5] is 0 (R148). -/
def shOk (i : BitVec 14) : Bool := decide (i.toNat < 32)

/-! ### Format A (R142, R145, R147) -/

/-- Integer: OP 0. -/
def decodeA0 (l : LaneId) (c : CtxNo) (fn : Nat) (rd a b : RegNo) : Option Instr :=
  match fn with
  | 0 => some (.add l c rd a b)
  | 1 => some (.sub l c rd a b)
  | 2 => some (.and l c rd a b)
  | 3 => some (.or l c rd a b)
  | 4 => some (.xor l c rd a b)
  | 5 => some (.sll l c rd a b)
  | 6 => some (.srl l c rd a b)
  | 7 => some (.sra l c rd a b)
  | 8 => some (.slt l c rd a b)
  | 9 => some (.sltu l c rd a b)
  | 10 => some (.min l c rd a b)
  | 11 => some (.max l c rd a b)
  | 12 => some (.minu l c rd a b)
  | 13 => some (.maxu l c rd a b)
  | 14 => if b = 0 then some (.clz l c rd a) else none
  | _ => none

/-- Multiply and divide: OP 1. -/
def decodeA1 (l : LaneId) (c : CtxNo) (fn : Nat) (rd a b : RegNo) : Option Instr :=
  match fn with
  | 0 => some (.mul l c rd a b)
  | 1 => some (.mulh l c rd a b)
  | 2 => some (.mulhu l c rd a b)
  | 4 => some (.div l c rd a b)
  | 5 => some (.divu l c rd a b)
  | 6 => some (.rem l c rd a b)
  | 7 => some (.remu l c rd a b)
  | _ => none

/-- Float: OP 2. -/
def decodeA2 (l : LaneId) (c : CtxNo) (fn : Nat) (rd a b : RegNo) : Option Instr :=
  match fn with
  | 0 => some (.fadd l c rd a b)
  | 1 => some (.fsub l c rd a b)
  | 2 => some (.fmul l c rd a b)
  | 3 => some (.fdiv l c rd a b)
  | 4 => if b = 0 then some (.fsqrt l c rd a) else none
  | 5 => some (.fmin l c rd a b)
  | 6 => some (.fmax l c rd a b)
  | 7 => if b = 0 then some (.fneg l c rd a) else none
  | 8 => if b = 0 then some (.fabs l c rd a) else none
  | _ => none

/-- Float compare, convert and move: OP 4. -/
def decodeA4 (l : LaneId) (c : CtxNo) (fn : Nat) (rd a b : RegNo) : Option Instr :=
  match fn with
  | 0 => some (.feq l c rd a b)
  | 1 => some (.flt l c rd a b)
  | 2 => some (.fle l c rd a b)
  | 3 => if b = 0 then some (.ftoi l c rd a) else none
  | 4 => if b = 0 then some (.ftou l c rd a) else none
  | 5 => if b = 0 then some (.itof l c rd a) else none
  | 6 => if b = 0 then some (.utof l c rd a) else none
  | 7 => if b = 0 then some (.fmvx l c rd a) else none
  | 8 => if b = 0 then some (.fmvf l c rd a) else none
  | _ => none

/-- Fixed-point vector: OP 5. -/
def decodeA5 (l : LaneId) (c : CtxNo) (fn : Nat) (rd a b : RegNo) : Option Instr :=
  match fn with
  | 0 => if vOk rd && vOk a && vOk b then some (.vadd l c rd a b) else none
  | 1 => if vOk rd && vOk a && vOk b then some (.vsub l c rd a b) else none
  | 2 => if vOk rd && vOk a && vOk b then some (.vmul l c rd a b) else none
  | 3 => if vOk rd && vOk a && vOk b then some (.vmac l c rd a b) else none
  | 4 => if vOk rd && vOk a && vOk b then some (.vmin l c rd a b) else none
  | 5 => if vOk rd && vOk a && vOk b then some (.vmax l c rd a b) else none
  | 6 => if vOk rd && vOk a && b == 0 then some (.vabs l c rd a) else none
  | 7 => if vOk rd && vOk a && b == 0 then some (.vneg l c rd a) else none
  | _ => none

/-- Float vector: OP 6. -/
def decodeA6 (l : LaneId) (c : CtxNo) (fn : Nat) (rd a b : RegNo) : Option Instr :=
  match fn with
  | 0 => if vOk rd && vOk a && vOk b then some (.vfadd l c rd a b) else none
  | 1 => if vOk rd && vOk a && vOk b then some (.vfsub l c rd a b) else none
  | 2 => if vOk rd && vOk a && vOk b then some (.vfmul l c rd a b) else none
  | 3 => if vOk rd && vOk a && vOk b then some (.vfma l c rd a b) else none
  | 4 => if vOk rd && vOk a && vOk b then some (.vfmin l c rd a b) else none
  | 5 => if vOk rd && vOk a && vOk b then some (.vfmax l c rd a b) else none
  | _ => none

/-- Vector moves and reductions: OP 7. -/
def decodeA7 (l : LaneId) (c : CtxNo) (fn : Nat) (rd a b : RegNo) : Option Instr :=
  match fn with
  | 0 => if vOk rd && b == 0 then some (.vsplt l c rd a) else none
  | 1 => if vOk rd && decide (b.val < 4) then some (.vins l c rd a b) else none
  | 2 => if vOk a && decide (b.val < 4) then some (.vext l c rd a b) else none
  | 3 => if vOk a && b == 0 then some (.vsum l c rd a) else none
  | 4 => if vOk a && vOk b then some (.vdot l c rd a b) else none
  | 5 => if vOk rd && vOk a && b == 0 then some (.vtof l c rd a) else none
  | 6 => if vOk rd && vOk a && b == 0 then some (.vtoq l c rd a) else none
  | _ => none

/-- Fused multiply and add: OP 3. -/
def decodeA3 (l : LaneId) (c : CtxNo) (fn : Nat) (rd a b d : RegNo) : Option Instr :=
  match fn with
  | 0 => some (.fma l c rd a b d)
  | 1 => some (.fms l c rd a b d)
  | 2 => some (.fnma l c rd a b d)
  | 3 => some (.fnms l c rd a b d)
  | _ => none

/-- Format A: rs3 is 0 but in OP 3. -/
def decodeA (l : LaneId) (c : CtxNo) (op fn : Nat) (rd a b d : RegNo) : Option Instr :=
  if op = 3 then decodeA3 l c fn rd a b d
  else if d ≠ 0 then none
  else match op with
  | 0 => decodeA0 l c fn rd a b
  | 1 => decodeA1 l c fn rd a b
  | 2 => decodeA2 l c fn rd a b
  | 4 => decodeA4 l c fn rd a b
  | 5 => decodeA5 l c fn rd a b
  | 6 => decodeA6 l c fn rd a b
  | 7 => decodeA7 l c fn rd a b
  | _ => none

/-! ### Formats I, M, B and J (R148, R151, R153) -/

/-- Format I: OP 0 to 10. -/
def decodeI (l : LaneId) (c : CtxNo) (op : Nat) (rd a : RegNo) (imm : BitVec 14) (w : Word) : Option Instr :=
  match op with
  | 0 => some (.addi l c rd a imm)
  | 1 => some (.andi l c rd a imm)
  | 2 => some (.ori l c rd a imm)
  | 3 => some (.xori l c rd a imm)
  | 4 => if shOk imm then some (.slli l c rd a imm) else none
  | 5 => if shOk imm then some (.srli l c rd a imm) else none
  | 6 => if shOk imm then some (.srai l c rd a imm) else none
  | 7 => some (.slti l c rd a imm)
  | 8 => some (.sltiu l c rd a imm)
  | 9 => some (.lhi l c rd (BitVec.ofNat 19 (fieldNat w 13 19)))
  | 10 => some (.jlr l c rd a imm)
  | _ => none

/-- Format I: the system instructions, OP 16 to 23. -/
def decodeSys (l : LaneId) (c : CtxNo) (op : Nat) (rd a : RegNo) (imm : BitVec 14) : Option Instr :=
  let z := imm == 0
  let d := rd == 0
  let s := a == 0
  match op with
  | 16 => if z && d && s then some (.yield l c) else none
  | 17 => if z && d && s then some (.exit l c) else none
  | 18 => if z && d && s then some (.haltInstruction l c) else none
  | 19 => if z && d && s then some (.brk l c) else none
  | 20 => if z && d then some (.relinq l c a) else none
  | 21 => if z && s then some (.rdflg l c rd) else none
  | 22 => if z && d then some (.wrflg l c a) else none
  | 23 => if z then some (.ctxc l c rd a) else none
  | _ => none

/-- Format M; the store's clashes are no part of the word. -/
def decodeM (l : LaneId) (c : CtxNo) (op : Nat) (rt a : RegNo) (off : BitVec 14) : Option Instr :=
  match op with
  | 0 => some (.lb l c rt a off)
  | 1 => some (.lbu l c rt a off)
  | 2 => some (.lh l c rt a off)
  | 3 => some (.lhu l c rt a off)
  | 4 => some (.lw l c rt a off)
  | 5 => if pairOk rt then some (.ldp l c rt a off) else none
  | 6 => some (.flw l c rt a off)
  | 7 => if vOk rt then some (.vld l c rt a off) else none
  | 8 => some (.sb l c rt a off [])
  | 9 => some (.sh l c rt a off [])
  | 10 => some (.sw l c rt a off [])
  | 11 => if pairOk rt then some (.sdp l c rt a off []) else none
  | 12 => some (.fsw l c rt a off [])
  | 13 => if vOk rt then some (.vst l c rt a off []) else none
  | _ => none

/-- Format B. -/
def decodeB (l : LaneId) (c : CtxNo) (op : Nat) (a b : RegNo) (off : BitVec 14) : Option Instr :=
  match op with
  | 0 => some (.beq l c a b off)
  | 1 => some (.bne l c a b off)
  | 2 => some (.blt l c a b off)
  | 3 => some (.bge l c a b off)
  | 4 => some (.bltu l c a b off)
  | 5 => some (.bgeu l c a b off)
  | _ => none

/-! ### Formats T and X (R154, R157 to R169) -/

/-- Format T. -/
def decodeT (l : LaneId) (c : CtxNo) (op : Nat) (rd a b : RegNo) (tm : Bool) (n : BitVec 8) : Option Instr :=
  let t := tmOk tm b
  let s := a == 0
  match op with
  | 0 => if b == 0 && !tm && n == 0 then some (.ltrd l c rd a) else none
  | 1 => if pairOk a && b == 0 && !tm && n == 0 then some (.wtlt l c rd a) else none
  | 2 => if s && t && decide (n.toNat < 160) then some (.wtev l c rd tm b n) else none
  | 3 => if rd == 0 && s && b == 0 && !tm && decide (n.toNat < 64) then some (.evpost l c n) else none
  | 4 => if t && decide (n.toNat < 32) then some (.qput l c rd a tm b n) else none
  | 5 => if t && decide (n.toNat < 32) then some (.qget l c rd a tm b n) else none
  | 6 => if s && t && decide (n.toNat < 64) then some (.lkacq l c rd tm b n) else none
  | 7 => if rd == 0 && s && b == 0 && !tm && decide (n.toNat < 64) then some (.lkrel l c n) else none
  | 8 => if s && t && n == 0 then some (.wtflt l c rd tm b) else none
  | _ => none

/-- Format X: the switch link, the speculation engine and the loop engine. -/
def decodeX (l : LaneId) (c : CtxNo) (op : Nat) (rd a b d : RegNo) : Option Instr :=
  match op with
  | 0 => if rd == 0 && d == 0 && pairOk b then some (.edge l c a b) else none
  | 1 => if rd == 0 then some (.pair l c a b d) else none
  | 2 => if pairOk b then some (.curd l c rd a b d) else none
  | 3 => if b == 0 && d == 0 then some (.setEdge l c rd a) else none
  | 4 => if b == 0 && d == 0 then some (.drain l c rd a) else none
  | 5 => if b == 0 && d == 0 then some (.crdst l c rd a) else none
  | 8 => if rd == 0 then some (.lpwr l c a b d) else none
  | 9 => if b == 0 then some (.lprd l c rd a d) else none
  | 10 => if rd == 0 && d == 0 then some (.lphold l c a b) else none
  | _ => none

/-- Format X: the small-matrix unit. -/
def decodeMat (l : LaneId) (c : CtxNo) (op : Nat) (rd a b d : RegNo) : Option Instr :=
  match op with
  | 16 => some (.mmul l c rd a b d)
  | 17 => some (.mmult l c rd a b d)
  | 18 => some (.madd l c rd a b d)
  | 19 => some (.msub l c rd a b d)
  | 20 => some (.mscal l c rd a b d)
  | 21 => if d == 0 then some (.mchol l c rd a b) else none
  | 22 => some (.msolve l c rd a b d)
  | 23 => if b == 0 && d == 0 then some (.mwait l c rd a) else none
  | _ => none

/-! ### A whole word (R136) -/

/-- A five-bit register field. -/
def regField (w : Word) (lo : Nat) : RegNo := ⟨fieldNat w lo 5, Nat.mod_lt _ (by decide)⟩

/-- The instruction that a word spells for context `c` of lane `l`; none where it is ILLEGAL. -/
def decodeKfx (l : LaneId) (c : CtxNo) (w : Word) : Option Instr :=
  let op := fieldNat w 3 5
  let rd := regField w 8
  let a := regField w 13
  let b := regField w 18
  let d := regField w 23
  let i14 := BitVec.ofNat 14 (fieldNat w 18 14)
  match fieldNat w 0 3 with
  | 0 => decodeA l c op (fieldNat w 28 4) rd a b d
  | 1 => if op < 16 then decodeI l c op rd a i14 w else decodeSys l c op rd a i14
  | 2 => decodeM l c op rd a i14
  | 3 => decodeB l c op rd a i14
  | 4 => if op = 0 then some (.jal l c rd (BitVec.ofNat 19 (fieldNat w 13 19))) else none
  | 5 => decodeT l c op rd a b (fieldNat w 23 1 == 1) (BitVec.ofNat 8 (fieldNat w 24 8))
  | 6 =>
    if fieldNat w 28 4 ≠ 0 then none
    else if op < 16 then decodeX l c op rd a b d else decodeMat l c op rd a b d
  | _ => none

end Machine
end Sys2Proof
end

