-- ==== Sys2Proof/Config.lean ====
section
/-!
DEFINITION. The values that the spec leaves open (free values: constants with no body), and the
functions whose algorithm the spec names without giving it (cryptography, estimators,
transcendental functions).  Nothing in Lean can evaluate any of them, so whatever is proved holds
for every choice.  Assumption log: entries 3 to 6.
-/

namespace Sys2Proof.Config

/-! ### Free values drawn from the counter of a lane or of the module -/

/-- A word that no rule states; the argument is the free-value counter.
(Log: DESIGN CHOICE, entry 3.) -/
opaque freeWord : Nat → Word
/-- A truth value that no rule states.
(Log: DESIGN CHOICE, entry 3.) -/
opaque freeBool : Nat → Bool
/-- A number that no rule states.
(Log: DESIGN CHOICE, entry 3.) -/
opaque freeNat : Nat → Nat
/-- A rational quantity that no rule states.
(Log: DESIGN CHOICE, entry 3.) -/
opaque freeRat : Nat → Rat
/-- Byte `i` of a string that no rule states.
(Log: DESIGN CHOICE, entry 3.) -/
opaque freeByte : Nat → Nat → Byte
/-- A string of `n` bytes that no rule states.
(Log: DESIGN CHOICE, entry 3.) -/
def freeBytes (d n : Nat) : List Byte := (List.range n).map (freeByte d)

/-- The energy counters of R535 at draw `n`: E_BANK[k] for k below 8, E_VLOG at 8.
(Log: DEDUCED, entry 94.) -/
opaque energy : Nat → Nat → Word

/-- Whether the hold store cannot carry the rind for 60 s at a given replica LT (R71).
(Log: DESIGN CHOICE, entry 137.) -/
opaque holdLow : Nat → Bool
/-- The crystal's rate as the rind measures it before the TCXO stops, in 0.01 ppm (R76): draw of a replica LT.
(Log: DEDUCED, entry 25.) -/
opaque crystal : Nat → Int

/-- The rate per raw count of a section's FIXED rate where no map gives one (R196, R225, R252).
(Log: DESIGN CHOICE, entry 47.) -/
opaque fixedStep : Rat

/-- The gain per cycle of the complementary filter of time constant TAU (ms) (R202), whose discretisation the spec does
not give.
(Log: DESIGN CHOICE, entry 129.) -/
opaque blendGain : Nat → Rat

/-! ### Open points of the float rules (R144) -/

/-- Whether tininess is detected before rounding (IEEE 754 leaves the choice).
(Log: DESIGN CHOICE, entry 32.) -/
opaque tininessBefore : Bool
/-- Whether a fused multiply-add of 0 times infinity with a quiet NaN addend sets NV.
(Log: DESIGN CHOICE, entry 32.) -/
opaque fmaZeroInfNaN : Bool
/-- Whether an inexact conversion to an integer sets NX.
(Log: DESIGN CHOICE, entry 32.) -/
opaque toIntInexact : Bool

/-- A sum of products of the small-matrix unit (R168), whose order of accumulation and number of roundings
the spec does not give: rounding mode, the number the sum is taken from (for a factor or a solve), the
products' factors; the result and the exceptions of R128.
(Log: DESIGN CHOICE, entry 33.) -/
opaque sumProducts : Nat → Option Word → List (Word × Word) → Word × Nat

/-! ### What the part's fuses and image hold (R632, R589, R536) -/

/-- Whether the part is a KV208-A1H (R2).
(Log: DESIGN CHOICE, entry 11.) -/
opaque gradeH : Bool
/-- Grade code of the part (R2, R632): 0x0 KV208-A1, 0x1 KV208-A1H.
(Log: DESIGN CHOICE, entry 11.) -/
def grade : BitVec 4 := if gradeH then 1 else 0
/-- Silicon step (R632).
(Log: DESIGN CHOICE, entry 11.) -/
opaque step : BitVec 4
/-- Module serial number (R536).
(Log: DESIGN CHOICE, entry 11.) -/
opaque serial : DWord
/-- Device public key word `w` of lane `b` (true: lane B) (R603).
(Log: DESIGN CHOICE, entry 11.) -/
opaque devPub : Bool → Nat → Word
/-! ### Cryptography (R588 to R600) -/

/-- Byte `i` of the SHA-384 digest of a byte string. -/
opaque sha384Byte : List Byte → Nat → Byte
/-- SHA-384 of a byte string: 48 bytes.
(Log: DESIGN CHOICE, entry 6.) -/
def sha384 (bs : List Byte) : List Byte := (List.range 48).map (sha384Byte bs)
/-- ECDSA P-384 verification: key, digest, signature.
(Log: DESIGN CHOICE, entry 6.) -/
opaque ecdsaVerify : List Byte → List Byte → List Byte → Bool
/-- Byte `i` of the ECDSA P-384 signature by the device key of a lane (true: lane B) over a digest. -/
opaque ecdsaSignByte : Bool → List Byte → Nat → Byte
/-- The whole signature: r then s, 96 bytes.
(Log: DESIGN CHOICE, entry 6.) -/
def ecdsaSign (b : Bool) (d : List Byte) : List Byte := (List.range 96).map (ecdsaSignByte b d)
/-- Byte `i` of the AES-256-GCM tag: key, nonce, associated data, ciphertext. -/
opaque gcmTagByte : List Byte → List Byte → List Byte → List Byte → Nat → Byte
/-- The whole tag: 16 bytes.
(Log: DESIGN CHOICE, entry 6.) -/
def gcmTag (k n a c : List Byte) : List Byte := (List.range 16).map (gcmTagByte k n a c)
/-- AES-256-GCM keystream: key, nonce, byte index.
(Log: DESIGN CHOICE, entry 6.) -/
opaque gcmStream : List Byte → List Byte → Nat → Byte
/-- HKDF with SHA-384: secret, salt, info; byte index.
(Log: DESIGN CHOICE, entry 6.) -/
opaque hkdf : List Byte → List Byte → List Byte → Nat → Byte
/-- ECDH shared x-coordinate of the ephemeral key number `n` of a lane (true: lane B) with a public key.
(Log: DESIGN CHOICE, entry 6.) -/
opaque ecdh : Bool → Nat → List Byte → List Byte
/-- Byte `i` of the public key of ephemeral key number `n` of a lane: x then y. -/
opaque ephemeral : Bool → Nat → Nat → Byte
/-- The module root of the fuses (R588).
(Log: DESIGN CHOICE, entry 11.) -/
opaque moduleRoot : List Byte
/-- A lane's serial number and vendor certificate (R588, R600).
(Log: DESIGN CHOICE, entry 11.) -/
opaque laneSerial : Bool → DWord
/-- See `laneSerial`.
(Log: DESIGN CHOICE, entry 11.) -/
opaque vendorCert : Bool → List Byte
/-- Word `w` of nonce number `n` of the management port (R531).
(Log: DEDUCED, entry 94.) -/
opaque nonceWord : Nat → Nat → Word

/-! ### Transcendental functions, as rational approximations of unstated rounding -/

opaque sin : Rat → Rat
opaque cos : Rat → Rat
opaque tan : Rat → Rat
opaque atan2 : Rat → Rat → Rat
opaque exp : Rat → Rat
opaque ln : Rat → Rat
opaque sqrt : Rat → Rat
opaque pow : Rat → Rat → Rat

/-! ### Estimators named by the spec without an algorithm -/

/-- An estimator's output: which estimator, the words it reads, and which output.
(Log: DESIGN CHOICE, entry 6.) -/
opaque estimate : Nat → List Word → List Rat → Nat → Rat
/-- One step of an estimator's state by an input: which estimator, the state, the input's words.
(Log: DESIGN CHOICE, entry 6.) -/
opaque fuseStep : Nat → List Rat → List Word → List Rat
/-- One step of a class of fusion (0 nozzle, 1 perception) by an input: the state, the parameters held with the input, the
input's words.
(Log: DESIGN CHOICE, entry 51.) -/
opaque fuseInput : Nat → List Rat → List Rat → List Word → List Rat
/-- An estimator's yes-or-no output.
(Log: DESIGN CHOICE, entry 6.) -/
opaque judge : Nat → List Word → List Rat → Bool

end Sys2Proof.Config
end

