-- ==== Sys2Proof/Machine/RegMap.lean ====
section
/-!
DEFINITION. The register map of a lane and of the rind: for every register the spec lists, its
address, its fields with their access codes (R9), their reset values and, where the spec says
that an out-of-range write is clamped, the range.  A word inside an assigned block that no
register occupies reads 0 and ignores writes (R118).
-/

namespace Sys2Proof.Machine

/-- The access codes of R9.  `locked` is a field of another step: software never writes it and a
generic write leaves it (used where a rule replaces the plain write altogether). -/
inductive Acc where
  | rw | ro | wo | w1c | w1s | rc | rwl
deriving DecidableEq, Repr

/-- One field: lowest bit, width, access code, reset value, and the range a write is clamped to. -/
structure Fld where
  lo  : Nat
  w   : Nat
  acc : Acc
  rst : Nat
  lim : Option (Nat × Nat)
deriving DecidableEq, Repr

/-- A register, or `cnt` registers `stride` bytes apart. -/
structure Reg where
  base   : Nat
  cnt    : Nat
  stride : Nat
  flds   : List Fld
deriving DecidableEq, Repr

/-- An RW field. -/
def frw (lo w : Nat) (rst : Nat := 0) : Fld := ⟨lo, w, .rw, rst, none⟩
/-- An RW field whose out-of-range writes are clamped to `a` to `b`. -/
def frc (lo w rst a b : Nat) : Fld := ⟨lo, w, .rw, rst, some (a, b)⟩
/-- An RO field. -/
def fro (lo w : Nat) (rst : Nat := 0) : Fld := ⟨lo, w, .ro, rst, none⟩
/-- A WO field. -/
def fwo (lo w : Nat) : Fld := ⟨lo, w, .wo, 0, none⟩
/-- A W1C field. -/
def fw1c (lo w : Nat) : Fld := ⟨lo, w, .w1c, 0, none⟩
/-- A W1S field. -/
def fw1s (lo w : Nat) : Fld := ⟨lo, w, .w1s, 0, none⟩
/-- An RC field. -/
def frcl (lo w : Nat) : Fld := ⟨lo, w, .rc, 0, none⟩
/-- An RWL field: RW until owner enrolment (R9). -/
def frwl (lo w : Nat) (rst : Nat := 0) : Fld := ⟨lo, w, .rwl, rst, none⟩

/-- One register. -/
def r1 (base : Nat) (flds : List Fld) : Reg := ⟨base, 1, 4, flds⟩
/-- An array of registers. -/
def rN (base cnt stride : Nat) (flds : List Fld) : Reg := ⟨base, cnt, stride, flds⟩
/-- A whole-word field of each kind. -/
def wRW (rst : Nat := 0) : List Fld := [frw 0 32 rst]
/-- See `wRW`. -/
def wRO (rst : Nat := 0) : List Fld := [fro 0 32 rst]
/-- See `wRW`. -/
def wRC : List Fld := [frcl 0 32]

/-- SYS (R73, R124, R632). -/
def regsSYS : List Reg :=
  [ r1 0x40000000 [fro 0 16 0x208, fro 16 4, fro 24 4, fro 28 1],
    r1 0x40000010 [fro 0 3, fro 8 4, fro 12 1, fwo 31 1],
    r1 0x40000018 [frw 0 16 0x1F4, fro 31 1],
    r1 0x4000001C [fwo 0 32] ]

/-- LT (R93 to R98). -/
def regsLT : List Reg :=
  [ r1 0x40020000 wRO, r1 0x40020004 wRO,
    r1 0x40020008 [frw 0 1 1, frw 1 1],
    r1 0x4002000C [fro 0 2, fro 2 1, fro 3 1, fro 4 1, fw1c 5 1],
    r1 0x40020010 wRW, r1 0x40020014 wRO, r1 0x40020018 wRO,
    rN 0x40020020 4 4 wRO, r1 0x40020030 (wRO 0xFFFFFFFF), r1 0x40020034 wRO,
    rN 0x40020040 2 4 [frw 0 13],
    r1 0x40020048 [frc 0 32 0x3E8 100 100000],
    rN 0x40020050 2 4 [frw 0 1, frw 1 1, frw 2 4 0xF, frw 8 20 0x3E8],
    rN 0x40020058 2 4 [fro 0 1, fro 1 1, fro 2 1, fro 3 1, fw1c 4 1, fro 16 16],
    rN 0x40020080 4 4 wRW, r1 0x40020090 [fwo 0 5],
    rN 0x40020100 32 32 [frw 0 1, fro 1 1, frw 8 5 8, frw 16 16],
    rN 0x40020104 32 32 wRW, rN 0x40020108 32 32 wRO, rN 0x4002010C 32 32 wRO,
    rN 0x40020110 32 32 wRO, rN 0x40020114 32 32 wRO, rN 0x40020118 32 32 wRO,
    rN 0x4002011C 32 32 wRO ]

/-- CTX (R130, R131). -/
def regsCTX : List Reg :=
  [ r1 0x40030000 [fwo 0 7, fwo 8 3],
    r1 0x40030004 [fw1c 0 1, fw1c 1 1, fro 16 8],
    rN 0x40030020 4 4 [fw1c 0 32], rN 0x40030030 4 4 [fw1c 0 32], rN 0x40030040 5 4 [fw1c 0 32],
    r1 0x40030060 wRC, rN 0x40030080 6 4 [fro 0 7, fro 7 1 1],
    rN 0x40030100 32 4 [fro 0 7], rN 0x40030200 64 4 [fro 0 7, fro 8 1, fro 9 1] ]

/-- MEM (R557 to R560). -/
def regsMEM : List Reg :=
  [ r1 0x40040000 [fw1c 0 1, fw1c 1 1, fw1c 2 1, fw1c 3 1],
    r1 0x40040004 [frw 0 8 0x3C],
    r1 0x40040008 [fro 0 23, fro 24 4], r1 0x4004000C [fro 0 23], r1 0x40040010 [fro 0 23, fro 31 1],
    rN 0x40040040 14 4 wRC, r1 0x40040080 wRC,
    rN 0x40040100 23 4 [frw 0 3 1, frw 3 1 1, frw 4 2, frw 6 1],
    r1 0x4004015C [frw 0 3 1, frw 3 1 1, fro 4 2 1, frw 6 1],
    rN 0x40040200 23 4 [fro 0 3 1, fro 3 1, fro 4 2, fro 6 1, fro 7 1, fro 8 3, fro 11 3,
      frcl 16 8],
    r1 0x4004025C [fro 0 3 1, fro 3 1, fro 4 2 1, fro 6 1, fro 7 1, fro 8 3, fro 11 3,
      frcl 16 8] ]

/-- EVT (R541). -/
def regsEVT : List Reg :=
  [ rN 0x40050000 3 4 (wRW 0xFFFFFFFF), r1 0x40050010 [fro 0 9], r1 0x40050014 wRC ]

/-- SPX (R190 to R192). -/
def regsSPX : List Reg :=
  [ r1 0x40060000 [frw 0 10 0x3C0],
    r1 0x40060004 [fro 0 11, fw1c 16 1, fw1c 17 1, fw1c 18 1],
    rN 0x40060010 6 4 wRC,
    r1 0x40060040 [frw 17 15], r1 0x40060044 [fro 0 12], r1 0x40060048 [fro 0 12],
    rN 0x40060080 7 4 wRO ]

/-- SEC (R231 to R234) and its timing, learning and metering registers (R262). -/
def regsSEC : List Reg :=
  [ r1 0x40070000 [frw 0 1, fwo 1 1, frw 2 1, frw 3 1, frw 4 1, frw 5 1],
    r1 0x40070004 [fro 0 1, fw1c 1 1, fro 2 1, fro 3 1, fro 4 4, fro 8 8, fw1c 16 1, fw1c 17 1,
      fw1c 18 1, fw1c 19 1],
    r1 0x40070008 [frc 0 7 0x32 1 100, frc 8 7 0x0A 0 50, frc 16 7 0 0 99, frw 24 8 0x14],
    r1 0x4007000C wRW, rN 0x40070010 4 4 [frw 4 28],
    r1 0x40070020 [frw 0 8, frw 8 8, frw 16 4, frw 24 5],
    rN 0x40070024 2 4 [frw 18 14], rN 0x40070030 2 4 [frw 4 28],
    r1 0x40070038 wRO, r1 0x4007003C [fro 0 6], r1 0x40070040 [frw 0 6], r1 0x40070044 [fro 0 6],
    r1 0x40070048 [frw 0 6], r1 0x4007004C [frc 0 32 0x7D0 100 60000],
    rN 0x40070050 2 4 wRW, r1 0x40070058 [fwo 0 2, fwo 2 2],
    r1 0x4007005C [fro 0 32], rN 0x40070060 4 4 wRW, rN 0x40070070 3 4 wRW,
    rN 0x4007007C 2 4 wRW, r1 0x40070084 [fwo 0 4], rN 0x40070088 4 4 wRC,
    r1 0x40070098 [fro 0 16], rN 0x400700C0 16 4 (wRO 0x55555555),
    r1 0x40070100 [frw 0 1 1, frw 1 1, frc 8 8 0x10 1 255, frc 16 8 8 1 255, frw 24 8 0x80],
    rN 0x40070104 2 4 [frc 0 16 0x0A 1 4800, frc 16 16 0x9C4 1 4800],
    r1 0x4007010C [frw 0 16 0x3E8, frw 16 8 0x10, frw 24 8 8],
    r1 0x40070110 [frc 0 8 0x50 2 250, frc 8 8 0x3C 2 250, frw 16 8 0x0A, frc 24 8 0x1E 5 255],
    r1 0x40070114 [frw 4 28],
    r1 0x40070118 [frc 0 16 0x12C 10 65535, frc 16 8 0x32 0 200],
    r1 0x4007011C [frw 0 16 0x96, frw 16 16 0x258],
    r1 0x40070120 wRW, rN 0x40070124 2 4 wRW, r1 0x4007012C [fwo 0 32],
    r1 0x40070130 [frc 0 8 0x19 1 255, frc 8 8 0x0A 1 255, frc 16 8 0x14 1 255,
      frc 24 8 0x0A 1 255],
    r1 0x40070134 [frc 0 7 0x0A 5 100, frc 8 7 0x0A 1 50],
    r1 0x40070138 wRO, r1 0x4007013C wRO, rN 0x40070140 2 4 wRO, r1 0x40070148 [fro 0 9],
    rN 0x40070150 4 4 wRC, r1 0x40070160 [frw 4 28],
    r1 0x40070164 [frw 0 1, fwo 1 1, frc 8 5 0 0 24],
    r1 0x40070168 [fro 0 1, fw1c 1 1, fro 2 1, fro 4 4, fro 8 5],
    rN 0x40070180 7 4 wRO, rN 0x400701A0 7 4 wRO ]

/-- FUS (R287 to R292) and the boom calibration registers (R315, R321). -/
def regsFUS : List Reg :=
  [ r1 0x40080000 [frw 0 1, frw 1 1, frw 2 2],
    r1 0x40080004 [fro 0 2, fro 2 1, fro 3 1, fro 4 1, fro 5 1, fw1c 6 1, fro 7 1, fw1c 8 1,
      fro 9 2, fro 11 1, fw1c 12 1],
    r1 0x40080008 [frc 0 8 0x32 1 200, frc 8 8 0x5A 10 255, frc 16 8 0x14 1 255,
      frc 24 8 0x32 20 200],
    r1 0x4008000C [frw 0 16 0x14, frw 16 16 0xC8],
    rN 0x40080010 3 4 wRW, r1 0x4008001C [fwo 0 32], r1 0x40080020 [frw 18 14],
    r1 0x40080024 wRO, r1 0x40080028 [frw 0 16 0x32],
    rN 0x40080030 6 4 wRW, rN 0x40080048 2 4 wRW, r1 0x40080050 [fwo 0 5],
    rN 0x40080060 5 4 wRC, rN 0x40080078 2 4 wRO,
    rN 0x40080080 24 4 wRO, rN 0x400800E0 16 4 wRO,
    rN 0x40080200 32 8 [frw 0 4, frw 4 1, frw 5 1, frw 6 1, frw 7 1, frw 8 5, frw 13 5,
      frw 18 1, frw 19 4 4, frw 24 8 5],
    rN 0x40080204 32 8 (wRW 0x3E8),
    rN 0x40080300 32 4 [fro 0 5, fro 8 1 1, fro 9 1],
    r1 0x40080400 [frw 0 1, fwo 1 1, fwo 2 1],
    r1 0x40080404 [fro 0 1, fro 1 1, fw1c 2 1, fro 4 3],
    r1 0x40080408 [frw 4 28],
    rN 0x40080410 2 4 wRW, r1 0x40080418 [frw 0 28],
    rN 0x40080420 3 4 [fw1c 0 32], rN 0x40080430 3 4 wRO,
    r1 0x40080440 [frw 0 16 0xA, frw 16 16 0x1F4], r1 0x40080444 [frw 0 16 0x14],
    r1 0x40080448 [frw 0 16 0x64, frw 16 16 0x442D], r1 0x4008044C [frw 0 16 0x1F4],
    r1 0x40080450 [frw 0 16 0x64, frw 16 16 0xC350], r1 0x40080454 [frw 0 16 0x3E8],
    r1 0x40080458 [frw 0 16 0xA, frw 16 16 0x3E8], r1 0x4008045C [frw 0 16 0x32],
    r1 0x40080460 [frw 0 16 0x64, frw 16 16 0x442D], r1 0x40080464 [frw 0 16 0x3E8],
    r1 0x40080468 [frw 0 16 0x64, frw 16 16 0xC350], r1 0x4008046C [frw 0 16 0x3E8] ]

/-- TRK (R306 to R309). -/
def regsTRK : List Reg :=
  [ r1 0x40090000 [frw 0 1, fwo 1 1], r1 0x40090004 [fro 0 9, fro 16 1, fw1c 17 1],
    r1 0x40090008 [frc 0 8 0x5C 10 255, frc 8 8 0x14 1 255, frc 16 8 0x14 1 255],
    r1 0x4009000C [frw 15 17], r1 0x40090010 wRO, rN 0x40090014 2 4 wRO, r1 0x4009001C wRW,
    rN 0x40090020 4 4 wRC, r1 0x40090030 (wRO 1) ]

/-- GNS (R350 to R355). -/
def regsGNS : List Reg :=
  [ r1 0x400A0000 [frw 0 1, frw 1 1 1, frw 2 1 1, frw 3 1, fwo 4 1, fwo 5 1, frw 6 1,
      frw 8 8 0xFF],
    r1 0x400A0004 [fro 0 3, fro 3 2, fro 5 2, fro 7 1, fro 8 8, fw1c 16 1, fw1c 17 1, fro 18 1],
    r1 0x400A0008 [frw 0 3 6, frc 8 7 0x0A 0 60, frc 16 8 0x1E 15 100, frw 24 3 5],
    r1 0x400A000C [frc 0 8 0x0A 1 60, frc 8 8 0x32 1 200, frc 16 8 0x0A 1 255,
      frc 24 8 0x14 1 255],
    rN 0x400A0010 2 4 [frw 0 1, frw 1 1, fro 2 1, fro 3 1, fro 4 1, fro 8 8, frw 24 8 0x40],
    rN 0x400A0018 2 4 [fro 0 24],
    rN 0x400A0020 8 4 [frc 0 5 2 1 20],
    rN 0x400A0040 24 4 [frw 0 1, frw 1 1, frw 2 2 1, fro 4 1, frw 8 16],
    r1 0x400A00A0 [frw 16 16], r1 0x400A00A4 [fro 0 11, fro 16 16],
    r1 0x400A00A8 [fwo 0 32], r1 0x400A00AC [fwo 0 11], r1 0x400A00B0 (wRO 0xFFFFFFFF),
    r1 0x400A00B4 [fro 0 8, fro 31 1], r1 0x400A00B8 [frw 15 17], r1 0x400A00BC (wRO 0xFFFFFFFF),
    rN 0x400A00C0 6 4 wRC, rN 0x400A0100 24 4 wRO ]

/-- LKP (R376 to R380). -/
def regsLKP : List Reg :=
  [ r1 0x400B0000 [frw 0 2, frw 2 1, frw 3 1 1, fwo 4 1, fwo 5 1],
    r1 0x400B0004 [fro 0 2, fro 2 3, fro 5 2, fro 7 2, fro 9 1, fro 10 1, fw1c 11 1, fw1c 12 1,
      fw1c 13 1, fro 14 1, fw1c 15 1, fro 16 1],
    r1 0x400B0008 [frw 0 4 8, frc 4 4 3 1 15, frc 8 8 0xC8 1 255, frc 16 8 0x0A 1 255,
      frc 24 8 0x14 1 100],
    r1 0x400B000C (wRW 0x64), r1 0x400B0010 (wRW 0x32), r1 0x400B0014 (wRW 0x64),
    rN 0x400B0018 2 4 (wRW 0x3F800000), rN 0x400B0020 2 4 [frw 4 28],
    rN 0x400B0028 5 4 wRW, rN 0x400B0040 7 4 wRW, rN 0x400B0060 4 4 (wRW 0x3F800000),
    r1 0x400B0070 [frw 4 28], r1 0x400B0074 [frw 0 4], r1 0x400B0078 [frw 12 20],
    r1 0x400B007C [fw1c 0 12], r1 0x400B0080 [frw 0 12], rN 0x400B0084 3 4 wRW,
    r1 0x400B0090 [fwo 0 32], rN 0x400B00A0 4 4 wRO, rN 0x400B00B0 4 4 wRO,
    rN 0x400B00C0 12 4 wRW, rN 0x400B00F0 4 4 wRO, rN 0x400B0100 2 4 wRO, rN 0x400B0108 4 4 wRC,
    rN 0x400B0204 8 8 [frw 0 16 0x96],
    rN 0x400B0200 8 8 [frw 0 1, fro 1 1, frw 2 5, frw 8 8 0x32, frw 16 16 0x14],
    rN 0x400B0300 8 4 [fro 0 1, fro 1 1, fro 2 1, fro 8 8, fro 16 16] ]

/-- LPE (R403, R404). -/
def regsLPE : List Reg :=
  [ r1 0x400C0000 [fro 0 18, fro 20 3, fro 24 6, fw1c 30 1, fw1c 31 1],
    rN 0x400C0008 6 4 wRO, rN 0x400C0020 2 4 wRC,
    rN 0x400C1000 1024 4 wRW ]

/-- PGC and PGB (R424 to R427): the lane's copies of the fields it writes, and what the die
reports back. -/
def regsPG : List Reg :=
  [ r1 0x400D0000 [frw 0 8 0x0A], r1 0x400E0000 [frw 0 8 0x0A],
    r1 0x400D0004 [fw1c 0 1, fw1c 1 1, fro 2 1, fro 3 1],
    r1 0x400E0004 [fw1c 0 1, fw1c 1 1, fro 2 1, fro 3 1],
    rN 0x400D0010 2 4 wRC, rN 0x400E0010 2 4 wRC,
    rN 0x400D0100 208 16 [frw 0 1, frw 1 1, frw 2 2, frw 4 1, fwo 5 1, fwo 6 1, frw 7 1,
      frw 8 1, frw 16 8],
    rN 0x400D0104 208 16 [frc 0 20 0x2710 20 1048575], rN 0x400D0108 208 16 [frw 0 20],
    rN 0x400D010C 208 16 [fro 0 1, fro 1 1, fro 2 1, fw1c 3 1, fw1c 4 1, fw1c 5 1, fro 6 1,
      fro 7 1, fro 8 1, fro 16 8, fro 24 1],
    rN 0x400E0020 8 4 [frw 0 10, frw 16 1, fro 31 1],
    rN 0x400E0100 24 32 [frw 0 1, frw 1 1, frw 2 1, frw 4 2, frw 6 1, fwo 7 1, fwo 8 1,
      frw 9 1, frw 16 8 0x32],
    rN 0x400E0104 24 32 [frc 0 16 0x9C4 100 65535], rN 0x400E0108 24 32 [frw 0 16],
    rN 0x400E010C 24 32 [frw 0 8, frw 8 2, frw 10 1, frw 12 12 0xFFF, frw 24 8 0x14],
    rN 0x400E0110 24 32 [frw 0 8, frw 8 8 0x0A],
    rN 0x400E0114 24 32 [fro 0 1, fro 1 1, fro 2 1, fw1c 3 1, fw1c 4 1, fw1c 5 1, fro 6 1,
      fro 7 1, fro 8 1, fw1c 9 1, fro 16 8, fro 24 1, fro 25 1] ]

/-- SWD (R27, R453 to R456).  Channel indices 192 to 207 are the H-class channels. -/
def regsSWD : List Reg :=
  [ r1 0x400F0040 [fro 0 1, fro 1 1, fw1c 2 1, fw1c 3 1, fro 4 1, frcl 16 16],
    r1 0x400F0080 [frw 0 8 0x0A, frc 8 5 0x0F 5 30], r1 0x400F0084 [fwo 0 8, fwo 8 1, fwo 9 1],
    r1 0x400F0088 wRC, r1 0x400F008C wRC,
    rN 0x400F1000 192 16 [frw 0 3, frc 8 8 0x78 0 120, frc 16 8 0x14 0 80, frc 24 6 0x0A 5 40,
      frw 30 1 1],
    rN 0x400F1C00 16 16 [frw 0 3, frc 8 8 0xB4 0 180, frc 16 8 0x64 0 250, frc 24 6 0x0A 5 40,
      frw 30 1 1],
    rN 0x400F1004 192 16 [frc 0 8 0x64 52 160, frc 8 7 0x3C 20 90],
    rN 0x400F1C04 16 16 [frc 0 8 0x64 50 160, frc 8 7 0x3C 20 90],
    rN 0x400F1008 208 16 [fro 0 3, fro 3 1, fro 4 1, fro 5 1, fro 6 1, fw1c 7 1, fw1c 8 1,
      fw1c 9 1, fw1c 10 1, fro 11 1, fro 12 1, fro 13 1, fro 16 4, fro 24 7],
    rN 0x400F100C 208 16 [fro 0 12, fro 16 8, fro 24 8],
    rN 0x400F2000 8 16 [fro 0 16, fro 16 8, fro 24 1, fro 25 1, fw1c 26 1],
    rN 0x400F2004 8 16 [frc 0 8 0x2D 10 45], rN 0x400F2008 8 16 wRC,
    rN 0x400F2100 16 4 [frw 0 1, fro 1 1, frw 2 1, fw1c 3 1, frw 16 10] ]

/-- ENC (R471 to R474). -/
def regsENC : List Reg :=
  [ rN 0x40100100 24 64 [frw 0 3, frw 3 1, frw 4 2, frw 6 1, frw 7 1, frw 8 8, frw 16 4 1,
      frw 20 8 0x0A],
    rN 0x40100104 24 64 [frw 0 1, frw 1 1, frw 2 1, frw 3 2, frw 5 1, frw 8 8],
    rN 0x40100108 24 64 [frw 0 24], rN 0x4010010C 24 64 [frw 0 24],
    rN 0x40100110 24 64 [fro 0 3, fro 3 1, fw1c 4 1, fw1c 5 1, fw1c 6 1, fw1c 7 1, fw1c 8 1,
      fro 9 1, fw1c 10 1],
    rN 0x40100114 24 64 wRW, rN 0x40100118 24 64 wRO, rN 0x4010011C 24 64 wRO,
    rN 0x40100120 24 64 wRO, rN 0x40100124 24 64 wRO, rN 0x40100128 24 64 wRO,
    rN 0x4010012C 24 64 wRO, rN 0x40100130 24 64 wRO, rN 0x40100134 24 64 wRO,
    rN 0x40100138 24 64 wRO, rN 0x4010013C 24 64 [frcl 0 16, frcl 16 16],
    rN 0x40100800 4 32 [frw 0 1, frw 1 1, frw 2 1, frc 8 5 0x18 0 32, frw 13 3 3,
      frc 16 16 0x64 5 65535],
    rN 0x40100804 4 32 [fro 0 1, fw1c 1 1, fw1c 2 1, fro 3 1, fro 4 1, fro 5 1],
    rN 0x40100808 4 32 wRO, rN 0x4010080C 4 32 wRO, rN 0x40100810 4 32 wRO,
    rN 0x40100814 4 32 wRC ]

/-- The CAN controllers (R499, R500). -/
def regsCAN : List Reg :=
  [ rN 0x40110000 4 0x4000 [frw 0 2, frw 2 1, frw 3 1, frw 4 1, frw 5 1 1, frw 6 1, frw 7 1,
      frw 8 2, frw 10 1, frw 11 1, frw 12 3],
    rN 0x40110004 4 0x4000 [fro 0 2, fro 2 2, fro 4 1, fw1c 5 1, fw1c 6 1, fw1c 7 1, fw1c 8 1,
      fw1c 9 1],
    rN 0x4011000C 4 0x4000 [frw 0 8 4, frw 8 8 0x3F, frw 16 7 0x10, frw 23 7 0x10],
    rN 0x40110010 4 0x4000 [frw 0 5 1, frw 8 5 0x0E, frw 16 4 1, frw 20 4 5, frw 24 7 0x7A],
    rN 0x40110014 4 0x4000 [fro 0 8, fro 8 7, fro 15 1],
    rN 0x40110018 4 0x4000 [frw 14 18], rN 0x4011001C 4 0x4000 [frc 0 8 0 0 128],
    rN 0x40110020 4 0x4000 [frw 0 7 0x30, frw 8 7 0x30, frw 16 5 0x10],
    rN 0x40110024 4 0x4000 [fro 0 8], rN 0x40110028 4 0x4000 [frw 0 8],
    rN 0x4011002C 4 0x4000 [fro 0 8], rN 0x40110030 4 0x4000 [frw 0 8],
    rN 0x40110034 4 0x4000 [fw1c 0 16], rN 0x40110038 4 0x4000 [fw1s 0 8],
    rN 0x4011003C 4 0x4000 [fw1s 0 8], rN 0x40110040 4 0x4000 [fw1c 0 8],
    rN 0x40110044 4 0x4000 [frc 0 6 0x28 4 40], rN 0x40110048 4 0x4000 [frw 0 7],
    rN 0x4011004C 4 0x4000 [fro 0 7], rN 0x40110050 4 0x4000 [fwo 0 1],
    rN 0x40110054 4 0x4000 wRC, rN 0x40110058 4 0x4000 wRC, rN 0x4011005C 4 0x4000 wRC,
    rN 0x40110060 4 0x4000 [fro 0 3, fro 4 3, fro 7 1, fro 8 1],
    rN 0x40110064 4 0x4000 [frw 0 8 0x0A, frw 8 8 0x32] ]

/-- The Ethernet ports (R508, R509). -/
def regsETH : List Reg :=
  [ rN 0x40120000 2 0x100 [frw 0 1, frw 1 1, frw 2 1, frw 3 1, frw 4 1, frw 5 1, frw 6 1],
    rN 0x40120004 2 0x100 [fro 0 1, fro 1 3, fw1c 4 1],
    rN 0x40120008 2 0x100 wRW, rN 0x4012000C 2 0x100 [frw 0 16],
    rN 0x40120010 2 0x100 [frw 4 28], rN 0x4012001C 2 0x100 [frw 4 28],
    rN 0x40120014 2 0x100 [frc 0 9 4 4 256], rN 0x40120020 2 0x100 [frc 0 9 4 4 256],
    rN 0x40120018 2 0x100 [fro 0 8], rN 0x40120024 2 0x100 [fro 0 8],
    rN 0x40120028 2 0x100 [fwo 0 32],
    rN 0x4012002C 2 0x100 wRC, rN 0x40120030 2 0x100 wRC, rN 0x40120034 2 0x100 wRC,
    rN 0x40120038 2 0x100 wRC,
    rN 0x40120040 16 8 wRW, rN 0x40120044 16 8 [frw 0 16, frw 31 1],
    rN 0x40120140 16 8 wRW, rN 0x40120144 16 8 [frw 0 16, frw 31 1] ]

/-- HST (R541, R542). -/
def regsHST : List Reg :=
  [ r1 0x40130000 [frw 0 1 1, frw 1 1, frw 2 1, frw 3 5],
    r1 0x40130010 [frw 15 17], r1 0x40130014 [fro 0 6], r1 0x40130018 [frw 0 6],
    r1 0x40130020 [frw 15 17], r1 0x40130024 [frw 0 6], r1 0x40130028 [fro 0 6],
    rN 0x40130030 5 4 wRC ]

/-- LNK (R586, R587). -/
def regsLNK : List Reg :=
  [ r1 0x40140000 [frw 0 1, fwo 1 1],
    r1 0x40140004 [fro 0 1, fro 1 1, fro 2 1, fro 3 1, fro 4 1, fro 5 1, fro 8 4 2],
    r1 0x40140010 [fro 0 8, fro 16 8], rN 0x40140014 2 4 wRO, r1 0x4014001C [fro 0 16] ]

/-- VLT (R602, R603). -/
def regsVLT : List Reg :=
  [ r1 0x40150000 [fwo 0 1],
    r1 0x40150004 [fro 0 1, fro 1 1, fw1c 2 1, fro 3 1, fro 4 1, fw1c 5 1, fro 8 4],
    rN 0x40150010 12 4 (wRW), r1 0x40150040 [fwo 0 32], rN 0x40150050 24 4 wRO,
    rN 0x401500B0 12 4 wRO, r1 0x401500E0 wRO, r1 0x401500E4 wRO, r1 0x401500E8 [fro 0 32] ]

/-- NVM (R616, R617). -/
def regsNVM : List Reg :=
  [ r1 0x40160000 [fwo 0 1, fwo 1 1],
    r1 0x40160004 [fro 0 1, fro 1 2, fro 3 1, fro 4 1, fro 5 1, fro 6 1, fw1c 7 1, fw1c 8 1,
      fw1c 9 1],
    r1 0x40160008 [frw 4 28], r1 0x4016000C [frw 0 17], r1 0x40160010 wRW, r1 0x40160014 wRO,
    rN 0x40160018 2 4 wRO, r1 0x40160020 wRO, r1 0x40160024 wRO,
    r1 0x40160030 [frw 2 30], r1 0x40160034 [frw 12 20], r1 0x40160038 [frw 0 13] ]

/-- The rind's registers, at their management addresses (R71, R498, R536, R537, R583 to R585,
R615).  Software-written protected registers (LANE_OFF, PROOF_REQ, E_SNAP) are reached only
through MG_GO (R531), so a plain write leaves them. -/
def regsRind : List Reg :=
  [ r1 0x0000 [fro 0 16 0x208, fro 16 4, fro 24 4], rN 0x0004 2 4 wRO,
    r1 0x0010 [fro 0 4, fro 16 16], rN 0x0020 15 4 wRO, rN 0x0060 3 4 wRO,
    r1 0x0070 [frw 0 16], r1 0x0074 wRW, rN 0x0078 4 4 wRW, r1 0x0088 [fwo 0 32],
    r1 0x008C [fro 0 1, fro 1 1, fro 2 1, fro 3 1, fro 4 1, fro 8 4, fro 12 4],
    r1 0x0090 [fro 0 2], r1 0x0094 [fwo 0 1], r1 0x0098 [fwo 0 2],
    rN 0x00A0 8 4 wRO, r1 0x00C0 wRO, r1 0x00C4 wRO,
    r1 0x0100 [frw 0 3, frw 3 1],
    r1 0x0104 [fro 0 3, fro 3 1, fro 4 1, fro 8 3, fro 16 16],
    r1 0x0108 [frw 0 1 1, frw 1 4, frw 5 4, frw 9 1, frw 10 1 1, frw 11 1 1],
    r1 0x010C [fw1c 0 13], r1 0x0110 [fro 0 8, fw1c 8 8, fw1c 16 1, fro 17 1, fro 18 1],
    rN 0x0140 4 0x20 [frw 0 3 1, frw 3 1, frw 4 1, frw 5 4, frw 9 1],
    rN 0x0144 4 0x20 [frw 0 29], rN 0x0148 4 0x20 [frw 0 29], rN 0x014C 4 0x20 wRW,
    rN 0x0150 4 0x20 wRW, rN 0x0154 4 0x20 [fro 0 6, fw1c 8 1, fw1c 9 1],
    r1 0x0200 [frw 0 1, frw 1 1, frw 2 1 1, frc 8 8 0x0A 1 255, frc 16 8 0x32 1 255,
      frc 24 8 0x0A 1 255],
    r1 0x0204 [fro 0 6, fw1c 6 2, fro 8 1, fro 9 2, fw1c 11 1, fw1c 12 1, fro 13 1],
    r1 0x0208 wRO, r1 0x020C wRO, r1 0x0210 (wRO 0xFFFFFFFF), r1 0x0220 [frw 0 1, frw 1 1 1] ]

/-- Does register array `r` hold address `a`? -/
def Reg.holds (r : Reg) (a : Nat) : Bool :=
  decide (r.base ≤ a) && decide (a < r.base + r.cnt * r.stride) &&
    decide ((a - r.base) % r.stride = 0)

/-- The registers of the block that holds lane address `a` (R117).
(Log: DESIGN CHOICE, entry 4; DEDUCED, entry 55.) -/
def blockRegs (a : Nat) : List Reg :=
  match a / 0x10000 with
  | 0x4000 => regsSYS | 0x4002 => regsLT | 0x4003 => regsCTX | 0x4004 => regsMEM
  | 0x4005 => regsEVT | 0x4006 => regsSPX | 0x4007 => regsSEC | 0x4008 => regsFUS
  | 0x4009 => regsTRK | 0x400A => regsGNS | 0x400B => regsLKP | 0x400C => regsLPE
  | 0x400D => regsPG | 0x400E => regsPG | 0x400F => regsSWD | 0x4010 => regsENC
  | 0x4011 => regsCAN | 0x4012 => regsETH | 0x4013 => regsHST | 0x4014 => regsLNK
  | 0x4015 => regsVLT | 0x4016 => regsNVM
  | _ => []

/-- The fields of the lane register at `a`; none where no register stands. -/
def laneFlds (a : Nat) : List Fld :=
  match (blockRegs a).find? (fun r => r.holds a) with
  | some r => r.flds
  | none => []

/-- The fields of the rind register at management address `a`. -/
def rindFlds (a : Nat) : List Fld :=
  match regsRind.find? (fun r => r.holds a) with
  | some r => r.flds
  | none => []

/-- The reset value of a register with these fields.
(Log: DESIGN CHOICE, entry 5.) -/
def fldsReset (fs : List Fld) : Word :=
  fs.foldl (fun x f => setFieldNat x f.lo f.w f.rst) 0

/-- What a generic write of `v` makes of one field (R9, R10): `enrolled` closes RWL fields. -/
def Fld.write (f : Fld) (enrolled : Bool) (old v x : Word) : Word :=
  let nv := fieldNat v f.lo f.w
  match f.acc with
  | .rw => setFieldNat x f.lo f.w (match f.lim with
      | none => nv
      | some (a, b) => clampNat a b nv)
  | .w1c => setFieldNat x f.lo f.w (fieldNat old f.lo f.w &&& (nv ^^^ (2 ^ f.w - 1)))
  | .w1s => setFieldNat x f.lo f.w (fieldNat old f.lo f.w ||| nv)
  | .rwl => if enrolled then x else setFieldNat x f.lo f.w nv
  | .ro | .wo | .rc => x

/-- The word a register with fields `fs` holds after a generic write of `v` over `old`. -/
def fldsWrite (fs : List Fld) (enrolled : Bool) (old v : Word) : Word :=
  fs.foldl (fun x f => f.write enrolled old v x) old

/-- The W1C bits of a register that the hardware sets in the cycle of a write read 1 after it (R12). -/
def hardSet (fs : List Fld) (same x : Word) : Word :=
  fs.foldl (fun x f =>
    match f.acc with
    | .w1c => setFieldNat x f.lo f.w (fieldNat x f.lo f.w ||| fieldNat same f.lo f.w)
    | .rw | .ro | .wo | .w1s | .rc | .rwl => x) x

/-- What a read returns of one field: WO fields read 0 (R9). -/
def fldsRead (fs : List Fld) (old : Word) : Word :=
  fs.foldl (fun x f =>
    match f.acc with
    | .wo => x
    | .rw | .ro | .w1c | .w1s | .rc | .rwl => setFieldNat x f.lo f.w (fieldNat old f.lo f.w)) 0

/-- What a read leaves: RC fields are cleared (R9). -/
def fldsAfterRead (fs : List Fld) (old : Word) : Word :=
  fs.foldl (fun x f =>
    match f.acc with
    | .rc => setFieldNat x f.lo f.w 0
    | .rw | .ro | .wo | .w1c | .w1s | .rwl => x) old

/-- R129, R128, R127, R124 and the like stand in the context file and have steps of their own;
`inBlocks` says which addresses are register-block words at all (R116, R118).
(Log: DESIGN CHOICE, entry 4.) -/
def inBlocks (a : Nat) : Bool := decide (0x40000000 ≤ a) && decide (a < 0x40180000) && a % 4 == 0

end Sys2Proof.Machine
end

