-- ==== Sys2Proof/Machine/State.lean ====
section
/-!
DEFINITION. The state of the module: two lanes, the switch die, the rind, and the queue of waiting
commands.  Plain data throughout.  Every register of the spec stands in a register table keyed by
its address (`Lane.regs`, `Rind.regs`); what the spec gives the machine beside its registers (queues,
tables inside an engine, timers, links) stands in the structures below.
-/

namespace Sys2Proof.Machine

/-- A pair of values, one for each lane. -/
structure Two (α : Type) where
  a : α
  b : α
deriving DecidableEq, Repr

def Two.get {α : Type} (t : Two α) (l : LaneId) : α :=
  match l with
  | .a => t.a
  | .b => t.b

def Two.set {α : Type} (t : Two α) (l : LaneId) (v : α) : Two α :=
  match l with
  | .a => { t with a := v }
  | .b => { t with b := v }

/-- The other lane. -/
def other (l : LaneId) : LaneId :=
  match l with
  | .a => .b
  | .b => .a

/-- A lane as a number: 0 for A, 1 for B. -/
def laneNo (l : LaneId) : Nat :=
  match l with
  | .a => 0
  | .b => 1

/-- A lane from its number. -/
def laneOfNo (n : Nat) : LaneId := if n = 0 then .a else .b

/-- A context's state (R103). -/
inductive CtxSt where
  | free | ready | running | waiting | halted
deriving DecidableEq, Repr, Inhabited

/-- The wait a context is in (R111, R127): kind 0 for none, then 1 LT to 7 FAULT; the armed
timeout and its instant; the destination registers; the word of a waiting qput or the ticket of a
waiting mwait; and the X-format command that waits for its engine (R133). -/
structure Wait where
  kind : Nat
  arg  : Nat
  tmo  : Bool
  time : Nat
  rd   : Nat
  rd2  : Nat
  word : Word
  abandoned : Bool
  cmd  : Option Instr
deriving DecidableEq, Repr

/-- No wait. -/
def Wait.none : Wait := ⟨0, 0, false, 0, 0, 0, 0, false, Option.none⟩

/-- A context (R99, R127), with its latch-store set (R101) keyed by register address. -/
structure Ctx where
  x : Tab Word
  f : Tab Word
  v : Tab VWord
  pc : Word
  flg : Word
  ltLatch : Tab Word
  outLatch : Tab Word
  st : CtxSt
  prio : Nat
  aff : Nat
  rlq : Bool
  dlmiss : Bool
  core : Nat
  wait : Wait
  deadline : Nat
  missed : Bool
  dlRel : Word
  cause : Nat
  faddr : Word
  rgnBase : Tab Word
  rgnLim : Tab Word
  yielded : Bool
deriving DecidableEq, Repr

/-- A context after a lane reset: FREE, every field 0 but AFF (R104, R127, R128).
(Log: DESIGN CHOICE, entry 5.) -/
def Ctx.reset : Ctx :=
  { x := [], f := [], v := [], pc := 0, flg := 0, ltLatch := [], outLatch := [], st := .free,
    prio := 0, aff := 0x3F, rlq := false, dlmiss := false, core := 0, wait := Wait.none,
    deadline := 0xFFFFFFFFFFFFFFFF, missed := false, dlRel := 0, cause := 0, faddr := 0,
    rgnBase := [], rgnLim := [], yielded := false }

/-- A hardware lock (R115). -/
structure LockSt where
  held : Bool
  holder : Nat
  abandoned : Bool
deriving DecidableEq, Repr

def LockSt.reset : LockSt := ⟨false, 0, false⟩

/-- A command of the small-matrix unit (R134, R168): which, its addresses, the issuing context,
its ticket, the rounding mode and the scale factor captured at issue, and the words of its operands
as they stood at issue (R134). -/
structure MatCmd where
  op : Nat
  c : Word
  a : Word
  b : Word
  ctx : Nat
  ticket : Word
  rm : Nat
  scale : Word
  snap : Tab Word
deriving DecidableEq, Repr

/-- The small-matrix unit: its queue, the last accepted ticket, the statuses it holds of the
last sixteen completed commands, newest first (R169). -/
structure Matrix where
  queue : List MatCmd
  last : Word
  done : List (Nat × Nat)
deriving DecidableEq, Repr

/-- What a lane is doing (R72, R48, R49): held in reset or unpowered, running its boot ROM,
running its resident loader, in factory test entry, or running its image. -/
inductive Phase where
  | off | boot | loader | factory | run
deriving DecidableEq, Repr, Inhabited

/-- A time pulse generator (R87, R88): the settings in force, a write waiting for the next leading
edge, whether a pulse stands at the generator, whether it is one that the pad takes, the phase error in
nanoseconds, LT of the last leading edge, and which multiple of the period that edge was. -/
structure TpGen where
  cur : Word
  pending : Option Word
  high : Bool
  driven : Bool
  phase : Rat
  start : Nat
  idx : Option Int
deriving DecidableEq, Repr

/-- Settings of R96 at reset: EN 0, PER 15, WIDTH 1,000. -/
def TpGen.reset : TpGen := ⟨0x3E83C, none, false, false, 0, 0, none⟩

/-- The time base of a lane beside its counter (R78 to R92): the mapping offset in ns, the terms of the holdover estimate, the slew that remains in
ns, the fraction of a tick that LT has run beyond its count, the last steered rate in ppb of the TCXO, LT before the
last tick, the readiness history of R81 and the pairs of the external-clock estimators, newest first. -/
structure TimeSt where
  map : Option Int
  lossAt : Nat
  u0 : Rat
  sigma : Rat
  slew : Rat
  sub : Rat
  rate : Rat
  last : Nat
  peerFar : Bool
  peerGood : Nat
  pairs : Tab (List (Nat × Nat))
  gen : Tab TpGen
deriving DecidableEq, Repr

def TimeSt.reset : TimeSt :=
  { map := none, lossAt := 0, u0 := 0, sigma := 0, slew := 0, sub := 0, rate := 0, last := 0, peerFar := false,
    peerGood := 0, pairs := [], gen := [] }

/-- A bank of SRAM beside its registers: a hand-over in progress to an owner, and the lock of the
fill (R548, R551). -/
structure BankSt where
  toOwner : Option Nat
deriving DecidableEq, Repr

/-- A heartbeat as the rind last received it (R564): HOLD, READY, when, and whether any has come
since the lane left reset. -/
structure Beat where
  hold : Bool
  ready : Bool
  at_ : Nat
  live : Bool
deriving DecidableEq, Repr

def Beat.reset : Beat := ⟨false, false, 0, false⟩

/-- A planned handover (R574): the lane that takes control, the instant T, and what it is for:
0 a return, 1 the first half of a proof swap, 2 the second half. -/
structure Plan where
  toLane : LaneId
  at_ : Nat
  kind : Nat
deriving DecidableEq, Repr

/-- What a command on a port of a pulse unit asks for (R406): a level, a PWM start of the section
engine, a grouped period and duty, a loop output duty, a register write of the PGC or PGB block, or
the port check of a proof swap (R578). -/
inductive PulseAct where
  | level (on : Bool)
  | pwmStart
  | pair (per dut : Nat)
  | duty (d : Nat)
  | reg (addr : Nat) (v : Word)
  | check
deriving DecidableEq, Repr

/-- A command on one port: the unit (0 to 207 channels, 208 to 231 bridges), the stamp in ticks,
the order in which the lane issued it, and the curd handle it belongs to, if any, and the stamp it named if it came after that (R25, R160, R172). -/
structure PulseCmd where
  unit : Nat
  at_ : Nat
  seq : Nat
  act : PulseAct
  curd : Option Nat
  late : Option Nat
deriving DecidableEq, Repr

/-- A frame on a lane's switch link that has not yet reached the die: a pulse command, the cancel of
a curd command, a heartbeat, a register write for the switches, a DIRECT request (R22, R172, R406,
R449, R451, R564). -/
inductive LinkMsg where
  | cmd (c : PulseCmd)
  | cancel (handle : Nat) (sentAt : Nat)
  | swReg (addr : Nat) (v : Word)
  | direct (j : Nat) (on : Bool)
deriving DecidableEq, Repr

/-- A pulse unit of the die (R405 to R422).  `run` is MODE of a channel or EN of a bridge; `h` the
reference of the running period; `line` the input line of a channel; `gh` and `gl` the gates of a
bridge; `wait` the gate whose dead time runs (1 GH, 2 GL) and `waitAt` when it ends; `shut` the end
of a shutdown; `lone` the shadow that last transferred alone (1 PER, 2 DUTY) and `loneAt` when. -/
structure PUnit where
  run : Bool
  level : Bool
  h : Bool
  line : Bool
  gh : Bool
  gl : Bool
  per : Nat
  dut : Nat
  dut2 : Nat
  start : Nat
  align : Bool
  upd : Bool
  dt : Nat
  noGl : Nat
  glSeen : Bool
  refresh : Bool
  wait : Nat
  waitAt : Nat
  force : Nat
  trip : Bool
  tripSrc : Nat
  clrRej : Bool
  partialF : Bool
  dclamp : Bool
  frozen : Bool
  held : Bool
  bsSupp : Bool
  shut : Option Nat
  resume : Bool
  lone : Nat
  loneAt : Nat
  mid : Bool
  ghOff : Nat
  glOff : Nat
  refAt : Nat
  enHeld : Bool
  warm : Bool
deriving DecidableEq, Repr

/-- A unit in its reset state (R49): LEVEL mode at level 0 or EN 0; periods and duties of R424.
(Log: DESIGN CHOICE, entry 5.) -/
def PUnit.reset (bridge : Bool) : PUnit :=
  { run := false, level := false, h := false, line := false, gh := false, gl := false,
    per := if bridge then 0x9C4 else 0x2710, dut := 0, dut2 := 0, start := 0, align := false, upd := false,
    dt := 0x32, noGl := 0, glSeen := false, refresh := false, wait := 0, waitAt := 0, force := 0,
    trip := false, tripSrc := 0, clrRej := false, partialF := false,
    dclamp := false, frozen := false, held := false, bsSupp := false, shut := none,
    resume := false, lone := 0, loneAt := 0, mid := false, ghOff := 0, glOff := 0, refAt := 0, enHeld := false,
    warm := false }

/-- The shadows of one port of a unit (R407, R412): PER and DUTY, which of them are pending, whether as a group,
the values staged while GC is 1, and when PER and DUTY were last written separately.
(Log: DEDUCED, entry 71.) -/
structure Shadow where
  per : Nat
  dut : Nat
  pPer : Bool
  pDut : Bool
  group : Bool
  stPer : Option Nat
  stDut : Option Nat
  wPer : Option Nat
  wDut : Option Nat
deriving DecidableEq, Repr

/-- Shadows in the unit's reset state: the resets of R424, nothing pending, nothing staged (R49).
(Log: DESIGN CHOICE, entry 5.) -/
def Shadow.reset (bridge : Bool) : Shadow :=
  { per := if bridge then 0x9C4 else 0x2710, dut := 0, pPer := false, pDut := false, group := false,
    stPer := none, stDut := none, wPer := none, wDut := none }

/-- A load switch of a bank die (R428 to R447).  `inp` is the input line as the switch last took it;
`ph` the phase of the pad: 0 off, 1 inrush, 2 on, 3 soft-off; `re` the energies of the retries of the
last hour, newest first; the settings latched at the last turn-on under R434; whether that turn-on was another's than
its input line's (a retry, a restore, a deferred turn-on); since when the channel is held off and the intervals over
which it was, up to its switching back on (R251). -/
structure Sw where
  inp : Bool
  ph : Nat
  winEnd : Nat
  onSince : Nat
  softEnd : Nat
  fastSince : Option Nat
  heat : Rat
  cuts : List Nat
  k : Nat
  backoff : Option Nat
  retrying : Bool
  re : List (Nat × Rat)
  lockCnt : Bool
  lockE : Bool
  tlatch : Bool
  tjmax : Bool
  thcRej : Bool
  cutFlags : Nat
  defer : Bool
  cur : Rat
  tj : Int
  wire : Nat
  fast : Nat
  inrI : Nat
  code : Nat
  codeAt : Option Nat
  code0 : Nat
  at0 : Option Nat
  auto : Bool
  offAt : Option Nat
  offs : List (Nat × Nat)
  latchAt : Option Nat
deriving DecidableEq, Repr

/-- A switch when the rind starts from an empty hold store (R445).
(Log: DESIGN CHOICE, entries 5, 81.) -/
def Sw.reset : Sw :=
  { inp := false, ph := 0, winEnd := 0, onSince := 0, softEnd := 0, fastSince := none, heat := 0,
    cuts := [], k := 0, backoff := none, retrying := false, re := [], lockCnt := false,
    lockE := false, tlatch := false, tjmax := false, thcRej := false, cutFlags := 0,
    defer := false, cur := 0, tj := 0, wire := 0, fast := 0, inrI := 0, code := 0,
    codeAt := none, code0 := 0, at0 := none, auto := false, offAt := none, offs := [], latchAt := none }

/-- A bank supervisor (R55 to R58, R441 to R443): forced off, restoring, the channels that wait for
their restore step, the time of the next step, the budget test and the case sensor. -/
structure BankSup where
  off : Bool
  restoring : Bool
  waiting : List Nat
  restored : List Nat
  nextStep : Nat
  above : Bool
  overSince : Option Nat
  recSince : Option Nat
  nextDefer : Nat
  caseT : Int
  caseFail : Bool
  sum : Rat
deriving DecidableEq, Repr

def BankSup.reset : BankSup :=
  { off := false, restoring := false, waiting := [], restored := [], nextStep := 0, above := false,
    overSince := none, recSince := none, nextDefer := 0, caseT := 0, caseFail := false, sum := 0 }

/-- A signature window (R238, R240): opened by a turn-on, when, the next edge that cuts it short, whether the learner
ignores it, and whether the edge is a phase boundary of a running PWM. -/
structure SigWin where
  on : Bool
  te : Nat
  cut : Option Nat
  skip : Bool
  phase : Bool
deriving DecidableEq, Repr

/-- The switch die (R405, R428): the replica of lane time with the fraction of a tick beyond it (R76), the
commands each port holds that are not yet due, each unit's latest due command on each port (R20,
R569), each port's image of the unit and switch registers and its shadows of each unit (R407, R412), the units, the switches, the bank
supervisors, the filtered trip, ISn and DIRIN inputs, which lane's debug halt freezes units and which (R421),
the turn-offs of RESET_N, R59
and R572, and the signature windows (R238). -/
structure Die where
  replica : Nat
  sub : Rat
  cmds : Two (List PulseCmd)
  due : Two (Tab PulseCmd)
  img : Two (Tab Word)
  sh : Two (Tab Shadow)
  units : Tab PUnit
  sw : Tab Sw
  banks : Tab BankSup
  tripIn : Tab Bool
  isHigh : Tab Bool
  dirIn : Tab Bool
  freezing : Two Bool
  froze : Two (List Nat)
  forcedOff : Bool
  safeOff : Bool
  checked : List Nat
  sig : Tab (List SigWin)
deriving DecidableEq, Repr

/-- The die when the rind starts from an empty hold store.
(Log: DESIGN CHOICE, entry 5.) -/
def Die.reset : Die :=
  { replica := 0, sub := 0, cmds := ⟨[], []⟩, due := ⟨[], []⟩,
    img := ⟨[], []⟩, sh := ⟨[], []⟩, units := [], sw := [], banks := [], tripIn := [], isHigh := [], dirIn := [],
    freezing := ⟨false, false⟩, froze := ⟨[], []⟩, forcedOff := false, safeOff := false, checked := [], sig := [] }

/-- The management port and key of the rind (R529 to R535): the latched bus address, the number of the
nonce that the port shows, the key, the end of a refusal, when the energy counters started, the draws made
of them, and the words returned by the last read transfer. -/
structure Mgmt where
  busAddr : Nat
  nonce : Nat
  key : Option (List Byte)
  lockUntil : Option Nat
  eFrom : Nat
  eDraw : Nat
  readBack : List Word
deriving DecidableEq, Repr

/-- What a lane owes to LT.UNC when it resumes counting (R77): hand-overs between TCXO and crystal, ticks on the
crystal, and whether the RC oscillator ran. -/
structure Coast where
  hand : Nat
  ticks : Nat
  rc : Bool
deriving DecidableEq, Repr

/-- The rind (R17, R45, R66 to R72, R561 to R579): its registers by management address, the
steering of each unit (0 A, 1 B, 2 DIRECT), the record of control, the heartbeats, the arbiters, the
planned handover, the proof swap, the power transition, the supply and reset inputs, the coast on the crystal with its
measured rate in 0.01 ppm and what each lane owes for it (R76, R77), whether
the present run of disagreement was counted (R566), the units whose port check a proof swap awaits (R578), the management port, the monotonic counters (R593), the lane whose transceiver may drive each CAN bus (R479) and the DIRECT requests forwarded to the
arbiters (1 to enter, 2 to leave). -/
structure Rind where
  regs : Tab Word
  steer : Tab Nat
  act : LaneId
  none_ : Bool
  noneAt : Nat
  everHeld : Bool
  beat : Two Beat
  readyAt : Two (Option Nat)
  gaveAt : Nat
  diffAt : Option Nat
  diffSaid : Bool
  plan : Option Plan
  proving : Option LaneId
  toCheck : List Nat
  trans : Option Nat
  wakeOwed : Two Bool
  resetLow : Bool
  vlogOk : Bool
  holdEmpty : Bool
  vlogRec : Two Bool
  xtalCoast : Option Nat
  coastRC : Bool
  xtRate : Int
  coast : Two Coast
  mgmt : Mgmt
  mcnt : Tab Word
  txen : Tab (Option LaneId)
  dirReq : Tab Nat
deriving DecidableEq, Repr

def Mgmt.reset : Mgmt :=
  { busAddr := 0x5B, nonce := 0, key := none, lockUntil := none, eFrom := 0, eDraw := 0,
    readBack := [] }

/-- The rind after a start from an empty hold store (R11, R72).
(Log: DESIGN CHOICE, entry 5.) -/
def Rind.reset : Rind :=
  { regs := [], steer := [], act := .a, none_ := true, noneAt := 0, everHeld := false,
    beat := ⟨Beat.reset, Beat.reset⟩, readyAt := ⟨none, none⟩, gaveAt := 0,
    diffAt := none, diffSaid := false, plan := none, proving := none, toCheck := [], trans := none, wakeOwed := ⟨false, false⟩,
    resetLow := false, vlogOk := false, holdEmpty := true, vlogRec := ⟨false, false⟩,
    xtalCoast := none, coastRC := false, xtRate := 0, coast := ⟨⟨0, 0, false⟩, ⟨0, 0, false⟩⟩, mgmt := Mgmt.reset,
    mcnt := [], txen := [], dirReq := [] }
/-- An entry of the host's event queue (R524): the event, whether it follows a loss, D0, D1, D2 and
the stamp. -/
structure EvEntry where
  ev : Nat
  loss : Bool
  d0 : Nat
  d1 : Nat
  d2 : Word
  stamp : Nat
deriving DecidableEq, Repr

/-- The event queue, whether entries were lost since the last one, whether an attention pulse is owed or
running at HRDY, EVLOST of the status word (R520, R521, R525), and whether an unmasked event has occurred since
the last request of a power state (R69). -/
structure EvQueue where
  q : List EvEntry
  lost : Bool
  owed : Bool
  pulse : Bool
  evlost : Bool
  woken : Bool
deriving DecidableEq, Repr
def EvQueue.reset : EvQueue := ⟨[], false, false, false, false, false⟩

/-- A curd-queue entry (R163, R170, R171): `st` 0 FREE, 1 PENDING, 2 FIRED; the edge's channel, level,
issue time in ticks and deadline offset in us; `src` 0 section engine, 1 program; the instant of a drain
that lets the edge fire (R165); `res` how the last edge resolved, 2 set or 3 drained (R164); whether it
starts or stops the PWM of a nozzle (R247); the record fields taken at its issue time; the nozzle's delay
of its direction in us. -/
structure CurdE where
  used : Bool
  gen : Nat
  st : Nat
  ch : Nat
  level : Bool
  at_ : Nat
  dl : Nat
  src : Nat
  drainAt : Option Nat
  res : Nat
  pwm : Bool
  cond : Nat
  steered : Bool
  dly : Nat
deriving DecidableEq, Repr

def CurdE.reset : CurdE :=
  { used := false, gen := 0, st := 0, ch := 0, level := false, at_ := 0, dl := 0, src := 0,
    drainAt := none, res := 0, pwm := false, cond := 0, steered := false, dly := 0 }

/-- An edge of the lane on a channel as the SPX remembers it for R177 and R178: `st` 0 pending curd,
1 fired curd, 2 set, 3 drained after firing, 4 a compensating command whose slot has not come, 5 a revert
without a command likewise, 6 and 8 the same two once their slot has come, 7 drained before firing. -/
structure EdgeH where
  ch : Nat
  at_ : Nat
  seq : Nat
  level : Bool
  st : Nat
  key : Nat
  dly : Nat
deriving DecidableEq, Repr

/-- A curd edge whose cancel is on its way (R172, R173): its handle and entry, and whether the die has
reported it executed. -/
structure Cancel where
  handle : Nat
  ent : CurdE
  done : Bool
deriving DecidableEq, Repr

/-- The speculation engine (R170 to R192): the curd queue by entry, the lane's edges, the cancels under
way, the records in the staging ring, the records lost since the ring filled, the set edges not yet
mirrored, the mirror of the partner's set edges (R180), the count of edges, when each record in the ring was
written, and whether the GAP record of a boot is owed (R187, R598). -/
structure Spx where
  ents : Tab CurdE
  hist : List EdgeH
  cancels : List Cancel
  held : Nat
  lost : Nat
  ovf : Bool
  unsent : List EdgeH
  mirror : List EdgeH
  seq : Nat
  wrote : List Nat
  gap : Bool
deriving DecidableEq, Repr

def Spx.reset : Spx := ⟨[], [], [], 0, 0, false, [], [], 0, [], false⟩

/-- A boom-motion input as the engine holds it (R201 to R204): the last accepted stamp and when it was
accepted, the consecutive consistent samples, whether the input is unaligned, the samples that wait for a cycle
(stamp, when submitted, V0, V1, V2), and the last sample that entered one (stamp, V0, V1, V2). -/
structure BinSt where
  stamp : Option Nat
  at_ : Nat
  cons : Nat
  unal : Bool
  wait : List (Nat × Nat × Word × Word × Word)
  smp : Option (Nat × Word × Word × Word)
deriving DecidableEq, Repr

def BinSt.reset : BinSt := ⟨none, 0, 0, true, [], none⟩

/-- What the engine holds for a nozzle between cycles: delays in us, footprint in m, ground speed in m/s,
the conditions of R30 at the last cycle, demanded flow in L/min, the raw rate, the on-time last sent, the
level after the last issued edge, the ground points of the last 512 ms (tick, east, north and ground
velocity), since when its channel is held off, over which intervals its spray was missing on the ground and the end of
the latest hold-off taken in (R251), which confidences are below the threshold (R243), the learned-state entry as taken
at the model load (R241), the PWM frequency of its last turn-on, the intervals already painted, the edges the engine
issued in the last 512 ms, when its duty was last sent, the latest edge of a metered row that has had its measurement
(R259), and the row's last setpoint other than 0, in counts per second (R258). -/
structure NozSt where
  dOn : Nat
  dOff : Nat
  w : Rat
  v : Rat
  cond : Nat
  q : Rat
  onSent : Nat
  level : Bool
  pts : List (Nat × Rat × Rat × Rat × Rat)
  heldAt : Option Nat
  held : List (Nat × Nat)
  heldSeen : Nat
  lowOn : Bool
  lowOff : Bool
  lrn : List Word
  hz : Nat
  painted : List (Nat × Nat)
  mine : List (Nat × Bool)
  sentAt : Nat
  measAt : Nat
  sp : Rat
deriving DecidableEq, Repr

def NozSt.reset : NozSt :=
  { dOn := 0, dOff := 0, w := 0, v := 0, cond := 0, q := 0, onSent := 0, level := false, pts := [],
    heldAt := none, held := [], heldSeen := 0, lowOn := false, lowOff := false, lrn := [], hz := 10, painted := [],
    mine := [], sentAt := 0, measAt := 0, sp := 0 }

/-- An edge of the section engine (R246): nozzle, handle, crossing time in ticks, level, the delay used in
us, and whether it is set. -/
structure SecEdge where
  noz : Nat
  handle : Nat
  tc : Nat
  level : Bool
  dly : Nat
  done : Bool
deriving DecidableEq, Repr

/-- A prescription layer (R224): the map in force, the map under verification, and a change for the next
cycle: 1 deactivate, 2 the verified map. -/
structure Layer where
  map : Option Nat
  check : Option Nat
  next : Nat
deriving DecidableEq, Repr

def Layer.reset : Layer := ⟨none, none, 0⟩

/-- A tile asked of the host (R215, R216): its indices, the field, the import slot, when it was asked, and whether the
request has timed out. -/
structure TileReq where
  tx : Int
  ty : Int
  field : Word
  slot : Nat
  at_ : Nat
  late : Bool
deriving DecidableEq, Repr

/-- A calibration parameter (R310 to R319): applied value, estimate and loaded value as deviations from
the nominal value, sigma (none: 1,000 CONV of its group), and the converged state it was loaded with. -/
structure CalPar where
  a : Rat
  e : Rat
  l : Rat
  sig : Option Rat
  conv : Bool
deriving DecidableEq, Repr

def CalPar.reset : CalPar := ⟨0, 0, 0, none, false⟩

/-- The section engine (R193 to R262) beside its registers: the working model as descriptor words, the
segments' estimates (yaw swing, roll, height and their rates), boom inputs, nozzles, outstanding edges,
the tiles still to be asked for and those asked, the exports so far, the layers, the pressure samples that
wait for a cycle and the last one, the meter table in force, the times since which flows and meters have
been out of tolerance, the pending change of the selected exclusion set, the conditions of the last cycle, and the
learned-state table of the last model load (R241). -/
structure Sec where
  counts : Word
  noz : Tab (List Word)
  sect : Tab (List Word)
  seg : Tab (List Word)
  bin : Tab (List Word)
  segSt : Tab (List Rat)
  bins : Tab BinSt
  nz : Tab NozSt
  edges : List SecEdge
  t0 : Nat
  want : List (Int × Int)
  asked : List TileReq
  merged : Nat
  expSeq : Nat
  layers : Tab Layer
  prsWait : List (Nat × Nat × Word)
  prs : Option (Nat × Word)
  prsAt : Nat
  prsStale : Bool
  excWas : Bool
  mtr : Tab (List Word)
  mtrOff : List Nat
  flowBad : Tab (Option Nat)
  flowSaid : List Nat
  mtrBad : Tab (Option Nat)
  mtrSaid : List Nat
  rejSaid : Bool
  setpt : Tab (Nat × Word)
  condWas : Nat
  lrnBase : Nat
deriving DecidableEq, Repr

def Sec.reset : Sec :=
  { counts := 0, noz := [], sect := [], seg := [], bin := [], segSt := [], bins := [], nz := [],
    edges := [], t0 := 0, want := [], asked := [], merged := 0, expSeq := 0,
    layers := [], prsWait := [], prs := none, prsAt := 0, prsStale := false,
    excWas := false, mtr := [], mtrOff := [], flowBad := [], flowSaid := [], mtrBad := [],
    mtrSaid := [], rejSaid := false, setpt := [], condWas := 0, lrnBase := 0 }



/-- A feedback channel beside its registers (R457 to R466): the valid intervals in its window, newest last,
the stamp and the sign of the last counted event, the mismatch of the preceding index, the instant of the last E24, since
when it counts without an event, and COUNT, RATE and RATE_T as they stood before the events stamped with the tick `mark`. -/
structure EncSt where
  win : List Nat
  last : Option Nat
  sign : Option Bool
  zPrev : Option Int
  illAt : Option Nat
  since : Nat
  mark : Option Nat
  old : Word × Word × Nat
deriving DecidableEq, Repr

def EncSt.reset : EncSt := ⟨[], none, none, none, none, 0, none, 0, 0, 0⟩

/-- An absolute-sensor port (R469): the lane whose clock the frame in progress follows, and whether E28
stands. -/
structure AbsSt where
  frame : Option LaneId
  down : Bool
deriving DecidableEq, Repr

def AbsSt.reset : AbsSt := ⟨none, false⟩


/-- A stored input of a class (R274, R275): stamp; kind 0 inertial, 1 GNSS, 2 WHEEL, 3 EXTPOS, 4 ROWLINE, 5 EDGELINE,
6 the prior of the perception class, 7 attitude initialised, 9 the applied calibration moved, 10 a calibration set loaded;
the slot, or the stream of an inertial step (0 own, 1 partner, 2 their mean), or the antenna of a measurement; its words;
whether it came from an UNALIGNED slot; the LT of its acceptance; whether it has entered the class; and the parameters the
class held when it entered (GATE, origin, applied calibration values, which of them are refined), or the moves of kind 9. -/
structure FusIn where
  stamp : Nat
  kind : Nat
  slot : Nat
  data : List Word
  wide : Bool
  arr : Nat
  used : Bool
  par : List Rat
deriving DecidableEq, Repr

/-- A state of the nozzle-class filter (R276, R278): its numbers, the tests of the gate in the last second (antenna, stamp,
rejected), the antennas that are inconsistent, and how the measurements went that this pass tested (rejected, applied). -/
structure FusRun where
  st : List Rat
  gate : List (Nat × Nat × Bool)
  inc : List Nat
  out : List (Bool × Bool)
deriving DecidableEq, Repr

def FusRun.reset : FusRun := ⟨[], [], [], []⟩

/-- A source slot beside its registers (R267, R270): stamp and LT of the last accepted sample, its speed
(WHEEL), the stamp last taken by the nozzle class, stamp and output of the last entry into the
perception class and whether that was a line, and its words. -/
structure FusSlot where
  last : Option Nat
  at_ : Nat
  speed : Rat
  ncAt : Option Nat
  pcAt : Option Nat
  pcSeq : Nat
  pcLine : Bool
  data : List Word
deriving DecidableEq, Repr

def FusSlot.reset : FusSlot := ⟨none, 0, 0, none, none, 0, false, []⟩

/-- An OBJECT sample on its way to the track engine (R281, R294): stamp, slot, D0 to D4, from an UNALIGNED
slot, late. -/
structure ObjIn where
  stamp : Nat
  slot : Nat
  data : List Word
  wide : Bool
  late : Bool
deriving DecidableEq, Repr

/-- Fusion (R263 to R286, R310 to R319) beside its registers: the last cycle, the origin asked for and the
one in use, the slots, the stored inputs of each class in processing order and its state before them, the nozzle class's
state at its last output, the inertial streams (last stamp and words; 0 own, 1 partner) and their samples of the last
second, the count of differing samples, the excluded lane and since when it agrees, when the latest measurements were
accepted, and those with fixed ambiguities, the attitude (0 none, 1 level, 2 with heading), since when the vehicle stands,
the samples dropped, the end of the last perception window and of the last one with an output, whether that took a line,
what of the latest nozzle-class outputs the perception class may take as its prior, the positions of the own and the
partner's latest output, the objects that wait for their window and those forwarded with the last one, the ego-motions of
past windows, and a calibration load or snapshot asked for. -/
structure Fus where
  t0 : Nat
  orgPend : Bool
  org : List Word
  slots : Tab FusSlot
  ins : List FusIn
  base : FusRun
  run : FusRun
  pins : List FusIn
  pcBase : List Rat
  imu : Tab (Nat × List Word)
  raws : List (Nat × Nat × List Word)
  diff : Nat
  excl : Option LaneId
  okSince : Option Nat
  gnssAt : Option Nat
  fixAt : Option Nat
  att : Nat
  still : Option Nat
  dropped : Nat
  pcEnd : Nat
  pcTov : Nat
  line0 : Bool
  ncs : List (Nat × List Word)
  mine : Option (Nat × Int × Int)
  peer : Option (Nat × Int × Int)
  objs : List ObjIn
  fwd : List ObjIn
  egos : List (Nat × Rat × Rat × Rat)
  calLoad : Bool
  calSnap : Bool
deriving DecidableEq, Repr

def Fus.reset : Fus :=
  { t0 := 0, orgPend := false, org := [], slots := [], ins := [],
    base := FusRun.reset, run := FusRun.reset, pins := [], pcBase := [], imu := [], raws := [],
    diff := 0, excl := none, okSince := none, gnssAt := none, fixAt := none, att := 0, still := none, dropped := 0,
    pcEnd := 0, pcTov := 0, line0 := false, ncs := [], mine := none, peer := none, objs := [], fwd := [], egos := [],
    calLoad := false, calSnap := false }

/-- A track (R295 to R303): ID, state 1 TENTATIVE or 2 CONFIRMED, the flags, the history with its newest in
bit 4, the opportunities charged, class, confidence, associations, source slot, stamps of the last
association and of birth, position, velocity and covariance, size. -/
structure Track where
  id : Word
  st : Nat
  coast : Bool
  wide : Bool
  hist : Nat
  opps : Nat
  cls : Nat
  conf : Nat
  n : Nat
  src : Nat
  tAssoc : Nat
  tBirth : Nat
  num : List Rat
  size : Word
  hit : Bool
deriving DecidableEq, Repr

/-- A candidate (R297): its detection, its position carried with the ego-motion, the end of the window of
its stamp, its history and the opportunities charged. -/
structure Cand where
  obj : ObjIn
  x : Rat
  y : Rat
  win : Nat
  hist : Nat
  opps : Nat
deriving DecidableEq, Repr

/-- The track engine (R293 to R305): the TOV of the last window it took, tracks by table index, candidates, a
clear asked for, whether the table is held clear and whether that has still to be released, the TOV of the last update, the
latest windows with whether each was an opportunity, and when a copy of the table was last released. -/
structure Trk where
  tov : Nat
  tracks : Tab (Option Track)
  cands : List Cand
  clr : Bool
  noPc : Bool
  freeDue : Bool
  from_ : Nat
  wins : List (Nat × Bool)
  relAt : Nat
deriving DecidableEq, Repr

def Trk.reset : Trk := ⟨0, [], [], false, false, false, 0, [], 0⟩

/-- A baseband (R322 to R349) beside its registers: its start (0 none, 1 hot, 2 warm, 3 cold), when, and
whether TTFF is reported; the frame under submission and whether a word of it was dropped; completed
frames in order (true: queue H); the selected station and its ARP frame; the station epoch in use, those
applied, and the run of ratio tests passed; the fixed pairs, the pairs whose residual has failed once and
those whose integers may be re-used; notches changed since the last epoch; the last epoch; and the
jamming indicators are its registers. -/
structure Gns where
  start : Nat
  startAt : Nat
  ttff : Bool
  part : List Byte
  dropped : Bool
  frames : List (Bool × List Byte)
  stn : Option Nat
  arp : List Word
  tcs : List Int
  applied : List (Nat × Int)
  fresh : Bool
  run : Nat
  fixed : List Nat
  bad : List Nat
  reuse : List Nat
  changed : List Nat
  epoch : Nat
  pred : List Nat
  hdgRun : Nat
  cable : List Word
deriving DecidableEq, Repr

def Gns.reset : Gns :=
  { start := 0, startAt := 0, ttff := false, part := [], dropped := false, frames := [], stn := none,
    arp := [], tcs := [], applied := [], fresh := false, run := 0, fixed := [], bad := [], reuse := [],
    changed := [], epoch := 0, pred := [], hdgRun := 0, cable := [0, 0] }

/-- An antenna's bias at its front end (R325): open, shorted, the current in mA. -/
structure AntSt where
  opn : Bool
  short : Bool
  ma : Nat
deriving DecidableEq, Repr

def AntSt.reset : AntSt := ⟨false, false, 0⟩

/-- A write accepted by the loop engine (R383, R389, R393): when, its not-before time, the loop, the
parameter (32 HOLD, 33 CLRF), the value. -/
structure LWrite where
  at_ : Nat
  nb : Nat
  loop : Nat
  p : Nat
  v : Word
deriving DecidableEq, Repr

/-- What a loop takes at a boundary (R383): when, the gain tables it names (breakpoint and gain words), the
input, whether it is bad, and the setpoint. -/
structure LoopSnap where
  at_ : Nat
  tp : List Word
  ti : List Word
  pv : Word
  bad : Bool
  sp : Word
deriving DecidableEq, Repr

/-- A loop beside its accepted parameters (R381 to R399): whether it runs and since when; its last boundary;
the parameters as they stood at it; the output applied, whether it is the first run's, and the output for
the next boundary; the sample under evaluation; error, residual and model output; the outputs applied,
newest first; the counter of large residuals, the flag and its action; HOLD at the last evaluation; PV_BAD;
SAT; the cascade setpoint; whether the model starts anew. -/
structure LoopSt where
  run : Bool
  enAt : Nat
  at_ : Nat
  p : Tab Word
  u : Word
  live : Bool
  pend : Option Word
  snap : Option LoopSnap
  e : Word
  res : Word
  ym : Word
  dly : List Word
  above : Nat
  flag : Bool
  act : Nat
  held : Bool
  bad : Bool
  sat : Bool
  spc : Option Word
  fresh : Bool
deriving DecidableEq, Repr

def LoopSt.reset : LoopSt :=
  { run := false, enAt := 0, at_ := 0, p := [], u := 0, live := false, pend := none, snap := none, e := 0,
    res := 0, ym := 0, dly := [], above := 0, flag := false, act := 0, held := false, bad := false,
    sat := false, spc := none, fresh := false }

/-- The loop engine: accepted parameters by loop and number, loops, writes that wait for a boundary, and the
table words that the current tick has overwritten (tick, address, word before). -/
structure Lpe where
  acc : Tab (Tab Word)
  st : Tab LoopSt
  wq : List LWrite
  old : List (Nat × Nat × Word)
deriving DecidableEq, Repr

def Lpe.reset : Lpe := ⟨[], [], [], []⟩

/-- A vote of line keeping (R359): its cycle, position in the field frame, sigma, and the tracks of the
derived references at it. -/
structure LkVote where
  t : Nat
  e : Rat
  n : Rat
  sig : Rat
  odo : Tab (List Rat)
deriving DecidableEq, Repr

def LkVote.none : LkVote := ⟨0, 0, 0, 0, []⟩

/-- An actuator in the allocation of R369: number, previous output, bounds, weight, effectiveness, output, and how it is held: 0
free, 1 at the lower, 2 at the upper bound. -/
structure Alloc where
  j : Nat
  p : Rat
  lo : Rat
  hi : Rat
  w : Rat
  b : List Rat
  u : Rat
  at_ : Nat
deriving DecidableEq, Repr

/-- A solve of R369 in progress: its cycle, the iterations left, the operation of its matrix command (21 mchol, 22 msolve), that
command's ticket once it is in the unit's queue (R370), the demand, the demand less the failed actuators' effect, the axis
weights, the actuators, and the failed actuators' outputs. -/
structure LkSolve where
  tk : Nat
  n : Nat
  op : Nat
  tic : Option Word
  tau : List Rat
  tau2 : List Rat
  wt : List Rat
  xs : List Alloc
  outs : List (Nat × Rat)
deriving DecidableEq, Repr

/-- Line keeping (R356 to R380) beside its registers: the last cycle; the mode asked for; the path in use,
the selection last tried, the segment, whether the path is new and whether its end has been reached; the
frame of an end hold; the actuator table; the actuators out of work and the words dropped in a row; the
integrator; the offsets of the presented vote; raw and presented vote in the field frame; the contributing
references of each axis; the tracks and anchors of derived references; past votes, newest first; since when
DR stands; the cause and heading of a stop; the last implement sample (stamp, when accepted, value in use)
and those that wait; the last E70 with data 3; the values the last cycle began with (cycle, outputs,
offsets, integrator); the solve in progress; and whether the vehicle has become slow since a stop was requested. -/
structure Lkp where
  t0 : Nat
  req : Option Nat
  path : Option Nat
  sel : Nat
  seg : Nat
  newPath : Bool
  ended : Bool
  hold : Option (Rat × Rat × Rat)
  acts : List (List Word)
  bad : List Nat
  drops : Tab Nat
  ie : Rat
  dA : Rat
  dC : Rat
  raw : Option (Rat × Rat)
  pres : Option (Rat × Rat)
  setA : List Nat
  setC : List Nat
  odo : Tab (List Rat)
  anch : Tab LkVote
  votes : List LkVote
  drAt : Option Nat
  cause : Nat
  stopHdg : Rat
  imp : Option (Nat × Nat)
  impV : Rat
  impWait : List (Nat × Nat × Word)
  residAt : Option Nat
  base : Nat × List Word × Rat × Rat × Rat
  solve : Option LkSolve
  slow : Bool
deriving DecidableEq, Repr

def Lkp.reset : Lkp :=
  { t0 := 0, req := none, path := none, sel := 0, seg := 0, newPath := false, ended := false, hold := none,
    acts := [], bad := [], drops := [], ie := 0, dA := 0, dC := 0, raw := none, pres := none, setA := [],
    setC := [], odo := [], anch := [], votes := [], drAt := none, cause := 0, stopHdg := 0, imp := none,
    impV := 0, impWait := [], residAt := none, base := (0, [], 0, 0, 0), solve := none, slow := false }

/-- A CAN controller beside its registers (R478 to R500): the error counters; the steps towards a bus-off
recovery that the program starts (1 MODE 0 written, 2 MODE 1 after it); whether the loss of its message memory
holds it in INIT; the ring position up to which entries are withdrawn; rate detection (0 none, 1 nominal, 2
data), the rate on trial, the good frames or tries at it, when the phase and the dwell began, whether a BRS
frame has come; and the conditions of R495. -/
structure CanSt where
  tec : Nat
  rec_ : Nat
  rearm : Nat
  stopped : Bool
  flushTo : Option Nat
  det : Nat
  rate : Nat
  tries : Nat
  detAt : Nat
  dwellAt : Nat
  brs : Bool
  domTo : Bool
  busDom : Bool
deriving DecidableEq, Repr

def CanSt.reset : CanSt :=
  { tec := 0, rec_ := 0, rearm := 0, stopped := false, flushTo := none, det := 0, rate := 0, tries := 0,
    detAt := 0, dwellAt := 0, brs := false, domTo := false, busDom := false }

/-- An Ethernet port beside its registers (R502, R507, R509): RATE and ROLE as EN last rose, and whether the
transmit scan runs. -/
structure EthSt where
  phy : Nat
  scan : Bool
deriving DecidableEq, Repr

def EthSt.reset : EthSt := ⟨0, false⟩


/-- An open host session (R595, R596): accepted requests, consecutive tag failures, LT of the last accepted
request, and the keys and IVs of its two directions. -/
structure Sess where
  n : Nat
  fails : Nat
  at_ : Nat
  kHD : List Byte
  kDH : List Byte
  ivHD : List Byte
  ivDH : List Byte
deriving DecidableEq, Repr

/-- The response a lane keeps (R517): its request's opcode, its bytes, and what a complete FETCH of it does:
0 nothing, 1 takes `n` events, 2 an outbox slot, 3 an export slot, 4 a ledger block. -/
structure Resp where
  op : Nat
  bytes : List Byte
  act : Nat
  n : Nat
deriving DecidableEq, Repr

/-- An image transfer (R613, R614): TOTAL, bytes received, and the session it belongs to; none until a
session has claimed a transfer begun before the restart. -/
structure Upd where
  total : Nat
  got : Nat
  owner : Option Nat
deriving DecidableEq, Repr

/-- A lane's view of the steering-ownership register (R539). -/
structure View where
  act : LaneId
  none_ : Bool
  seq : Nat
  steer : Tab Nat
deriving DecidableEq, Repr

/-- The host port of a lane (R511 to R525): whether it is busy with a command frame, the response it keeps,
the open sessions by number, what the last STATUS or FETCH frame clocked out, the image transfer, the restart
of an accepted BEGIN and when it falls due (R613), and the view of ownership. -/
structure HostSt where
  busy : Bool
  resp : Option Resp
  sess : Tab (Option Sess)
  out : List Byte
  upd : Option Upd
  restart : Bool
  restartAt : Option Nat
  view : View
deriving DecidableEq, Repr

def HostSt.reset : HostSt := ⟨false, none, [], [], none, false, none, ⟨.a, true, 0, []⟩⟩

/-- A flash write in progress (R608): a configuration copy or program data, its offset and its bytes. -/
structure NvmWr where
  cfg : Bool
  ofs : Nat
  bytes : List Byte
deriving DecidableEq, Repr

/-- The security block (R588 to R610): the burnt owner root hash (empty before enrolment) and the one being
burnt; challenges issued, the one that stands, consecutive failures and the end of a refusal; the ledger's next
INDEX, its PREV and the first block not delivered; whether the next boot goes to the loader and the TOTAL of the
update it is for (R613); the ephemeral keys used; the digest of the running image; and the flash write in progress. -/
structure Vault where
  hash : List Byte
  burn : Option (List Byte)
  chals : Nat
  chal : Option (List Byte)
  fails : Nat
  lockTill : Option Nat
  idx : Nat
  prev : List Byte
  taken : Nat
  loader : Bool
  begun : Option Nat
  eph : Nat
  digest : List Byte
  wr : Option NvmWr
deriving DecidableEq, Repr

def Vault.reset : Vault :=
  { hash := [], burn := none, chals := 0, chal := none, fails := 0, lockTill := none, idx := 0,
    prev := List.replicate 48 0, taken := 0, loader := false, begun := none, eph := 0, digest := [], wr := none }

/-- What the security block keeps through a lane reset. -/
def Vault.keep (v : Vault) : Vault := { v with burn := none, chal := none, digest := [], wr := none }

/-- A lane (R17, R99 to R135): its registers, its counter of lane time, its cores and contexts, its
engines with the core cycles that each command in the queues of SPX and LPE still takes (R133, R157), its SRAM and its flash die, its host port, its security block, and the keys of the configuration in use
(0 the owner's root, 1 to 8 the planners', 16 to 19 the hosts', 32 the management key; R224, R606), and the stamps of the last changes of
the pads TRIP1 to TRIP8 (0 to 7) and DIRIN1 to DIRIN16 (8 to 23) that the switch link has passed on (R83). -/
structure Lane where
  regs : Tab Word
  phase : Phase
  lt : Nat
  free : Nat
  halted : Bool
  reason : Nat
  time : TimeSt
  ctxs : Tab Ctx
  saved : Tab Ctx
  brkCtx : Option Nat
  queues : Tab (List Word)
  locks : Tab LockSt
  mat : Matrix
  spxQ : List Nat
  lpeQ : List Nat
  wdogDue : Nat
  wdogPer : Nat
  ev : EvQueue
  link : List LinkMsg
  seq : Nat
  banks : Tab BankSt
  sram : List Host.Cell
  ecc : Tab Nat
  flash : List Host.Cell
  spx : Spx
  sec : Sec
  cal : Tab CalPar
  enc : Tab EncSt
  abs_ : Tab AbsSt
  fus : Fus
  trk : Trk
  gns : Gns
  lpe : Lpe
  lkp : Lkp
  can : Tab CanSt
  eth : Tab EthSt
  host : HostSt
  vault : Vault
  keys : Tab (List Byte)
  pads : Tab Nat
deriving DecidableEq, Repr

/-- A lane held in reset: every register at its reset value, every context FREE, no memory listed.
LT, the mapping and the non-volatile state are the caller's to keep (R49, R73).
(Log: DESIGN CHOICE, entry 5.) -/
def Lane.reset : Lane :=
  { regs := [], phase := .off, lt := 0, free := 0, halted := false, reason := 0, time := TimeSt.reset,
    ctxs := [], saved := [], brkCtx := none, queues := [], locks := [], mat := ⟨[], 0, []⟩, spxQ := [], lpeQ := [], wdogDue := 0, wdogPer := 0x1F4, ev := EvQueue.reset, link := [], seq := 0,
    banks := [], sram := [], ecc := [], flash := [], spx := Spx.reset, sec := Sec.reset, cal := [], enc := [],
    abs_ := [], fus := Fus.reset, trk := Trk.reset, gns := Gns.reset, lpe := Lpe.reset,
    lkp := Lkp.reset, can := [], eth := [],
    host := HostSt.reset, vault := Vault.reset, keys := [], pads := [] }

/-- The module: the two lanes, the switch die, the rind, whether the lane link is up (R24, R81), the level of each
ABSn_CLK pad (R45, R469),
the antennas' bias, and the commands that wait, first in, first out. -/
structure State where
  laneA : Lane
  laneB : Lane
  die : Die
  rind : Rind
  laneLink : Bool
  absClk : Tab Bool
  ant : Tab AntSt
  pending : List Instr
deriving DecidableEq, Repr

/-- The module with no supply ever applied: the rind empty, both lanes held in reset, every output
off, no command waiting (R45, R72).  A command VLOG_POWER_UP starts it.
(Log: DESIGN CHOICE, entries 3, 5.) -/
def State.reset : State :=
  { laneA := Lane.reset, laneB := { Lane.reset with free := 0x800000 }, die := Die.reset, rind := Rind.reset,
    laneLink := false, absClk := [], ant := [], pending := [] }

/-- One of the lanes. -/
def State.lane (s : State) (l : LaneId) : Lane :=
  match l with
  | .a => s.laneA
  | .b => s.laneB

/-- Replace one of the lanes. -/
def State.setLane (s : State) (l : LaneId) (L : Lane) : State :=
  match l with
  | .a => { s with laneA := L }
  | .b => { s with laneB := L }

/-- Change one of the lanes. -/
def State.modLane (s : State) (l : LaneId) (f : Lane → Lane) : State := s.setLane l (f (s.lane l))


/-- The reasons a step stops with a fault. -/
inductive Fault where
  /-- A register command names an address at which the lane's map holds no register block (R116);
  raised by REGISTER_WRITE and RC_READ.  Safe: the model stops, and the spec gives such an access no
  effect but the bus fault of a context, which the memory instructions take. -/
  | noAddress
deriving DecidableEq, Repr

/-- The reasons a command is refused. -/
inductive Refusal where
  /-- The command has no meaning yet; raised by an arm of the dispatch.  Safe: the model stops. -/
  | notModelled (mnemonic : String)
deriving DecidableEq, Repr

end Sys2Proof.Machine
end

