-- ==== Sys2Proof/Machine/Ops.lean ====
section
/-!
DEFINITION. The operations every command shares: register access under the access codes, events,
contexts and their ranks, locks, giving up control and a lane reset.
-/

namespace Sys2Proof.Machine

/-! ### Registers -/

/-- The value of the lane register at `a`: the stored word, or the reset value of R11. -/
def Lane.rd (L : Lane) (a : Nat) : Word :=
  Tab.get L.regs (fldsReset (laneFlds a)) a

/-- Store a word in the lane register at `a`; the reset value is not listed. -/
def Lane.wr (L : Lane) (a : Nat) (v : Word) : Lane :=
  { L with regs := Tab.set L.regs (fldsReset (laneFlds a)) a v }

/-- The field of width `w` at bit `lo` of the register at `a`. -/
def Lane.fld (L : Lane) (a lo w : Nat) : Nat := fieldNat (L.rd a) lo w

/-- Set a field, as the hardware does: no access code applies. -/
def Lane.setFld (L : Lane) (a lo w v : Nat) : Lane := L.wr a (setFieldNat (L.rd a) lo w v)

/-- Bit `i` of the register at `a`. -/
def Lane.flag (L : Lane) (a i : Nat) : Bool := bitOf (L.rd a) i

/-- Set bit `i` of the register at `a`, as the hardware does. -/
def Lane.setFlag (L : Lane) (a i : Nat) (b : Bool) : Lane := L.wr a (setBit (L.rd a) i b)

/-- Add one to a saturating whole-word count. -/
def Lane.bump (L : Lane) (a : Nat) : Lane := L.wr a (satAdd (L.rd a) 1)

/-- Add to a saturating count in a field. -/
def Lane.bumpFld (L : Lane) (a lo w : Nat) : Lane :=
  L.setFld a lo w (min (L.fld a lo w + 1) (2 ^ w - 1))

/-- A 64-bit register pair, low word first. -/
def Lane.rd64 (L : Lane) (a : Nat) : Nat := pairNat (L.rd a) (L.rd (a + 4))
/-- Store a 64-bit register pair. -/
def Lane.wr64 (L : Lane) (a n : Nat) : Lane := (L.wr a (loWord n)).wr (a + 4) (hiWord n)

/-- Whether the lane is enrolled (VLT.STAT.ENROLLED), which closes RWL fields (R9). -/
def Lane.enrolled (L : Lane) : Bool := L.flag 0x40150004 0

/-- The debug port is open: before enrolment, or after a response that verified (R590, R600).
(Log: DEDUCED, entry 108.) -/
def Lane.debugOpen (L : Lane) : Bool := !L.enrolled || L.flag 0x40150004 4

/-- A write under the access codes of R9 and R10, with no effect of a step of its own. -/
def Lane.plainWrite (L : Lane) (a : Nat) (v : Word) : Lane :=
  L.wr a (fldsWrite (laneFlds a) L.enrolled (L.rd a) v)

/-- What a read returns (R9). -/
def Lane.plainRead (L : Lane) (a : Nat) : Word := fldsRead (laneFlds a) (L.rd a)

/-- What a read leaves: RC fields cleared (R9). -/
def Lane.plainAfter (L : Lane) (a : Nat) : Lane := L.wr a (fldsAfterRead (laneFlds a) (L.rd a))

/-- The rind register at management address `a`. -/
def Rind.rd (r : Rind) (a : Nat) : Word :=
  Tab.get r.regs (fldsReset (rindFlds a)) a
def Rind.wr (r : Rind) (a : Nat) (v : Word) : Rind :=
  { r with regs := Tab.set r.regs (fldsReset (rindFlds a)) a v }
def Rind.fld (r : Rind) (a lo w : Nat) : Nat := fieldNat (r.rd a) lo w
def Rind.setFld (r : Rind) (a lo w v : Nat) : Rind := r.wr a (setFieldNat (r.rd a) lo w v)
def Rind.flag (r : Rind) (a i : Nat) : Bool := bitOf (r.rd a) i
def Rind.setFlag (r : Rind) (a i : Nat) (b : Bool) : Rind := r.wr a (setBit (r.rd a) i b)
def Rind.bumpFld (r : Rind) (a lo w : Nat) : Rind :=
  r.setFld a lo w (min (r.fld a lo w + 1) (2 ^ w - 1))

def State.modRind (s : State) (f : Rind → Rind) : State := { s with rind := f s.rind }
def State.modDie (s : State) (f : Die → Die) : State := { s with die := f s.die }

/-- Apply `f` to both lanes. -/
def State.bothLanes (s : State) (f : Lane → Lane) : State :=
  { s with laneA := f s.laneA, laneB := f s.laneB }

/-- A fresh free value of the lane's counter.
(Log: DESIGN CHOICE, entry 3.) -/
def Lane.freeWord (L : Lane) : Word := Config.freeWord L.free
/-- The counter moves on past every index drawn beside it (at most one for each byte of SRAM); lane B's
starts half a stride away, so no two draws share an index.
(Log: DESIGN CHOICE, entry 3.) -/
def Lane.useFree (L : Lane) : Lane := { L with free := L.free + 0x1000000 }

/-! ### Where a lane and the module stand -/

/-- The power state of R66, from RIND.PWR_STAT.STATE: 0 RUN to 5 CAVE. -/
def State.power (s : State) : Nat := s.rind.fld 0x104 0 3

/-- The lane is out of reset and powered. -/
def Lane.alive (L : Lane) : Bool := L.phase != Phase.off

/-- The lane runs its image (R72 step 6). -/
def Lane.running (L : Lane) : Bool := L.phase == Phase.run

/-- The TCXO runs (R63, R72): with VLOG present in RUN, IDLE and DOZE, and from the start of an exit to one of them.
(Log: DEDUCED, entry 17.) -/
def State.tcxo (s : State) : Bool :=
  s.rind.vlogOk && (decide (s.power ≤ 2) ||
    match s.rind.trans with
    | some t => decide (t ≤ 2)
    | none => false)

/-- The lane counts LT (R74, R76): alive while the TCXO runs. -/
def State.counts (s : State) (l : LaneId) : Bool := (s.lane l).alive && s.tcxo

/-- The lane in control, if any (R561). -/
def State.control (s : State) : Option LaneId := if s.rind.none_ then none else some s.rind.act

/-- The active lane: the lane in control (R561). -/
def State.isActive (s : State) (l : LaneId) : Bool := s.control == some l

/-- The steering of a unit: 0 port A, 1 port B, 2 DIRECT (R20). -/
def State.steer (s : State) (u : Nat) : Nat := Tab.get s.rind.steer 0 u

/-- The home lane (R561). -/
def State.home (s : State) : LaneId := laneOfNo (s.rind.fld 0x200 0 1)

/-- How many channel pulse units a lane's port owns. -/
def State.owned (s : State) (l : LaneId) : Nat :=
  (List.range 208).countP (fun u => s.steer u == laneNo l)

/-- The lane that the replica follows (R24): the one whose port owns the majority of channel pulse units, in a tie
the home lane; the die applies its settings where no unit decides (R417, R449).
(Log: DEDUCED, entry 25.) -/
def State.follows (s : State) : LaneId :=
  if s.owned .b < s.owned .a then .a
  else if s.owned .a < s.owned .b then .b
  else s.home

/-- The lane whose port governs a unit: the steered lane, or for a DIRECT channel the lane the
replica follows (R406, R449). -/
def State.governs (s : State) (u : Nat) : LaneId :=
  if s.steer u = 2 then s.follows else laneOfNo (s.steer u)

/-- A stamp that a lane takes (R65, R83): an instant that has come, in DOZE on the 5-tick steps of its count. -/
def State.stampOf (s : State) (l : LaneId) (t : Nat) : Nat :=
  let lt := (s.lane l).lt
  if lt ≤ t then lt
  else if s.power = 2 then lt - (lt - t + 4) / 5 * 5
  else t

/-- The low word of a stamp that a lane takes (R15, R83): never later than LT. -/
def State.stamp32 (s : State) (l : LaneId) (w : Word) : Word :=
  let now := loWord (s.lane l).lt
  if (now - w).msb then now else w

/-! ### Contexts -/

def Lane.ctx (L : Lane) (c : Nat) : Ctx := Tab.get L.ctxs Ctx.reset c
def Lane.setCtx (L : Lane) (c : Nat) (x : Ctx) : Lane :=
  { L with ctxs := Tab.set L.ctxs Ctx.reset c x }
def Lane.modCtx (L : Lane) (c : Nat) (f : Ctx → Ctx) : Lane := L.setCtx c (f (L.ctx c))

/-- x0 reads 0 (R99). -/
def Ctx.rx (x : Ctx) (r : Nat) : Word := if r = 0 then 0 else Tab.get x.x 0 r
/-- Writes to x0 are discarded (R99). -/
def Ctx.wx (x : Ctx) (r : Nat) (v : Word) : Ctx :=
  if r = 0 then x else { x with x := Tab.set x.x 0 r v }
def Ctx.rf (x : Ctx) (r : Nat) : Word := Tab.get x.f 0 r
def Ctx.wf (x : Ctx) (r : Nat) (v : Word) : Ctx := { x with f := Tab.set x.f 0 r v }
def Ctx.rv (x : Ctx) (r : Nat) : VWord := Tab.get x.v 0 r
def Ctx.wv (x : Ctx) (r : Nat) (v : VWord) : Ctx := { x with v := Tab.set x.v 0 r v }

/-- A register pair (R138): the low word in `r`, the high word in `r + 1`; the pair named 0 reads 0
and x1. -/
def Ctx.rPair (x : Ctx) (r : Nat) : Nat := pairNat (x.rx r) (x.rx (r + 1))
def Ctx.wPair (x : Ctx) (r : Nat) (lo hi : Word) : Ctx := (x.wx r lo).wx (r + 1) hi

/-- Own priority; context 0 reads 15 (R128). -/
def Lane.ownPrio (L : Lane) (c : Nat) : Nat := if c = 0 then 15 else (L.ctx c).prio
/-- Affinity: 0 acts as all six, and context 0 reads all six (R128). -/
def Lane.affinity (L : Lane) (c : Nat) : Nat :=
  if c = 0 ∨ (L.ctx c).aff = 0 then 0x3F else (L.ctx c).aff

def Lane.lock (L : Lane) (n : Nat) : LockSt := Tab.get L.locks LockSt.reset n

/-- The contexts waiting on a lock that `h` holds. -/
def Lane.waitersOf (L : Lane) (h : Nat) : List Nat :=
  allBelow 128 (fun c => (L.ctx c).st == .waiting && (L.ctx c).wait.kind == 5 &&
    (L.lock (L.ctx c).wait.arg).held && (L.lock (L.ctx c).wait.arg).holder == h)

/-- Effective priority and deadline under inheritance (R115), along chains of at most `n` locks. -/
def Lane.effective (L : Lane) (n c : Nat) : Nat × Nat :=
  match n with
  | 0 => (L.ownPrio c, (L.ctx c).deadline)
  | n + 1 =>
    (L.waitersOf c).foldl (fun acc d =>
      let e := L.effective n d
      (max acc.1 e.1, min acc.2 e.2)) (L.ownPrio c, (L.ctx c).deadline)

/-- The chain of inheritance passes through at most the 64 locks. -/
def Lane.eff (L : Lane) (c : Nat) : Nat × Nat := L.effective 64 c

/-- `c` ranks strictly above `d` (R107). -/
def Lane.ranksAbove (L : Lane) (c d : Nat) : Bool :=
  if c = d then false
  else if c = 0 then true
  else if d = 0 then false
  else
    let ec := L.eff c
    let ed := L.eff d
    if ec.1 ≠ ed.1 then decide (ed.1 < ec.1)
    else if ec.2 ≠ ed.2 then decide (ec.2 < ed.2)
    else if (L.ctx c).yielded ≠ (L.ctx d).yielded then (L.ctx d).yielded
    else decide (c < d)

/-- Insert a context into a list kept in rank order, highest first. -/
def Lane.rankInsert (L : Lane) (c : Nat) (xs : List Nat) : List Nat :=
  match xs with
  | [] => [c]
  | d :: ds => if L.ranksAbove c d then c :: d :: ds else d :: L.rankInsert c ds

/-- Contexts in rank order, highest first. -/
def Lane.byRank (L : Lane) (cs : List Nat) : List Nat := cs.foldr (fun c acc => L.rankInsert c acc) []

/-- The listed contexts in a state. -/
def Lane.inState (L : Lane) (st : CtxSt) : List Nat :=
  allBelow 128 (fun c => (L.ctx c).st == st)

/-- The contexts that wait with a kind and an argument. -/
def Lane.waiting (L : Lane) (kind arg : Nat) : List Nat :=
  allBelow 128 (fun c => (L.ctx c).st == .waiting && (L.ctx c).wait.kind == kind &&
    (L.ctx c).wait.arg == arg)

/-- CTX.CORE[k] after a context leaves its core. -/
def Lane.freeCore (L : Lane) (c : Nat) : Lane :=
  let M := (List.range 6).foldl (fun (M : Lane) k =>
    if M.rd (0x40030080 + 4 * k) = BitVec.ofNat 32 c then M.wr (0x40030080 + 4 * k) 0x80 else M) L
  { L with regs := M.regs }

/-- The context leaves RUNNING, or whatever state it is in, for `st`; its core goes idle (R105). -/
def Lane.moveTo (L : Lane) (c : Nat) (st : CtxSt) : Lane :=
  let L := if (L.ctx c).st == .running then L.freeCore c else L
  L.modCtx c (fun x => { x with st := st })

/-- DEADLINE on becoming READY from WAITING, START or RESUME (R109). -/
def Ctx.arm (x : Ctx) (lt : Nat) : Ctx :=
  { x with
    deadline := if x.dlRel = 0 then 0xFFFFFFFFFFFFFFFF else (lt + x.dlRel.toNat) % 2 ^ 64,
    missed := false }

/-- A waiting context becomes READY with a result code in its destination register (R111). -/
def Lane.finishWait (L : Lane) (c : Nat) (code : Word) : Lane :=
  L.modCtx c (fun x =>
    ({ (x.wx x.wait.rd code) with st := .ready, wait := Wait.none }).arm L.lt)

/-- The low or high half of a set of bits spread over words `base + 4w`. -/
def Lane.setBitOf (L : Lane) (base n : Nat) (b : Bool) : Lane :=
  L.setFlag (base + 4 * (n / 32)) (n % 32) b
def Lane.bitAt (L : Lane) (base n : Nat) : Bool := L.flag (base + 4 * (n / 32)) (n % 32)

/-- Raise number `n` of CTX.EPEND (R113): every context that waits on it becomes READY with result 0
and the bit clears; with no waiter it stays set.  During a debug halt the waits complete when the
cores resume (R125), so the bit stays. -/
def Lane.post (L : Lane) (n : Nat) : Lane :=
  let ws := if L.halted then [] else L.waiting 2 n
  match ws with
  | [] => L.setBitOf 0x40030040 n true
  | _ :: _ => ws.foldl (fun M c => M.finishWait c 0) L

/-- An entry in its place (R524): behind those of earlier ticks, and in the ascending event number of its own tick.
LOSS stands on the first entry after a loss.
(Log: DEDUCED, entry 92.) -/
def putEntry (q : List EvEntry) (e : EvEntry) : List EvEntry :=
  match q with
  | [] => [e]
  | x :: rest =>
    if x.stamp = e.stamp ∧ e.ev < x.ev then { e with loss := e.loss || x.loss } :: { x with loss := false } :: rest
    else x :: putEntry rest e

/-- Put an entry into the host's event queue (R524, R525), owing an attention pulse where HRDY is high (R520).
(Log: DEDUCED, entry 92.) -/
def Lane.enqueue (L : Lane) (n d0 d1 : Nat) (d2 : Word) : Lane :=
  if bitOf (L.rd (0x40050000 + 4 * (n / 32))) (n % 32) then
    let L := { L with ev := { L.ev with woken := true } }
    if L.ev.q.length ≥ 256 then
      ({ L with ev := { L.ev with lost := true, evlost := true } }).bump 0x40050014
    else
      { L with ev := { L.ev with
          q := putEntry L.ev.q ⟨n, L.ev.lost, d0 % 256, d1 % 65536, d2, L.lt⟩, lost := false,
          owed := L.ev.owed || !(L.host.busy || L.ev.pulse) && L.flag 0x40130000 0 &&
            (L.running || L.phase == Phase.loader) } }
  else L

/-- Raise event `n` with its data (R113, R524, R526) in a lane that is out of reset.
(Log: DEDUCED, entry 12.) -/
def Lane.raise (L : Lane) (n d0 d1 : Nat) (d2 : Word) : Lane :=
  if L.alive then (L.post n).enqueue n d0 d1 d2 else L

/-- Raise an event on both lanes.
(Log: DEDUCED, entry 12.) -/
def State.raiseBoth (s : State) (n d0 d1 : Nat) (d2 : Word) : State :=
  s.bothLanes (fun L => L.raise n d0 d1 d2)

/-- CTX.LOCK[l] reads from the lock (R131). -/
def LockSt.word (k : LockSt) : Word :=
  BitVec.ofNat 32 (k.holder + b2n k.held * 256 + b2n k.abandoned * 512)

def Lane.setLock (L : Lane) (n : Nat) (k : LockSt) : Lane :=
  ({ L with locks := Tab.set L.locks LockSt.reset n k }).wr (0x40030200 + 4 * n) k.word

/-- Hand lock `n` to the highest-ranked waiter, or leave it free; `ab` marks it ABANDONED by the
holder that went (R115, R156). -/
def Lane.passLock (L : Lane) (n : Nat) (ab : Bool) : Lane :=
  match L.byRank (L.waiting 5 n) with
  | [] => L.setLock n ⟨false, 0, ab || (L.lock n).abandoned⟩
  | w :: _ =>
    let M := L.setLock n ⟨true, w, false⟩
    M.finishWait w (if ab then 2 else 0)

/-- Release every lock a killed or exiting context holds (R106, R150). -/
def Lane.dropLocks (L : Lane) (c : Nat) : Lane :=
  (List.range 64).foldl (fun M n =>
    if (M.lock n).held && (M.lock n).holder == c then M.passLock n true else M) L

/-- CTX.Q_CNT[q] follows the queue (R131). -/
def Lane.setQueue (L : Lane) (q : Nat) (ws : List Word) : Lane :=
  ({ L with queues := Tab.set L.queues [] q ws }).wr (0x40030100 + 4 * q)
    (BitVec.ofNat 32 ws.length)
def Lane.queue (L : Lane) (q : Nat) : List Word := Tab.get L.queues [] q

/-- A word arrives at queue `q`: to the highest-ranked waiting getter, else to the end of the queue
(R114).  During a debug halt the getters wait on until the cores resume (R125).  The caller has seen that there is
room. -/
def Lane.queuePut (L : Lane) (q : Nat) (w : Word) : Lane :=
  match (if L.halted then [] else L.byRank (L.waiting 3 q)) with
  | g :: _ =>
    let M := L.finishWait g 0
    M.modCtx g (fun x => x.wx (L.ctx g).wait.rd2 w)
  | [] => L.setQueue q (L.queue q ++ [w])

/-- An entry frees in queue `q`: the highest-ranked waiting putter appends its word (R114). -/
def Lane.queueSpace (L : Lane) (q : Nat) : Lane :=
  match L.byRank (L.waiting 4 q) with
  | p :: _ =>
    let w := (L.ctx p).wait.word
    (L.finishWait p 0).setQueue q (L.queue q ++ [w])
  | [] => L

/-- A fault of a context other than 0 (R122): the faulting instruction's address, the cause, the data
address where one is recorded, HALTED, and the bit of CTX.FAULT_PEND. -/
def Lane.ctxFault (L : Lane) (c : Nat) (pc : Word) (cause : Nat) (addr : Option Word) : Lane :=
  let L := L.moveTo c .halted
  let L := L.modCtx c (fun x => { x with
    pc := pc, cause := cause, faddr := addr.getD x.faddr, wait := Wait.none })
  L.setBitOf 0x40030020 c true

/-! ### Giving up control and lane resets -/

/-- A lane gives up control for a cause of R565: its GU bit and LNK.STAT.GAVE_UP are set, ROLE falls, its heartbeat
reads HOLD 0 and READY 0, and every running lane raises E84.  A lane that has already given up changes
only the reported reason (R150).
(Log: DEDUCED, entries 12, 100.) -/
def State.giveUp (s : State) (l : LaneId) (cause : Nat) (reason : Nat) : State :=
  if (s.lane l).flag 0x40140004 5 then
    (if cause = 3 then s.modLane l (fun L => { L with reason := reason }) else s)
  else
    let s := s.modLane l (fun L => (({ L with reason := reason }).setFlag 0x40140004 5 true).setFlag
      0x40140004 0 false)
    let s := s.modRind (fun r =>
      let r := ((r.setFlag 0x204 (4 + laneNo l) true).setFlag 0x204 (laneNo l) false).setFlag 0x204
        (2 + laneNo l) false
      let b := r.beat.get l
      let nb : Beat := { b with hold := false, ready := false }
      { r with
        beat := r.beat.set l nb,
        gaveAt := if r.act = l then s.die.replica else r.gaveAt,
        readyAt := r.readyAt.set l none })
    s.raiseBoth 84 cause (laneNo l) (BitVec.ofNat 32 reason)

/-- What a lane keeps through its reset: its flash die, its fuses and the security block's counts, UE_ADDR,
and the free-value counter (R73, R560, R589, R599).
(Log: DESIGN CHOICE, entry 5; DEDUCED, entry 109.) -/
def Lane.resetKeep (L : Lane) : Lane :=
  (({ Lane.reset with
      lt := L.lt, free := L.free, flash := L.flash, vault := L.vault.keep,
      time := { TimeSt.reset with map := L.time.map } }).wr 0x40040010 (L.rd 0x40040010)).setFlag
    0x40150004 0 L.enrolled

/-- The frozen units of a lane whose debug halt or link ends are left to `releaseUnits`; the port's
commands that are not yet due are discarded when the link goes down (R174). -/
def State.linkDown (s : State) (l : LaneId) : State :=
  let s := s.modLane l (fun L => ({ L with link := [] }).setFlag 0x400F0040 0 false)
  s.modDie (fun d =>
    { d with cmds := d.cmds.set l ((d.cmds.get l).filter (fun c => c.late.isSome || decide (c.at_ ≤ d.replica))) })

/-- Lane `l` no longer counts LT: the partner's run of good offsets ends (R81). -/
def State.peerLost (s : State) (l : LaneId) : State :=
  s.modLane (other l) (fun L => { L with time := { L.time with peerGood := 0 } })

/-- What a reset of a lane does outside it: its switch link goes down (R27), the partner has no measurement of it (R81),
and its CAN transceivers are passive (R480). -/
def State.cutLinks (s : State) (l : LaneId) : State :=
  ((s.linkDown l).peerLost l).modRind (fun r => { r with txen := r.txen.filter (fun e => e.2 != some l) })

/-- A lane resets for a cause of R73 4 to 8: it gives up control first if it has not (R73, R565), its
links go down, and it stands in reset until LANE_RESET_RELEASE with the cause recorded.
(Log: DEDUCED, entries 18, 101.) -/
def State.laneReset (s : State) (l : LaneId) (give : Nat) (cause : Nat) : State :=
  let s := (s.giveUp l give 0).cutLinks l
  s.modLane l (fun L => (L.resetKeep).setFld 0x40000010 8 4 cause)

/-- A lane fault (R123): an uncorrectable SRAM error, a fault in context 0 (cause 5) or the watchdog
(cause 4). -/
def State.laneFault (s : State) (l : LaneId) (cause : Nat) : State := s.laneReset l 1 cause

end Sys2Proof.Machine
end

