-- ==== Sys2Proof/Machine/Operands.lean ====
section
/-!
DEFINITION. What every instruction shares: whether a context can issue, the fetch of its word, the
memory map and the protection regions, faults, and the operand forms of R136 to R138.
-/

namespace Sys2Proof.Machine

/-- What stands at an address (R116). -/
inductive MapKind where
  | sram | flash | ctxFile | block | hole
deriving DecidableEq, Repr

/-- The memory map of R116. -/
def mapKind (a : Nat) : MapKind :=
  if a < 0x600000 then .sram
  else if 0x10000000 ≤ a ∧ a < 0x14000000 then .flash
  else if 0x20000000 ≤ a ∧ a < 0x20010000 then .ctxFile
  else if 0x40000000 ≤ a ∧ a < 0x40180000 then .block
  else .hole

/-- The supervisor blocks of R117: CTX, MEM, VLT, NVM; and the context file (R126).
(Log: DEDUCED, entry 99.) -/
def supervisorBlock (a : Nat) : Bool :=
  a / 0x10000 == 0x4003 || a / 0x10000 == 0x4004 || a / 0x10000 == 0x4015 ||
  a / 0x10000 == 0x4016 || mapKind a == .ctxFile

/-- What context 0 alone reads and writes: the supervisor blocks, the context file, and SYS.WDOG and SYS.WDOG_KICK of
R104. -/
def supervisorOnly (a : Nat) : Bool := supervisorBlock a || a == 0x40000018 || a == 0x4000001C

/-- Bank of an SRAM address. -/
def bankOf (a : Nat) : Nat := a / 0x40000

/-- Owner in effect of bank `k` (R558). -/
def Lane.owner (L : Lane) (k : Nat) : Nat := L.fld (0x40040200 + 4 * k) 0 3
/-- Power mode in effect of bank `k`. -/
def Lane.bankPower (L : Lane) (k : Nat) : Nat := L.fld (0x40040200 + 4 * k) 4 2

/-- A core reaches bank `k` (R544, R545): OWN is CORE, or port 1 serves cores while SHARE is 1. -/
def Lane.coreReaches (L : Lane) (k : Nat) : Bool :=
  L.bankPower k != 2 &&
    (L.owner k == 1 || (decide (2 ≤ L.owner k) && L.flag (0x40040100 + 4 * k) 3))

/-- The bank's accesses wait: a hand-over or a zero-fill is in progress (R548, R551).
(Log: DEDUCED, entry 28.) -/
def Lane.bankWaits (L : Lane) (k : Nat) : Bool :=
  L.flag (0x40040200 + 4 * k) 3 || L.flag (0x40040200 + 4 * k) 6

/-- Does region `r` of a context grant the access (bit 0 R, 1 W, 2 X) at `a` (R120)? -/
def Ctx.regionGrants (x : Ctx) (r bit a : Nat) : Bool :=
  let b := Tab.get x.rgnBase 0 r
  let lim := Tab.get x.rgnLim 0 r
  bitOf b 3 && bitOf b bit && decide ((b.toNat / 64) * 64 ≤ a) && decide (a < (lim.toNat / 64) * 64)

/-- An access by context `c` is granted: context 0 is not subject to regions (R104), and X is never
granted on a register block or the context file (R121). -/
def Ctx.granted (x : Ctx) (c bit a : Nat) : Bool :=
  c == 0 ||
    (!(bit == 2 && (mapKind a == .block || mapKind a == .ctxFile)) &&
      (List.range 8).any (fun r => x.regionGrants r bit a))

/-- The first cause of R633 that the fetch of the instruction at `a` meets.
(Log: DEDUCED, entry 99.) -/
def Lane.fetchFault (L : Lane) (c : Nat) (a : Nat) : Option Nat :=
  if mapKind a = .hole then some 5
  else if c ≠ 0 ∧ supervisorBlock a then some 2
  else if !(L.ctx c).granted c 2 a then some 4
  else if mapKind a = .block ∨ mapKind a = .ctxFile then some 5
  else if mapKind a = .sram ∧ !L.coreReaches (bankOf a) then some 6
  else none

/-- The first cause of R633 that a data access of `n` bytes at `a` meets; `store` tells loads from
stores, `wordOp` lw, sw, flw and fsw from the others.
(Log: DEDUCED, entry 99.) -/
def Lane.dataFault (L : Lane) (c a n : Nat) (store wordOp : Bool) : Option Nat :=
  if mapKind a = .hole then some 5
  else if a % n ≠ 0 then some 3
  else if c ≠ 0 ∧ supervisorOnly a then some 2
  else if !(L.ctx c).granted c (if store then 1 else 0) a then some 4
  else if mapKind a = .block ∧ !wordOp then some 5
  else if mapKind a = .flash ∧ store then some 5
  else if mapKind a = .sram ∧ !L.coreReaches (bankOf a) then some 6
  else none

/-- The fetch of the context's next word waits for its bank (R140, R548, R551).
(Log: DEDUCED, entry 28.) -/
def Lane.fetchWaits (L : Lane) (c : Nat) : Bool :=
  mapKind (L.ctx c).pc.toNat == .sram && L.bankWaits (bankOf (L.ctx c).pc.toNat)

/-- What an instruction's own rules make of the state: a next state, a fault of R122, or an access
that must wait for its bank (the instruction has then not executed). -/
inductive IRes where
  | ok (s : State)
  | fault (cause : Nat) (addr : Option Word)
  | hold

/-- The context can issue an instruction: the lane runs, in RUN, not in debug halt, and the context
is RUNNING (R103, R125, R135).
(Log: DESIGN CHOICE, entry 7.) -/
def State.canIssue (s : State) (l : LaneId) (c : Nat) : Bool :=
  (s.lane l).running && !(s.lane l).halted && s.power == 0 && ((s.lane l).ctx c).st == .running

/-- Take a fault of R122 in a context; in context 0 it is a lane fault (R123). -/
def State.takeFault (s : State) (l : LaneId) (c : Nat) (cause : Nat) (addr : Option Word) : State :=
  if c = 0 then s.laneFault l 5
  else s.modLane l (fun L => L.ctxFault c (L.ctx c).pc cause addr)

/-- Issue an instruction of context `c`: the fetch, the checks on the word (`wf`), PRIV for a
supervisor-only instruction, and then its own effect (R633).  A context that cannot issue leaves the
state as it is.
(Log: DEDUCED, entries 1, 28; DESIGN CHOICE, entry 7.) -/
def State.issue (s : State) (l : LaneId) (c : CtxNo) (wf priv : Bool) (body : IRes) : State :=
  if s.canIssue l c then
    match (s.lane l).fetchFault c ((s.lane l).ctx c).pc.toNat with
    | some cause => s.takeFault l c cause none
    | none =>
      if (s.lane l).fetchWaits c then s
      else if !wf then s.takeFault l c 1 none
      else if priv && decide (c.val ≠ 0) then s.takeFault l c 2 none
      else match body with
        | .ok t => t
        | .fault cause addr => s.takeFault l c cause addr
        | .hold => s
  else s

/-- The context's registers after an instruction that goes on to the next word. -/
def Ctx.step (x : Ctx) (f : Ctx → Ctx) : Ctx :=
  let y := f x
  { y with pc := x.pc + 4 }

/-- An instruction that changes the context alone. -/
def State.onCtx (s : State) (l : LaneId) (c : Nat) (f : Ctx → Ctx) : IRes :=
  .ok (s.modLane l (fun L => L.modCtx c (fun x => x.step f)))

/-- An instruction that also changes the lane: the PC advances, then `f`. -/
def State.onLane (s : State) (l : LaneId) (c : Nat) (f : Lane → Lane) : IRes :=
  .ok (s.modLane l (fun L => f (L.modCtx c (fun x => x.step id))))

/-- An integer instruction: `f` gives rd from the context. -/
def State.alu (s : State) (l : LaneId) (c : CtxNo) (rd : RegNo) (f : Ctx → Word) : State :=
  s.issue l c true false (s.onCtx l c (fun x => x.wx rd (f x)))

/-- The 14-bit immediate with its sign, and with zeros (R148). -/
def sext14 (i : BitVec 14) : Word := i.signExtend 32
def zext14 (i : BitVec 14) : Word := i.setWidth 32

end Sys2Proof.Machine
end

