-- ==== Sys2Proof/Machine/Alu.lean ====
section
/-!
DEFINITION. Integer register-register instructions (R142, R143).
-/

namespace Sys2Proof.Machine

/-- Leading zero bits of a word, 0 to 32. -/
def clz32 (x : Word) : Nat := if x = 0 then 32 else 31 - Nat.log2 x.toNat

/-- Signed quotient truncated toward zero; divisor 0 gives all ones, and the one overflow wraps. -/
def divS (x y : Word) : Word := if y = 0 then 0xFFFFFFFF else BitVec.ofInt 32 (x.toInt.tdiv y.toInt)
/-- Unsigned quotient. -/
def divU (x y : Word) : Word := if y = 0 then 0xFFFFFFFF else BitVec.ofNat 32 (x.toNat / y.toNat)
/-- Signed remainder, of the sign of the dividend. -/
def remS (x y : Word) : Word := if y = 0 then x else BitVec.ofInt 32 (x.toInt.tmod y.toInt)
/-- Unsigned remainder. -/
def remU (x y : Word) : Word := if y = 0 then x else BitVec.ofNat 32 (x.toNat % y.toNat)
/-- High word of the signed product. -/
def mulHi (x y : Word) : Word := BitVec.ofInt 32 ((x.toInt * y.toInt) / 2 ^ 32)
/-- High word of the unsigned product. -/
def mulHiU (x y : Word) : Word := BitVec.ofNat 32 ((x.toNat * y.toNat) / 2 ^ 32)
/-- A truth value as a word. -/
def wBool (b : Bool) : Word := if b then 1 else 0

def minS (x y : Word) : Word := if x.toInt < y.toInt then x else y
def maxS (x y : Word) : Word := if x.toInt < y.toInt then y else x
def minU (x y : Word) : Word := if x.toNat < y.toNat then x else y
def maxU (x y : Word) : Word := if x.toNat < y.toNat then y else x

/-- rd = f rs1 rs2. -/
def State.rr (s : State) (l : LaneId) (c : CtxNo) (rd rs1 rs2 : RegNo) (f : Word → Word → Word) :
    State :=
  s.alu l c rd (fun x => f (x.rx rs1) (x.rx rs2))

/-- ADD (R142). -/
def execAdd (l : LaneId) (c : CtxNo) (rd rs1 rs2 : RegNo) (s : State) :
    Host.Outcome State Fault Refusal :=
  .next (s.rr l c rd rs1 rs2 (fun x y => x + y))

/-- SUB (R142). -/
def execSub (l : LaneId) (c : CtxNo) (rd rs1 rs2 : RegNo) (s : State) :
    Host.Outcome State Fault Refusal :=
  .next (s.rr l c rd rs1 rs2 (fun x y => x - y))

/-- AND (R142). -/
def execAnd (l : LaneId) (c : CtxNo) (rd rs1 rs2 : RegNo) (s : State) :
    Host.Outcome State Fault Refusal :=
  .next (s.rr l c rd rs1 rs2 (fun x y => x &&& y))

/-- OR (R142). -/
def execOr (l : LaneId) (c : CtxNo) (rd rs1 rs2 : RegNo) (s : State) :
    Host.Outcome State Fault Refusal :=
  .next (s.rr l c rd rs1 rs2 (fun x y => x ||| y))

/-- XOR (R142). -/
def execXor (l : LaneId) (c : CtxNo) (rd rs1 rs2 : RegNo) (s : State) :
    Host.Outcome State Fault Refusal :=
  .next (s.rr l c rd rs1 rs2 (fun x y => x ^^^ y))

/-- SLL (R142). -/
def execSll (l : LaneId) (c : CtxNo) (rd rs1 rs2 : RegNo) (s : State) :
    Host.Outcome State Fault Refusal :=
  .next (s.rr l c rd rs1 rs2 (fun x y => x <<< (y.toNat % 32)))

/-- SRL (R142). -/
def execSrl (l : LaneId) (c : CtxNo) (rd rs1 rs2 : RegNo) (s : State) :
    Host.Outcome State Fault Refusal :=
  .next (s.rr l c rd rs1 rs2 (fun x y => x >>> (y.toNat % 32)))

/-- SRA (R142). -/
def execSra (l : LaneId) (c : CtxNo) (rd rs1 rs2 : RegNo) (s : State) :
    Host.Outcome State Fault Refusal :=
  .next (s.rr l c rd rs1 rs2 (fun x y => x.sshiftRight (y.toNat % 32)))

/-- SLT (R142). -/
def execSlt (l : LaneId) (c : CtxNo) (rd rs1 rs2 : RegNo) (s : State) :
    Host.Outcome State Fault Refusal :=
  .next (s.rr l c rd rs1 rs2 (fun x y => wBool (decide (x.toInt < y.toInt))))

/-- SLTU (R142). -/
def execSltu (l : LaneId) (c : CtxNo) (rd rs1 rs2 : RegNo) (s : State) :
    Host.Outcome State Fault Refusal :=
  .next (s.rr l c rd rs1 rs2 (fun x y => wBool (decide (x.toNat < y.toNat))))

/-- MIN (R142). -/
def execMin (l : LaneId) (c : CtxNo) (rd rs1 rs2 : RegNo) (s : State) :
    Host.Outcome State Fault Refusal :=
  .next (s.rr l c rd rs1 rs2 (fun x y => minS x y))

/-- MAX (R142). -/
def execMax (l : LaneId) (c : CtxNo) (rd rs1 rs2 : RegNo) (s : State) :
    Host.Outcome State Fault Refusal :=
  .next (s.rr l c rd rs1 rs2 (fun x y => maxS x y))

/-- MINU (R142). -/
def execMinu (l : LaneId) (c : CtxNo) (rd rs1 rs2 : RegNo) (s : State) :
    Host.Outcome State Fault Refusal :=
  .next (s.rr l c rd rs1 rs2 (fun x y => minU x y))

/-- MAXU (R142). -/
def execMaxu (l : LaneId) (c : CtxNo) (rd rs1 rs2 : RegNo) (s : State) :
    Host.Outcome State Fault Refusal :=
  .next (s.rr l c rd rs1 rs2 (fun x y => maxU x y))

/-- MUL (R142). -/
def execMul (l : LaneId) (c : CtxNo) (rd rs1 rs2 : RegNo) (s : State) :
    Host.Outcome State Fault Refusal :=
  .next (s.rr l c rd rs1 rs2 (fun x y => x * y))

/-- MULH (R142). -/
def execMulh (l : LaneId) (c : CtxNo) (rd rs1 rs2 : RegNo) (s : State) :
    Host.Outcome State Fault Refusal :=
  .next (s.rr l c rd rs1 rs2 (fun x y => mulHi x y))

/-- MULHU (R142). -/
def execMulhu (l : LaneId) (c : CtxNo) (rd rs1 rs2 : RegNo) (s : State) :
    Host.Outcome State Fault Refusal :=
  .next (s.rr l c rd rs1 rs2 (fun x y => mulHiU x y))

/-- DIV (R142, R143). -/
def execDiv (l : LaneId) (c : CtxNo) (rd rs1 rs2 : RegNo) (s : State) :
    Host.Outcome State Fault Refusal :=
  .next (s.rr l c rd rs1 rs2 (fun x y => divS x y))

/-- DIVU (R142, R143). -/
def execDivu (l : LaneId) (c : CtxNo) (rd rs1 rs2 : RegNo) (s : State) :
    Host.Outcome State Fault Refusal :=
  .next (s.rr l c rd rs1 rs2 (fun x y => divU x y))

/-- REM (R142, R143). -/
def execRem (l : LaneId) (c : CtxNo) (rd rs1 rs2 : RegNo) (s : State) :
    Host.Outcome State Fault Refusal :=
  .next (s.rr l c rd rs1 rs2 (fun x y => remS x y))

/-- REMU (R142, R143). -/
def execRemu (l : LaneId) (c : CtxNo) (rd rs1 rs2 : RegNo) (s : State) :
    Host.Outcome State Fault Refusal :=
  .next (s.rr l c rd rs1 rs2 (fun x y => remU x y))

/-- CLZ (R142). -/
def execClz (l : LaneId) (c : CtxNo) (rd rs1 : RegNo) (s : State) :
    Host.Outcome State Fault Refusal :=
  .next (s.alu l c rd (fun x => BitVec.ofNat 32 (clz32 (x.rx rs1))))

end Sys2Proof.Machine
end

