-- ==== Sys2Proof/Machine/LoopSp.lean ====
section
/-!
DEFINITION. The parameters of a loop, and how the engines that serve a loop write its setpoint (R389,
R401).
-/

namespace Sys2Proof.Machine

/-- Reset value of loop parameter `p` (R401). -/
def loopReset (p : Nat) : Word :=
  match p with
  | 3 => 0x64
  | 8 | 9 | 12 | 14 => 0x3F800000
  | 17 => 0x10000
  | _ => 0

/-- Parameter `p` of a table of parameters. -/
def loopGet (t : Tab Word) (p : Nat) : Word := Tab.get t (loopReset p) p
def loopSet (t : Tab Word) (p : Nat) (v : Word) : Tab Word := Tab.set t (loopReset p) p v

def Lane.loop (L : Lane) (k : Nat) : LoopSt := Tab.get L.lpe.st LoopSt.reset k
def Lane.setLoop (L : Lane) (k : Nat) (x : LoopSt) : Lane :=
  { L with lpe := { L.lpe with st := Tab.set L.lpe.st LoopSt.reset k x } }

/-- Accepted parameters of loop `k`. -/
def Lane.loopAcc (L : Lane) (k p : Nat) : Word := loopGet (Tab.get L.lpe.acc [] k) p
def Lane.setLoopAcc (L : Lane) (k p : Nat) (v : Word) : Lane :=
  { L with lpe := { L.lpe with acc := Tab.set L.lpe.acc [] k (loopSet (Tab.get L.lpe.acc [] k) p v) } }

/-- The writes of loop `k` that a boundary at `b` sees, and the rest (R383, R389). -/
def Lpe.dueAt (e : Lpe) (k b : Nat) : List LWrite × List LWrite :=
  e.wq.partition (fun w => w.loop == k && decide (w.at_ < b) && decide (w.nb ≤ b))

/-- Put writes into a loop's parameters, in the order of acceptance. -/
def LoopSt.take (x : LoopSt) (ws : List LWrite) : LoopSt :=
  { x with p := ws.foldl (fun t w => loopSet t w.p w.v) x.p }

/-- A setpoint for loop `k` with not-before time `t` (R258, R371, R389).  Where the loop does not run, the
setpoints whose time has come stand at once. -/
def Lane.putSp (L : Lane) (k t : Nat) (v : Word) : Lane :=
  let L := { L with lpe := { L.lpe with wq := L.lpe.wq ++ [⟨L.lt, t, k, 6, v⟩] } }
  if (L.loop k).run then L
  else
    let d := L.lpe.dueAt k (L.lt + 1)
    let M := { L with lpe := { L.lpe with wq := d.2 } }
    M.setLoop k ((M.loop k).take d.1)

end Sys2Proof.Machine
end

