-- ==== Sys2Proof/Machine/Float.lean ====
section
/-!
DEFINITION. Binary32 arithmetic under R144: every operation is formed exactly over the rationals
and rounded once by FLG.RM, with the sticky exceptions it raises.
-/

namespace Sys2Proof.Machine

/-- A binary32 value: a NaN (signalling or not), an infinity or a finite number.  The sign of a
finite value is kept apart, for the two zeros. -/
inductive FVal where
  | nan (signalling : Bool)
  | inf (neg : Bool)
  | fin (neg : Bool) (mag : Rat)
deriving DecidableEq, Repr

/-- Two to an integer power. -/
def pow2 (e : Int) : Rat :=
  if 0 ≤ e then ((2 ^ e.toNat : Nat) : Rat) else 1 / ((2 ^ (-e).toNat : Nat) : Rat)

/-- The exceptions of R128, as FLG bits: NX 1, UF 2, OF 4, DZ 8, NV 16, SAT 32. -/
abbrev Exc := Nat

def Exc.nx : Exc := 1
def Exc.uf : Exc := 2
def Exc.of : Exc := 4
def Exc.dz : Exc := 8
def Exc.nv : Exc := 16
def Exc.sat : Exc := 32

/-- The canonical NaN of R144. -/
def canonNaN : Word := 0x7FC00000

/-- The value of a binary32 pattern. -/
def FVal.ofWord (x : Word) : FVal :=
  let neg := x.getLsbD 31
  let e := fieldNat x 23 8
  let m := fieldNat x 0 23
  if e = 255 then (if m = 0 then .inf neg else .nan (!x.getLsbD 22))
  else if e = 0 then .fin neg ((m : Rat) * pow2 (-149))
  else .fin neg (((m + 2 ^ 23 : Nat) : Rat) * pow2 ((e : Int) - 150))

/-- The signed rational of a finite value; 0 for the others. -/
def FVal.toRat (v : FVal) : Rat :=
  match v with
  | .fin neg r => if neg then -r else r
  | .inf _ | .nan _ => 0

/-- The rational a register word stands for when a rule reads a binary32 quantity; infinities and
NaNs read 0. -/
def f32 (x : Word) : Rat := (FVal.ofWord x).toRat

/-- Is a binary32 pattern a finite number? -/
def f32Finite (x : Word) : Bool := fieldNat x 23 8 != 255

def signBit (neg : Bool) : Nat := if neg then 0x80000000 else 0

/-- The largest integer not above `q`, rounded by a mode of R128: 0 nearest-even, 1 toward zero,
2 down, 3 up, for a magnitude `q ≥ 0` of sign `neg`. -/
def roundMag (rm : Nat) (neg : Bool) (q : Rat) : Nat :=
  let fl := q.floor.toNat
  let r := q - (fl : Rat)
  if r = 0 then fl
  else match rm with
    | 0 => if 1 / 2 < r then fl + 1 else if r < 1 / 2 then fl
           else if fl % 2 = 0 then fl else fl + 1
    | 1 => fl
    | 2 => if neg then fl + 1 else fl
    | _ => if neg then fl else fl + 1

/-- The exponent `e` with `2^e ≤ q < 2^(e+1)`, for `q > 0`. -/
def ratExp (q : Rat) : Int :=
  let e : Int := (Nat.log2 q.num.toNat : Int) - (Nat.log2 q.den : Int)
  if q < pow2 e then e - 1 else e

/-- Round the nonzero value of sign `neg` and magnitude `q` to binary32 (R144).
(Log: DESIGN CHOICE, entry 32.) -/
def roundF32 (rm : Nat) (neg : Bool) (q : Rat) : Word × Exc :=
  let e := ratExp q
  let ex := max e (-126)
  let scaled := q / pow2 (ex - 23)
  let m := roundMag rm neg scaled
  let inexact := decide ((m : Rat) ≠ scaled)
  let bits := (ex + 126).toNat * 2 ^ 23 + m
  if 0x7F800000 ≤ bits then
    let toInf := match rm with
      | 0 => true | 1 => false | 2 => neg | _ => !neg
    (BitVec.ofNat 32 (signBit neg + (if toInf then 0x7F800000 else 0x7F7FFFFF)),
      Exc.of ||| Exc.nx)
  else
    let before := decide (q < pow2 (-126))
    let after := decide (((roundMag rm neg (q / pow2 (e - 23)) : Nat) : Rat) * pow2 (e - 23)
      < pow2 (-126))
    let tiny := if Config.tininessBefore then before else after
    let ux := if before then (if after then true else tiny) else false
    (BitVec.ofNat 32 (signBit neg + bits),
      (if inexact then Exc.nx else 0) ||| (if inexact && ux then Exc.uf else 0))

/-- Round a rational, with the sign of an exact zero given. -/
def roundRat (rm : Nat) (zeroNeg : Bool) (r : Rat) : Word × Exc :=
  if r = 0 then (BitVec.ofNat 32 (signBit zeroNeg), 0)
  else roundF32 rm (decide (r < 0)) (if r < 0 then -r else r)

/-- A quantity an engine reports as binary32: nearest-even. -/
def toF32 (r : Rat) : Word := (roundRat 0 false r).1

def FVal.isNaN : FVal → Bool
  | .nan _ => true
  | .inf _ | .fin _ _ => false
def FVal.isSNaN : FVal → Bool
  | .nan s => s
  | .inf _ | .fin _ _ => false

/-- The NaN result of an operation one of whose operands is a NaN: NV for a signalling one. -/
def nanOut (vs : List FVal) : Word × Exc :=
  (canonNaN, if vs.any FVal.isSNaN then Exc.nv else 0)

/-- The invalid operation: the canonical NaN and NV. -/
def invalidOut : Word × Exc := (canonNaN, Exc.nv)

def infWord (neg : Bool) : Word := BitVec.ofNat 32 (signBit neg + 0x7F800000)

def fneg (x : Word) : Word := x ^^^ 0x80000000
def fabs (x : Word) : Word := x &&& 0x7FFFFFFF

/-- The sign of an exact zero sum of operands of signs `s` and `t` (IEEE 754). -/
def zeroSumNeg (rm : Nat) (s t : Bool) : Bool := if s = t then s else rm == 2

/-- `x + y`. -/
def fadd (rm : Nat) (x y : Word) : Word × Exc :=
  let a := FVal.ofWord x
  let b := FVal.ofWord y
  match a, b with
  | .nan _, _ => nanOut [a, b]
  | _, .nan _ => nanOut [a, b]
  | .inf s, .inf t => if s = t then (infWord s, 0) else invalidOut
  | .inf s, .fin _ _ => (infWord s, 0)
  | .fin _ _, .inf t => (infWord t, 0)
  | .fin s _, .fin t _ => roundRat rm (zeroSumNeg rm s t) (a.toRat + b.toRat)

/-- `x - y`. -/
def fsub (rm : Nat) (x y : Word) : Word × Exc :=
  if (FVal.ofWord y).isNaN then nanOut [FVal.ofWord x, FVal.ofWord y] else fadd rm x (fneg y)

/-- `x * y`. -/
def fmul (rm : Nat) (x y : Word) : Word × Exc :=
  let a := FVal.ofWord x
  let b := FVal.ofWord y
  match a, b with
  | .nan _, _ => nanOut [a, b]
  | _, .nan _ => nanOut [a, b]
  | .inf s, .inf t => (infWord (s != t), 0)
  | .inf s, .fin t r => if r = 0 then invalidOut else (infWord (s != t), 0)
  | .fin s r, .inf t => if r = 0 then invalidOut else (infWord (s != t), 0)
  | .fin s _, .fin t _ => roundRat rm (s != t) (a.toRat * b.toRat)

/-- `x / y`. -/
def fdiv (rm : Nat) (x y : Word) : Word × Exc :=
  let a := FVal.ofWord x
  let b := FVal.ofWord y
  match a, b with
  | .nan _, _ => nanOut [a, b]
  | _, .nan _ => nanOut [a, b]
  | .inf _, .inf _ => invalidOut
  | .inf s, .fin t _ => (infWord (s != t), 0)
  | .fin s _, .inf t => (BitVec.ofNat 32 (signBit (s != t)), 0)
  | .fin s r, .fin t q =>
    if q = 0 then (if r = 0 then invalidOut else (infWord (s != t), Exc.dz))
    else roundRat rm (s != t) (a.toRat / b.toRat)

/-- Integer square root, bit by bit from bit `n - 1` down. -/
def isqrtFrom (N : Nat) (n r : Nat) : Nat :=
  match n with
  | 0 => r
  | n + 1 => if (r + 2 ^ n) * (r + 2 ^ n) ≤ N then isqrtFrom N n (r + 2 ^ n) else isqrtFrom N n r

/-- The square root of `x`: a radicand scaled to an integer, its integer root, and a half bit that
stands for any remainder, so that the one rounding is right in every mode. -/
def fsqrt (rm : Nat) (x : Word) : Word × Exc :=
  match FVal.ofWord x with
  | .nan s => nanOut [.nan s]
  | .inf s => if s then invalidOut else (infWord false, 0)
  | .fin s r =>
    if r = 0 then (x, 0)
    else if s then invalidOut
    else
      let N := (r * pow2 149).floor.toNat * 2 ^ 61
      let q := isqrtFrom N 170 0
      let half : Rat := if q * q = N then 0 else 1 / 2
      roundRat rm false (((q : Rat) + half) * pow2 (-105))

/-- `x * y + z` with one rounding.
(Log: DESIGN CHOICE, entry 32.) -/
def ffma (rm : Nat) (x y z : Word) : Word × Exc :=
  let a := FVal.ofWord x
  let b := FVal.ofWord y
  let c := FVal.ofWord z
  let zeroInf := match a, b with
    | .inf _, .fin _ r => decide (r = 0)
    | .fin _ r, .inf _ => decide (r = 0)
    | .nan _, _ => false
    | .inf _, .nan _ => false
    | .inf _, .inf _ => false
    | .fin _ _, .nan _ => false
    | .fin _ _, .fin _ _ => false
  if a.isNaN || b.isNaN || c.isNaN then
    (canonNaN, if a.isSNaN || b.isSNaN || c.isSNaN then Exc.nv
               else if zeroInf && Config.fmaZeroInfNaN then Exc.nv else 0)
  else if zeroInf then invalidOut
  else
    let ps := (x.getLsbD 31) != (y.getLsbD 31)
    match a, b, c with
    | .fin _ _, .fin _ _, .fin t _ =>
      roundRat rm (zeroSumNeg rm ps t) (a.toRat * b.toRat + c.toRat)
    | .fin _ _, .fin _ _, .inf t => (infWord t, 0)
    | _, _, .inf t => if ps = t then (infWord t, 0) else invalidOut
    | _, _, .fin _ _ => (infWord ps, 0)
    | _, _, .nan _ => (canonNaN, 0)

/-- Order of two non-NaN values; the zeros compare equal. -/
def fvLt (a b : FVal) : Bool :=
  match a, b with
  | .inf s, .inf t => s && !t
  | .inf s, .fin _ _ => s
  | .fin _ _, .inf t => !t
  | .fin _ _, .fin _ _ => decide (a.toRat < b.toRat)
  | .nan _, _ => false
  | .inf _, .nan _ => false
  | .fin _ _, .nan _ => false

def fvEq (a b : FVal) : Bool :=
  match a, b with
  | .inf s, .inf t => s == t
  | .fin _ _, .fin _ _ => decide (a.toRat = b.toRat)
  | .inf _, .fin _ _ => false
  | .fin _ _, .inf _ => false
  | .nan _, _ => false
  | .inf _, .nan _ => false
  | .fin _ _, .nan _ => false

/-- fmin and fmax under R144: the non-NaN operand when exactly one is a NaN, NV for a signalling
NaN, and -0 less than +0. -/
def fminmax (wantMax : Bool) (x y : Word) : Word × Exc :=
  let a := FVal.ofWord x
  let b := FVal.ofWord y
  let fl := if a.isSNaN || b.isSNaN then Exc.nv else 0
  if a.isNaN && b.isNaN then (canonNaN, fl)
  else if a.isNaN then (y, fl)
  else if b.isNaN then (x, fl)
  else
    let xLess := fvLt a b || (fvEq a b && x.getLsbD 31)
    (if xLess = wantMax then y else x, fl)

/-- feq: NV only for a signalling NaN. -/
def feq (x y : Word) : Bool × Exc :=
  let a := FVal.ofWord x
  let b := FVal.ofWord y
  (fvEq a b, if a.isSNaN || b.isSNaN then Exc.nv else 0)

/-- flt and fle: NV for any NaN. -/
def flt (x y : Word) : Bool × Exc :=
  let a := FVal.ofWord x
  let b := FVal.ofWord y
  (fvLt a b, if a.isNaN || b.isNaN then Exc.nv else 0)

/-- See `flt`. -/
def fle (x y : Word) : Bool × Exc :=
  let a := FVal.ofWord x
  let b := FVal.ofWord y
  (fvLt a b || fvEq a b, if a.isNaN || b.isNaN then Exc.nv else 0)

/-- Round a rational to an integer by a mode of R128. -/
def roundInt (rm : Nat) (r : Rat) : Int :=
  if r < 0 then -(roundMag rm true (-r) : Int) else (roundMag rm false r : Int)

/-- Conversion of a value times `scale` to an integer in `lo` to `hi` (R144): the nearest extreme
and NV out of range or for a NaN, a NaN to the positive extreme.
(Log: DESIGN CHOICE, entry 32.) -/
def toIntSat (rm : Nat) (lo hi : Int) (scale : Rat) (x : Word) : Int × Exc :=
  match FVal.ofWord x with
  | .nan _ => (hi, Exc.nv)
  | .inf s => (if s then lo else hi, Exc.nv)
  | .fin s r =>
    let v := (if s then -r else r) * scale
    let i := roundInt rm v
    if i < lo then (lo, Exc.nv) else if hi < i then (hi, Exc.nv)
    else (i, if decide ((i : Rat) ≠ v) && Config.toIntInexact then Exc.nx else 0)

def ftoi (rm : Nat) (x : Word) : Word × Exc :=
  let r := toIntSat rm (-0x80000000) 0x7FFFFFFF 1 x
  (BitVec.ofInt 32 r.1, r.2)

def ftou (rm : Nat) (x : Word) : Word × Exc :=
  let r := toIntSat rm 0 0xFFFFFFFF 1 x
  (BitVec.ofInt 32 r.1, r.2)

def itof (rm : Nat) (x : Word) : Word × Exc := roundRat rm false (x.toInt : Rat)
def utof (rm : Nat) (x : Word) : Word × Exc := roundRat rm false ((x.toNat : Nat) : Rat)

/-- Half up, as R146 and R32 round: the integer nearest `r`, a half upward. -/
def roundHalfUp (r : Rat) : Int := (r + 1 / 2).floor

end Sys2Proof.Machine
end

