-- ==== Sys2Proof/Machine/Mem.lean ====
section
/-!
DEFINITION. SRAM and the flash window as bytes, the masters that reach a bank, error correction, and
the banks' hand-overs, power and scrubbing (R543 to R560).
-/

namespace Sys2Proof.Machine

/-- Canonical SRAM: addresses rising, no listed byte 0.  An unlisted byte reads 0: SRAM is zero-filled
before it serves (R551, R556).
(Log: PRESUMED, entry 96.) -/
abbrev Memory.wf (m : List Host.Cell) : Bool := Tab.wf m 0

/-- A byte of SRAM.
(Log: PRESUMED, entry 96.) -/
def Memory.get (m : List Host.Cell) (a : Nat) : Byte := Tab.get m 0 a
/-- Write a byte of SRAM; writing 0 removes the entry.
(Log: PRESUMED, entry 96.) -/
def Memory.put (m : List Host.Cell) (a : Nat) (b : Byte) : List Host.Cell := Tab.set m 0 a b

/-- Bytes from `a` on. -/
def Memory.read (m : List Host.Cell) (a n : Nat) : List Byte :=
  (List.range n).map (fun i => Memory.get m (a + i))
/-- Bytes written from `a` on, in order. -/
def Memory.write (m : List Host.Cell) (a : Nat) (bs : List Byte) : List Host.Cell :=
  match bs with
  | [] => m
  | b :: rest => Memory.write (Memory.put m a b) (a + 1) rest

/-- A byte of the flash window; an erased byte is 0xFF.
(Log: PRESUMED, entry 96.) -/
def Flash.get (m : List Host.Cell) (a : Nat) : Byte := Tab.get m 0xFF a
/-- Program a byte of flash.
(Log: PRESUMED, entry 96.) -/
def Flash.put (m : List Host.Cell) (a : Nat) (b : Byte) : List Host.Cell := Tab.set m 0xFF a b
/-- Bytes of flash from `a` on. -/
def Flash.read (m : List Host.Cell) (a n : Nat) : List Byte :=
  (List.range n).map (fun i => Flash.get m (a + i))
/-- Program bytes of flash. -/
def Flash.write (m : List Host.Cell) (a : Nat) (bs : List Byte) : List Host.Cell :=
  match bs with
  | [] => m
  | b :: rest => Flash.write (Flash.put m a b) (a + 1) rest
/-- Erase `n` bytes of flash.
(Log: PRESUMED, entry 96.) -/
def Flash.erase (m : List Host.Cell) (a n : Nat) : List Host.Cell :=
  m.filter (fun e => decide (e.1 < a) || decide (a + n ≤ e.1))

/-- The masters of R543 that are not cores, by their number m there. -/
inductive Master where
  | dma0 | dma1 | gnss | section_ | fusion | tracks | host | network
deriving DecidableEq, Repr

/-- The owners of R544 under which a bank serves a master. -/
def Master.owners (m : Master) : List Nat :=
  match m with
  | .dma0 => [1]
  | .dma1 => [1, 4, 6]
  | .gnss => [3]
  | .section_ => [4]
  | .fusion => [2]
  | .tracks => [5]
  | .host => [1, 6]
  | .network => [1, 7]

/-- The owner that an access of a master that is no core meets: one that comes during a hand-over waits and is checked
against the new owner (R548). -/
def Lane.ownerDue (L : Lane) (k : Nat) : Nat := ((Tab.get L.banks ⟨none⟩ k).toOwner).getD (L.owner k)

/-- Bank `k` serves master `m` (R544, R548): its owner is one of the master's, and it is powered.
(Log: DEDUCED, entry 98.) -/
def Lane.serves (L : Lane) (m : Master) (k : Nat) : Bool :=
  L.bankPower k != 2 && m.owners.contains (L.ownerDue k)

/-- Every byte of `n` from `a` stands in SRAM in banks that serve the master. -/
def Lane.servesAll (L : Lane) (m : Master) (a n : Nat) : Bool :=
  decide (a + n ≤ 0x600000) &&
    (List.range 24).all (fun k =>
      if k * 0x40000 < a + n ∧ a < (k + 1) * 0x40000 ∧ 0 < n then L.serves m k else true)

/-- The whole range has one owner. -/
def Lane.ownedBy (L : Lane) (o a n : Nat) : Bool :=
  decide (a + n ≤ 0x600000) &&
    (List.range 24).all (fun k =>
      if k * 0x40000 < a + n ∧ a < (k + 1) * 0x40000 ∧ 0 < n then
        L.owner k == o && L.bankPower k != 2 else true)

/-- A refused access of a master that is no core: CNT_REFUSED (R547). -/
def Lane.refused (L : Lane) : Lane := L.bump 0x40040080
/-- An access at `a` that its master gives up on: it counts where it named SRAM, so that a bank refused it (R547).
(Log: DEDUCED, entry 97.) -/
def Lane.refusedAt (L : Lane) (a : Nat) : Lane := if a < 0x600000 then L.refused else L

/-- Bytes of SRAM. -/
def Lane.bytes (L : Lane) (a n : Nat) : List Byte := Memory.read L.sram a n
/-- A word of SRAM (R7). -/
def Lane.word (L : Lane) (a : Nat) : Word := bytesWord (L.bytes a 4)
/-- Store bytes in SRAM; a word written whole has its check bits anew (R554).
(Log: DEDUCED, entry 97.) -/
def Lane.store (L : Lane) (a : Nat) (bs : List Byte) : Lane :=
  { L with
    sram := Memory.write L.sram a bs
    ecc := L.ecc.filter (fun e => !(decide (a ≤ 4 * e.1) && decide (4 * e.1 + 4 ≤ a + bs.length))) }
/-- Store words in SRAM. -/
def Lane.storeWords (L : Lane) (a : Nat) (ws : List Word) : Lane := L.store a (ws.flatMap wordBytes)

/-- `n` bytes that no rule states. -/
def Lane.freeBytes (L : Lane) (n : Nat) : List Byte :=
  (List.range n).map (fun (i : Nat) => BitVec.ofNat 8 (Config.freeNat (L.free + i)))

/-- A read by an engine (R547): a refused read returns 0 and is counted. -/
def Lane.engRead (L : Lane) (m : Master) (a n : Nat) : List Byte × Lane :=
  if L.servesAll m a n then (L.bytes a n, L) else (List.replicate n 0, L.refused)
/-- A write by an engine (R547): a refused write is discarded and counted. -/
def Lane.engWrite (L : Lane) (m : Master) (a : Nat) (bs : List Byte) : Lane :=
  if L.servesAll m a bs.length then L.store a bs else L.refused

/-! ### Error correction (R554, R555) -/

/-- A corrected error in the word at `a`: count, address, STAT.CE, E80; the port writes it back.
(Log: DEDUCED, entry 97.) -/
def Lane.corrected (L : Lane) (a : Nat) : Lane :=
  let L := { L with ecc := Tab.set L.ecc 0 (a / 4) 0 }
  let L := (L.bumpFld (0x40040200 + 4 * bankOf a) 16 8).wr 0x4004000C (BitVec.ofNat 32 (a / 4 * 4))
  (L.setFlag 0x40040000 3 true).raise 80 0 (bankOf a) (BitVec.ofNat 32 (a / 4 * 4))

/-- UE_ADDR holds the address of an uncorrectable error, with its valid bit.
(Log: DEDUCED, entry 97.) -/
def Lane.ueAddr (L : Lane) (a : Nat) : Lane :=
  L.wr 0x40040010 (BitVec.ofNat 32 (a / 4 * 4 + 0x80000000))

/-- An access meets the words that hold `n` bytes at `a`: single-bit errors are corrected, and the result
tells whether one word is uncorrectable.
(Log: DEDUCED, entry 97.) -/
def Lane.eccAccess (L : Lane) (a n : Nat) : Lane × Bool :=
  (List.range ((a + n + 3) / 4 - a / 4)).foldl (fun acc i =>
    let w := a / 4 + i
    match Tab.get acc.1.ecc 0 w with
    | 0 => acc
    | 1 => (acc.1.corrected (4 * w), acc.2)
    | _ => (acc.1.ueAddr (4 * w), true)) (L, false)

/-- SCRUB (R555): the scrubber reads the word at `a`; `err` is what its check bits show beyond what the
state already holds: 0 nothing, 1 a single-bit error, 2 a double-bit error.
(Log: DEDUCED, entry 97.) -/
def execScrub (l : LaneId) (a : SramWord) (err : Fin 3) (s : State) :
    Host.Outcome State Fault Refusal :=
  let L := s.lane l
  let k := bankOf (4 * a.val)
  .next (if L.alive ∧ L.fld 0x40040004 0 8 ≠ 0 ∧ L.bankPower k ≠ 2 ∧ s.power ≤ 1 then
    match max (Tab.get L.ecc 0 a.val) err.val with
    | 0 => s
    | 1 => s.modLane l (fun L => L.corrected (4 * a.val))
    | _ =>
      let s := s.modLane l (fun L => { L with ecc := Tab.set L.ecc 0 a.val 2 }.ueAddr (4 * a.val))
      if L.owner k = 0 then s.modLane l (fun L => L.setFlag (0x40040200 + 4 * k) 7 true)
      else s.laneFault l 5
  else s)

/-! ### Hand-over and power (R548 to R551) -/

/-- A write of BANK_CFG[k].OWN (R548, R549).
(Log: DEDUCED, entry 98.) -/
def Lane.bankOwner (L : Lane) (k own : Nat) : Lane :=
  let st := 0x40040200 + 4 * k
  let cfg := 0x40040100 + 4 * k
  if L.flag st 3 then L.setFlag 0x40040000 0 true
  else if own ≠ 0 ∧ (L.fld st 4 2 = 2 ∨ L.flag st 6 ∨ L.flag st 7) then L.setFlag 0x40040000 0 true
  else if own = L.owner k then L.setFld cfg 0 3 own
  else { (L.setFld cfg 0 3 own).setFlag st 3 true with
           banks := Tab.set L.banks ⟨none⟩ k ⟨some own⟩ }

/-- BANK_OWNER_WRITE: only context 0 writes OWN. -/
def execBankOwnerWrite (l : LaneId) (c : CtxNo) (k : SramNo) (own : Fin 8) (s : State) :
    Host.Outcome State Fault Refusal :=
  .next (if c.val = 0 then s.modLane l (fun L => L.bankOwner k own) else s)

/-- HANDOVER_COMPLETE (R548): the new owner takes effect and E82 is raised. -/
def execHandoverComplete (l : LaneId) (k : SramNo) (s : State) : Host.Outcome State Fault Refusal :=
  .next (s.modLane l (fun L =>
    match (Tab.get L.banks ⟨none⟩ k).toOwner with
    | none => L
    | some o =>
      let L := { L with banks := Tab.set L.banks ⟨none⟩ k ⟨none⟩ }
      ((L.setFld (0x40040200 + 4 * k) 0 3 o).setFlag (0x40040200 + 4 * k) 3 false).raise 82 0 k
        (BitVec.ofNat 32 o)))

/-- A bank starts its zero-fill (R551): its bytes are 0, and accesses wait until FILL clears. -/
def Lane.fillBank (L : Lane) (k : Nat) : Lane :=
  { L with
    sram := L.sram.filter (fun e => bankOf e.1 != k)
    ecc := L.ecc.filter (fun e => bankOf (4 * e.1) != k) }.setFlag (0x40040200 + 4 * k) 6 true

/-- A write of BANK_CFG[k].PWR (R550, R551); a write of 3 acts as 0, and bank 23's field is read-only.
(Log: DEDUCED, entry 98.) -/
def Lane.bankPwr (L : Lane) (k p : Nat) : Lane :=
  let st := 0x40040200 + 4 * k
  let cfg := 0x40040100 + 4 * k
  let act := if p = 3 then 0 else p
  if k = 23 then L
  else if L.bankWaits k ∨ (act = 2 ∧ L.owner k ≠ 0) then L.setFlag 0x40040000 1 true
  else
    let was := L.bankPower k
    let L := (L.setFld cfg 4 2 p).setFld st 4 2 act
    if was = 2 ∧ act ≠ 2 then L.fillBank k else L

/-- BANK_POWER_WRITE. -/
def execBankPowerWrite (l : LaneId) (c : CtxNo) (k : SramNo) (p : Fin 4) (s : State) :
    Host.Outcome State Fault Refusal :=
  .next (if c.val = 0 then s.modLane l (fun L => L.bankPwr k p) else s)

/-- FILL_COMPLETE (R551): the bank serves again. -/
def execFillComplete (l : LaneId) (k : SramNo) (s : State) : Host.Outcome State Fault Refusal :=
  .next (s.modLane l (fun L => L.setFlag (0x40040200 + 4 * k) 6 false))

/-- A write of the whole word of BANK_CFG[k] (R557): its owner and power are judged on the bank as it
stands before the write.
(Log: DEDUCED, entry 98.) -/
def Lane.bankCfg (L : Lane) (k : Nat) (v : Word) : Lane :=
  let cfg := 0x40040100 + 4 * k
  let M := (L.bankPwr k (fieldNat v 4 2))
  let own := L.bankOwner k (fieldNat v 0 3)
  let M := (M.setFlag cfg 3 (bitOf v 3)).setFlag cfg 6 (bitOf v 6)
  let M := (M.setFld cfg 0 3 (own.fld cfg 0 3)).setFlag (0x40040200 + 4 * k) 3
    (own.flag (0x40040200 + 4 * k) 3)
  { M.setFlag 0x40040000 0 (own.flag 0x40040000 0) with banks := own.banks }

/-- Two writes meet on one word in one cycle (R552): the losing bytes are discarded, STAT.COLL, COLL_ADDR
with the losing master, and E81.
(Log: DEDUCED, entry 37.) -/
def Lane.collide (L : Lane) (a m : Nat) : Lane :=
  let L := (L.setFlag 0x40040000 2 true).wr 0x40040008
    (BitVec.ofNat 32 (a / 4 * 4 + m % 16 * 0x1000000))
  L.raise 81 0 (bankOf a) (BitVec.ofNat 32 (a / 4 * 4))

end Sys2Proof.Machine
end

