-- ==== Sys2Proof/Machine/Spx.lean ====
section
/-!
DEFINITION. The speculation engine: curd edges, compensation, SPX.VIS and the staging ring of the ledger
(R158 to R165, R170 to R192).
-/

namespace Sys2Proof.Machine

/-- A time rounded to the nearest whole microsecond, a half upward (R32, R158). -/
def roundUs (t : Nat) : Nat := (t + 50) / 100 * 100
/-- The first whole microsecond at or after a time. -/
def ceilUs (t : Nat) : Nat := (t + 99) / 100 * 100

def Lane.ent (L : Lane) (e : Nat) : CurdE := Tab.get L.spx.ents CurdE.reset e
def Lane.setEnt (L : Lane) (e : Nat) (x : CurdE) : Lane :=
  { L with spx := { L.spx with ents := Tab.set L.spx.ents CurdE.reset e x } }

/-- A handle: the entry in bits 9:0, the generation in bits 21:10 (R163).
(Log: DESIGN CHOICE, entry 36.) -/
def mkHandle (e gen : Nat) : Nat := e + 1024 * gen

/-- The switch link of the lane carries frames. -/
def Lane.linkUp (L : Lane) : Bool := L.flag 0x400F0040 0

/-- Put a frame on the lane's switch link. -/
def Lane.send (L : Lane) (m : LinkMsg) : Lane :=
  if L.linkUp then { L with link := L.link ++ [m] } else L

/-- Send a stamped pulse command; the lane numbers its commands in the order of issue (R160).  A lane in factory
test entry sends none (R48). -/
def Lane.sendCmd (L : Lane) (unit at_ : Nat) (act : PulseAct) (curd : Option Nat) : Lane :=
  if L.phase == Phase.factory then L
  else { L.send (.cmd ⟨unit, at_, L.seq, act, curd, none⟩) with seq := L.seq + 1 }

/-- What an edge does at the pin (R158, R176, R247): a level, or the start of a nozzle's PWM. -/
def edgeAct (level pwm : Bool) : PulseAct := if level && pwm then .pwmStart else .level level

/-- The nozzle of the boom model that a channel serves. -/
def Lane.nozzleOf (L : Lane) (ch : Nat) : Option Nat :=
  (L.sec.noz.find? (fun e => bitOf (e.2.getD 3 0) 31 && fieldNat (e.2.getD 4 0) 0 8 == ch)).map Prod.fst

def Lane.nz (L : Lane) (n : Nat) : NozSt := Tab.get L.sec.nz NozSt.reset n

/-! ### The lane's edges, and what SPX.VIS shows -/

/-- Remember an edge (R177, R178).
(Log: DESIGN CHOICE, entry 38.) -/
def Lane.addEdge (L : Lane) (ch at_ : Nat) (level : Bool) (st key dly : Nat) : Lane :=
  { L with spx := { L.spx with
      hist := L.spx.hist ++ [⟨ch, at_, L.spx.seq, level, st, key, dly⟩], seq := L.spx.seq + 1 } }

/-- Change the remembered edges. -/
def Lane.mapEdges (L : Lane) (f : EdgeH → EdgeH) : Lane :=
  { L with spx := { L.spx with hist := L.spx.hist.map f } }

/-- The remembered edge with a handle takes another state. -/
def Lane.markEdge (L : Lane) (key st : Nat) : Lane :=
  L.mapEdges (fun h => if h.key == key && decide (h.st < 2) then { h with st := st } else h)

/-- Of two edges on a channel the later one, the later-issued at one time (R160). -/
def laterEdge (a b : EdgeH) : EdgeH :=
  if a.at_ < b.at_ then b else if b.at_ < a.at_ then a else if a.seq < b.seq then b else a

/-- The latest of a list of edges. -/
def latestEdge (hs : List EdgeH) : Option EdgeH :=
  match hs with
  | [] => none
  | h :: rest => some (rest.foldl laterEdge h)

/-- SPX.VIS shows the edges that have fired or are set, and the compensations, from their times (R177).
(Log: DESIGN CHOICE, entry 38.) -/
def EdgeH.seen (h : EdgeH) : Bool := [1, 2, 3, 6, 8].contains h.st
/-- A command that stands on the port. -/
def EdgeH.stands (h : EdgeH) : Bool := [0, 1, 2, 3, 4, 6].contains h.st
/-- An edge that counts in step 2 of R178. -/
def EdgeH.counts (h : EdgeH) : Bool := [0, 1, 2, 4, 6].contains h.st

/-- The level of a channel in SPX.VIS as it stands at a time not after now, or just before it.
(Log: DESIGN CHOICE, entry 38.) -/
def Lane.visAt (L : Lane) (ch t : Nat) (strict : Bool) : Bool :=
  match latestEdge (L.spx.hist.filter (fun h =>
      h.ch == ch && h.seen && (if strict then decide (h.at_ < t) else decide (h.at_ ≤ t)))) with
  | some h => h.level
  | none => false

/-- The level of a channel in SPX.VIS (R190). -/
def Lane.vis (L : Lane) (ch : Nat) : Bool := decide (ch < 208) && L.visAt ch L.lt false

/-- SPX.VIS[w].
(Log: DESIGN CHOICE, entry 38.) -/
def Lane.visWord (L : Lane) (w : Nat) : Word :=
  (List.range 32).foldl (fun x j => if L.vis (32 * w + j) then setBit x j true else x) 0

/-- The level that the latest set edge on a channel gives, from a list of edges (R180). -/
def setLevel (hs : List EdgeH) (ch t : Nat) : Option Bool :=
  (latestEdge (hs.filter (fun h => h.ch == ch && h.st == 2 && decide (h.at_ ≤ t)))).map EdgeH.level

/-- MIR_DIFF of R570: the channels of the boom model at which the mirror's latest set edge and the lane's
own SPX.VIS differ. -/
def Lane.mirDiff (L : Lane) : Nat :=
  (List.range 208).countP (fun ch => (L.nozzleOf ch).isSome &&
    (match setLevel L.spx.mirror ch L.lt with
     | some v => v != L.vis ch
     | none => false))

/-! ### The ledger's staging ring (R183 to R187) -/

/-- A record of R184. -/
structure Rec where
  kind : Nat
  edgeT : Nat
  ch : Nat
  level : Bool
  state : Nat
  steered : Bool
  cond : Nat
  src : Nat
  handle : Nat
  noq : Bool
  res : Word
  dl : Nat
  comp : Word
  area : Word
deriving DecidableEq, Repr

/-- The eight words of a record. -/
def Rec.words (r : Rec) : List Word :=
  [loWord r.edgeT, hiWord r.edgeT,
   BitVec.ofNat 32 (r.ch % 256 + b2n r.level * 256 + r.state % 4 * 512 + r.kind % 16 * 2048 +
     b2n r.steered * 32768 + r.cond % 512 * 65536 + r.src % 2 * 33554432),
   BitVec.ofNat 32 (r.handle % 4194304 + b2n r.noq * 2147483648),
   r.res, BitVec.ofNat 32 r.dl, r.comp, r.area]

/-- STATE of each KIND (R185). -/
def stateOfKind (k : Nat) : Nat :=
  match k with
  | 0 => 0
  | 1 | 2 | 3 | 7 => 1
  | 4 | 5 | 6 => 2
  | _ => 3

/-- Write one record into the ring (R186).
(Log: DEDUCED, entry 40.) -/
def Lane.ringWrite (L : Lane) (r : Rec) : Lane :=
  let wr := L.fld 0x40060044 0 12
  let base := (L.rd 0x40060040).toNat / 0x20000 * 0x20000
  let L := L.engWrite .section_ (base + 32 * wr) (r.words.flatMap wordBytes)
  { L.setFld 0x40060044 0 12 (wr + 1) with spx := { L.spx with
      held := L.spx.held + 1, wrote := L.spx.wrote ++ [L.lt] } }

/-- A GAP record: LT of writing, and the count of lost records, or all ones where it is unknown.
(Log: DEDUCED, entry 40; DESIGN CHOICE, entry 126.) -/
def Lane.gapRec (L : Lane) (count : Word) : Rec :=
  ⟨8, L.lt, 0, false, 3, false, 0, 0, 0, false, count, 0, 0xFFFFFFFF, 0⟩

/-- The GAP record that goes before the first record after a boot (R187).
(Log: DEDUCED, entry 40.) -/
def Lane.bootGap (L : Lane) : Lane :=
  if L.spx.gap then
    { L.ringWrite (L.gapRec 0xFFFFFFFF) with spx := { (L.ringWrite (L.gapRec 0xFFFFFFFF)).spx with gap := false } }
  else L

/-- When space has returned after records were lost, the GAP record with their count is written (R187).
(Log: DEDUCED, entry 40.) -/
def Lane.lostGap (L : Lane) : Lane :=
  if L.spx.lost ≠ 0 ∧ L.spx.held < 4096 then
    let M := L.ringWrite (L.gapRec (satWord L.spx.lost))
    { M with spx := { M.spx with lost := 0, ovf := false } }
  else L

/-- Write a record: a full ring loses it, with LDG_OVF, CNT_LDG_LOST and E62 once an overflow (R187).
(Log: DEDUCED, entry 40.) -/
def Lane.ledger (L : Lane) (r : Rec) : Lane :=
  let L := L.bootGap.lostGap
  if L.spx.held < 4096 then L.ringWrite r
  else
    let was := L.spx.ovf
    let L := ({ L with spx := { L.spx with lost := L.spx.lost + 1, ovf := true } }).bump 0x40060024
    if was then L else (L.setFlag 0x40060004 17 true).raise 62 0 0 0

/-- Whether the lane's port is steered for a unit. -/
def State.portSteered (s : State) (l : LaneId) (u : Nat) : Bool := s.steer u == laneNo l

/-- Whole microseconds from one time to another, rounded down, as a 32-bit two's complement number. -/
def usOfs (a b : Nat) : Word := BitVec.ofInt 32 (((b : Int) - (a : Int)) / 100)

/-- COND of a record (R31, R184): the conditions of R30 of the channel's nozzle at the last cycle.  For a
channel of no nozzle the spec states none: a free value.
(Log: DESIGN CHOICE, entry 38.) -/
def Lane.condOf (L : Lane) (ch : Nat) : Nat :=
  match L.nozzleOf ch with
  | some n => (L.nz n).cond
  | none => (Config.freeWord L.free).toNat % 512

/-- The misapplied area of R183 in cm², for the slot `slot`.
(Log: DESIGN CHOICE, entry 125.) -/
def Lane.areaOf (L : Lane) (e : CurdE) (slot : Nat) : Word :=
  match L.nozzleOf e.ch with
  | none => 0
  | some n =>
    let z := L.nz n
    let sOff := slot + 100 * z.dOff
    let sOn := slot + 100 * z.dOn
    let span := if e.level then sOff - (e.at_ + 100 * z.dOn) else sOn - (e.at_ + 100 * z.dOff)
    let a := roundHalfUp (z.w * z.v * (span : Rat) / 100000000 * 10000)
    satInt (if e.level then a else -a)

/-- A record of a curd edge. -/
def curdRec (h : Nat) (e : CurdE) (kind : Nat) (res comp area : Word) : Rec :=
  ⟨kind, e.at_, e.ch, e.level, stateOfKind kind, e.steered, e.cond, e.src, h, false, res, e.dl, comp, area⟩

/-! ### Entry and resolution -/

/-- Outstanding entries (R170). -/
def Lane.occ (L : Lane) : Nat := (L.spx.ents.filter (fun e => e.2.st != 0)).length

/-- OCC follows the queue; E61 and HWM_HIT when it rises to HWM from below (R188). -/
def Lane.noteOcc (L : Lane) (was : Nat) : Lane :=
  let now := L.occ
  let L := L.setFld 0x40060004 0 11 now
  if was < L.fld 0x40060000 0 10 ∧ L.fld 0x40060000 0 10 = now then
    (L.setFlag 0x40060004 16 true).raise 61 0 0 (BitVec.ofNat 32 now)
  else L

/-- Resolve an entry: it is free at once and remembers how it resolved (R164, R170).
(Log: DESIGN CHOICE, entry 36.) -/
def Lane.freeEnt (L : Lane) (e : Nat) (res : Nat) : Lane :=
  let x := L.ent e
  let L := L.setEnt e { x with st := 0, res := res, drainAt := none }
  L.setFld 0x40060004 0 11 L.occ

/-- A set edge goes to the partner's mirror (R180). -/
def Lane.noteSet (L : Lane) (h : EdgeH) : Lane :=
  { L with spx := { L.spx with unsent := L.spx.unsent ++ [h] } }

/-- Compensation (R178 steps 1 to 4) of a drained edge whose remembered key is `key`, drained at `t`: the
slot, whether a command went out, and the lane after it. -/
def Lane.compensate (L : Lane) (e : CurdE) (key t : Nat) : Nat × Bool × Lane :=
  let slot := ceilUs (max t e.at_ + 2000)
  let L := L.mapEdges (fun h =>
    if h.key == key && h.ch == e.ch && decide (h.st < 2 ∨ h.st = 7) then { h with st := 3 } else h)
  let mine := L.spx.hist.filter (fun h => h.ch == e.ch)
  let level : Bool := match latestEdge (mine.filter (fun h => h.counts && decide (h.at_ < slot))) with
    | some h => h.level
    | none => L.visAt e.ch e.at_ true
  let standing : Bool := match latestEdge (mine.filter (fun h => h.stands && decide (h.at_ ≤ slot))) with
    | some h => h.level
    | none => e.level
  if standing ≠ level then
    let up := L.linkUp
    let L := L.sendCmd e.ch slot (edgeAct level e.pwm) none
    (slot, up, L.addEdge e.ch slot level 4 0x400000 e.dly)
  else (slot, false, L.addEdge e.ch slot level 5 0x400000 e.dly)

/-- A drain after firing, by command (kind 4), at the deadline (5) or by a late cancel (6), that resolves at
`tr`: compensation, record, E60 and its count (R178).
(Log: DEDUCED, entry 39.) -/
def Lane.drainFired (L : Lane) (h : Nat) (e : CurdE) (t tr kind : Nat) : Lane :=
  let r := L.compensate e h t
  let L := r.2.2
  let comp := if r.2.1 then usOfs e.at_ r.1 else 0xFFFFFFFF
  let L := L.ledger (curdRec h e kind (usOfs e.at_ tr) comp (L.areaOf e r.1))
  let L := L.bump (if kind = 5 then 0x40060018 else 0x40060014)
  L.raise 60 kind 0 (BitVec.ofNat 32 h)

/-- Set an outstanding entry at the instant `tr`: its record and the mirror (R171, R180). -/
def Lane.setEdgeOf (L : Lane) (e tr kind : Nat) : Lane :=
  let x := L.ent e
  let h := mkHandle e x.gen
  let L := L.markEdge h 2
  let L := L.noteSet ⟨x.ch, x.at_, L.spx.seq, x.level, 2, h, x.dly⟩
  let L := L.ledger (curdRec h x kind (usOfs x.at_ tr) 0xFFFFFFFF 0)
  L.freeEnt e 2

/-- STEERED and COND of a record written before the edge's time are taken now (R184).
(Log: DEDUCED, entry 39.) -/
def State.stampEnt (s : State) (l : LaneId) (e : Nat) : State :=
  s.modLane l (fun L =>
    let x := L.ent e
    let L := if (L.nozzleOf x.ch).isSome then L else L.useFree
    L.setEnt e { x with steered := s.portSteered l x.ch, cond := (s.lane l).condOf x.ch })

/-- Enter a curd edge (R162, R170, R171, R174): the handle, or a refusal code, which counts in CNT_REFUSED for a
program's edge (R189).  Which free entry is taken
is open (R163): any.
(Log: DESIGN CHOICE, entries 36, 121.) -/
def Lane.curd (L : Lane) (ch : Nat) (level pwm : Bool) (at_ dl src dly : Nat) : Word × Lane :=
  let code : Nat :=
    if L.occ ≥ 1024 then 0x80000001
    else if (L.spx.ents.filter (fun e => e.2.st != 0 && e.2.ch == ch)).length ≥ 4 then 0x80000002
    else if at_ < L.lt + 2000 then 0x80000003
    else 0
  if code ≠ 0 then (BitVec.ofNat 32 code, if src = 1 then L.bump 0x40060020 else L)
  else
    let free := (List.range 1024).filter (fun e => (L.ent e).st == 0)
    let e := free.getD (Config.freeNat L.free % free.length) 0
    let L := L.useFree
    let old := L.ent e
    let gen := if old.used then (old.gen + 1) % 4096 else old.gen % 4096
    let h := mkHandle e gen
    let was := L.occ
    let x : CurdE := { CurdE.reset with
      used := true, gen := gen, st := 1, ch := ch, level := level, at_ := at_, dl := dl, src := src,
      pwm := pwm, dly := dly }
    let L := L.setEnt e x
    if L.linkUp then
      let L := (L.sendCmd ch at_ (edgeAct level pwm) (some h)).addEdge ch at_ level 0 h dly
      (BitVec.ofNat 32 h, L.noteOcc was)
    else
      let L := (L.addEdge ch at_ level 7 h dly).bump 0x40060010
      (BitVec.ofNat 32 h, L.setEnt e { x with st := 0, res := 3 })

/-- The entry a handle names, unless the handle is stale (R163). -/
def Lane.entOf (L : Lane) (h : Nat) : Option Nat :=
  let x := L.ent (h % 1024)
  if x.used && x.gen == h / 1024 % 4096 then some (h % 1024) else none

/-- The entry fires if its issue time has come (R171, R176); a drain that let it fire then resolves it with
compensation.
(Log: DEDUCED, entry 39.) -/
def State.fireDue (s : State) (l : LaneId) (e : Nat) : State :=
  let x := (s.lane l).ent e
  if x.st = 1 ∧ x.at_ ≤ (s.lane l).lt then
    let s := s.stampEnt l e
    s.modLane l (fun L =>
      let y := L.ent e
      let h := mkHandle e y.gen
      let L := ((L.setEnt e { y with st := 2 }).markEdge h 1)
      let L := L.ledger (curdRec h y 0 0 0xFFFFFFFF 0)
      match y.drainAt with
      | some t => (L.drainFired h y t y.at_ 4).freeEnt e 3
      | none => L)
  else s

/-- The entry resolves if its deadline has come (R182): a turn-on is drained, a turn-off is set.
(Log: DEDUCED, entry 39.) -/
def Lane.deadlineDue (L : Lane) (e : Nat) : Lane :=
  let x := L.ent e
  let d := x.at_ + 100 * x.dl
  if x.st = 2 ∧ d ≤ L.lt then
    if x.level then (L.drainFired (mkHandle e x.gen) x d d 5).freeEnt e 3
    else (L.setEdgeOf e d 3).bump 0x4006001C
  else L

/-- What has fallen due on an entry by now, which a command meets (R165).
(Log: DEDUCED, entry 39.) -/
def State.dueEnt (s : State) (l : LaneId) (e : Nat) : State :=
  (s.fireDue l e).modLane l (fun L => L.deadlineDue e)

/-- `set` on a handle (R164, R165). -/
def State.spxSet (s : State) (l : LaneId) (h : Nat) : Nat × State :=
  match (s.lane l).entOf h with
  | none => (7, s)
  | some e =>
    let s := s.dueEnt l e
    let x := (s.lane l).ent e
    if x.st = 0 then (x.res, s)
    else if x.drainAt.isSome then (3, s)
    else if (s.lane l).lt < x.at_ then
      (0, (s.stampEnt l e).modLane l (fun L => L.setEdgeOf e L.lt 1))
    else (1, s.modLane l (fun L => L.setEdgeOf e L.lt 2))

/-- `drain` on a handle (R165, R171, R172): silent when the issue time is 20 us or more away. -/
def State.spxDrain (s : State) (l : LaneId) (h : Nat) : Nat × State :=
  match (s.lane l).entOf h with
  | none => (7, s)
  | some e =>
    let s := s.dueEnt l e
    let x := (s.lane l).ent e
    if x.st = 0 then (x.res, s)
    else if x.drainAt.isSome then (3, s)
    else if x.at_ < (s.lane l).lt + 2000 then
      if x.st = 2 then
        (1, s.modLane l (fun L => (L.drainFired h x L.lt L.lt 4).freeEnt e 3))
      else (1, s.modLane l (fun L => L.setEnt e { x with drainAt := some L.lt }))
    else
      (0, (s.stampEnt l e).modLane l (fun L =>
        let L := { L with spx := { L.spx with cancels := L.spx.cancels ++ [Cancel.mk h (L.ent e) false] } }
        ((L.markEdge h 7).send (.cancel h L.lt)).freeEnt e 3))

/-- `crdst` on a handle (R164, R165). -/
def State.spxState (s : State) (l : LaneId) (h : Nat) : Nat × State :=
  match (s.lane l).entOf h with
  | none => (7, s)
  | some e =>
    let s := s.dueEnt l e
    let x := (s.lane l).ent e
    (if x.st = 0 then x.res
     else if x.drainAt.isSome then 3
     else if (s.lane l).lt < x.at_ then 0 else 1, s)

/-- CURD_FIRE (R171, R176): a pending edge reaches its issue time. -/
def execCurdFire (l : LaneId) (e : Fin 1024) (s : State) : Host.Outcome State Fault Refusal :=
  .next (s.fireDue l e)

/-- CONFIRM_DEADLINE (R182): an edge neither set nor drained by its deadline. -/
def execConfirmDeadline (l : LaneId) (e : Fin 1024) (s : State) : Host.Outcome State Fault Refusal :=
  .next (s.modLane l (fun L => L.deadlineDue e))

/-- A command that its lane has cancelled executes all the same: STEERED and COND of its records are those of this
instant (R173, R184).
(Log: DEDUCED, entry 39.) -/
def State.curdRan (s : State) (l : LaneId) (curd : Option Nat) : State :=
  match curd with
  | none => s
  | some h => s.modLane l (fun L => { L with spx := { L.spx with
      cancels := L.spx.cancels.map (fun k =>
        if k.handle == h then
          let cond := if (L.nozzleOf k.ent.ch).isSome then L.condOf k.ent.ch else k.ent.cond
          { k with ent := { k.ent with steered := s.portSteered l k.ent.ch, cond := cond } }
        else k) } })

/-- A cancel reaches the switch die (R172, R421): the command goes if the replica has not passed its stamp,
and the lane counts a silent drain; otherwise the die reports it executed. -/
def State.cancelAt (s : State) (l : LaneId) (h : Nat) : State :=
  match (s.lane l).spx.cancels.find? (fun c => c.handle == h && !c.done) with
  | none => s
  | some c =>
    if s.die.replica ≤ c.ent.at_ then
      let s := s.modDie (fun d => { d with
        cmds := d.cmds.set l ((d.cmds.get l).filter (fun m => m.curd != some h)) })
      s.modLane l (fun L =>
        { L.bump 0x40060010 with spx := { L.spx with
            cancels := L.spx.cancels.filter (fun k => !(k.handle == h)) } })
    else
      s.modLane l (fun L => { L with spx := { L.spx with
        cancels := L.spx.cancels.map (fun k => if k.handle == h then { k with done := true } else k) } })

/-- CANCEL_ARRIVAL: a cancel arrives at the head of the lane's link, behind the command it names (R22).
(Log: DEDUCED, entry 39.) -/
def execCancelArrival (l : LaneId) (h : BitVec 22) (s : State) : Host.Outcome State Fault Refusal :=
  .next (match (s.lane l).link with
    | .cancel k _ :: rest =>
      if k = h.toNat then (s.modLane l (fun L => { L with link := rest })).cancelAt l h.toNat else s
    | _ => s)

/-- DRAIN_LATE_CANCEL (R173): the report reaches the lane. -/
def execDrainLateCancel (l : LaneId) (h : BitVec 22) (s : State) : Host.Outcome State Fault Refusal :=
  .next (match (s.lane l).spx.cancels.find? (fun c => c.handle == h.toNat && c.done) with
    | none => s
    | some c =>
      s.modLane l (fun L =>
        let e := c.ent
        let L := { L with spx := { L.spx with
          cancels := L.spx.cancels.filter (fun k => !(k.handle == h.toNat)) } }
        let L := L.ledger (curdRec h.toNat e 0 0 0xFFFFFFFF 0)
        (L.drainFired h.toNat e L.lt L.lt 6).setFlag 0x40060004 18 true))

/-- The link goes down (R174): the pending entries whose issue time has not passed resolve as silent
drains, and reports of cancels can no longer come, so that no drain under way counts (R172). -/
def Lane.spxLinkDown (L : Lane) : Lane :=
  let L := (List.range 1024).foldl (fun L e =>
    let x := L.ent e
    if x.st = 1 ∧ L.lt ≤ x.at_ then
      ((L.markEdge (mkHandle e x.gen) 7).freeEnt e 3).bump 0x40060010
    else L) L
  { L with spx := { L.spx with cancels := [] } }

/-- COMPENSATION_SLOT (R178 step 4): LT reaches a slot; SPX.VIS and the flow target take the level. -/
def execCompensationSlot (l : LaneId) (s : State) : Host.Outcome State Fault Refusal :=
  .next (s.modLane l (fun L => L.mapEdges (fun h =>
    if h.at_ ≤ L.lt then
      if h.st = 4 then { h with st := 6 } else if h.st = 5 then { h with st := 8 } else h
    else h)))

/-- An edge set from issue (R158): the command, its DIRECT record (R185) and the mirror. -/
def State.directEdge (s : State) (l : LaneId) (ch : Nat) (level : Bool) (t : Nat) : State :=
  s.modLane l (fun L =>
    let cond := L.condOf ch
    let L := if (L.nozzleOf ch).isSome then L else L.useFree
    let dly := match L.nozzleOf ch with
      | some n => if level then (L.nz n).dOn else (L.nz n).dOff
      | none => 0
    let L := (L.sendCmd ch t (.level level) none).addEdge ch t level 2 0x400000 dly
    let L := L.noteSet ⟨ch, t, L.spx.seq, level, 2, 0x400000, dly⟩
    L.ledger (Rec.mk 7 t ch level 1 (s.portSteered l ch) cond 1 0 true 0 0 0xFFFFFFFF 0))

end Sys2Proof.Machine
end

