-- ==== Sys2Proof/Machine/Units.lean ====
section
/-!
DEFINITION. The pulse units of the switch die: what a unit's output is, how shadows transfer, how
commands and register writes act on a unit (R405 to R422).  Times are ticks of replica LT.
-/

namespace Sys2Proof.Machine

/-- Is pulse unit `u` a bridge unit (R536)? -/
def isBridge (u : Nat) : Bool := decide (208 ≤ u)

/-- A unit does not run (R66): in NAP and deeper none but DIRECT channels, in DOZE no bridge.
(Log: DESIGN CHOICE, entry 127.) -/
def State.ladderIdle (s : State) (u : Nat) : Bool :=
  s.steer u != 2 && (decide (3 ≤ s.power) || (isBridge u && s.power == 2))

/-- An H-class channel: index 192 to 207 (R428). -/
def isH (n : Nat) : Bool := decide (192 ≤ n)

/-- The bank of a channel, as an index 0 to 7 (R42): 24 N-class and 2 H-class channels each. -/
def bankOfCh (n : Nat) : Nat := if isH n then (n - 192) / 2 else n / 24

/-- The channels of bank index `k`, lowest first. -/
def channelsOf (k : Nat) : List Nat :=
  (List.range 24).map (fun i => 24 * k + i) ++ [192 + 2 * k, 193 + 2 * k]

/-- The switch link passes the stamp of a pad's change to both lanes (R83): replica LT of the first sample of the run
that passed the filter. -/
def State.passStamp (s : State) (pad stamp : Nat) : State :=
  s.bothLanes (fun L => if L.alive && L.flag 0x400F0040 0 then
    { L with pads := Tab.set L.pads 0 pad (min stamp s.die.replica) } else L)

/-- Ticks of the unit's pulse clock: 1 us for a channel, one tick for a bridge (R405). -/
def unitTick (u : Nat) : Nat := if isBridge u then 1 else 100

def Die.unit (d : Die) (u : Nat) : PUnit := Tab.get d.units (PUnit.reset (isBridge u)) u
def Die.setUnit (d : Die) (u : Nat) (p : PUnit) : Die :=
  { d with units := Tab.set d.units (PUnit.reset (isBridge u)) u p }

/-- The register addresses of a unit: CFG, PER, DUTY. -/
def cfgAddr (u : Nat) : Nat := if isBridge u then 0x400E0100 + 32 * (u - 208) else 0x400D0100 + 16 * u
def perAddr (u : Nat) : Nat := cfgAddr u + 4
def dutAddr (u : Nat) : Nat := cfgAddr u + 8

/-- A port's image of a register, as the die holds it (R406). -/
def Die.image (d : Die) (l : LaneId) (a : Nat) : Word :=
  match (d.img.get l).find? (fun e => e.1 == a) with
  | some e => e.2
  | none => fldsReset (laneFlds a)
def Die.setImage (d : Die) (l : LaneId) (a : Nat) (v : Word) : Die :=
  { d with img := d.img.set l (Tab.set (d.img.get l) (fldsReset (laneFlds a)) a v) }

/-- A port's shadows of a unit (R407, R412). -/
def Die.shadow (d : Die) (l : LaneId) (u : Nat) : Shadow := Tab.get (d.sh.get l) (Shadow.reset (isBridge u)) u
def Die.setShadow (d : Die) (l : LaneId) (u : Nat) (x : Shadow) : Die :=
  { d with sh := d.sh.set l (Tab.set (d.sh.get l) (Shadow.reset (isBridge u)) u x) }

/-- The shadows of the port that governs a unit. -/
def State.shadow (s : State) (u : Nat) : Shadow := s.die.shadow (s.governs u) u

/-- CFG of the port that governs a unit. -/
def State.unitCfg (s : State) (u : Nat) : Word := s.die.image (s.governs u) (cfgAddr u)

/-- Dead time of a bridge unit from its CFG. -/
def cfgDT (cfg : Word) : Nat := fieldNat cfg 16 8

/-- The trip action: channels 0 OFF, 1 REPORT; bridges 0 OFF, 1 BRAKE, 2 REPORT (R418). -/
def State.tripAct (s : State) (u : Nat) : Nat :=
  if isBridge u then fieldNat (s.die.image (s.governs u) (cfgAddr u + 12)) 8 2
  else fieldNat (s.unitCfg u) 8 1

/-- A latched trip whose action is not REPORT governs the output (R416). -/
def State.tripped (s : State) (u : Nat) (p : PUnit) : Bool :=
  p.trip && !(if isBridge u then s.tripAct u == 2 else s.tripAct u == 1)

/-- SOFT of a channel in ticks (R429), from the image that governs it. -/
def State.softTicks (s : State) (n : Nat) : Nat :=
  fieldNat (s.die.image (s.governs n) (0x400F1000 + 16 * n)) 24 6 * 1000

/-- E16 to E22 are raised on both lanes with the unit kind and index (R423, R526). -/
def State.unitEvent (s : State) (e u : Nat) (d2 : Nat) : State :=
  s.raiseBoth e (b2n (isBridge u)) (if isBridge u then u - 208 else u) (BitVec.ofNat 32 d2)

/-- Both lanes count an enable held (R420). -/
def State.countHeld (s : State) (u : Nat) : State :=
  (s.bothLanes (fun L => if L.alive then L.bump (if isBridge u then 0x400E0010 else 0x400D0010)
    else L)).unitEvent 20 u 0

/-- The level a channel's commands, force, freeze and trip ask of its input line (R416). -/
def State.wantLine (s : State) (u : Nat) (p : PUnit) : Bool :=
  if s.tripped u p then false
  else if p.frozen then p.line
  else if p.force = 1 then false
  else if p.force = 2 then true
  else if p.run then p.h else p.level

/-- Bring a channel's input line to what governs it: a fall begins a shutdown of SOFT, and a rise
before the shutdown is complete is held (R420).  A turn-off cancels a held enable.
(Log: DEDUCED, entry 77.) -/
def State.settleLine (s : State) (u : Nat) : State :=
  let p := s.die.unit u
  let want := s.wantLine u p
  let now := s.die.replica
  if want then
    if p.line || p.held then s
    else match p.shut with
      | some t =>
        if now < t then
          (s.modDie (fun d => d.setUnit u { p with held := true })).countHeld u
        else s.modDie (fun d => d.setUnit u { p with line := true, shut := none })
      | none => s.modDie (fun d => d.setUnit u { p with line := true })
  else if p.line then
    s.modDie (fun d => d.setUnit u
      { p with line := false, held := false, shut := some (now + s.softTicks u) })
  else s.modDie (fun d => d.setUnit u { p with held := false })

/-- The reference `h` of a bridge changes: the other gate turns off at once and this gate turns on
after the dead time (R410). -/
def PUnit.setRef (p : PUnit) (h : Bool) (now : Nat) : PUnit :=
  if h then
    let off := if p.gl then now else p.glOff
    if p.h && (p.gh || p.wait = 1) then p
    else if p.dt = 0 then { p with h := true, gl := false, glOff := off, gh := true, wait := 0 }
    else { p with h := true, gl := false, glOff := off, wait := 1, waitAt := now + p.dt }
  else
    let off := if p.gh then now else p.ghOff
    if !p.h && (p.gl || p.wait = 2) then p
    else if p.dt = 0 then { p with h := false, gh := false, ghOff := off, gl := true, wait := 0,
                                   glSeen := true }
    else { p with h := false, gh := false, ghOff := off, wait := 2, waitAt := now + p.dt }

/-- Both gates off, dead time abandoned. -/
def PUnit.gatesOff (p : PUnit) (now : Nat) : PUnit :=
  { p with ghOff := if p.gh then now else p.ghOff, glOff := if p.gl then now else p.glOff,
           gh := false, gl := false, wait := 0 }

/-- Turn one gate of a bridge on and the other off, the first no sooner than the dead time after the other is off
(R415) and not before `since`. -/
def PUnit.oneGate (p : PUnit) (high : Bool) (since now : Nat) : PUnit :=
  if high then
    if p.gh then { p with gl := false, wait := 0 }
    else
      let r := p.gatesOff now
      let t := max since (r.glOff + p.dt)
      if t ≤ now then { r with gh := true } else { r with wait := 1, waitAt := t }
  else if p.gl then { p with gh := false, ghOff := if p.gh then now else p.ghOff, wait := 0 }
  else
    let r := p.gatesOff now
    let t := max since (r.ghOff + p.dt)
    if t ≤ now then { r with gl := true, glSeen := true } else { r with wait := 2, waitAt := t }

/-- The gate that a force or the end of one asks of a bridge: high, low, or none (R415, R416).  On release the gates
follow the reference of the running period.
(Log: DEDUCED, entry 75.) -/
def PUnit.wantGate (p : PUnit) : Option Bool :=
  if p.resume || p.force == 1 then none
  else if p.force == 2 then some false
  else if p.force == 3 then some true
  else if p.run then some p.h
  else none

/-- Is a bridge's shutdown not yet complete (R420)? -/
def PUnit.shutting (p : PUnit) (now : Nat) : Bool :=
  match p.shut with
  | some t => decide (now < t)
  | none => false

/-- A bridge's gates come at once to what governs them besides a change of the reference: a force, the end of one, or
a wait for the next period (R415, R416).  A force that turns a gate on before a shutdown is complete is held (R420).
A refresh that no force ends goes on.  The turn-off of R572 keeps every gate off.
(Log: DEDUCED, entry 75.) -/
def State.settleGates (s : State) (u : Nat) : State :=
  let p := s.die.unit u
  let now := s.die.replica
  if s.die.safeOff then s.modDie (fun d => d.setUnit u { p.gatesOff now with refresh := false })
  else if s.tripped u p || p.frozen || (p.refresh && p.force == 0 && !p.resume) then s
  else match p.wantGate with
    | none => s.modDie (fun d => d.setUnit u { p.gatesOff now with refresh := false, held := p.enHeld })
    | some high =>
      if p.force != 0 && p.shutting now && !(if high then p.gh else p.gl) then
        (if p.held then s
         else (s.modDie (fun d => d.setUnit u { p with held := true })).countHeld u)
      else
        let since := if p.force == 0 then p.refAt + p.dt else now
        s.modDie (fun d => d.setUnit u { p.oneGate high since now with refresh := false })

/-- Bring a unit's output to what governs it. -/
def State.settle (s : State) (u : Nat) : State :=
  if isBridge u then s.settleGates u else s.settleLine u

/-- GUARD of a unit in ticks (R413). -/
def State.guardTicks (s : State) (u : Nat) : Nat :=
  fieldNat (s.die.image (s.governs u) (if isBridge u then 0x400E0000 else 0x400D0000)) 0 8 * 100

/-- PARTIAL: the unit's flag, both lanes' block flags and E18 (R413, R406). -/
def State.setPartial (s : State) (u : Nat) : State :=
  let s := s.modDie (fun d => d.setUnit u { d.unit u with partialF := true })
  let s := s.bothLanes (fun L => if L.alive then
    L.setFlag (if isBridge u then 0x400E0004 else 0x400D0004) 0 true else L)
  s.unitEvent 18 u 0

/-- DCLAMP: the unit's flag, both lanes' block flags and E19 (R413). -/
def State.setDclamp (s : State) (u : Nat) : State :=
  let s := s.modDie (fun d => d.setUnit u { d.unit u with dclamp := true })
  let s := s.bothLanes (fun L => if L.alive then
    L.setFlag (if isBridge u then 0x400E0004 else 0x400D0004) 1 true else L)
  s.unitEvent 19 u 0

/-- Transfer pending shadows of the port that governs the unit at an update point: `per` tells a period start from a
mid-period point, where DUTY alone transfers and a group waits (R411, R412).  Exactly one shadow transferring sets
PARTIAL if the other's write came within GUARD before, and DCLAMP if DUTY then exceeds PER (R413).  While no lane is
in control no command of a port is executed, and nothing transfers (R572).
(Log: DEDUCED, entries 71, 72.) -/
def State.transfer (s : State) (u : Nat) (per : Bool) : State :=
  let p := s.die.unit u
  let x := s.shadow u
  let l := s.governs u
  let now := s.die.replica
  if s.rind.none_ then s
  else if x.group then
    if per then s.modDie (fun d => (d.setUnit u
      { p with per := x.per, dut := x.dut, dut2 := x.dut, lone := 0 }).setShadow l u
      { x with pPer := false, pDut := false, group := false })
    else s
  else
    let tp := per && x.pPer
    let td := x.pDut
    if !tp && !td then s
    else
      let q := { p with
        per := if tp then x.per else p.per, dut := if td && per then x.dut else p.dut,
        dut2 := if td then x.dut else p.dut2,
        lone := if tp && td then 0 else if tp then 1 else 2, loneAt := now }
      let s := s.modDie (fun d => (d.setUnit u q).setShadow l u
        { x with pPer := x.pPer && !tp, pDut := false })
      if tp && td then s
      else
        let other := if tp then x.wDut else x.wPer
        let within := match other with
          | some t => decide (now ≤ t + s.guardTicks u) && decide (t < now)
          | none => false
        let s := if within then s.setPartial u else s
        if q.per < (if per then q.dut else q.dut2) then s.setDclamp u else s

/-- A separate write of PER (`isPer`) or DUTY arrives after the other shadow transferred alone, within
GUARD: PARTIAL (R413).
(Log: DEDUCED, entry 72.) -/
def State.lateHalf (s : State) (u : Nat) (isPer : Bool) : State :=
  let p := s.die.unit u
  let lone := if isPer then 2 else 1
  if p.lone = lone ∧ s.die.replica < p.loneAt + s.guardTicks u then
    let s := s.modDie (fun d => d.setUnit u { d.unit u with lone := 0 })
    s.setPartial u
  else s

/-- Begin a channel period now: shadows transfer, and the line is on for DUTY (R408). -/
def State.channelPeriod (s : State) (n : Nat) (first : Bool) : State :=
  let s := s.transfer n true
  let now := s.die.replica
  let s := s.modDie (fun d =>
    let p := d.unit n
    d.setUnit n { p with start := now, h := decide (0 < p.dut), warm := !first })
  s.settle n

/-- Take the settings of ALIGN, UPD and DT at a period start (R411). -/
def PUnit.takeCfg (p : PUnit) (cfg : Word) : PUnit :=
  { p with align := bitOf cfg 1, upd := bitOf cfg 2, dt := cfgDT cfg }

/-- Does the waveform drive the gates: no trip, freeze, force, or wait for the next period, and no turn-off of R572? -/
def State.gatesFree (s : State) (u : Nat) : Bool :=
  let p := s.die.unit u
  !s.die.safeOff && !s.tripped u p && !p.frozen && p.force == 0 && !p.resume

/-- Change a bridge's reference; the gates follow it only while the waveform drives them.
(Log: DEDUCED, entry 75.) -/
def State.bridgeRef (s : State) (u : Nat) (h : Bool) : State :=
  let now := s.die.replica
  let s := if (s.die.unit u).h == h then s else s.modDie (fun d => d.setUnit u { d.unit u with refAt := now })
  if s.gatesFree u && !(s.die.unit u).refresh then
    s.modDie (fun d => d.setUnit u ((d.unit u).setRef h now))
  else s.modDie (fun d => d.setUnit u { d.unit u with h := h })

/-- BSN and BSW of a bridge (R414): BSW below 10 acts as 10. -/
def State.bsn (s : State) (u : Nat) : Nat := fieldNat (s.die.image (s.governs u) (cfgAddr u + 16)) 0 8
def State.bsw (s : State) (u : Nat) : Nat :=
  max 10 (fieldNat (s.die.image (s.governs u) (cfgAddr u + 16)) 8 8)

/-- Begin a bridge period now (R410, R411, R414): the gates of a cleared unit are free again unless a shutdown still
runs (R419, R420), and a period in which GL is on as it begins is not one in which GL was never on.
(Log: DEDUCED, entries 73, 75.) -/
def State.bridgePeriod (s : State) (u : Nat) : State :=
  let s := s.transfer u true
  let now := s.die.replica
  let cfg := s.unitCfg u
  let p0 := s.die.unit u
  let noGl := if p0.glSeen then 0 else p0.noGl + 1
  let s := s.modDie (fun d => d.setUnit u
    { (d.unit u).takeCfg cfg with start := now, mid := false, noGl := noGl, glSeen := false,
                                  resume := p0.resume && p0.shutting now,
                                  refAt := if p0.resume then now else p0.refAt, dut2 := (d.unit u).dut })
  let p := s.die.unit u
  let due := s.bsn u ≠ 0 ∧ s.bsn u ≤ noGl
  let fits := s.bsw u + 2 * p.dt < p.per
  let hNow := if p.align then decide (p.per ≤ p.dut) else decide (0 < p.dut)
  if due ∧ fits ∧ s.gatesFree u then
    s.modDie (fun d => d.setUnit u
      { (d.unit u).gatesOff now with refresh := true, noGl := 0, h := hNow, wait := 2,
                                     waitAt := now + p.dt })
  else
    let s := if due ∧ ¬ fits ∧ ¬ p.bsSupp then
        (s.modDie (fun d => d.setUnit u { d.unit u with bsSupp := true })).unitEvent 22 u 0
      else s
    let s := s.bridgeRef u hNow
    let s := if p.force == 0 then s else s.settleGates u
    s.modDie (fun d => d.setUnit u { d.unit u with glSeen := (d.unit u).gl })

/-- Start a unit's waveform at this tick (R409, R410). -/
def State.startWave (s : State) (u : Nat) : State :=
  let s := s.modDie (fun d => d.setUnit u { d.unit u with run := true, noGl := 0, glSeen := false,
                                                               refAt := d.replica, enHeld := false })
  if isBridge u then s.bridgePeriod u else s.channelPeriod u true

/-- A level command takes a channel into LEVEL mode and ends a running period (R409). -/
def State.toLevel (s : State) (u : Nat) (on : Bool) : State :=
  (s.modDie (fun d => d.setUnit u { d.unit u with run := false, h := false, level := on,
                                                  warm := false })).settle u

/-- EN of a bridge (R410, R420): 1 starts the unit, held while a shutdown runs; 0 turns both gates off, unless a trip
or a force governs them (R416), and the shutdown lasts DT after the later gate. -/
def State.bridgeEn (s : State) (u : Nat) (on : Bool) : State :=
  let p := s.die.unit u
  let now := s.die.replica
  if on then
    if p.run then s
    else match p.shut with
      | some t =>
        if now < t then
          (if p.enHeld then s
           else (s.modDie (fun d => d.setUnit u { p with held := true, enHeld := true })).countHeld u)
        else (s.modDie (fun d => d.setUnit u { p with shut := none })).startWave u
      | none => s.startWave u
  else if p.run then
    let q := if s.tripped u p || p.force != 0 then p else p.gatesOff now
    s.modDie (fun d => d.setUnit u
      { q with run := false, h := false, held := false, refresh := false, resume := false,
               shut := some (now + p.dt) })
  else s.modDie (fun d => d.setUnit u { p with held := p.held && !p.enHeld, enHeld := false })

/-- Mark a port's shadows as a pair or a commit leaves them: both pending, as a group (R412).
(Log: DEDUCED, entry 71.) -/
def State.setGroup (s : State) (l : LaneId) (u per dut : Nat) : State :=
  s.modDie (fun d => d.setShadow l u
    { d.shadow l u with per := per, dut := dut, pPer := true, pDut := true, group := true })

/-- COMMIT on a port: both staged values become pending as a group; a value not staged keeps its shadow.
(Log: DEDUCED, entry 71.) -/
def State.commitUnit (s : State) (l : LaneId) (u : Nat) : State :=
  let x := s.die.shadow l u
  let s := s.setGroup l u (x.stPer.getD x.per) (x.stDut.getD x.dut)
  s.modDie (fun d => d.setShadow l u { d.shadow l u with stPer := none, stDut := none })

/-- FORCE (R415): 3 on a channel acts as 0. -/
def State.forceUnit (s : State) (u v : Nat) : State :=
  let v := if !isBridge u && v = 3 then 0 else v
  (s.modDie (fun d => d.setUnit u { d.unit u with force := v })).settle u

/-- The trip sources a unit selects (R417): pads by MASK in bits 7:0, STRIP in bit 8, ISn in bit 9. -/
def State.selected (s : State) (u : Nat) : Nat :=
  let cfg := s.unitCfg u
  let tripc := s.die.image (s.governs u) (cfgAddr u + 12)
  if isBridge u then
    fieldNat tripc 0 8 + b2n (bitOf cfg 9) * 256 + b2n (bitOf tripc 10) * 512
  else fieldNat cfg 16 8 + b2n (bitOf cfg 7) * 256

/-- The sources active now: filtered pads, STRIP, ISn above its threshold. -/
def State.activeSources (s : State) (u : Nat) : Nat :=
  (List.range 8).foldl (fun m k => m + b2n (Tab.get s.die.tripIn false k) * 2 ^ k) 0 + 256 +
    b2n (Tab.get s.die.isHigh false u) * 512

/-- A trip latches with its sources (R418), raises E16 and enters the trip state of its ACT. -/
def State.tripUnit (s : State) (u src : Nat) : State :=
  let p := s.die.unit u
  let now := s.die.replica
  let s := s.modDie (fun d => d.setUnit u { p with trip := true, tripSrc := src })
  let s := s.unitEvent 16 u src
  if isBridge u then
    match s.tripAct u with
    | 2 => s
    | 1 => s.modDie (fun d =>
        let q := (d.unit u).gatesOff now
        let gl := p.gl || d.safeOff
        let t := max now (q.ghOff + p.dt)
        d.setUnit u (if gl then { q with gl := p.gl }
          else if t ≤ now then { q with gl := true, glSeen := true }
          else { q with wait := 2, waitAt := t }))
    | _ => s.modDie (fun d =>
        let q := (d.unit u).gatesOff now
        d.setUnit u { q with shut := some (now + p.dt), held := false, enHeld := false, refresh := false })
  else if s.tripAct u = 1 then s else s.settle u

/-- TCLR (R419): refused while a selected source is active; an accepted clear returns a channel to its
commanded state and leaves a running bridge's gates off until the next period start, which is held while a shutdown
runs (R420). -/
def State.clearTrip (s : State) (u : Nat) : State :=
  let p := s.die.unit u
  if p.trip then
    if (Nat.land (s.selected u) (s.activeSources u)) ≠ 0 then
      (s.modDie (fun d => d.setUnit u { p with clrRej := true })).unitEvent 17 u 0
    else
      let now := s.die.replica
      if isBridge u then
        let s := (s.modDie (fun d => d.setUnit u
          { p.gatesOff now with trip := false, tripSrc := 0, resume := p.run,
                                held := p.held || p.shutting now })).settleGates u
        if p.shutting now && !p.held then s.countHeld u else s
      else (s.modDie (fun d => d.setUnit u { p with trip := false, tripSrc := 0 })).settle u
  else s

/-- A separate register write of PER or DUTY reaches a port (R408, R412): clamped, staged while GC of the port's CFG
is 1, else pending; where the port governs the unit, it may complete a split write (R413).
(Log: DEDUCED, entry 71.) -/
def State.writeShadow (s : State) (l : LaneId) (u : Nat) (isPer : Bool) (v : Nat) : State :=
  let x := s.die.shadow l u
  let v := if isPer then (if isBridge u then v else max 20 v) else v
  let now := s.die.replica
  let gc := bitOf (s.die.image l (cfgAddr u)) (if isBridge u then 6 else 4)
  if gc then s.modDie (fun d => d.setShadow l u
    (if isPer then { x with stPer := some v } else { x with stDut := some v }))
  else
    let s := s.modDie (fun d => d.setShadow l u
      (if isPer then { x with per := v, pPer := true, wPer := some now }
       else { x with dut := v, pDut := true, wDut := some now }))
    if s.governs u = l ∧ ¬ s.rind.none_ then s.lateHalf u isPer else s

/-- The unit a PGC or PGB register address belongs to, with the offset of the register in it. -/
def unitOfAddr (a : Nat) : Option (Nat × Nat) :=
  if 0x400D0100 ≤ a ∧ a < 0x400D0100 + 16 * 208 then
    some ((a - 0x400D0100) / 16, (a - 0x400D0100) % 16)
  else if 0x400E0100 ≤ a ∧ a < 0x400E0100 + 32 * 24 then
    some (208 + (a - 0x400E0100) / 32, (a - 0x400E0100) % 32)
  else none

/-- W1C bits of a unit's STAT (R426). -/
def PUnit.clearStat (p : PUnit) (v : Word) : PUnit :=
  { p with clrRej := p.clrRej && !bitOf v 3, partialF := p.partialF && !bitOf v 4,
           dclamp := p.dclamp && !bitOf v 5, bsSupp := p.bsSupp && !bitOf v 9 }

/-- A write of CFG of a unit that the writing port governs: the force, the software trip, the clear and the output
follow (R409, R410, R415, R417, R419). -/
def State.obeyCfg (s : State) (u : Nat) (old nv v : Word) : State :=
  if isBridge u then
    let s := if fieldNat old 4 2 ≠ fieldNat nv 4 2 then s.forceUnit u (fieldNat nv 4 2) else s
    let s := if bitOf nv 9 && !bitOf old 9 && !(s.die.unit u).trip then s.tripUnit u 256 else s
    let s := if bitOf v 8 then s.clearTrip u else s
    s.bridgeEn u (bitOf nv 0)
  else
    let s := if fieldNat old 2 2 ≠ fieldNat nv 2 2 then s.forceUnit u (fieldNat nv 2 2) else s
    let s := if bitOf nv 7 && !bitOf old 7 && !(s.die.unit u).trip then s.tripUnit u 256 else s
    let s := if bitOf v 6 then s.clearTrip u else s
    if bitOf nv 0 then (if (s.die.unit u).run then s else s.startWave u)
    else s.toLevel u (bitOf nv 1)

/-- A PGC or PGB register write of lane `l` takes effect at the die (R406): the port's image and its shadows change,
and where the port governs the unit the unit obeys.
(Log: DESIGN CHOICE, entry 74.) -/
def State.applyReg (s : State) (l : LaneId) (a : Nat) (v : Word) : State :=
  let old := s.die.image l a
  let nv := fldsWrite (laneFlds a) false old v
  let s := s.modDie (fun d => d.setImage l a nv)
  match unitOfAddr a with
  | none => s
  | some (u, o) =>
    let obeys := s.governs u == l && !s.rind.none_
    match o with
    | 0x00 =>
      let s := if bitOf v (if isBridge u then 7 else 5) then s.commitUnit l u else s
      if obeys then s.obeyCfg u old nv v else s
    | 0x04 => s.writeShadow l u true nv.toNat
    | 0x08 => s.writeShadow l u false nv.toNat
    | _ =>
      if o = (if isBridge u then 0x14 else 0x0C) ∧ obeys then
        s.modDie (fun d => d.setUnit u ((d.unit u).clearStat v))
      else s

/-- What a command does to a unit whose port governs it (R408 to R410, R247): the output it sets. -/
def State.actOn (s : State) (u : Nat) (a : PulseAct) : State :=
  match a with
  | .level on => s.toLevel u on
  | .pwmStart => s.startWave u
  | .pair _ _ | .duty _ | .reg _ _ => s
  | .check => s.modDie (fun die => { die with checked := die.checked ++ [u] })

/-- What a command does to the shadows of its port, whichever port the unit obeys (R161, R384, R407). -/
def State.actShadow (s : State) (l : LaneId) (u : Nat) (a : PulseAct) : State :=
  match a with
  | .pair p q => s.setGroup l u p q
  | .duty q => s.modDie (fun d => d.setShadow l u { d.shadow l u with dut := q, pDut := true })
  | .level _ | .pwmStart | .reg _ _ | .check => s

/-- What a stamped command changes in an image of its unit's registers, by address: the mode and level of an output
command, the values of a pair or a duty (R406, R415).
(Log: DEDUCED, entry 70.) -/
def PulseCmd.image (c : PulseCmd) : List (Nat × (Word → Word)) :=
  match c.act with
  | .level on => [(cfgAddr c.unit, fun w => setBit (setBit w 0 false) 1 on)]
  | .pwmStart => [(cfgAddr c.unit, fun w => setBit w 0 true)]
  | .pair p q => [(perAddr c.unit, fun _ => BitVec.ofNat 32 p), (dutAddr c.unit, fun _ => BitVec.ofNat 32 q)]
  | .duty q => [(dutAddr c.unit, fun _ => BitVec.ofNat 32 q)]
  | .reg _ _ | .check => []

/-- The port's image at the die follows stamped commands too.
(Log: DEDUCED, entry 70.) -/
def Die.imageOf (d : Die) (l : LaneId) (c : PulseCmd) : Die :=
  c.image.foldl (fun d e => d.setImage l e.1 (e.2 (d.image l e.1))) d

/-- A register write is a command for address `a`. -/
def PulseCmd.writes (c : PulseCmd) (a : Nat) : Bool :=
  match c.act with
  | .reg b _ => a == b
  | .level _ | .pwmStart | .pair _ _ | .duty _ | .check => false

/-- A write of the lane to register `a` is still on its way to the unit. -/
def State.onItsWay (s : State) (l : LaneId) (a : Nat) : Bool :=
  (s.die.cmds.get l).any (fun c => c.writes a) ||
    (s.lane l).link.any (fun m => match m with
      | .cmd c => c.writes a
      | .cancel _ _ | .swReg _ _ | .direct _ _ => false)

/-- The lane reads its own image (R406): its registers follow a stamped command, unless a later write of its own is
still on its way.
(Log: DEDUCED, entry 70.) -/
def State.laneImage (s : State) (l : LaneId) (c : PulseCmd) : State :=
  if (s.lane l).alive then
    s.modLane l (fun L => c.image.foldl (fun L e =>
      if s.onItsWay l e.1 then L else L.wr e.1 (e.2 (L.rd e.1))) L)
  else s

/-- A command that sets the output of its unit: the commands that R569 looks for.
(Log: DEDUCED, entry 105.) -/
def PulseCmd.sets (c : PulseCmd) : Bool :=
  match c.act with
  | .level _ | .pwmStart => true
  | .reg a _ => a == cfgAddr c.unit
  | .pair _ _ | .duty _ | .check => false

/-- Execute a command of lane `l` that has come due: an output command becomes the port's latest due command for the
unit, the port's shadows and images follow, and it acts if the lane in control steers the unit by this port (R20, R25,
R406, R572).  A unit frozen by this port's debug halt discards it (R421).
(Log: DEDUCED, entries 70, 76, 105.) -/
def State.runCmd (s : State) (l : LaneId) (c : PulseCmd) : State :=
  let p := s.die.unit c.unit
  let mine := !s.rind.none_ && s.steer c.unit == laneNo l
  if p.frozen && mine then
    s.modLane l (fun L => L.bump (if isBridge c.unit then 0x400E0014 else 0x400D0014))
  else
    let s := if c.sets then s.modDie (fun d =>
      { d with due := d.due.set l (Tab.set (d.due.get l) ⟨0, 0, 0, .check, none, none⟩ c.unit c) }) else s
    let s := (s.modDie (fun d => d.imageOf l c)).laneImage l c
    let s := s.actShadow l c.unit c.act
    match c.act with
    | .reg a v => s.applyReg l a v
    | .level _ | .pwmStart | .pair _ _ | .duty _ | .check =>
      if mine then s.actOn c.unit c.act else s

/-- The output a unit takes from a due command of the port it begins to obey (R569).
(Log: DEDUCED, entry 105.) -/
def State.obeyCmd (s : State) (u : Nat) (c : PulseCmd) : State :=
  match c.act with
  | .level on => s.toLevel u on
  | .pwmStart => if (s.die.unit u).run then s else s.startWave u
  | .reg a v =>
    if a ≠ cfgAddr u then s
    else if isBridge u then s.bridgeEn u (bitOf v 0)
    else if bitOf v 0 then (if (s.die.unit u).run then s else s.startWave u)
    else s.toLevel u (bitOf v 1)
  | .pair _ _ | .duty _ | .check => s

/-- At the tick at which unit `u` first obeys the port of lane `l` (R407, R569): it takes that port's CFG, of which
FORCE and STRIP act at once and ALIGN, UPD and DT at the next period, its shadows at its next update point, and executes the
port's latest due command; whether its output changed is the second component.
(Log: DEDUCED, entry 105.) -/
def State.obeyPort (s : State) (u : Nat) (l : LaneId) : State × Bool :=
  let p := s.die.unit u
  let cfg := s.die.image l (cfgAddr u)
  let s0 := s.forceUnit u (fieldNat cfg (if isBridge u then 4 else 2) 2)
  let s1 := if bitOf cfg (if isBridge u then 9 else 7) && !(s0.die.unit u).trip then s0.tripUnit u 256 else s0
  let s2 := match (s1.die.due.get l).find? (fun e => e.1 == u) with
    | some e => s1.obeyCmd u e.2
    | none => s1
  let q := s2.die.unit u
  (s2, p.line != q.line || p.gh != q.gh || p.gl != q.gl)

end Sys2Proof.Machine
end

