-- ==== Sys2Proof/Machine/Switches.lean ====
section
/-!
DEFINITION. The load switches, the bank supervisors and DIRECT steering (R54 to R58, R428 to R451).
Currents in amperes, energies in joules, times in ticks of replica LT.
-/

namespace Sys2Proof.Machine

def Die.swt (d : Die) (n : Nat) : Sw := Tab.get d.sw Sw.reset n
def Die.setSw (d : Die) (n : Nat) (w : Sw) : Die := { d with sw := Tab.set d.sw Sw.reset n w }
def Die.bank (d : Die) (k : Nat) : BankSup := Tab.get d.banks BankSup.reset k
def Die.setBank (d : Die) (k : Nat) (b : BankSup) : Die :=
  { d with banks := Tab.set d.banks BankSup.reset k b }
def State.setSw (s : State) (n : Nat) (w : Sw) : State := s.modDie (fun d => d.setSw n w)
def State.setBank (s : State) (k : Nat) (b : BankSup) : State := s.modDie (fun d => d.setBank k b)

/-- The image of a channel's settings that the die applies (R449). -/
def State.chCfg (s : State) (n : Nat) : Word := s.die.image (s.governs n) (0x400F1000 + 16 * n)
def State.chLim (s : State) (n : Nat) : Word := s.die.image (s.governs n) (0x400F1004 + 16 * n)
/-- PROT_CFG of the lane the replica follows (R449): RETRY_T0 in 10 ms, 0 acts as 1; DT_HYS in K. -/
def State.retryT0 (s : State) : Nat := max 1 (fieldNat (s.die.image s.follows 0x400F0080) 0 8)
def State.dtHys (s : State) : Nat := fieldNat (s.die.image s.follows 0x400F0080) 8 5

/-- Amperes of a threshold code: 0.05 A on an N-class channel, 0.25 A on an H-class one (R454). -/
def amps (n code : Nat) : Rat := (code : Rat) * (if isH n then 1 / 4 else 1 / 20)

/-- I_TRIP and tau of a wire class (R433). -/
def wireTrip (w : Nat) : Rat :=
  match w with
  | 0 => 4 | 1 => 5 | 2 => 7 | 3 => 9 | 4 => 12 | 5 => 16 | 6 => 22 | _ => 28
def wireTau (w : Nat) : Rat :=
  match w with
  | 0 => 8 | 1 => 10 | 2 => 13 | 3 => 16 | 4 => 20 | 5 => 27 | 6 => 36 | _ => 45
/-- The trip level of H for a wire class. -/
def tripLevel (w : Nat) : Rat := wireTrip w * wireTrip w * wireTau w

/-- E_MAX (R436). -/
def eMax (n : Nat) : Rat := if isH n then 1 / 4 else 3 / 100

/-- RE: the energies of the retries that stand in the account (R436). -/
def Sw.energy (w : Sw) : Rat := w.re.foldl (fun a e => a + e.2) 0

/-- The active level of the filtered pad DIRIN(j + 1), by POL of the lane the replica follows (R449, R450, R456). -/
def State.dirActive (s : State) (j : Nat) : Bool :=
  Tab.get s.die.dirIn false j != bitOf (s.die.image s.follows (0x400F2100 + 4 * j)) 2

/-- The input line of a channel: its unit's, or its DIRIN pad's in DIRECT (R405, R450).
(Log: DEDUCED, entry 77.) -/
def State.inputLine (s : State) (n : Nat) : Bool :=
  if s.steer n = 2 then s.dirActive (n - 192) else (s.die.unit n).line

/-- The module is in CAVE or on its way into it, and not on its way out (R66). -/
def State.caving (s : State) : Bool :=
  match s.rind.trans with
  | some t => t == 5
  | none => s.power == 5

/-- Order 1 of R444, and the turn-off of R572: RESET_N low, VLOG lost, a DIRECT channel in or entering
CAVE, or SAFE for a channel that is not DIRECT. -/
def State.order1 (s : State) (n : Nat) : Bool :=
  s.die.forcedOff || (s.steer n == 2 && s.caving) || (s.die.safeOff && s.steer n != 2)

/-- Lockout by count or by energy. -/
def Sw.locked (w : Sw) : Bool := w.lockCnt || w.lockE

/-- The pad can turn on now: none of the orders 1 to 5 of R444 holds it off. -/
def State.padFree (s : State) (n : Nat) : Bool :=
  let w := s.die.swt n
  let b := s.die.bank (bankOfCh n)
  !s.order1 n && !(b.off || b.restoring && b.waiting.contains n) && !w.tlatch && !w.locked &&
    w.backoff.isNone && !w.defer

/-- The switch-die status of a channel: bank forced off, cut for over-current, or thermally latched (R251). -/
def State.heldOff (s : State) (ch : Nat) : Bool :=
  let w := s.die.swt ch
  let b := s.die.bank (bankOfCh ch)
  (b.off || (b.restoring && b.waiting.contains ch)) || w.backoff.isSome || w.lockCnt || w.lockE || w.tlatch

/-- Note the instant at which a channel came to be held off (R251). -/
def State.markHold (s : State) (n : Nat) : State :=
  let w := s.die.swt n
  if s.heldOff n && w.offAt.isNone then s.setSw n { w with offAt := some s.die.replica } else s

/-- The hold-off of a channel ends as its pad switches back on (R251); those of the last second are kept. -/
def Sw.backOn (w : Sw) (now : Nat) : Sw :=
  match w.offAt with
  | some h => { w with offAt := none, offs := w.offs.filter (fun i => decide (now ≤ i.2 + 100000000)) ++ [(h, now)] }
  | none => w

/-- Open an inrush window: a turn-on with the settings that R434 latches (R429), by the input line unless `auto`. -/
def State.openWindow (s : State) (n : Nat) (auto : Bool) : State :=
  let now := s.die.replica
  let cfg := s.chCfg n
  let t := fieldNat cfg 16 8
  s.setSw n { (s.die.swt n).backOn now with
    auto := auto, ph := if t = 0 then 2 else 1, winEnd := now + t * 100000, onSince := now, fastSince := none, retrying := false,
    wire := fieldNat cfg 0 3, inrI := fieldNat cfg 8 8,
    fast := fieldNat (s.chLim n) 0 8, defer := false }

/-- Turn the pad off with its programmed soft-off (R429). -/
def State.softOff (s : State) (n : Nat) : State :=
  let w := s.die.swt n
  if w.ph = 1 ∨ w.ph = 2 then
    s.setSw n { w with ph := 3, softEnd := s.die.replica + s.softTicks n, fastSince := none, retrying := false }
  else s

/-- A cause of order 1 has ended: a pad that it held off takes a line that is on as a rise (R444, R49, R66, R572).
(Log: DEDUCED, entry 78.) -/
def State.follow (s : State) (n : Nat) : State :=
  let w := s.die.swt n
  if w.ph = 1 ∨ w.ph = 2 ∨ w.tlatch ∨ w.locked ∨ w.backoff.isSome ∨ w.defer then s
  else s.setSw n { w with inp := false }

/-- The DIRECT channels go off with their soft-off at the entry to CAVE (R66).
(Log: DEDUCED, entry 78.) -/
def State.directOff (s : State) : State :=
  (List.range 16).foldl (fun s j => if s.steer (192 + j) = 2 then s.softOff (192 + j) else s) s

/-- The DIRECT channels follow their pads again (R49, R59, R66).
(Log: DEDUCED, entry 78.) -/
def State.directFollow (s : State) : State :=
  (List.range 16).foldl (fun s j => if s.steer (192 + j) = 2 then s.follow (192 + j) else s) s

/-- E00 to E04 with the channel in D1 (R452). -/
def State.chEvent (s : State) (e d0 n : Nat) : State := s.raiseBoth e d0 n 0

/-- Enter LOCKOUT by count (R435) or by energy (R436). -/
def State.lockout (s : State) (n : Nat) (byEnergy : Bool) : State :=
  let w := s.die.swt n
  let s := s.setSw n { w with lockCnt := w.lockCnt || !byEnergy, lockE := w.lockE || byEnergy,
                              backoff := none, retrying := false }
  (s.markHold n).chEvent 2 (if byEnergy then 2 else 1) n

/-- An over-current cut of kind 1 fast, 2 curve, 3 energy (R432, R433, R435, R436).
(Log: DEDUCED, entry 80.) -/
def State.cut (s : State) (n kind : Nat) : State :=
  let w := s.die.swt n
  let now := s.die.replica
  let k := min 8 (w.k + 1)
  let recent := w.cuts.filter (fun t => decide (now < t + 60000000000))
  let s := s.setSw n { w with
    ph := 0, k := k, cuts := now :: recent, fastSince := none, retrying := false, cur := 0,
    cutFlags := Nat.lor w.cutFlags (2 ^ (kind - 1)) }
  let s := s.bothLanes (fun L => if L.alive then L.bump 0x400F0088 else L)
  let s := s.chEvent 0 kind n
  if !bitOf (s.chCfg n) 30 then s.lockout n false
  else if 8 ≤ recent.length then s.lockout n false
  else if kind = 3 ∧ 2 ≤ w.energy + eMax n then s.lockout n true
  else (s.setSw n { s.die.swt n with
    backoff := some (now + s.retryT0 * 1000000 * 2 ^ (k - 1)) }).markHold n

/-- A thermal latch turned the pad off in the same 10 us interval of replica LT: a cut of that interval is recorded
beside it (R440).
(Log: DEDUCED, entry 80.) -/
def Sw.latchedNow (w : Sw) (now : Nat) : Bool :=
  match w.latchAt with
  | some t => t / 1000 == now / 1000
  | none => false

/-- A turn-on is a new one for the budget (R442), or an on phase of a PWM already running. -/
def State.newTurnOn (s : State) (n : Nat) : Bool :=
  s.steer n == 2 || !((s.die.unit n).run && (s.die.unit n).warm)

/-- Defer a turn-on while the bank is over budget (R442). -/
def State.deferCh (s : State) (n : Nat) : State :=
  let s := s.setSw n { s.die.swt n with defer := true }
  s.bothLanes (fun L => if L.alive then L.bump 0x400F008C else L)

/-- A signature window opens at an input-line edge (R238); a window still open is cut short.  The learner ignores one
that follows forcing, a channel in DIRECT, or a pad that another cause than the edge switches (`skip`, R240). -/
def State.openSig (s : State) (n : Nat) (on skip : Bool) : State :=
  let p := s.die.unit n
  let now := s.die.replica
  let ws := (Tab.get s.die.sig [] n).map (fun (w : SigWin) => { w with cut := some (w.cut.getD now) })
  let w : SigWin := ⟨on, now, none, skip || p.force != 0 || s.steer n == 2, p.run && (p.warm || !on)⟩
  s.modDie (fun d => { d with sig := Tab.set d.sig [] n (ws ++ [w]) })

/-- TURN_ON (R429, R437, R444): the input line has risen.
(Log: DEDUCED, entry 77.) -/
def execTurnOn (n : ChNo) (s : State) : Host.Outcome State Fault Refusal :=
  let w := s.die.swt n
  let k := bankOfCh n
  let b := s.die.bank k
  .next (if s.inputLine n && !w.inp && !s.ladderIdle n then
    let s := s.setSw n { w with inp := true }
    if b.restoring && !b.restored.contains n.val then
      (s.setBank k { b with waiting := insertBy id n.val b.waiting }).openSig n true true
    else if !s.padFree n then s.openSig n true true
    else if b.above && s.newTurnOn n then (s.deferCh n).openSig n true true
    else (s.openWindow n false).openSig n true false
  else s)

/-- TURN_OFF (R429, R437, R443): the input line has fallen; a retry whose window is open keeps its
energy in the account; a pending retry is cancelled, at once where its backoff is over, else when it ends.
(Log: DEDUCED, entry 77.) -/
def execTurnOff (n : ChNo) (s : State) : Host.Outcome State Fault Refusal :=
  let w := s.die.swt n
  let k := bankOfCh n
  let b := s.die.bank k
  .next (if !s.inputLine n && w.inp then
    let s := s.setBank k { b with waiting := b.waiting.filter (fun m => m != n.val) }
    let s := (s.softOff n).openSig n false (w.auto || (w.ph != 1 && w.ph != 2))
    let ended := match w.backoff with
      | some t => decide (t ≤ s.die.replica)
      | none => false
    s.setSw n { s.die.swt n with inp := false, defer := false, retrying := false,
                                 backoff := if ended then none else w.backoff }
  else s)

/-- INRUSH_WINDOW_END (R431, R432, R436): a retry that passes the end without a cut leaves the account;
a current at or above FAST starts the fast test at once.
(Log: DEDUCED, entry 80.) -/
def execInrushWindowEnd (n : ChNo) (s : State) : Host.Outcome State Fault Refusal :=
  let w := s.die.swt n
  let now := s.die.replica
  .next (if w.ph = 1 ∧ w.winEnd ≤ now then
    if amps n w.fast ≤ w.cur then s.setSw n { w with ph := 2, fastSince := some w.winEnd }
    else s.setSw n { w with
      ph := 2, re := if w.retrying then w.re.drop 1 else w.re, retrying := false }
  else s)

/-- FAST_CUT (R432, R440): the current has stayed at or above FAST for 5 us outside a window. -/
def execFastCut (n : ChNo) (s : State) : Host.Outcome State Fault Refusal :=
  let w := s.die.swt n
  .next (match w.fastSince with
    | some t => if (w.ph = 2 ∨ w.latchedNow s.die.replica) ∧ t + 500 ≤ s.die.replica then s.cut n 1 else s
    | none => s)

/-- HEAT_UPDATE (R433, R436): every 10 us, with the channel's current and output voltage as they stand;
the energy of a running retry grows, the fast test starts or ends (and a retry whose window is over then leaves the
account), and H may reach its trip level for the wire class in force since the last turn-on (R434).
(Log: DESIGN CHOICE, entry 79; DEDUCED, entry 80.) -/
def execHeatUpdate (n : ChNo) (cur vout : Rat) (s : State) : Host.Outcome State Fault Refusal :=
  let w := s.die.swt n
  let now := s.die.replica
  let wire := w.wire
  let dt : Rat := 1 / 100000
  let heat := w.heat * (1 - dt / wireTau wire) + cur * cur * dt
  let on := w.ph = 1 ∨ w.ph = 2
  let re := if w.retrying then
      match w.re with
      | (t, e) :: rest => (t, e + cur * vout * dt) :: rest
      | [] => []
    else w.re
  let fastSince := if w.ph = 2 ∧ amps n w.fast ≤ cur then some (w.fastSince.getD now) else none
  let past := w.retrying && w.ph == 2 && fastSince.isNone
  let s := s.setSw n { w with
    cur := cur, heat := heat, re := if past then re.drop 1 else re, retrying := w.retrying && !past,
    fastSince := fastSince }
  .next (if (on ∨ w.latchedNow now) ∧ tripLevel wire ≤ heat then s.cut n 2 else s)

/-- ENERGY_CUT (R436): RE has reached 2 J less E_MAX in a retry. -/
def execEnergyCut (n : ChNo) (s : State) : Host.Outcome State Fault Refusal :=
  let w := s.die.swt n
  .next (if w.retrying && (w.ph == 1 || w.ph == 2) && decide (2 - eMax n ≤ w.energy) then
    s.cut n 3 else s)

/-- A retry that nothing holds off begins (R435, R436): a window, its place in the account, E01; or the channel locks
out because the account does not allow it.
(Log: DEDUCED, entry 82.) -/
def State.beginRetry (s : State) (n : Nat) : State :=
  let w := s.die.swt n
  if 2 ≤ w.energy + eMax n then s.lockout n true
  else
    let s := s.setSw n { w with backoff := none, defer := false }
    let s := s.openWindow n true
    let s := s.setSw n { s.die.swt n with retrying := true, re := (s.die.replica, 0) :: w.re }
    s.chEvent 1 w.k n

/-- RETRY (R435, R436, R437, R442): the backoff has ended.
(Log: DEDUCED, entry 82.) -/
def execRetry (n : ChNo) (s : State) : Host.Outcome State Fault Refusal :=
  let w := s.die.swt n
  let now := s.die.replica
  let b := s.die.bank (bankOfCh n)
  .next (match w.backoff with
    | none => s
    | some t =>
      if now < t ∨ w.tlatch ∨ s.ladderIdle n then s
      else if !w.inp then s.setSw n { w with backoff := none }
      else if tripLevel w.wire / 2 < w.heat then s
      else if s.order1 n || b.off || b.restoring then s
      else if 2 ≤ w.energy + eMax n then s.lockout n true
      else if b.above then (if w.defer then s else s.deferCh n)
      else s.beginRetry n)

/-- BACKOFF_RESET (R435): on for 60 s without a cut. -/
def execBackoffReset (n : ChNo) (s : State) : Host.Outcome State Fault Refusal :=
  let w := s.die.swt n
  .next (if (w.ph = 1 ∨ w.ph = 2) ∧ w.onSince + 6000000000 ≤ s.die.replica then
    s.setSw n { w with k := 0 } else s)

/-- CUTS_AGE_OUT (R435): cuts older than 600 s leave CUTS. -/
def execCutsAgeOut (n : ChNo) (s : State) : Host.Outcome State Fault Refusal :=
  let w := s.die.swt n
  .next (s.setSw n { w with cuts := w.cuts.filter (fun t => decide (s.die.replica < t + 60000000000)) })

/-- RE_AGE_OUT (R436): retries begun more than 3,600 s ago leave the account. -/
def execReAgeOut (n : ChNo) (s : State) : Host.Outcome State Fault Refusal :=
  let w := s.die.swt n
  .next (s.setSw n { w with
    re := w.re.filter (fun e => decide (s.die.replica < e.1 + 360000000000)) })

/-- LCLR of CH_CMD (R437): from the lane whose image governs the channel; nothing outside LOCKOUT.
(Log: DEDUCED, entry 78.) -/
def State.lclr (s : State) (l : LaneId) (n : Nat) : State :=
  let w := s.die.swt n
  if s.governs n ≠ l ∨ ¬ w.locked then s
  else if w.energy + eMax n < 2 then
    (s.setSw n { w with lockCnt := false, lockE := false, cuts := [], k := 0, backoff := none,
                        inp := false }).chEvent 2 3 n
  else s.chEvent 2 4 n

/-- LCLR. -/
def execLclr (l : LaneId) (n : ChNo) (s : State) : Host.Outcome State Fault Refusal :=
  .next (s.lclr l n)

/-- The case temperature that forms a bank's temperature difference (R441).
(Log: DESIGN CHOICE, entry 81.) -/
def State.caseRef (s : State) (k : Nat) : Option Int :=
  if !(s.die.bank k).caseFail then some (s.die.bank k).caseT
  else
    (List.range 8).foldl (fun acc j =>
      if (s.die.bank j).caseFail then acc
      else match acc with
        | none => some (s.die.bank j).caseT
        | some t => some (max t (s.die.bank j).caseT)) none

/-- The temperature difference of a channel, where a case sensor works.
(Log: DESIGN CHOICE, entry 81.) -/
def State.deltaT (s : State) (n : Nat) : Option Int :=
  (s.caseRef (bankOfCh n)).map (fun t => (s.die.swt n).tj - t)

/-- TCLR of CH_CMD (R439).
(Log: DEDUCED, entry 78.) -/
def State.thermalClear (s : State) (l : LaneId) (n : Nat) : State :=
  let w := s.die.swt n
  let dtl : Int := fieldNat (s.chLim n) 8 7
  let hys : Int := s.dtHys
  if s.governs n ≠ l ∨ ¬ w.tlatch then s
  else
    let cool := match s.deltaT n with
      | some d => decide (d < dtl - hys)
      | none => true
    if cool && decide (w.tj < 175 - hys) then
      (s.setSw n { w with tlatch := false, tjmax := false, inp := w.inp && w.backoff.isSome }).chEvent 4 1 n
    else (s.setSw n { w with thcRej := true }).chEvent 4 2 n

/-- THERMAL_CLEAR. -/
def execThermalClear (l : LaneId) (n : ChNo) (s : State) : Host.Outcome State Fault Refusal :=
  .next (s.thermalClear l n)

/-- THERMAL_SAMPLE (R438, R441): every 100 us, the channel's junction and its bank's case sensor.
(Log: DESIGN CHOICE, entry 81.) -/
def execThermalSample (n : ChNo) (tj caseT : Int) (s : State) : Host.Outcome State Fault Refusal :=
  let k := bankOfCh n
  let b := s.die.bank k
  let bad := decide (caseT < -50) || decide (150 < caseT)
  let s := s.setBank k { b with caseT := caseT, caseFail := b.caseFail || bad }
  let s := if bad && !b.caseFail then
      (s.bothLanes (fun L => L.setFlag (0x400F2000 + 16 * k) 25 true)).raiseBoth 8 0 (k + 1) 0 else s
  let s := s.setSw n { s.die.swt n with tj := tj }
  let w := s.die.swt n
  let hot := match s.deltaT n with
    | some d => decide ((fieldNat (s.chLim n) 8 7 : Int) ≤ d)
    | none => false
  .next (if 175 ≤ tj then
      (if w.tjmax then s
       else ((s.setSw n { w with tlatch := true, tjmax := true, ph := 0, cur := 0,
                                 latchAt := if w.ph = 1 ∨ w.ph = 2 then some s.die.replica else w.latchAt,
                                 retrying := false, defer := false }).markHold n).chEvent 3 2 n)
    else if hot && !w.tlatch then
      let s := s.softOff n
      ((s.setSw n { s.die.swt n with tlatch := true, fastSince := w.fastSince,
                                     latchAt := if w.ph = 1 ∨ w.ph = 2 then some s.die.replica else w.latchAt,
                                     retrying := false, defer := false }).markHold n).chEvent 3 1 n
    else s)

/-- BUDGET of a bank in amperes, of the lane the replica follows (R449). -/
def State.budget (s : State) (k : Nat) : Rat :=
  (fieldNat (s.die.image s.follows (0x400F2004 + 16 * k)) 0 8 : Nat)

/-- BANK_BUDGET_SAMPLE (R442): the sum of the 26 channels; over budget for 1 ms sets OVER, at or below
nine tenths for 10 ms clears it. -/
def execBankBudgetSample (k : BankNo) (s : State) : Host.Outcome State Fault Refusal :=
  let b := s.die.bank k
  let now := s.die.replica
  let sum := (channelsOf k).foldl (fun a n => a + (s.die.swt n).cur) 0
  let above := decide (s.budget k < sum)
  let low := decide (sum ≤ s.budget k * 9 / 10)
  let os := if above then some (b.overSince.getD now) else none
  let rs := if low then some (b.recSince.getD now) else none
  let b := { b with sum := sum, overSince := os, recSince := rs }
  let overDue := match os with
    | some t => !b.above && decide (t + 100000 ≤ now)
    | none => false
  let recDue := match rs with
    | some t => b.above && decide (t + 1000000 ≤ now)
    | none => false
  .next (if overDue then
      let s := s.setBank k { b with above := true, recSince := none }
      let s := s.bothLanes (fun L => if L.alive then
        (L.setFlag (0x400F2000 + 16 * k.val) 26 true).bump (0x400F2008 + 16 * k.val) else L)
      s.raiseBoth 5 1 (k.val + 1) 0
    else if recDue then
      (s.setBank k { b with above := false, nextDefer := now }).raiseBoth 5 2 (k.val + 1) 0
    else s.setBank k b)

/-- DEFERRED_TURN_ON_STEP (R443): the lowest deferred channel whose input line is on, one a
millisecond.
(Log: DEDUCED, entry 82.) -/
def execDeferredTurnOnStep (k : BankNo) (s : State) : Host.Outcome State Fault Refusal :=
  let b := s.die.bank k
  let now := s.die.replica
  .next (if b.above || decide (now < b.nextDefer) then s
    else match (channelsOf k).find? (fun n => (s.die.swt n).defer && (s.die.swt n).inp && !s.order1 n) with
      | none => s
      | some n =>
        let s := s.setBank k { b with nextDefer := now + 100000 }
        let w := s.die.swt n
        if w.backoff.isSome then
          (if tripLevel w.wire / 2 < w.heat then s.setSw n { w with defer := false } else s.beginRetry n)
        else s.openWindow n true)

/-- CURRENT_SENSE_SAMPLE (R446): 12 bits of 12 A or 60 A full scale, to both lanes.
(Log: DESIGN CHOICE, entry 79.) -/
def execCurrentSenseSample (n : ChNo) (cur : Rat) (s : State) : Host.Outcome State Fault Refusal :=
  let code := min 4095 (cur * 4096 / (if isH n then 60 else 12)).floor.toNat
  let w := s.die.swt n
  .next (s.setSw n { w with
    code := code
    codeAt := some s.die.replica
    code0 := if w.codeAt = some s.die.replica then w.code0 else w.code
    at0 := if w.codeAt = some s.die.replica then w.at0 else w.codeAt })

/-- BANK_FORCED_OFF (R55, R58): every channel of the bank off with its soft-off; the flags; E93 with the
bank on both lanes.  No retry, latch or account changes. -/
def execBankForcedOff (k : BankNo) (s : State) : Host.Outcome State Fault Refusal :=
  let s := (channelsOf k).foldl (fun s n =>
    let s := s.softOff n
    s.setSw n { s.die.swt n with defer := false }) s
  let s := s.setBank k { s.die.bank k with
    off := true, restoring := false, waiting := [], restored := [] }
  let s := (channelsOf k).foldl (fun s n => s.markHold n) s
  let s := s.modRind (fun r =>
    (r.setFlag 0x110 k true).setFlag 0x110 (8 + k.val) true)
  .next (s.raiseBoth 93 0 (k.val + 1) 0)

/-- A channel the supervisor may restore: its line is on and orders 1, 3 and 4 of R444 do not hold it.
(Log: DEDUCED, entries 82, 83.) -/
def State.restorable (s : State) (n : Nat) : Bool :=
  let w := s.die.swt n
  s.inputLine n && !s.order1 n && !w.tlatch && !w.locked && w.backoff.isNone

/-- BANK_RESTORE_START (R57): the waiting set holds every channel of the bank that is commanded on.
(Log: DESIGN CHOICE, entry 119.) -/
def execBankRestoreStart (k : BankNo) (s : State) : Host.Outcome State Fault Refusal :=
  let b := s.die.bank k
  .next (if b.off && !b.restoring then
    let ws := (channelsOf k).filter (fun n => s.inputLine n)
    let s := ws.foldl (fun s n => s.setSw n { s.die.swt n with inp := true }) s
    s.setBank k { s.die.bank k with
      off := false, restoring := true, waiting := ws, restored := [], nextStep := s.die.replica }
  else s)

/-- BANK_RESTORE_STEP (R57, R442, R444): the lowest waiting channel turns on, one a millisecond; a channel
that orders 3 or 4 hold off is skipped; with the set empty, BANK_OFF clears.
(Log: DEDUCED, entries 82, 83.) -/
def execBankRestoreStep (k : BankNo) (s : State) : Host.Outcome State Fault Refusal :=
  let b := s.die.bank k
  let now := s.die.replica
  .next (if !b.restoring || decide (now < b.nextStep) then s
    else
      let ready := b.waiting.filter (fun n => s.restorable n)
      match ready with
      | [] => (s.setBank k { b with restoring := false, waiting := [] }).modRind
          (fun r => r.setFlag 0x110 k false)
      | n :: rest =>
        let s := if b.above then s.deferCh n else s.openWindow n true
        let s := s.setBank k { s.die.bank k with
          waiting := rest, restored := n :: b.restored, nextStep := now + 100000 }
        if rest.isEmpty then
          (s.setBank k { s.die.bank k with restoring := false }).modRind
            (fun r => r.setFlag 0x110 k false)
        else s)

/-- STATE of CH_STAT (R455). -/
def State.chState (s : State) (n : Nat) : Nat :=
  let w := s.die.swt n
  let b := s.die.bank (bankOfCh n)
  if s.inputLine n && (s.order1 n || b.off || (b.restoring && b.waiting.contains n)) then 7
  else if w.tlatch then 6
  else if w.locked then 5
  else if w.backoff.isSome then 4
  else if w.defer || (s.steer n != 2 && (s.die.unit n).held) then 7
  else match w.ph with
    | 1 => 1 | 2 => 2
    | 3 => if s.die.replica < w.softEnd then 3 else 0
    | _ => 0

/-- The current is actively limited: at the window's limit, or at 1.25 times FAST (R431, R432).
(Log: DESIGN CHOICE, entry 79.) -/
def State.limiting (s : State) (n : Nat) : Bool :=
  let w := s.die.swt n
  if w.ph = 1 then decide (max (amps n w.inrI) (amps n w.fast) ≤ w.cur)
  else w.ph == 2 && decide (amps n w.fast * 5 / 4 ≤ w.cur)

/-- CH_STAT[n] as it reads (R455). -/
def State.chStat (s : State) (n : Nat) : Word :=
  let w := s.die.swt n
  let heat := min 100 ((w.heat * 100 / tripLevel w.wire).floor.toNat)
  BitVec.ofNat 32 (s.chState n + b2n (s.inputLine n) * 2 ^ 3 + b2n (s.limiting n) * 2 ^ 4 +
    b2n w.tlatch * 2 ^ 5 + b2n w.tjmax * 2 ^ 6 + b2n w.thcRej * 2 ^ 7 + (w.cutFlags % 8) * 2 ^ 8 +
    b2n w.lockCnt * 2 ^ 11 + b2n w.lockE * 2 ^ 12 + b2n w.defer * 2 ^ 13 +
    (min 9 (w.cuts.length)) * 2 ^ 16 + heat * 2 ^ 24)

/-- CH_MEAS[n] as it reads (R453). -/
def State.chMeas (s : State) (n : Nat) : Word :=
  let w := s.die.swt n
  let d := clampInt (-128) 127 ((s.deltaT n).getD 0)
  BitVec.ofNat 32 (w.code + (d % 256).toNat * 2 ^ 16 +
    (min 255 (w.energy * 100).floor.toNat) * 2 ^ 24)

/-- The bits of BANK_STAT the die reports (R453). -/
def State.bankStat (s : State) (k : Nat) : Word :=
  let b := s.die.bank k
  BitVec.ofNat 32 (min 65535 ((b.sum * 10).floor.toNat) +
    ((clampInt (-128) 127 b.caseT) % 256).toNat * 2 ^ 16 + b2n b.above * 2 ^ 24 + b2n b.caseFail * 2 ^ 25)

/-- DIRECT_APPLY (R451, R538): the two arbiters apply a forwarded request when they agree, E07; leaving
DIRECT, the channel obeys the active lane's port.
(Log: DEDUCED, entry 84.) -/
def execDirectApply (j : DirNo) (agree : Bool) (s : State) : Host.Outcome State Fault Refusal :=
  let n := 192 + j.val
  let req := Tab.get s.rind.dirReq 0 j
  let s1 := s.modRind (fun r => { r with dirReq := Tab.set r.dirReq 0 j 0 })
  .next (if req = 0 then s
    else if !agree then s1
    else
      let dest := if req = 1 then 2 else laneNo s.rind.act
      if s.steer n = dest ∨ (req = 2 ∧ s.steer n ≠ 2) then s1
      else
        let s2 := s1.modRind (fun r =>
          { r with steer := Tab.set r.steer 0 n dest }.setFld 0x10 16 16 (r.fld 0x10 16 16 + 1))
        let s3 := if req = 1 then s2 else (s2.obeyPort n s.rind.act).1
        s3.raiseBoth 7 req n 0)

/-- DIRIN_CHANGE (R83, R450): `level` is the pad level that has passed the filter;
POL gives the active level. -/
def execDirinChange (j : DirNo) (level : PadLevel) (s : State) : Host.Outcome State Fault Refusal :=
  .next ((s.modDie (fun d => { d with dirIn := Tab.set d.dirIn false j level.level })).passStamp (8 + j.val) level.stamp)

end Sys2Proof.Machine
end

