-- ==== Sys2Proof/Machine/Lanes.lean ====
section
/-!
DEFINITION. Readiness, control, the arbiters, planned handovers and proof swaps (R561 to R579).
-/

namespace Sys2Proof.Machine

/-- LANE_OFF holds a lane (R533). -/
def State.laneOff (s : State) (l : LaneId) : Bool := s.rind.flag 0x90 (laneNo l)

/-- The lane has given up control since its last reset (R565). -/
def Lane.gaveUp (L : Lane) : Bool := L.flag 0x40140004 5

/-- The first condition of R562 that keeps a lane from being ready, or 0. -/
def State.nrdy (s : State) (l : LaneId) : Nat :=
  let L := s.lane l
  let partner := (s.rind.beat.get (other l)).live
  if L.gaveUp then 1
  else if !L.running then 2
  else if !L.flag 0x400F0040 0 then 3
  else if partner && !s.laneLink then 4
  else if partner && decide (L.time.peerGood < 10) then 5
  else if !L.flag 0x40140000 0 then 6
  else if s.rind.flag 0x200 2 && !L.flag 0x40140004 4 then 7
  else if s.rind.flag 0x204 (6 + laneNo l) then 8
  else if L.halted || s.laneOff l then 9
  else 0

/-- The lane's monitor brings LNK.STAT up to date: NRDY, READY, the partner's READY and the link, with
E85 when readiness changes (R562). -/
def State.refreshReady (s : State) (l : LaneId) : State :=
  let n := s.nrdy l
  let pr := s.laneLink && (s.lane (other l)).flag 0x40140004 1
  s.modLane l (fun L =>
    let was := L.flag 0x40140004 1
    let now := n == 0
    let L := (((L.setFld 0x40140004 8 4 n).setFlag 0x40140004 1 now).setFlag 0x40140004 2 pr).setFlag
      0x40140004 3 s.laneLink
    if was = now then L else L.raise 85 (if now then 2 else 1) 0 0)

/-- HEARTBEAT (R564): every 10 us the monitor of a lane that is out of reset, its link up, sends HOLD and
READY; the rind records them.
(Log: DESIGN CHOICE, entry 9.) -/
def execHeartbeat (l : LaneId) (s : State) : Host.Outcome State Fault Refusal :=
  .next (if (s.lane l).alive then
    let s := s.refreshReady l
    let L := s.lane l
    if L.flag 0x400F0040 0 && !(L.phase == Phase.factory && L.flag 0x40140004 1) then
      let ready := L.flag 0x40140004 1
      let hold := s.isActive l && !L.gaveUp
      s.modRind (fun r =>
        let r := (r.setFlag 0x204 (laneNo l) ready).setFlag 0x204 (2 + laneNo l) hold
        let since := if ready then some (((r.readyAt.get l)).getD s.die.replica) else none
        let b : Beat := ⟨hold, ready, s.die.replica, true⟩
        { r with beat := r.beat.set l b, readyAt := r.readyAt.set l since })
    else s
  else s)

/-- GU of a lane in RED_STAT. -/
def State.gu (s : State) (l : LaneId) : Bool := s.rind.flag 0x204 (4 + laneNo l)

/-- HEARTBEAT_MISSED (R565): none for 40 us; the lane gives up control with cause 2.  A lane in reset whose giving up the
rind knows already is not reported again.
(Log: DEDUCED, entry 100.) -/
def execHeartbeatMissed (l : LaneId) (s : State) : Host.Outcome State Fault Refusal :=
  let b := s.rind.beat.get l
  .next (if b.live && decide (b.at_ + 4000 ≤ s.die.replica) then
    let nb : Beat := { b with hold := false, ready := false, live := false }
    let known := s.gu l
    let s := s.modRind (fun r => ((({ r with
      beat := r.beat.set l nb, readyAt := r.readyAt.set l none }).setFlag 0x204 (laneNo l) false).setFlag
      0x204 (2 + laneNo l) false).setFlag 0x204 (4 + laneNo l) true)
    if (s.lane l).alive then s.giveUp l 2 0
    else if known then s
    else (s.modRind (fun r => { r with gaveAt := if r.act = l then b.at_ else r.gaveAt })).raiseBoth 84 2
      (laneNo l) 0
  else s)

/-- Advance OWN_SEQ, modulo 2^16, by one (R538). -/
def Rind.advanceSeq (r : Rind) : Rind := r.setFld 0x10 16 16 (r.fld 0x10 16 16 + 1)

/-- Steer every unit that is not DIRECT to the port of lane `l` (R72, R573). -/
def Rind.steerAll (r : Rind) (l : LaneId) : Rind :=
  { r with steer := (List.range 232).foldl (fun t u =>
      if Tab.get t 0 u = 2 then t else Tab.set t 0 u (laneNo l)) r.steer }

/-- No lane holds control: after a reset, until one has held it (R573); a handover or proof swap in progress ends, the
proof swap as aborted.
(Log: DEDUCED, entry 103.) -/
def Rind.noControl (r : Rind) (now : Nat) : Rind :=
  let q := if r.proving.isSome then (r.setFlag 0x204 8 false).setFld 0x204 9 2 3 else r
  { q with none_ := true, noneAt := now, everHeld := false, plan := none, proving := none, toCheck := [] }.setFlag
    0x204 13 false

/-- After a turn-off of R572, a unit whose new port holds no due command stays off, and the pad of one that does takes
its line as a rise.
(Log: DEDUCED, entries 78, 102.) -/
def State.afterSafe (s : State) (l : LaneId) : State :=
  if s.die.safeOff then
    let s := s.modDie (fun d => { d with safeOff := false })
    (List.range 232).foldl (fun s u =>
      if s.steer u = 2 then s
      else if ((s.die.due.get l).find? (fun e => e.1 == u)).isSome then
        (if isBridge u then s.settleGates u else s.follow u)
      else if isBridge u then s.bridgeEn u false else s.toLevel u false) s
  else s

/-- The active lane's security block hands its management key to the rind (R597). -/
def State.sendKey (s : State) : State :=
  match s.control with
  | none => s
  | some x =>
    let k := Tab.get (s.lane x).keys [] 32
    let key := if k = [] then none else some k
    s.modRind (fun r => { r with mgmt := { r.mgmt with key := key } }.setFlag 0x8C 0 key.isSome)

/-- Lane `l` takes control (R566 to R570): the steering of the other port's units moves, each unit obeys
the new port, the roles and counts follow, and the new active lane reports the change. -/
def State.takeControl (s : State) (l : LaneId) (gap : Nat) : State :=
  let moved := (List.range 232).filter (fun u => s.steer u == laneNo (other l))
  let s := s.modRind (fun r =>
    { r with
      steer := moved.foldl (fun t u => Tab.set t 0 u (laneNo l)) r.steer,
      act := l, none_ := false, everHeld := true, plan := none }.advanceSeq.setFlag 0x204 13 false)
  let all := (List.range 232).filter (fun u => s.steer u == laneNo l)
  let res := all.foldl (fun (acc : State × Nat) u =>
    let r := acc.1.obeyPort u l
    (r.1, acc.2 + b2n r.2)) (s, 0)
  let s := { (res.1).afterSafe l with absClk := [] }
  let s := s.modLane l (fun L =>
    let L := L.setFlag 0x40140004 0 true
    let L := (L.setFld 0x40140010 0 8 (min 255 res.2)).setFld 0x40140010 16 8 (min 255 L.mirDiff)
    (L.wr64 0x40140014 L.lt).setFld 0x4014001C 0 16 (min 65535 gap))
  (s.modLane (other l) (fun L => L.setFlag 0x40140004 0 false)).sendKey

/-- E87 with the new active lane, on both lanes (R582).
(Log: DEDUCED, entry 103.) -/
def State.moved (s : State) (d0 : Nat) : State := s.raiseBoth 87 d0 (laneNo s.rind.act) 0

/-- A takeover (R568): E87 with D0 1 and the count of takeovers; where no lane has stopped holding control the gap is
0 (R573).
(Log: DEDUCED, entry 102.) -/
def State.takeover (s : State) (l : LaneId) : State :=
  let gap := if s.rind.everHeld then s.die.replica - s.rind.gaveAt else 0
  let s := s.takeControl l gap
  (s.modRind (fun r => r.bumpFld 0x208 0 16)).moved 1

/-- The lane is ready as the rind last heard it. -/
def State.readyBeat (s : State) (l : LaneId) : Bool := (s.rind.beat.get l).ready

/-- The first whole millisecond of replica LT at least `d` ticks away. -/
def State.nextMs (s : State) (d : Nat) : Nat := (s.die.replica + d + 99999) / 100000 * 100000

/-- A planned handover or a proof swap ends because a lane gave up control (R574, R578).
(Log: DEDUCED, entry 103.) -/
def State.abandonPlan (s : State) : State :=
  if (s.rind.plan.isSome || s.rind.proving.isSome) && (s.gu .a || s.gu .b) then
    let wasProof := s.rind.proving.isSome
    let s := s.modRind (fun r =>
      let r := ({ r with plan := none, proving := none }).setFlag 0x204 13 false
      if wasProof then (r.setFlag 0x204 8 false).setFld 0x204 9 2 3 else r)
    if wasProof then s.moved 4 else s
  else s

/-- A return is due (R575, R576). -/
def State.returnDue (s : State) : Bool :=
  let h := s.home
  match s.control with
  | some x =>
    x != h && !s.gu x && !s.gu h && !s.rind.flag 0x200 1 && s.rind.proving.isNone &&
      s.rind.plan.isNone &&
      (match s.rind.readyAt.get h with
       | some t => decide (t + s.rind.fld 0x200 8 8 * 100000000 ≤ s.die.replica)
       | none => false)
  | none => false

/-- What both arbiters do when they agree (R566, R567, R572, R573, R575).
(Log: DEDUCED, entry 102.) -/
def State.arbitrate (s : State) : State :=
  let s := s.abandonPlan
  match s.control with
  | some x =>
    if s.gu x then
      if s.readyBeat (other x) then s.takeover (other x)
      else s.modRind (fun r => { r with none_ := true, noneAt := s.die.replica })
    else if s.returnDue then
      s.modRind (fun r =>
        { r with plan := some ⟨s.home, s.nextMs 200000, 0⟩ }.setFlag 0x204 13 true)
    else s
  | none =>
    if !s.rind.everHeld then (if s.readyBeat s.home then s.takeover s.home else s)
    else if s.readyBeat s.home then s.takeover s.home
    else if s.readyBeat (other s.home) then s.takeover (other s.home)
    else s

/-- ARBITER_PROPOSAL (R566): `agree` tells whether the two arbiters, on their own clocks and copies of the
heartbeats, propose the same steering in this cycle.
(Log: DEDUCED, entry 102.) -/
def execArbiterProposal (agree : Bool) (s : State) : Host.Outcome State Fault Refusal :=
  .next (if agree then
    (s.arbitrate).modRind (fun r => { r with diffAt := none, diffSaid := false })
  else s.modRind (fun r =>
    { r with diffAt := some (r.diffAt.getD s.die.replica) }))

/-- ARBITER_DISAGREEMENT (R566): the proposals have differed for more than 10 us.
(Log: DEDUCED, entry 102.) -/
def execArbiterDisagreement (s : State) : Host.Outcome State Fault Refusal :=
  .next (match s.rind.diffAt with
    | some t =>
      if t + 1000 < s.die.replica ∧ ¬ s.rind.diffSaid then
        s.modRind (fun r => ({ r with diffSaid := true }.setFlag 0x204 11 true).bumpFld 0x20C 16 16)
      else s
    | none => s)

/-- NONE_TIMEOUT (R572): NONE has lasted NONE_TMO since a lane held control; every channel that is not
DIRECT goes off with its soft-off and every gate output off; stored commands stay. -/
def execNoneTimeout (s : State) : Host.Outcome State Fault Refusal :=
  .next (if s.rind.none_ && s.rind.everHeld && !s.die.safeOff &&
      decide (s.rind.noneAt + s.rind.fld 0x200 16 8 * 1000000 ≤ s.die.replica) then
    let s := s.modDie (fun d => { d with safeOff := true })
    let s := (List.range 208).foldl (fun s n => if s.steer n = 2 then s else s.softOff n) s
    let s := (List.range 24).foldl (fun s n =>
      s.modDie (fun d => d.setUnit (208 + n) { (d.unit (208 + n)).gatesOff d.replica with refresh := false })) s
    s.modRind (fun r => r.setFlag 0x204 12 true)
  else s)

/-- HOME_READY_TIMEOUT (R573): the home lane has sent no READY within 1 s of the other lane. -/
def execHomeReadyTimeout (s : State) : Host.Outcome State Fault Refusal :=
  let o := other s.home
  .next (if s.rind.none_ && !s.rind.everHeld && s.readyBeat o && !s.readyBeat s.home then
    match s.rind.readyAt.get o with
    | some t => if t + 100000000 ≤ s.die.replica then s.takeover o else s
    | none => s
  else s)

/-- At T1 of a proof swap the proving lane's switch link sends a port check to every moved unit (R578).
(Log: DEDUCED, entry 103.) -/
def State.sendChecks (s : State) (l : LaneId) (us : List Nat) : State :=
  let t := (s.modDie (fun d => { d with checked := [] })).modRind (fun r => { r with toCheck := us })
  t.modLane l (fun L => us.foldl (fun (M : Lane) u => M.sendCmd u 0 .check none) L)

/-- PLANNED_HANDOVER (R574, R575, R578): at T the steering moves without a gap. -/
def execPlannedHandover (s : State) : Host.Outcome State Fault Refusal :=
  .next (match s.rind.plan with
    | some p =>
      if s.gu .a || s.gu .b then s.abandonPlan
      else if s.die.replica < p.at_ ∨ p.kind = 2 then s
      else
        let us := (List.range 232).filter (fun u => s.steer u == laneNo (other p.toLane))
        let s := s.takeControl p.toLane 0
        if p.kind = 0 then (s.modRind (fun r => r.bumpFld 0x208 16 16)).moved 2
        else
          (s.sendChecks p.toLane us).modRind (fun r =>
            { r with
              plan := some ⟨other p.toLane, s.nextMs (r.fld 0x200 24 8 * 10000000), 2⟩ })
    | none => s)

/-- A proof swap is requested (R577, R578): refused, E87 with D0 5, unless the standby lane is ready, no
swap or handover runs, the module is in RUN and a lane holds control.  The second component is true
where it was accepted.
(Log: DEDUCED, entry 103.) -/
def State.proofSwap (s : State) : State × Bool :=
  match s.control with
  | none => (s.moved 5, false)
  | some x =>
    if !s.readyBeat (other x) || s.rind.proving.isSome || s.rind.plan.isSome || s.power != 0 then
      (s.moved 5, false)
    else
      let s := s.modRind (fun r =>
        (({ r with plan := some ⟨other x, s.nextMs 200000, 1⟩, proving := some (other x) }).setFlag
          0x204 13 true).setFlag 0x204 8 true)
      (s.moved 3, true)

/-- PROOF: LNK.CTRL.PROOF; a request of the standby lane is ignored (R577). -/
def execProofRequest (l : LaneId) (s : State) : Host.Outcome State Fault Refusal :=
  .next (if s.isActive l then s.proofSwap.1 else s)

/-- PROOF_SWAP_END (R578): at T2 control hands back; it passes when every moved unit has executed its port check and
`confirmed` tells that the die's confirmations reached the rind.
(Log: DEDUCED, entry 103.) -/
def execProofSwapEnd (confirmed : Bool) (s : State) : Host.Outcome State Fault Refusal :=
  .next (match s.rind.plan, s.rind.proving with
    | some p, some v =>
      if p.kind ≠ 2 ∨ s.die.replica < p.at_ then s
      else if s.gu .a || s.gu .b then s.abandonPlan
      else
        let pass := confirmed && s.rind.toCheck.all (fun u => s.die.checked.contains u)
        let s := s.takeControl p.toLane 0
        let s := s.modRind (fun r =>
          let r := ({ r with proving := none, toCheck := [] }).setFlag 0x204 8 false
          let r := r.setFld 0x204 9 2 (if pass then 1 else 2)
          if pass then
            (r.setFld 0x210 (16 * laneNo v) 16 0).bumpFld 0x20C 0 16
          else r.setFlag 0x204 (6 + laneNo v) true)
        let s := s.moved 4
        if pass then s else s.refreshReady v
    | _, _ => s)

/-- PROOF_AGE_HOUR (R579, R585): in RUN each lane's age grows, saturating; 0xFFFF until a first pass.
(Log: DESIGN CHOICE, entry 104.) -/
def execProofAgeHour (s : State) : Host.Outcome State Fault Refusal :=
  .next (if s.power = 0 then
    s.modRind (fun r => (r.bumpFld 0x210 0 16).bumpFld 0x210 16 16) else s)

/-- LANE_MONITOR_FIRE (R565, R64): the lane gives up control and resets with cause 5. -/
def execLaneMonitorFire (l : LaneId) (s : State) : Host.Outcome State Fault Refusal :=
  .next (if (s.lane l).alive then s.laneReset l 1 5 else s)

/-- LANE_LINK_DOWN (R81): PEER_OK falls and PEER_OFS holds. -/
def execLaneLinkDown (s : State) : Host.Outcome State Fault Refusal :=
  let s := { s with laneLink := false }
  .next (s.bothLanes (fun L =>
    ({ L with time := { L.time with peerGood := 0 } }).setFlag 0x40140004 3 false))

/-- LANE_LINK_UP (R81): the link carries again; PEER_OK follows the next measurements. -/
def execLaneLinkUp (s : State) : Host.Outcome State Fault Refusal :=
  let s := { s with laneLink := (s.laneA.alive && s.laneB.alive) }
  .next (s.bothLanes (fun L => L.setFlag 0x40140004 3 s.laneLink))

end Sys2Proof.Machine
end

