-- ==== Sys2Proof/Machine/Time.lean ====
section
/-!
DEFINITION. Lane time, GNSS time, the external-clock estimators and the time pulses (R74 to R98).
-/

namespace Sys2Proof.Machine

/-- Reported GNSS time in ns (R78, R91): the mapping with the slew that remains. -/
def Lane.gnssTime (L : Lane) : Option Int :=
  L.time.map.map (fun m => m + 10 * (L.lt : Int) + L.time.slew.floor)

def Lane.gen (L : Lane) (n : Nat) : TpGen := Tab.get L.time.gen TpGen.reset n
def Lane.setGen (L : Lane) (n : Nat) (g : TpGen) : Lane :=
  { L with time := { L.time with gen := Tab.set L.time.gen TpGen.reset n g } }

/-- The period of a PER code in ms (R96). -/
def tpPeriod (code : Nat) : Nat :=
  (([1, 2, 4, 5, 8, 10, 20, 25, 40, 50, 100, 125, 200, 250, 500, 1000] : List Nat)[code]?).getD 1000

/-- A TP_CFG word as it takes effect (R88): WIDTH 0 acts as 1 us; a WIDTH of a period or more takes a
period less 1 us, with WIDTH_CLAMP. -/
def tpEffective (v : Word) : Word × Bool :=
  let w := fieldNat v 8 20
  let per := tpPeriod (fieldNat v 2 4) * 1000
  if w = 0 then (setFieldNat v 8 20 1, false)
  else if per ≤ w then (setFieldNat v 8 20 (per - 1), true)
  else (v, false)

/-- Settings of a generator take effect. -/
def Lane.tpTake (L : Lane) (n : Nat) (v : Word) : Lane :=
  let e := tpEffective v
  let L := L.setGen n { L.gen n with cur := e.1, pending := none }
  if e.2 then L.setFlag (0x40020058 + 4 * n) 4 true else L

/-- A write of LT.TP_CFG[n] (R88): at the next leading edge, or at once where none is to come.
(Log: DEDUCED, entry 22.) -/
def Lane.tpCfgWrite (L : Lane) (n : Nat) (v : Word) : Lane :=
  let L := L.plainWrite (0x40020050 + 4 * n) v
  let nv := L.rd (0x40020050 + 4 * n)
  if !bitOf (L.gen n).cur 0 || L.time.map.isNone then L.tpTake n nv
  else L.setGen n { L.gen n with pending := some nv }

/-- TP_CFG_WRITE. -/
def execTpCfgWrite (l : LaneId) (n : Fin 2) (v : Word) (s : State) :
    Host.Outcome State Fault Refusal :=
  .next (s.modLane l (fun L => L.tpCfgWrite n v))

/-- An antenna of the lane's baseband has a timing fix (R344). -/
def Lane.antFix (L : Lane) (ant : Nat) : Bool := L.flag 0x400A0004 (5 + ant)

/-- The timing antenna (R94). -/
def Lane.tant (L : Lane) : Nat := L.fld 0x40020008 1 1

/-- Lane `l` has a timing solution (R79): its own baseband's from its timing antenna, or else the partner's, from the
partner's timing antenna, over the lane link.
(Log: DEDUCED, entry 23.) -/
def State.hasFix (s : State) (l : LaneId) : Bool :=
  let P := s.lane (other l)
  s.power == 0 && ((s.lane l).antFix (s.lane l).tant || (s.laneLink && P.antFix P.tant))

/-- The discipline loop takes a clock solution: the rate that holds the mapping, within the TCXO's 0.5 ppm (R63, R79).
(Log: DEDUCED, entry 20; DESIGN CHOICE, entry 26.) -/
def Lane.takeRate (L : Lane) : Lane :=
  ({ L with time := { L.time with rate := max (-500) (min 500 (Config.freeRat L.free)) } }).useFree

/-- TIMING_FIX_ACQUIRED (R78, R79, R87): at the first timing fix after LT starts from 0 the active lane fixes
M, and both lanes hold it; MODE is LOCKED, and the uncertainty that comes with the fix is not stated.  `gt` is GNSS time
at the fix, ns.
(Log: DEDUCED, entry 23; DESIGN CHOICE, entry 26.) -/
def execTimingFixAcquired (gt : Nat) (s : State) : Host.Outcome State Fault Refusal :=
  .next (match s.control with
    | none => s
    | some x =>
      if (s.lane x).time.map.isSome ∨ ¬ (s.lane x).alive ∨ ¬ s.hasFix x then s
      else
        let m : Int := (gt : Int) - 10 * ((s.lane x).lt : Int)
        s.bothLanes (fun L =>
          if L.alive then
            ((({ L with time := { L.time with map := some m, slew := 0 } }).setFld 0x4002000C 0 2
              1).wr 0x40020030 L.freeWord).useFree.takeRate
          else { L with time := { L.time with map := some m } }))

/-- u(t) in ns (R89): u0, the rate uncertainty and the module's drift bound, t seconds after loss.
(Log: DEDUCED, entry 23.) -/
def Lane.holdU (L : Lane) : Rat :=
  let t : Rat := ((L.lt - L.time.lossAt : Nat) : Rat) / 100000000
  L.time.u0 + (L.time.sigma * t + (1 / 2) * (1 / 10000000000) * t * t) * 1000000000

/-- A lane with a mapping enters holdover (R89): u0 is GT_UNC as it stands, and `sigma` the rate uncertainty at loss.  MODE
HOLDOVER, TP_STAT.HOLDOVER and E47 with data 1.
(Log: DEDUCED, entry 23.) -/
def Lane.enterHoldover (sigma : Rat) (L : Lane) : Lane :=
  if L.alive && L.time.map.isSome && L.fld 0x4002000C 0 2 != 2 then
    let L := { L with time := { L.time with
      lossAt := L.lt, u0 := (L.rd 0x40020030).toNat, sigma := sigma } }
    let L := L.setFld 0x4002000C 0 2 2
    let L := (L.setFlag 0x40020058 1 true).setFlag 0x4002005C 1 true
    L.raise 47 1 0 0
  else L

/-- HOLDOVER_ENTRY (R79, R89): neither lane has a timing fix; each lane enters holdover, with the rate uncertainty that its
discipline loop reports.
(Log: DEDUCED, entry 23.) -/
def execHoldoverEntry (sigmaA sigmaB : Rat) (s : State) : Host.Outcome State Fault Refusal :=
  .next (if s.hasFix .a || s.hasFix .b then s
  else (s.modLane .a (Lane.enterHoldover sigmaA)).modLane .b (Lane.enterHoldover sigmaB))

/-- The time base of a lane that leaves reset while a mapping stands (R78, R89): it joins its partner's, or, with no
fix on either lane, is in holdover from now on with uncertainties that nothing states.
(Log: DESIGN CHOICE, entry 26.) -/
def Lane.joinTime (L P : Lane) (up : Bool) : Lane :=
  if L.time.map.isNone then L
  else if up then
    let h := P.fld 0x4002000C 0 2 == 2
    (((({ L with time := { L.time with
      lossAt := P.time.lossAt, u0 := P.time.u0, sigma := P.time.sigma, slew := P.time.slew,
      rate := P.time.rate } }).setFld 0x4002000C 0 2
      (P.fld 0x4002000C 0 2)).wr 0x40020030 (P.rd 0x40020030)).setFlag 0x40020058 1 h).setFlag 0x4002005C 1 h
  else
    let f := fun (k : Nat) => Config.freeRat (L.free + k)
    (((({ L with time := { L.time with lossAt := L.lt, u0 := f 0, sigma := f 1 } }).useFree.setFld 0x4002000C 0 2
      2).setFlag 0x40020058 1 true).setFlag 0x4002005C 1 true).raise 47 1 0 0

/-- In holdover u(t) exceeds TP_LIMIT (R90). -/
def Lane.beyondLimit (L : Lane) : Bool :=
  L.fld 0x4002000C 0 2 == 2 && decide ((((L.rd 0x40020048).toNat : Nat) : Rat) < L.holdU)

/-- A generator that runs while u(t) exceeds TP_LIMIT becomes suppressed, with E47 and data 2 (R90); a pulse that
has started runs on. -/
def Lane.tpSuppress (L : Lane) (n : Nat) : Lane :=
  if L.beyondLimit && !L.flag (0x40020058 + 4 * n) 2 && bitOf (L.gen n).cur 0 then
    (L.setFlag (0x40020058 + 4 * n) 2 true).raise 47 2 n 0
  else L

/-- TP_SUPPRESS (R90): u(t) exceeds TP_LIMIT; the generator drives no further pulse.
(Log: DEDUCED, entry 22.) -/
def execTpSuppress (l : LaneId) (n : Fin 2) (s : State) : Host.Outcome State Fault Refusal :=
  .next (s.modLane l (fun L => L.tpSuppress n))

/-- PHASE_ERR of a generator: signed ns, saturating at 32,767 either way (R97).
(Log: DESIGN CHOICE, entry 21.) -/
def Lane.setPhase (L : Lane) (n : Nat) (p : Rat) : Lane :=
  let L := L.setGen n { L.gen n with phase := p }
  let v := clampInt (-32767) 32767 p.floor
  (L.setFld (0x40020058 + 4 * n) 16 16 (v % 65536).toNat).setFlag (0x40020058 + 4 * n) 3 (p != 0)

/-- GT_STEP as it saturates (R93). -/
def stepWord (i : Int) : Word := BitVec.ofInt 32 (clampInt (-0x7FFFFFFF) 0x7FFFFFFF i)

/-- TIMING_FIX_RETURN (R79, R91): GNSS time is stepped to the fix, GT_STEP and E94 on both lanes; an error of
at most 1 ms is slewed, a larger one moves M and sets REBASED; each generator slews its phase.
(Log: DESIGN CHOICE, entries 21, 26; DEDUCED, entry 23.) -/
def execTimingFixReturn (gt : Nat) (s : State) : Host.Outcome State Fault Refusal :=
  .next (match s.control with
    | none => s
    | some x =>
      match (s.lane x).gnssTime, (if s.hasFix x then (s.lane x).fld 0x4002000C 0 2 else 0) with
      | some old, 2 =>
        let step : Int := (gt : Int) - old
        let err : Rat := (step : Rat) + (s.lane x).time.slew
        let small := decide (-1000000 ≤ err) && decide (err ≤ 1000000)
        s.bothLanes (fun L =>
          let L := if small then { L with time := { L.time with slew := err } }
            else { L with time := { L.time with
              map := L.time.map.map (fun m => m + err.floor), slew := 0 } }
          if L.alive then
            let L := L.wr 0x40020034 (stepWord step)
            let L := (L.setFld 0x4002000C 0 2 (if small then 3 else 1))
            let L := if small then L else L.setFlag 0x4002000C 5 true
            let L := (L.setFlag 0x40020058 1 false).setFlag 0x4002005C 1 false
            let L := (L.setPhase 0 ((L.gen 0).phase + step)).setPhase 1 ((L.gen 1).phase + step)
            ((L.wr 0x40020030 L.freeWord).useFree.takeRate).raise 94 0 0 (stepWord step)
          else L)
      | _, _ => s)

/-- SLEW_END (R91): the error is below 10 ns and MODE becomes LOCKED. -/
def execSlewEnd (l : LaneId) (s : State) : Host.Outcome State Fault Refusal :=
  let L := s.lane l
  .next (if L.fld 0x4002000C 0 2 = 3 ∧ -10 < L.time.slew ∧ L.time.slew < 10 then
    s.modLane l (fun L => L.setFld 0x4002000C 0 2 1)
  else s)

/-- The period that ends at a leading edge has taken away part of the phase error (R87): any amount up to 10 ppm
of the period, and no more than the error.
(Log: DESIGN CHOICE, entry 21.) -/
def Lane.slewPhase (L : Lane) (n : Nat) : Lane :=
  let p := (L.gen n).phase
  if p = 0 then L
  else
    let most : Rat := (10 * tpPeriod (fieldNat (L.gen n).cur 2 4) : Nat)
    let d := most * ((Config.freeNat L.free % 1025 : Nat) : Rat) / 1024
    L.useFree.setPhase n (if d < p then p - d else if p < -d then p + d else 0)

/-- The cable delay of the timing antenna in ns (R84): values above 8,000 act as 8,000. -/
def Lane.timingCable (L : Lane) : Rat :=
  ((min 8000 (L.fld (if L.flag 0x40020008 1 then 0x40020044 else 0x40020040) 0 13) : Nat) : Rat) / 4

/-- A write of LT.CTRL or LT.CABLE: a change of the timing antenna's delay is a phase error of both generators
(R84, R87).
(Log: DESIGN CHOICE, entry 21.) -/
def Lane.cableWrite (L : Lane) (a : Nat) (v : Word) : Lane :=
  let M := L.plainWrite a v
  let d := M.timingCable - L.timingCable
  if d = 0 ∨ L.time.map.isNone then M
  else (M.setPhase 0 ((M.gen 0).phase - d)).setPhase 1 ((M.gen 1).phase - d)

/-- The time by which a generator runs (R87): GNSS time with the timing antenna's cable delay removed, less its phase
error, in ns.  It never jumps. -/
def Lane.tpTime (L : Lane) (n : Nat) : Option Rat :=
  L.gnssTime.map (fun g => (g : Rat) - L.timingCable - (L.gen n).phase)

/-- The multiple of the period at which a leading edge of generator `n` falls in the present tick of lane time, if one
does and has not been given yet (R87).
(Log: DEDUCED, entry 22.) -/
def Lane.tpDue (L : Lane) (n : Nat) : Option Int :=
  match L.tpTime n with
  | none => none
  | some t =>
    let per : Rat := ((tpPeriod (fieldNat (L.gen n).cur 2 4) * 1000000 : Nat) : Rat)
    let k : Int := (t / per).floor
    let tick : Rat := ((10 * (L.lt - L.time.last) + 1 : Nat) : Rat)
    if bitOf (L.gen n).cur 0 && (L.gen n).idx != some k && decide (t - (k : Rat) * per < tick) then some k else none

/-- The pulse's leading edge is given to the pad or withheld (R88, R90, R91): pending settings apply; beyond TP_LIMIT
the generator is suppressed; otherwise a suppressed one resumes once its phase error is within TP_LIMIT (E47 with
data 3).
(Log: DEDUCED, entry 22.) -/
def Lane.tpLead (L : Lane) (n : Nat) (k : Int) : Lane :=
  let a := 0x40020058 + 4 * n
  let L := L.slewPhase n
  let L := match (L.gen n).pending with
    | some v => L.tpTake n v
    | none => L
  let L := L.tpSuppress n
  let lim : Rat := ((L.rd 0x40020048).toNat : Nat)
  let ok := decide (-lim ≤ (L.gen n).phase) && decide ((L.gen n).phase ≤ lim) && !L.beyondLimit
  let L := if L.flag a 2 && ok then (L.setFlag a 2 false).raise 47 3 n 0 else L
  let run := bitOf (L.gen n).cur 0
  L.setGen n { L.gen n with high := run, driven := run && !L.flag a 2, start := L.lt, idx := some k }

/-- TP_LEADING_EDGE (R87): at the tick in which GNSS time less the cable delay, as the generator's own phase has it,
reaches a whole multiple of the period.
(Log: DEDUCED, entry 22.) -/
def execTpLeadingEdge (l : LaneId) (n : Fin 2) (s : State) : Host.Outcome State Fault Refusal :=
  .next (if s.counts l then
    match (s.lane l).tpDue n with
    | some k => s.modLane l (fun L => L.tpLead n k)
    | none => s
  else s)

/-- The pulse's width in ticks of lane time (R96). -/
def TpGen.width (g : TpGen) : Nat := fieldNat g.cur 8 20 * 100

/-- TP_TRAILING_EDGE (R90, R96): the pulse has lasted its WIDTH.
(Log: DEDUCED, entry 22.) -/
def execTpTrailingEdge (l : LaneId) (n : Fin 2) (s : State) : Host.Outcome State Fault Refusal :=
  let g := (s.lane l).gen n
  .next (if g.high && decide (g.start + g.width ≤ (s.lane l).lt) then
    s.modLane l (fun L => L.setGen n { L.gen n with high := false, driven := false })
  else s)

/-- Pulses of the lane reach the pad (R46, R97): the active lane's, enabled, mapped and not suppressed. -/
def State.tpOut (s : State) (l : LaneId) (n : Nat) : Bool :=
  let L := s.lane l
  s.isActive l && bitOf (L.gen n).cur 0 && L.time.map.isSome && !L.flag (0x40020058 + 4 * n) 2

/-- The level of pad TP1 or TP2 (R45, R46, R90, R96): low, but where the active lane drives it: a pulse that it has
given, with the polarity of POL, and between pulses the inactive level.
(Log: DEDUCED, entry 22.) -/
def State.tpPad (s : State) (n : Nat) : Bool :=
  match s.control with
  | none => false
  | some l =>
    let g := (s.lane l).gen n
    if g.high && g.driven then !bitOf g.cur 1
    else s.tpOut l n && bitOf g.cur 1

/-- The lanes' exact times differ by this much, the partner's less the lane's own, in ticks (R80). -/
def State.peerDiff (s : State) (l : LaneId) : Rat :=
  let L := s.lane l
  let P := s.lane (other l)
  ((P.lt : Rat) + P.time.sub) - ((L.lt : Rat) + L.time.sub)

/-- PEER_OFS in 0.25 ns, as a measurement over the lane link finds it (R80), rounded up or down.
(Log: DEDUCED, entry 19.) -/
def State.peerOfs (s : State) (l : LaneId) (up : Bool) : Int :=
  if up then (s.peerDiff l * 40).ceil else (s.peerDiff l * 40).floor

/-- LT.STAT.PEER_OK (R81): the link up, the partner counting, PEER_OFS within 20 ns. -/
def State.peerOk (s : State) (l : LaneId) : Bool :=
  let o := ((s.lane l).rd 0x40020018).toInt
  s.laneLink && s.counts (other l) && decide (-80 ≤ o) && decide (o ≤ 80)

/-- PEER_OFFSET_MEASURE (R80, R81): once a millisecond over the lane link, the step of 0.25 ns rounded up where `up`.  Beyond 1 us the standby lane is not ready
until PEER_OK has been 1 for 10 ms.
(Log: DEDUCED, entry 19.) -/
def execPeerOffsetMeasure (l : LaneId) (up : Bool) (s : State) : Host.Outcome State Fault Refusal :=
  let linked := s.laneLink && s.counts (other l)
  let ofs := s.peerOfs l up
  let ok := linked && decide (-80 ≤ ofs) && decide (ofs ≤ 80)
  .next (if s.counts l then
    let s := s.modLane l (fun L =>
      let L := if linked then L.wr 0x40020018 (satInt ofs) else L
      let far := linked && (decide (ofs < -4000) || decide (4000 < ofs))
      let good := if ok then min 10 (L.time.peerGood + 1) else 0
      { L with time := { L.time with
        peerGood := good, peerFar := far || (L.time.peerFar && decide (good < 10)) } })
    s.refreshReady l
  else s)

/-- A slot's window of pairs (R98): 8 times WIN, 0 acting as 32 and 1 as 2. -/
def Lane.xsrcN (L : Lane) (i : Nat) : Nat :=
  let w := L.fld (0x40020100 + 32 * i) 8 5
  8 * (if w = 0 then 32 else max 2 w)

/-- Least-squares line through points: slope and value at `x` (R85).
(Log: DEDUCED, entry 24.) -/
def fitLine (ps : List (Rat × Rat)) (x : Rat) : Rat × Rat :=
  let n : Rat := (ps.length : Nat)
  let sx := ps.foldl (fun a p => a + p.1) 0
  let sy := ps.foldl (fun a p => a + p.2) 0
  let sxx := ps.foldl (fun a p => a + p.1 * p.1) 0
  let sxy := ps.foldl (fun a p => a + p.1 * p.2) 0
  let den := n * sxx - sx * sx
  let b := if den = 0 then 0 else (n * sxy - sx * sy) / den
  (b, (sy - b * sx) / n + b * x)

/-- A submission to an enabled external-clock slot (R85): d is LT less src times TICK; the least d of each
of eight segments, their least-squares line, SKEW, the reference pair and RESID once N pairs are held.
(Log: DEDUCED, entry 24.) -/
def Lane.xsubGo (L : Lane) (i : Nat) : Lane :=
  let a := 0x40020100 + 32 * i
  if !L.flag a 0 then L
  else
    let pr := (L.rd64 0x40020080, L.rd64 0x40020088)
    let n := L.xsrcN i
    let ps := (pr :: Tab.get L.time.pairs [] i).take n
    let L := { L with time := { L.time with pairs := Tab.set L.time.pairs [] i ps } }
    if ps.length < n then L
    else
      let tick : Rat := ((L.rd (a + 4)).toNat : Nat) / 256 / 10
      let d := fun (p : Nat × Nat) => ((p.2 : Nat) : Rat) - (p.1 : Nat) * tick
      let x0 := ((ps.getLastD pr).1 : Nat)
      let pt := fun (p : Nat × Nat) => ((((p.1 : Nat) : Rat) - x0) * tick, d p)
      let seg := n / 8
      let best := fun (k : Nat) =>
        ((ps.drop (k * seg)).take seg).foldl (fun (acc : Option (Nat × Nat)) p =>
          match acc with
          | none => some p
          | some q => if d p < d q then some p else some q) none
      let pts := (List.range 8).filterMap (fun k => (best k).map pt)
      let here := (pt pr).1
      let f := fitLine pts here
      let lat : Rat := (L.fld a 16 16 : Nat) * 100
      let ref := (pr.1 : Nat) * tick + f.2 - lat
      let L := L.wr (a + 8) (satInt (f.1 * 1000000000).floor)
      let L := L.wr (a + 12) (satInt ((d pr - f.2) * 10).floor)
      let L := L.wr64 (a + 16) pr.1
      let L := L.wr64 (a + 24) (ref.floor.toNat % 2 ^ 64)
      L.setFlag a 1 true

/-- XSUB_GO. -/
def execXsubGo (l : LaneId) (v : Word) (s : State) : Host.Outcome State Fault Refusal :=
  .next (s.modLane l (fun L => L.xsubGo (fieldNat v 0 5)))

/-- A write of CFG or TICK of a slot (R98): a write of TICK, and one that changes WIN, empties the pairs and clears
VALID.
(Log: DEDUCED, entry 24.) -/
def Lane.xsrcWrite (L : Lane) (i : Nat) (tick : Bool) (v : Word) : Lane :=
  let a := 0x40020100 + 32 * i + (if tick then 4 else 0)
  let old := L.rd a
  let L := L.plainWrite a v
  let changed := tick || fieldNat old 8 5 != fieldNat (L.rd a) 8 5
  if changed then
    ({ L with time := { L.time with pairs := Tab.set L.time.pairs [] i [] } }).setFlag
      (0x40020100 + 32 * i) 1 false
  else L

/-- XSRC_CFG_WRITE. -/
def execXsrcCfgWrite (l : LaneId) (i : Fin 32) (tick : Bool) (v : Word) (s : State) :
    Host.Outcome State Fault Refusal :=
  .next (s.modLane l (fun L => L.xsrcWrite i tick v))

/-- A context latches a word of its LT latch (R93, R100): 0 NOW_HI, 1 GT_HI, 2 GT_AT_LO, 3 GT_AT_HI. -/
def Ctx.latch (x : Ctx) (i : Nat) (v : Word) : Ctx := { x with ltLatch := Tab.set x.ltLatch 0 i v }

/-- A read of LT.NOW_LO by a context (R93): its low word, NOW_HI latched. -/
def Lane.readNowLo (L : Lane) (c : Nat) : Word × Lane :=
  (loWord L.lt, L.modCtx c (fun x => x.latch 0 (hiWord L.lt)))

/-- A read of LT.GT_LO by a context (R78, R93): GNSS time of this tick, or zeros before any mapping. -/
def Lane.readGtLo (L : Lane) (c : Nat) : Word × Lane :=
  match L.gnssTime with
  | some g =>
    let n := (g % 2 ^ 64).toNat
    (loWord n, L.modCtx c (fun x =>
      ((x.latch 1 (hiWord n)).latch 2 (loWord L.lt)).latch 3 (hiWord L.lt)))
  | none => (0, L.modCtx c (fun x => ((x.latch 1 0).latch 2 0).latch 3 0))

/-- NOW_LO_READ. -/
def execNowLoRead (l : LaneId) (c : CtxNo) (s : State) : Host.Outcome State Fault Refusal :=
  .next (s.modLane l (fun L => (L.readNowLo c).2))
/-- GT_LO_READ. -/
def execGtLoRead (l : LaneId) (c : CtxNo) (s : State) : Host.Outcome State Fault Refusal :=
  .next (s.modLane l (fun L => (L.readGtLo c).2))

/-- GT_UNC as it reads (R78, R89, R93).
(Log: DEDUCED, entry 23; DESIGN CHOICE, entry 26.) -/
def Lane.gtUnc (L : Lane) : Word :=
  if L.time.map.isNone then 0xFFFFFFFF
  else if L.fld 0x4002000C 0 2 = 2 then satWord L.holdU.floor.toNat
  else L.rd 0x40020030

/-- A write of LT.RATE (R93): clamped to 50,000 ppb either way; ignored while DISC is 1.
(Log: DEDUCED, entry 20.) -/
def Lane.writeRate (L : Lane) (v : Word) : Lane :=
  if L.flag 0x40020008 0 then L
  else L.wr 0x40020010 (BitVec.ofInt 32 (clampInt (-50000) 50000 v.toInt))

/-- A lane follows its partner's time (R80): it is not in control, its partner is, counts, and the link carries. -/
def State.standsBy (s : State) (l : LaneId) : Bool :=
  s.control == some (other l) && s.laneLink && s.counts (other l)

/-- The rate in ppb of the TCXO that the lane applies of itself (R79, R89, R91): RATE with DISC 0, else the last
steered rate, with 10 ppm towards GNSS time while it slews.
(Log: DEDUCED, entry 20.) -/
def Lane.ownRate (L : Lane) : Rat :=
  if !L.flag 0x40020008 0 then ((L.rd 0x40020010).toInt : Rat)
  else if L.fld 0x4002000C 0 2 = 3 then
    L.time.rate + (if 0 < L.time.slew then 10000 else if L.time.slew < 0 then -10000 else 0)
  else L.time.rate

/-- A slew of at most 100 ppm of `n` ticks towards a difference (R80, R82).
(Log: DEDUCED, entry 128.) -/
def slewBy (n : Nat) (d : Rat) : Rat :=
  let most : Rat := (n : Rat) / 10000
  if most < d then most else if d < -most then -most else d

/-- The rate that RATE reads (R93): the lane's own, or for the lane that follows its partner the partner's with its
slew.
(Log: DEDUCED, entry 20.) -/
def State.appliedRate (s : State) (l : LaneId) : Rat :=
  if s.standsBy l then (s.lane (other l)).ownRate + slewBy 1 (s.peerDiff l) * 1000000000 else (s.lane l).ownRate

/-- How far LT of a lane runs in `n` ticks of the TCXO (R65, R74, R79, R80).
(Log: DEDUCED, entry 128.) -/
def State.ltStep (s : State) (l : LaneId) (n : Nat) : Rat :=
  if s.power = 2 then n
  else if s.standsBy l then
    (n : Rat) * (1 + (s.lane (other l)).ownRate / 1000000000) + slewBy n (s.peerDiff l)
  else (n : Rat) * (1 + (s.lane l).ownRate / 1000000000)

/-- An engine works for `n` core cycles on the commands of its queue, oldest first. -/
def workOff (n : Nat) (q : List Nat) : List Nat :=
  match q with
  | [] => []
  | k :: rest => if k ≤ n then workOff (n - k) rest else (k - n) :: rest

/-- LT runs on by `d` ticks; the slew that remains shrinks by 10 ppm of the `n` ticks; the queues of SPX and LPE work on
at four core cycles a tick (R63, R157).
(Log: DEDUCED, entry 20.) -/
def Lane.advance (L : Lane) (n : Nat) (d : Rat) : Lane :=
  let m : Rat := (n : Nat) / 10000
  let sl := L.time.slew
  let sl := if L.fld 0x4002000C 0 2 ≠ 3 then sl
    else if m < sl then sl - m else if sl < -m then sl + m else 0
  let x := L.time.sub + d
  let k := x.floor.toNat
  { L with
    spxQ := workOff (4 * n) L.spxQ
    lpeQ := workOff (4 * n) L.lpeQ
    lt := (L.lt + k) % 2 ^ 64
    time := { L.time with slew := sl, sub := x - (k : Rat), last := L.lt } }

/-- The replica runs on by `d` ticks with its fraction. -/
def Die.advance (e : Die) (d : Rat) : Die :=
  let x := e.sub + d
  let k := x.floor.toNat
  { e with replica := (e.replica + k) % 2 ^ 64, sub := x - (k : Rat) }

/-- How far the replica runs in `n` ticks of the TCXO (R76, R82): with the lane it follows, slewing towards it, or by
the TCXO where that lane does not count.
(Log: DEDUCED, entries 25, 128.) -/
def State.replicaStep (s : State) (n : Nat) : Rat :=
  let f := s.follows
  let L := s.lane f
  if s.counts f then
    s.ltStep f n + slewBy n (((L.lt : Rat) + L.time.sub) - ((s.die.replica : Rat) + s.die.sub))
  else n

/-- Ticks of one period of the 32.768 kHz clock with the measured rate (R76). -/
def Rind.period (r : Rind) : Rat := (390625 / 128 : Rat) * (1 + (r.xtRate : Rat) / 100000000)

/-- Time of one step on an empty queue (R65, R74, R76): one tick of the TCXO, in DOZE five, or a period of the
32.768 kHz clock while the TCXO is stopped; nothing runs before the first supply.
(Log: DESIGN CHOICE, entry 2; DEDUCED, entries 19, 20, 25.) -/
def State.runOn (s : State) : State :=
  if s.tcxo then
    let n := if s.power = 2 then 5 else 1
    let da := s.ltStep .a n
    let db := s.ltStep .b n
    let dr := s.replicaStep n
    let t := s.modLane .a (fun L => if L.alive then L.advance n da else L)
    let t := t.modLane .b (fun L => if L.alive then L.advance n db else L)
    t.modDie (fun d => d.advance dr)
  else if s.rind.holdEmpty then s
  else s.modDie (fun d => d.advance s.rind.period)

/-! ### The start and stop of the TCXO (R76, R77) -/

/-- A lane resumes counting after the replica has carried LT on the 32.768 kHz clock (R76, R77): it takes the
replica's time, and UNC grows by 100 ns for each hand-over and 5 ppm of the time, or is unknown.
(Log: DEDUCED, entry 25; DESIGN CHOICE, entry 27.) -/
def Lane.endCoast (L : Lane) (e : Coast) : Lane :=
  if e.hand = 0 then L
  else if e.rc || L.flag 0x4002000C 4 then (L.setFlag 0x4002000C 4 true).wr 0x40020014 0xFFFFFFFF
  else L.wr 0x40020014 (satWord ((L.rd 0x40020014).toNat + 100 * e.hand + (e.ticks * 10 * 5) / 1000000))

/-- A lane that counts again settles what it owes for the coasts since it last counted. -/
def State.payCoast (s : State) (l : LaneId) : State :=
  let e := s.rind.coast.get l
  let t := s.modLane l (fun L => L.endCoast e)
  t.modRind (fun r => { r with coast := r.coast.set l ⟨0, 0, false⟩ })

/-- The TCXO stops: the replica coasts on the crystal at the rate measured against the TCXO.
(Log: DEDUCED, entry 25.) -/
def State.stopTcxo (s : State) : State :=
  let now := s.die.replica
  let t := s.modRind (fun r => { r with
    xtalCoast := some now
    coastRC := r.flag 0x110 18
    xtRate := clampInt (-10000000) 10000000 (Config.crystal now) })
  t.bothLanes (fun L => { L with time := { L.time with peerGood := 0 } })

/-- The TCXO starts: what the coast added is owed by both lanes, and a lane that is out of reset takes LT from the
replica and settles it.
(Log: DEDUCED, entry 25.) -/
def State.startTcxo (s : State) : State :=
  let e := s.die
  let owe := fun (c : Coast) => match s.rind.xtalCoast with
    | some t => Coast.mk (c.hand + 2) (c.ticks + (e.replica - t)) (c.rc || s.rind.coastRC)
    | none => c
  let t := s.modRind (fun r => { r with
    xtalCoast := none
    coastRC := false
    coast := ⟨owe r.coast.a, owe r.coast.b⟩ })
  let resume := fun (t : State) (l : LaneId) =>
    if (t.lane l).alive then
      (t.modLane l (fun L =>
        { L with lt := e.replica, time := { L.time with sub := e.sub, last := e.replica } })).payCoast l
    else t
  resume (resume t .a) .b

/-- A change of the power ladder or the supply, with what it does to the TCXO. -/
def State.clocked (s : State) (f : State → State) : State :=
  let t := f s
  if t.tcxo = s.tcxo then t else if t.tcxo then t.startTcxo else t.stopTcxo

end Sys2Proof.Machine
end

