-- ==== Sys2Proof/Machine/SecModel.lean ====
section
/-!
DEFINITION. The boom model of the section engine: its tables and their check, boom-motion inputs, segment
estimates and the kinematics of each nozzle (R193 to R207), and the tables of the meters (R256, R257).
-/

namespace Sys2Proof.Machine

/-- Words of a descriptor as the section engine reads them: zeros where it may not (R547). -/
def Lane.secWords (L : Lane) (a n : Nat) : List Word :=
  let bs := (L.engRead .section_ a (4 * n)).1
  (List.range n).map (fun i => bytesWord ((bs.drop (4 * i)).take 4))

/-- Word `i` of a descriptor. -/
def wd (ws : List Word) (i : Nat) : Word := ws.getD i 0
/-- A field of a descriptor. -/
def df (ws : List Word) (i lo w : Nat) : Nat := fieldNat (wd ws i) lo w
/-- A bit of a descriptor. -/
def db (ws : List Word) (i b : Nat) : Bool := bitOf (wd ws i) b
/-- A signed 16-bit field. -/
def sext16 (n : Nat) : Int := if n < 32768 then (n : Int) else (n : Int) - 65536

/-- Counts of a COUNTS word (R231): nozzles, sections, segments, inputs. -/
def nozCnt (c : Word) : Nat := fieldNat c 0 8
def sectCnt (c : Word) : Nat := fieldNat c 8 8
def segCnt (c : Word) : Nat := fieldNat c 16 4
def binCnt (c : Word) : Nat := fieldNat c 24 5

/-- The tables a load reads: the counts, and the descriptors of nozzles, sections, segments and inputs. -/
structure Tables where
  counts : Word
  noz : List (List Word)
  sect : List (List Word)
  seg : List (List Word)
  bin : List (List Word)
deriving DecidableEq, Repr

/-- Read the four tables (R194 to R200).
(Log: DEDUCED, entry 43.) -/
def Lane.readTables (L : Lane) : Tables :=
  let c := L.rd 0x40070020
  let tab := fun (reg n words : Nat) =>
    (List.range n).map (fun i => L.secWords ((L.rd reg).toNat + 4 * words * i) words)
  ⟨c, tab 0x40070010 (nozCnt c) 8, tab 0x40070014 (sectCnt c) 4, tab 0x40070018 (segCnt c) 8,
   tab 0x4007001C (binCnt c) 8⟩

/-- The first index of a list whose element meets `p`. -/
def firstIdx {α : Type} (xs : List α) (p : Nat → α → Bool) : Option Nat :=
  (List.range xs.length).find? (fun i => match xs[i]? with
    | some x => p i x
    | none => false)

/-- Reserved bits and ranges of a nozzle descriptor (R195, R236).
(Log: DEDUCED, entry 43.) -/
def nozBad (w : List Word) : Bool :=
  df w 3 29 2 != 0 || df w 4 11 21 != 0 || df w 5 16 16 != 0 || df w 7 19 13 != 0 ||
    decide (df w 3 0 16 < 10) || decide (4000 < df w 3 0 16) || decide (2 < df w 3 16 4) ||
    decide (sext16 (df w 5 0 16) < -4500) || decide (4500 < sext16 (df w 5 0 16))
/-- Reserved bits of a section descriptor (R196, R255).
(Log: DEDUCED, entry 43.) -/
def sectBad (w : List Word) : Bool :=
  df w 0 11 5 != 0 || df w 1 5 3 != 0 || df w 1 9 7 != 0 || df w 2 16 16 != 0 || wd w 3 != 0
/-- Reserved bits of a segment descriptor (R199).
(Log: DEDUCED, entry 43.) -/
def segBad (w : List Word) : Bool :=
  df w 3 16 15 != 0 || wd w 4 != 0 || wd w 5 != 0 || wd w 6 != 0 || wd w 7 != 0
/-- Reserved bits of an input descriptor (R200).
(Log: DEDUCED, entry 43.) -/
def binBad (w : List Word) : Bool := df w 0 13 2 != 0 || wd w 6 != 0 || wd w 7 != 0
/-- An input descriptor that R200 calls invalid. -/
def binInvalid (segs : Nat) (w : List Word) : Bool :=
  !([1, 2, 3, 4].contains (df w 0 0 4)) || decide (segs ≤ df w 0 4 3) ||
    decide ((wd w 1).toNat < 1000) || decide (100000 < (wd w 1).toNat) || df w 2 0 8 == 0

/-- An enabled nozzle. -/
def nozEn (w : List Word) : Bool := db w 3 31
/-- The channel of a nozzle. -/
def nozCh (w : List Word) : Nat := df w 4 0 8

/-- A table lies in the section engine's banks (R194).
(Log: DEDUCED, entry 43.) -/
def Lane.tableIn (L : Lane) (reg n bytes : Nat) : Bool := L.ownedBy 4 (L.rd reg).toNat (n * bytes)

/-- The first condition of R197 that refuses a load: its code and index.
(Log: DEDUCED, entry 43.) -/
def State.loadError (s : State) (l : LaneId) (t : Tables) : Option (Nat × Nat) :=
  let L := s.lane l
  let c := t.counts
  let one := fun (code : Nat) (i : Option Nat) => i.map (fun k => (code, k))
  let first := fun (xs : List (Option (Nat × Nat))) => (xs.filterMap id).head?
  first [
    if nozCnt c = 0 ∨ 208 < nozCnt c ∨ sectCnt c = 0 ∨ 64 < sectCnt c ∨ segCnt c = 0 ∨ 8 < segCnt c ∨
        16 < binCnt c then some (1, 0) else none,
    one 2 (firstIdx t.noz (fun _ w => nozBad w)),
    one 2 (firstIdx t.sect (fun _ w => sectBad w)),
    one 2 (firstIdx t.seg (fun _ w => segBad w)),
    one 2 (firstIdx t.bin (fun _ w => binBad w)),
    one 3 (firstIdx t.noz (fun i w => nozEn w && (List.range i).any (fun j =>
      let v := t.noz.getD j []
      nozEn v && nozCh v == nozCh w))),
    one 4 (firstIdx t.noz (fun _ w => nozEn w && s.steer (nozCh w) == 2)),
    one 5 (firstIdx t.noz (fun _ w => df w 4 8 3 != L.fld (0x400F1000 + 16 * nozCh w) 0 3)),
    one 6 (firstIdx t.noz (fun _ w => decide (sectCnt c ≤ df w 3 20 6) || decide (segCnt c ≤ df w 3 26 3))),
    one 7 (firstIdx t.bin (fun _ w => binInvalid (segCnt c) w)),
    if L.tableIn 0x40070010 (nozCnt c) 32 && L.tableIn 0x40070014 (sectCnt c) 16 &&
        L.tableIn 0x40070018 (segCnt c) 32 && L.tableIn 0x4007001C (binCnt c) 32 then none
    else some (8, 0)]

/-- A list as a sparse table. -/
def tabOf (xs : List (List Word)) : Tab (List Word) :=
  (List.range xs.length).foldl (fun t i => Tab.set t [] i (xs.getD i [])) []

def Lane.nozD (L : Lane) (n : Nat) : List Word := Tab.get L.sec.noz [] n
def Lane.sectD (L : Lane) (i : Nat) : List Word := Tab.get L.sec.sect [] i
def Lane.segD (L : Lane) (g : Nat) : List Word := Tab.get L.sec.seg [] g
def Lane.binD (L : Lane) (i : Nat) : List Word := Tab.get L.sec.bin [] i
def Lane.mtrD (L : Lane) (i : Nat) : List Word := Tab.get L.sec.mtr [] i
def Lane.binSt (L : Lane) (i : Nat) : BinSt := Tab.get L.sec.bins BinSt.reset i
def Lane.setBin (L : Lane) (i : Nat) (b : BinSt) : Lane :=
  { L with sec := { L.sec with bins := Tab.set L.sec.bins BinSt.reset i b } }
def Lane.setNz (L : Lane) (n : Nat) (z : NozSt) : Lane :=
  { L with sec := { L.sec with nz := Tab.set L.sec.nz NozSt.reset n z } }
/-- The enabled nozzles of the model. -/
def Lane.nozzles (L : Lane) : List Nat := (L.sec.noz.filter (fun e => nozEn e.2)).map Prod.fst
/-- The enabled inputs of the model. -/
def binEn (w : List Word) : Bool := db w 0 15
def binNoxs (w : List Word) : Bool := db w 0 12

/-- SEC_LOAD (R194): a 1 written to CTRL.LOAD. -/
def Lane.secLoad (L : Lane) : Lane := L.setFlag 0x40070004 2 true
def execSecLoad (l : LaneId) (v : Word) (s : State) : Host.Outcome State Fault Refusal :=
  .next (if bitOf v 1 then s.modLane l Lane.secLoad else s)

/-! ### Boom-motion inputs (R201 to R204) -/

/-- XSRC[i].CFG.VALID, and whether the magnitude of RESID (ns) is no more than a period (us). -/
def Lane.xsrcOk (L : Lane) (x perUs : Nat) : Bool :=
  let a := 0x40020100 + 32 * x
  L.flag a 1 && decide ((L.rd (a + 12)).toInt.natAbs ≤ perUs * 1000)

/-- Set or clear the stale bit of an input, with E64 (R203). -/
def Lane.binStale (L : Lane) (i : Nat) (b : Bool) : Lane :=
  if L.flag 0x40070098 i = b then L
  else (L.setFlag 0x40070098 i b).raise 64 (if b then 3 else 4) i 0

/-- BIN_SUB_GO (R201, R203, R204): the sample of an input; its stamp must be later than the last. -/
def Lane.binSub (L : Lane) (i : Nat) : Lane :=
  let w := L.binD i
  if !binEn w then L
  else
    let b := L.binSt i
    let stamp := L.rd64 0x4007007C
    let late := match b.stamp with
      | some t => decide (stamp ≤ t)
      | none => false
    if late then L.bump 0x40070094
    else
      let good := binNoxs w || L.xsrcOk (df w 0 7 5) (wd w 1).toNat
      let cons := if good then min 16 (b.cons + 1) else 0
      let unal := if binNoxs w then false else if good then b.unal && decide (cons < 16) else true
      let L := L.setBin i { b with
        stamp := some stamp
        at_ := L.lt
        cons := cons
        unal := unal
        wait := b.wait ++ [(stamp, L.lt, L.rd 0x40070070, L.rd 0x40070074, L.rd 0x40070078)] }
      L.binStale i unal

def execBinSubGo (l : LaneId) (v : Word) (s : State) : Host.Outcome State Fault Refusal :=
  .next (s.modLane l (fun L => L.binSub (fieldNat v 0 4)))

/-- BOOM_INPUT_STALE (R203): no sample accepted for STALE_N periods. -/
def execBoomInputStale (l : LaneId) (i : Fin 16) (s : State) : Host.Outcome State Fault Refusal :=
  .next (s.modLane l (fun L =>
    let w := L.binD i
    if binEn w && decide ((L.binSt i).at_ + df w 2 0 8 * (wd w 1).toNat * 100 ≤ L.lt) then L.binStale i true
    else L))

/-! ### Vehicle and segments -/

/-- The fused state of the reference point as the nozzle class gives it (R284). -/
structure Veh where
  e : Rat
  n : Rat
  ve : Rat
  vn : Rat
  roll : Rat
  pitch : Rat
  hdg : Rat
  wx : Rat
  wy : Rat
  wz : Rat
  ax : Rat
deriving DecidableEq, Repr

/-- Word `w` of NC_OUT. -/
def Lane.nc (L : Lane) (w : Nat) : Word := L.rd (0x40080080 + 4 * w)

/-- The latest nozzle-class output. -/
def Lane.veh (L : Lane) : Veh :=
  { e := ((L.nc 5).toInt : Rat) / 10000, n := ((L.nc 6).toInt : Rat) / 10000, ve := f32 (L.nc 8),
    vn := f32 (L.nc 9), roll := f32 (L.nc 11), pitch := f32 (L.nc 12), hdg := f32 (L.nc 13),
    wx := f32 (L.nc 14), wy := f32 (L.nc 15), wz := f32 (L.nc 16), ax := f32 (L.nc 17) }

/-- A vector of three rationals. -/
structure V3 where
  x : Rat
  y : Rat
  z : Rat
deriving DecidableEq, Repr

def V3.add (a b : V3) : V3 := ⟨a.x + b.x, a.y + b.y, a.z + b.z⟩
def V3.sub (a b : V3) : V3 := ⟨a.x - b.x, a.y - b.y, a.z - b.z⟩
def V3.smul (k : Rat) (a : V3) : V3 := ⟨k * a.x, k * a.y, k * a.z⟩
def V3.cross (a b : V3) : V3 :=
  ⟨a.y * b.z - a.z * b.y, a.z * b.x - a.x * b.z, a.x * b.y - a.y * b.x⟩
/-- Rotation about z by an angle.
(Log: DEDUCED, entry 42.) -/
def V3.rotZ (t : Rat) (a : V3) : V3 :=
  ⟨Config.cos t * a.x - Config.sin t * a.y, Config.sin t * a.x + Config.cos t * a.y, a.z⟩
/-- Rotation about x by an angle.
(Log: DEDUCED, entry 42.) -/
def V3.rotX (t : Rat) (a : V3) : V3 :=
  ⟨a.x, Config.cos t * a.y - Config.sin t * a.z, Config.sin t * a.y + Config.cos t * a.z⟩
/-- Rotation about y by an angle.
(Log: DEDUCED, entry 42.) -/
def V3.rotY (t : Rat) (a : V3) : V3 :=
  ⟨Config.cos t * a.x + Config.sin t * a.z, a.y, Config.cos t * a.z - Config.sin t * a.x⟩

/-- C_veh of R205: vehicle frame to east, north and up, from roll, pitch and heading (R264). -/
def Veh.toField (v : Veh) (a : V3) : V3 :=
  let b := V3.rotY v.pitch (V3.rotX v.roll a)
  ⟨Config.sin v.hdg * b.x - Config.cos v.hdg * b.y, Config.cos v.hdg * b.x + Config.sin v.hdg * b.y, b.z⟩

/-- Yaw swing then roll of a segment (R205).
(Log: DEDUCED, entry 42.) -/
def segRot (psi phi : Rat) (a : V3) : V3 := V3.rotZ psi (V3.rotX phi a)

/-- A segment's estimate: yaw swing, roll, height and their rates. -/
structure SegE where
  psi : Rat
  phi : Rat
  h : Rat
  dpsi : Rat
  dphi : Rat
  dh : Rat
deriving DecidableEq, Repr

def Lane.segE (L : Lane) (g : Nat) : SegE :=
  let r := Tab.get L.sec.segSt [] g
  ⟨r.getD 0 0, r.getD 1 0, r.getD 2 0, r.getD 3 0, r.getD 4 0, r.getD 5 0⟩

/-- The extrapolated segment (R206): its rates hold for the first 50 ms, then it stands. -/
def SegE.after (e : SegE) (t : Rat) : SegE :=
  let d := min t (1 / 20)
  if 1 / 20 < t then ⟨e.psi + e.dpsi * d, e.phi + e.dphi * d, e.h + e.dh * d, 0, 0, 0⟩
  else ⟨e.psi + e.dpsi * d, e.phi + e.dphi * d, e.h + e.dh * d, e.dpsi, e.dphi, e.dh⟩

/-- The vehicle after `t` seconds of constant longitudinal acceleration and yaw rate (R206). -/
def Veh.after (v : Veh) (t : Rat) : Veh :=
  let w := v.wz
  let s := Config.sin (w * t)
  let c := Config.cos (w * t)
  let fe := Config.sin v.hdg
  let fn := Config.cos v.hdg
  -- integrals over [0, t] of the rotation by w tau, and of tau times it
  let i1 := if w = 0 then t else s / w
  let j1 := if w = 0 then 0 else (1 - c) / w
  let i2 := if w = 0 then t * t / 2 else t * s / w + (c - 1) / (w * w)
  let j2 := if w = 0 then 0 else s / (w * w) - t * c / w
  let ue := v.ve + v.ax * t * fe
  let un := v.vn + v.ax * t * fn
  { v with
    e := v.e + (v.ve * i1 - v.vn * j1) + v.ax * (fe * i2 - fn * j2)
    n := v.n + (v.ve * j1 + v.vn * i1) + v.ax * (fe * j2 + fn * i2)
    ve := ue * c - un * s
    vn := ue * s + un * c
    hdg := v.hdg - w * t }

/-- A table coordinate in metres. -/
def tenthMm (x : Word) : Rat := (x.toInt : Rat) / 10000

/-- What R205 gives for a nozzle: ground point, ground velocity and height above target. -/
structure Ground where
  e : Rat
  n : Rat
  ve : Rat
  vn : Rat
  h : Rat
deriving DecidableEq, Repr

/-- The rate of a vector that a segment carries, from the segment rates (R205): the swing turns the carried vector
about z, the roll turns it about the boom axis before the swing.
(Log: DEDUCED, entry 42.) -/
def segRate (psi phi dpsi dphi : Rat) (a : V3) : V3 :=
  (V3.cross ⟨0, 0, dpsi⟩ (segRot psi phi a)).add (V3.rotZ psi (V3.cross ⟨dphi, 0, 0⟩ (V3.rotX phi a)))

/-- The spray axis at rest: straight down, tilted forward (R195). -/
def restAxis (tilt : Rat) : V3 := ⟨Config.sin tilt, 0, -(Config.cos tilt)⟩

/-- The spray axis scaled to a vertical drop of one (R205): tilt forward, then the segment's motion.
(Log: DEDUCED, entry 42.) -/
def sprayAxis (tilt psi phi : Rat) : V3 :=
  let a := segRot psi phi (restAxis tilt)
  V3.smul (if a.z = 0 then 1 else -(1 / a.z)) a

/-- The rate of the scaled spray axis: the quotient rule on `sprayAxis`.
(Log: DEDUCED, entry 42.) -/
def sprayAxisRate (tilt psi phi dpsi dphi : Rat) : V3 :=
  let a := segRot psi phi (restAxis tilt)
  let d := segRate psi phi dpsi dphi (restAxis tilt)
  if a.z = 0 then d
  else (V3.smul (-(1 / a.z)) d).add (V3.smul (d.z / (a.z * a.z)) a)

/-- The kinematics of R205 from a vehicle state and a segment state. -/
def groundOf (v : Veh) (sg : SegE) (rest : Bool) (w pv : List Word) : Ground :=
  let r : V3 := ⟨tenthMm (wd w 0), tenthMm (wd w 1), tenthMm (wd w 2)⟩
  let q : V3 := ⟨tenthMm (wd pv 0), tenthMm (wd pv 1), tenthMm (wd pv 2)⟩
  let tilt : Rat := (sext16 (df w 5 0 16) : Rat) / 100 * (31415926535897932 / 1800000000000000000)
  let psi := if rest then 0 else sg.psi
  let phi := if rest then 0 else sg.phi
  let dpsi := if rest then 0 else sg.dpsi
  let dphi := if rest then 0 else sg.dphi
  let arm := segRot psi phi (r.sub q)
  let rb := q.add arm
  let h := if rest then r.z else sg.h + (r.y - q.y) * Config.sin phi
  let dh := if rest then 0 else sg.dh + (r.y - q.y) * Config.cos phi * dphi
  let ax := sprayAxis tilt psi phi
  let g := rb.add (V3.smul h ax)
  let dArm := segRate psi phi dpsi dphi (r.sub q)
  let dg := (dArm.add (V3.smul dh ax)).add (V3.smul h (sprayAxisRate tilt psi phi dpsi dphi))
  let p := v.toField g
  let u := v.toField ((V3.cross ⟨v.wx, v.wy, v.wz⟩ g).add dg)
  ⟨v.e + p.x, v.n + p.y, v.ve + u.x, v.vn + u.y, h⟩

/-- The predicted ground state of nozzle `n` after `t` seconds (R205, R206).
(Log: DEDUCED, entry 42.) -/
def Lane.ground (L : Lane) (n : Nat) (t : Rat) : Ground :=
  let w := L.nozD n
  let g := df w 3 26 3
  groundOf (L.veh.after t) ((L.segE g).after t) (!db (L.segD g) 3 31) w (L.segD g)

/-- Ground speed |u|. -/
def Ground.speed (g : Ground) : Rat := Config.sqrt (g.ve * g.ve + g.vn * g.vn)

/-- Store a segment's estimate. -/
def Lane.setSeg (L : Lane) (g : Nat) (e : List Rat) : Lane :=
  { L with sec := { L.sec with segSt := Tab.set L.sec.segSt [] g e } }

/-- A sample enters the cycle of `t0` if it is stamped before it and was submitted before t0 + 300 us (R201). -/
def entersCycle (t0 stamp sub : Nat) : Bool := decide (stamp < t0 ∧ sub < t0 + 30000)

/-- A boom input of a cycle: its descriptor, its last sample (stamp, V0 to V2) and its offsets O0 to O2 (R310). -/
structure BoomIn where
  d : List Word
  stamp : Nat
  v : List Rat
  o : List Rat
deriving DecidableEq, Repr

/-- Value `k` of a sample with its offset applied (R310): added to a distance or an angle, subtracted from a rate. -/
def BoomIn.val (x : BoomIn) (k : Nat) : Rat :=
  if df x.d 0 0 4 = 2 then x.v.getD k 0 - x.o.getD k 0 else x.v.getD k 0 + x.o.getD k 0

/-- What several inputs of one kind say of a quantity: nothing, the one value, or a combination that the spec leaves open.
(Log: DEDUCED, entry 42.) -/
def fuseVals (k : Nat) (xs : List Rat) : Option Rat :=
  match xs with
  | [] => none
  | [x] => some x
  | x :: y :: r => some (Config.estimate 2 [] (x :: y :: r) k)

/-- The least-squares line through points (y, value): its mean point and, where two Y positions differ, its slope (R202).
(Log: DEDUCED, entry 42.) -/
def boomLine (ps : List (Rat × Rat)) : Option (Rat × Rat × Option Rat) :=
  if ps.isEmpty then none
  else
    let n : Rat := (ps.length : Nat)
    let my := ps.foldl (fun a p => a + p.1) 0 / n
    let mv := ps.foldl (fun a p => a + p.2) 0 / n
    let syy := ps.foldl (fun a p => a + (p.1 - my) * (p.1 - my)) 0
    let syv := ps.foldl (fun a p => a + (p.1 - my) * (p.2 - mv)) 0
    some (my, mv, if syy = 0 then none else some (syv / syy))

/-- One step of the first-order complementary filter of time constant `tau` ms (R202): the integrated value, drawn to the
fitted one where there is one.
(Log: DESIGN CHOICE, entry 129.) -/
def blendStep (tau : Nat) (int : Rat) (fit : Option Rat) : Rat :=
  match fit with
  | some f => int + Config.blendGain tau * (f - int)
  | none => int

/-- The blend of a segment at `t0` (R202) from its estimate before and its inputs: yaw swing, roll, height and their
rates.  Height sensors give a line over their Y positions, whose slope is the sine of the roll (R205); an angle sensor
replaces the fitted angle; the rate unit drives the angles; every sample is carried to `t0` by the rate in force.
(Log: DEDUCED, entry 42.) -/
def blendOf (t0 : Nat) (d : List Word) (old : List Rat) (ins : List BoomIn) : List Rat :=
  let was := fun (k : Nat) => old.getD k (Config.estimate 2 d [] k)
  let tau := df d 3 0 16
  let kind := fun (k : Nat) => ins.filter (fun x => df x.d 0 0 4 == k)
  let age := fun (x : BoomIn) => (((t0 - x.stamp : Nat) : Rat)) / 100000000
  let dpsi := (fuseVals 3 ((kind 2).map (fun x => x.val 2))).getD (Config.estimate 2 d old 3)
  let dphi := (fuseVals 4 ((kind 2).map (fun x => x.val 0))).getD (Config.estimate 2 d old 4)
  let psi0 := was 0 + dpsi / 1000
  let phi0 := was 1 + dphi / 1000
  let h0 := was 2 + was 5 / 1000
  let line := boomLine ((kind 1).map (fun x => (tenthMm (wd x.d 4), x.val 0 + was 5 * age x)))
  let slope := line.bind (fun p => p.2.2)
  let sensed := fuseVals 1 ((kind 4).map (fun x => x.val 0 + dphi * age x))
  let fitted := slope.map (fun m => Config.atan2 m (Config.sqrt (1 - m * m)))
  let psi := blendStep tau psi0 (fuseVals 0 ((kind 3).map (fun x => x.val 0 + dpsi * age x)))
  let phi := blendStep tau phi0 (if sensed.isSome then sensed else fitted)
  let qy := tenthMm (wd d 1)
  let h := blendStep tau h0 (line.map (fun p => p.2.1 + slope.getD (Config.sin phi) * (qy - p.1)))
  [psi, phi, h, dpsi, dphi, Config.estimate 2 d [was 2, h] 5]

/-- The segment estimates of a cycle (R202); a quantity whose input is stale keeps its estimate, its rate not propagated
(R203).
(Log: DEDUCED, entry 42.) -/
def Lane.blendSegment (L : Lane) (t0 g : Nat) (cal : Nat → Rat) : Lane :=
  let d := L.segD g
  if !db d 3 31 then L
  else
    let ins := (List.range 16).filter (fun i => binEn (L.binD i) && df (L.binD i) 0 4 3 == g)
    let stale := fun (kinds : List Nat) =>
      (ins.filter (fun i => kinds.contains (df (L.binD i) 0 0 4))).any (fun i => L.flag 0x40070098 i)
    let xs := ins.filterMap (fun i => (L.binSt i).smp.map (fun m =>
      BoomIn.mk (L.binD i) m.1 [f32 m.2.1, f32 m.2.2.1, f32 m.2.2.2] [cal (44 + 3 * i), cal (45 + 3 * i), cal (46 + 3 * i)]))
    let old := Tab.get L.sec.segSt [] g
    let new := blendOf t0 d old xs
    let keep := fun (k : Nat) (kinds : List Nat) => if stale kinds then old.getD k 0 else new.getD k 0
    let rate := fun (k : Nat) (kinds : List Nat) => if stale kinds then 0 else new.getD k 0
    L.setSeg g
      [keep 0 [2, 3], keep 1 [1, 2, 4], keep 2 [1], rate 3 [2, 3], rate 4 [1, 2, 4], rate 5 [1]]

/-- The samples that enter the cycle of `t0` (R201), the last of each input to be the one the blend takes. -/
def Lane.takeBoom (L : Lane) (t0 : Nat) : Lane :=
  (List.range 16).foldl (fun L i =>
    let b := L.binSt i
    let mine := b.wait.filter (fun m => entersCycle t0 m.1 m.2.1)
    L.setBin i { b with
      wait := b.wait.filter (fun m => !entersCycle t0 m.1 m.2.1)
      smp := match mine.getLast? with
        | some m => some (m.1, m.2.2.1, m.2.2.2.1, m.2.2.2.2)
        | none => b.smp }) L

/-- The boom inputs of a cycle and the estimate of every segment.
(Log: DEDUCED, entry 42.) -/
def Lane.blend (L : Lane) (t0 : Nat) (cal : Nat → Rat) : Lane :=
  (List.range 8).foldl (fun L g => L.blendSegment t0 g cal) (L.takeBoom t0)

/-! ### The meter table (R256, R257) -/

/-- Reserved bits and ranges of a meter descriptor. -/
def mtrBad (w : List Word) : Bool :=
  df w 0 24 7 != 0 || df w 1 30 2 != 0 || wd w 4 != 0 || wd w 5 != 0 || wd w 6 != 0 || wd w 7 != 0 ||
    decide (23 < df w 0 8 5) || decide (23 < df w 0 13 5) || decide (23 < df w 0 18 5) ||
    df w 1 0 16 == 0 || df w 1 16 8 == 0 || df w 2 0 16 == 0 || df w 2 16 8 == 0 ||
    decide (100 < df w 2 16 8) || df w 2 24 8 == 0 || wd w 3 == 0
def mtrEn (w : List Word) : Bool := db w 0 31
/-- Metered rows of the model. -/
def Lane.meteredRow (L : Lane) (n : Nat) : Bool := nozEn (L.nozD n) && db (L.nozD n) 7 18

/-- Condition 3 of R257 for one meter, enabled or not: its row is no metered row, or another meter names it.
(Log: DEDUCED, entry 43.) -/
def Lane.mtrRowBad (L : Lane) (ms : List (List Word)) (i : Nat) (w : List Word) : Bool :=
  !L.meteredRow (df w 0 0 8) || (List.range i).any (fun j =>
    let v := ms.getD j []
    !v.isEmpty && df v 0 0 8 == df w 0 0 8)

/-- The first condition of R257 that refuses a meter table. -/
def Lane.mtrError (L : Lane) (ms : List (List Word)) : Option (Nat × Nat) :=
  let one := fun (code : Nat) (i : Option Nat) => i.map (fun k => (code, k))
  let same := fun (lo w word : Nat) => firstIdx ms (fun i m => mtrEn m && (List.range i).any (fun j =>
    let v := ms.getD j []
    mtrEn v && df v word lo w == df m word lo w))
  (([if 24 < ms.length then some (1, 0) else none,
    one 2 (firstIdx ms (fun _ w => mtrBad w)),
    one 3 (firstIdx ms (fun i w => L.mtrRowBad ms i w)),
    (L.nozzles.find? (fun n => L.meteredRow n && !ms.any (fun m => df m 0 0 8 == n))).map
      (fun n => (3, n)),
    one 4 (same 8 5 0), one 4 (same 13 5 0), one 4 (same 24 6 1),
    if L.ownedBy 4 (L.rd 0x40070160).toNat (32 * ms.length) then none else some (5, 0)] :
      List (Option (Nat × Nat))).filterMap id).head?

/-- METER_LOAD (R257): a 1 written to MCTRL.LOAD. -/
def Lane.meterLoad (L : Lane) : Lane := L.setFlag 0x40070168 2 true
def execMeterLoad (l : LaneId) (v : Word) (s : State) : Host.Outcome State Fault Refusal :=
  .next (if bitOf v 1 then s.modLane l Lane.meterLoad else s)

/-- The check of a requested meter table at a cycle's start.
(Log: DEDUCED, entry 49.) -/
def Lane.checkMeters (L : Lane) : Lane :=
  if !L.flag 0x40070168 2 then L
  else
    let L := L.setFlag 0x40070168 2 false
    let n := L.fld 0x40070164 8 5
    let ms := (List.range n).map (fun i => L.secWords ((L.rd 0x40070160).toNat + 32 * i) 8)
    match L.mtrError ms with
    | some (code, i) =>
      let L := ((L.setFld 0x40070168 4 4 code).setFld 0x40070168 8 5 i).setFlag 0x40070168 1 true
      L.raise 67 5 i (BitVec.ofNat 32 code)
    | none =>
      { L.setFlag 0x40070168 0 true with sec := { L.sec with mtr := tabOf ms, mtrOff := [] } }

/-- A meter's setpoint (R258): issued to its loop when it changes. -/
def Lane.meterSp (L : Lane) (k t : Nat) (v : Word) : Lane :=
  if (Tab.get L.sec.setpt (0, 0) k).2 = v then L
  else
    let M := { L with sec := { L.sec with setpt := Tab.set L.sec.setpt (0, 0) k (t, v) } }
    M.putSp k t v

/-- At a model load the table in force is checked again: a meter that fails condition 3 is disabled. -/
def Lane.recheckMeters (L : Lane) : Lane :=
  let ms := (List.range 24).map (fun i => L.mtrD i)
  (List.range 24).foldl (fun L i =>
    let w := L.mtrD i
    if mtrEn w && !L.sec.mtrOff.contains i && L.mtrRowBad ms i w then
      let M := { L with sec := { L.sec with mtrOff := L.sec.mtrOff ++ [i] } }
      (M.meterSp (df w 1 24 6) L.lt 0).raise 67 5 i 0
    else L) L

/-- The learned-state entry of a nozzle as SRAM holds it (R241). -/
def Lane.lrnEntry (L : Lane) (base n : Nat) : List Word := L.secWords (base + 16 * n) 4

/-- Is the stored confidence of a direction below CONF_TH (R243)? -/
def Lane.lowConf (L : Lane) (e : List Word) (on : Bool) : Bool :=
  decide (fieldNat (wd e (if on then 0 else 1)) 24 8 < L.fld 0x40070100 24 8)

/-- At a model load the learner takes every enabled nozzle's entry as it stands (R241); SEC.LOST shows LOST of the
entries taken, and SAT keeps no bit of a nozzle that is out of the model (R262).
(Log: DEDUCED, entry 49.) -/
def Lane.takeLearned (L : Lane) : Lane :=
  let base := (L.rd 0x40070114).toNat / 16 * 16
  let L := { L with sec := { L.sec with lrnBase := base } }
  (List.range 208).foldl (fun L n =>
    let lost := 0x40070180 + 4 * (n / 32)
    if nozEn (L.nozD n) then
      let e := L.lrnEntry base n
      (L.setNz n { L.nz n with lrn := e, lowOn := L.lowConf e true, lowOff := L.lowConf e false }).setFlag lost (n % 32)
        (bitOf (wd e 3) 8)
    else (L.setFlag lost (n % 32) false).setFlag (0x400701A0 + 4 * (n / 32)) (n % 32) false) L

/-- The model check and copy at a cycle's start (R194, R197): the inputs that the load enables start
unaligned, and so stale (R203, R204).
(Log: DEDUCED, entry 43.) -/
def State.checkModel (s : State) (l : LaneId) : State :=
  let L := s.lane l
  if !L.flag 0x40070004 2 then s
  else
    let t := L.readTables
    match s.loadError l t with
    | some (code, i) =>
      s.modLane l (fun L =>
        let L := (((L.setFlag 0x40070004 2 false).setFld 0x40070004 4 4 code).setFld 0x40070004 8 8
          i).setFlag 0x40070004 1 true
        L.raise 64 1 i (BitVec.ofNat 32 code))
    | none =>
      s.modLane l (fun L =>
        let was := L.sec.bin
        let M := { L with sec := { L.sec with
          counts := t.counts, noz := tabOf t.noz, sect := tabOf t.sect, seg := tabOf t.seg,
          bin := tabOf t.bin } }
        let M := ((M.setFlag 0x40070004 2 false).setFlag 0x40070004 0 true)
        let M := (List.range 16).foldl (fun M i =>
          if binEn (M.binD i) && !binEn (Tab.get was [] i) then
            (M.setBin i { BinSt.reset with unal := !binNoxs (M.binD i), at_ := M.lt }).binStale i (!binNoxs (M.binD i))
          else M) M
        M.takeLearned.recheckMeters.send (.swReg 0x40070110 (M.rd 0x40070110)))

end Sys2Proof.Machine
end

