-- ==== Sys2Proof/Machine/SecCover.lean ====
section
/-!
DEFINITION. Coverage, tile paging, exclusion zones, prescription maps and the decision for each nozzle
(R208 to R229).
-/

namespace Sys2Proof.Machine

/-! ### Coverage (R208 to R212, R217) -/

/-- A signed 16-bit half of WIN_ORG. -/
def Lane.winX (L : Lane) : Int := sext16 (L.fld 0x40070038 0 16)
def Lane.winY (L : Lane) : Int := sext16 (L.fld 0x40070038 16 16)
def Lane.setWin (L : Lane) (x y : Int) : Lane :=
  L.wr 0x40070038 (BitVec.ofNat 32 ((x % 65536).toNat + (y % 65536).toNat * 65536))

/-- The cell index of a field coordinate in metres. -/
def cellOf (m : Rat) : Int := (m * 20).floor
/-- The tile of a cell index. -/
def tileOf (i : Int) : Int := i / 256

/-- The slot of a tile (R209). -/
def tileSlot (tx ty : Int) : Nat := 16 * (ty % 16).toNat + (tx % 16).toNat

/-- The tile lies in the window. -/
def Lane.inWindow (L : Lane) (tx ty : Int) : Bool :=
  decide (L.winX ≤ tx ∧ tx < L.winX + 16 ∧ L.winY ≤ ty ∧ ty < L.winY + 16)

/-- The byte address and bit of a cell (R209). -/
def Lane.cellAt (L : Lane) (i j : Int) : Nat × Nat :=
  let u := (i % 256).toNat
  let v := (j % 256).toNat
  ((L.rd 0x40070024).toNat + 0x2000 * tileSlot (tileOf i) (tileOf j) + 32 * v + u / 8, u % 8)

/-- A slot's state (R212). -/
def Lane.tileState (L : Lane) (k : Nat) : Nat := L.fld (0x400700C0 + 4 * (k / 16)) (2 * (k % 16)) 2
def Lane.setTile (L : Lane) (k st : Nat) : Lane := L.setFld (0x400700C0 + 4 * (k / 16)) (2 * (k % 16)) 2 st

def Lane.unkPol (L : Lane) : Bool := L.flag 0x40070000 3

/-- Does a cell count as covered (R212, R217)? -/
def Lane.covered (L : Lane) (i j : Int) : Bool :=
  if L.inWindow (tileOf i) (tileOf j) then
    let a := L.cellAt i j
    let b := (L.engRead .section_ a.1 1).1.getD 0 0
    b.getLsbD a.2 || (L.tileState (tileSlot (tileOf i) (tileOf j)) != 0 && L.unkPol)
  else L.unkPol

/-- Paint one cell; the count of cells that fell outside the window is returned (R210, R217). -/
def Lane.paintCell (L : Lane) (i j : Int) : Lane × Nat :=
  if L.inWindow (tileOf i) (tileOf j) then
    let a := L.cellAt i j
    let b := (L.engRead .section_ a.1 1).1.getD 0 0
    (L.engWrite .section_ a.1 [b ||| BitVec.ofNat 8 (2 ^ a.2)], 0)
  else (L, 1)

/-- Painting outside the window in a cycle: the count, STAT.OUTSIDE and one E63 (R217). -/
def Lane.paintedOutside (L : Lane) (n : Nat) : Lane :=
  if n = 0 then L
  else ((L.wr 0x40070088 (satAdd (L.rd 0x40070088) n)).setFlag 0x40070004 18 true).raise 63 5 0 0

/-! ### Exchange rings and paging (R211 to R216) -/

/-- Position of a ring register: index in bits 4:0, wrap in bit 5 (R214). -/
def ringPos (x : Word) : Nat := fieldNat x 0 5 % 31 + 31 * fieldNat x 5 1
def ringWord (p : Nat) : Word := BitVec.ofNat 32 (p % 62 % 31 + 32 * (p % 62 / 31))
/-- Entries between a read and a write register. -/
def ringUsed (w r : Word) : Nat := (ringPos w + 62 - ringPos r) % 62
def ringNext (x : Word) : Word := ringWord (ringPos x + 1)

/-- A key derived from the module root (R588): empty salt; info is the purpose (1 sealing, 2 tile) and the
lane (0 A, 1 B, 0xFF both). -/
def derivedKey (purpose lane : Byte) : List Byte :=
  (List.range 32).map (Config.hkdf Config.moduleRoot [] [purpose, lane])

/-- The tile key of a lane (true: lane B). -/
def tileKey (b : Bool) : List Byte := derivedKey 2 (if b then 1 else 0)

/-- The 48-byte header of a tile record (R213). -/
def tileHeader (tx ty : Int) (field : Word) (flags : Nat) (lt seq : Nat) : List Byte :=
  natBytes (tx % 4294967296).toNat 4 ++ natBytes (ty % 4294967296).toNat 4 ++ wordBytes field ++
    natBytes flags 4 ++ natBytes lt 8 ++ natBytes seq 4 ++ List.replicate 20 0

/-- The tag of a record: header and bitmap authenticated, nonce bytes 16 to 27. -/
def tileTag (b : Bool) (head bitmap : List Byte) : List Byte :=
  Config.gcmTag (tileKey b) ((head.drop 16).take 12) (head ++ bitmap) []

/-- Export the tile in a slot that leaves the window (R215 step 1). -/
def Lane.exportTile (L : Lane) (l : LaneId) (tx ty : Int) : Lane :=
  let k := tileSlot tx ty
  let r := L.engRead .section_ ((L.rd 0x40070024).toNat + 0x2000 * k) 8192
  let unk := b2n (L.tileState k != 0)
  let head := tileHeader tx ty (L.rd 0x4007000C) (unk + 256 * laneNo l) L.lt L.sec.expSeq
  let tag := tileTag (laneNo l == 1) head r.1
  let at_ := (L.rd 0x40070028).toNat + 0x2040 * (ringPos (L.rd 0x4007003C) % 31)
  let L := L.engWrite .section_ at_ (head ++ r.1 ++ tag)
  let L := { L with sec := { L.sec with expSeq := (L.sec.expSeq + 1) % 2 ^ 32 } }
  (L.wr 0x4007003C (ringNext (L.rd 0x4007003C))).raise 63 1 0 0

/-- A tile enters the window: bitmap cleared, PENDING, to be asked for (R215 step 2). -/
def Lane.enterTile (L : Lane) (tx ty : Int) : Lane :=
  let k := tileSlot tx ty
  let L := L.engWrite .section_ ((L.rd 0x40070024).toNat + 0x2000 * k) (List.replicate 8192 0)
  let L := L.setTile k 1
  { L with sec := { L.sec with want := L.sec.want ++ [(tx, ty)] } }

/-- Write the requests that the import ring has room for (R215 step 2). -/
def Lane.askTiles (L : Lane) (n : Nat) : Lane :=
  match n with
  | 0 => L
  | n + 1 =>
    match L.sec.want with
    | [] => L
    | (tx, ty) :: rest =>
      let req := L.rd 0x40070044
      if 31 ≤ ringUsed req (ringWord L.sec.merged) then L
      else
        let k := ringPos req % 31
        let field := L.rd 0x4007000C
        let at_ := (L.rd 0x40070028).toNat + 0x40000 + 0x2040 * k
        let L := L.engWrite .section_ at_
          (natBytes (tx % 4294967296).toNat 4 ++ natBytes (ty % 4294967296).toNat 4 ++ wordBytes field ++
            List.replicate 8244 0)
        let L := { L with sec := { L.sec with
          want := rest, asked := L.sec.asked ++ [TileReq.mk tx ty field k L.lt false] } }
        ((L.wr 0x40070044 (ringNext req)).raise 63 2 0 0).askTiles n

/-- Merge the answered import slots, in ring order (R215 step 4). -/
def Lane.mergeTiles (L : Lane) (n : Nat) : Lane :=
  match n with
  | 0 => L
  | n + 1 =>
    if ringUsed (L.rd 0x40070048) (ringWord L.sec.merged) = 0 ∨
        31 < ringUsed (L.rd 0x40070048) (ringWord L.sec.merged) then L
    else
      let k := L.sec.merged % 62 % 31
      let L' := { L with sec := { L.sec with merged := (L.sec.merged + 1) % 62 } }
      match L.sec.asked.find? (fun t => t.slot == k) with
      | none => L'.mergeTiles n
      | some t =>
        let M := { L' with sec := { L'.sec with asked := L'.sec.asked.filter (fun u => u != t) } }
        let rec_ := (L.engRead .section_ ((L.rd 0x40070028).toNat + 0x40000 + 0x2040 * k) 8256).1
        let head := rec_.take 48
        let bitmap := (rec_.drop 48).take 8192
        let flags := bytesNat ((rec_.drop 12).take 4)
        let slot := tileSlot t.tx t.ty
        let same := (rec_.take 12 == natBytes (t.tx % 4294967296).toNat 4 ++
          natBytes (t.ty % 4294967296).toNat 4 ++ wordBytes t.field)
        let here := L.inWindow t.tx t.ty
        if same && flags == 2 then (if here then M.setTile slot 0 else M).mergeTiles n
        else if same && rec_.drop 8240 == tileTag (flags / 256 % 2 == 1) head bitmap then
          let base := (L.rd 0x40070024).toNat + 0x2000 * slot
          let own := (M.engRead .section_ base 8192).1
          (if here then (M.engWrite .section_ base (List.zipWith (· ||| ·) own bitmap)).setTile slot 0 else M).mergeTiles n
        else
          ((((if here then M.setTile slot 2 else M).bump 0x4007008C).setFlag 0x40070004 17 true).raise 63 3 0 0).mergeTiles n

/-- Shift the window by one tile on an axis, exporting what leaves and asking for what enters; deferred
where the export ring has too few free entries (R211). -/
def Lane.shiftWindow (L : Lane) (l : LaneId) (dx dy : Int) : Lane :=
  if 31 < 16 + ringUsed (L.rd 0x4007003C) (L.rd 0x40070040) then L.setFlag 0x40070004 19 true
  else
    let x := L.winX
    let y := L.winY
    let line := fun (x0 y0 : Int) => (List.range 16).map (fun (i : Nat) =>
      if dx ≠ 0 then (x0, y0 + (i : Int)) else (x0 + (i : Int), y0))
    let out := if dx = 1 ∨ dy = 1 then line x y else if dx = -1 then line (x + 15) y else line x (y + 15)
    let inn := if dx = 1 then line (x + 16) y else if dx = -1 then line (x - 1) y
      else if dy = 1 then line x (y + 16) else line x (y - 1)
    let L := out.foldl (fun L t => L.exportTile l t.1 t.2) L
    let L := L.setWin (x + dx) (y + dy)
    let gone := fun (t : Int × Int) => out.contains t
    let L := { L with sec := { L.sec with want := L.sec.want.filter (fun t => !gone t) } }
    inn.foldl (fun L t => L.enterTile t.1 t.2) L

/-- The reference point's tile. -/
def Lane.refTile (L : Lane) : Int × Int := (tileOf (cellOf L.veh.e), tileOf (cellOf L.veh.n))

/-- The shift of a cycle: x first, then y (R211).
(Log: DEDUCED, entry 46.) -/
def Lane.page (L : Lane) (l : LaneId) : Lane :=
  if !L.flag 0x40070000 4 then L
  else
    let t := L.refTile
    let rx := t.1 - L.winX
    let L := if rx < 6 then L.shiftWindow l (-1) 0 else if 9 < rx then L.shiftWindow l 1 0 else L
    let ry := t.2 - L.winY
    if ry < 6 then L.shiftWindow l 0 (-1) else if 9 < ry then L.shiftWindow l 0 1 else L

/-- PAGE_EN rises (R211): the reference point lies in relative tile 8 on each axis, and every tile is asked
for in order of distance from it.
(Log: DEDUCED, entry 46.) -/
def Lane.pageEnable (L : Lane) : Lane :=
  let t := L.refTile
  let L := L.setWin (t.1 - 8) (t.2 - 8)
  let L := { L with sec := { L.sec with want := [] } }
  let e := L.veh.e
  let n := L.veh.n
  let dist := fun (q : Int × Int) =>
    let de := ((q.1 : Rat) + 1 / 2) * (64 / 5) - e
    let dn := ((q.2 : Rat) + 1 / 2) * (64 / 5) - n
    ((de * de + dn * dn) * 10000).floor.toNat
  let all := (List.range 256).map (fun (i : Nat) =>
    (t.1 - 8 + ((i % 16 : Nat) : Int), t.2 - 8 + ((i / 16 : Nat) : Int)))
  (all.foldl (fun acc q => insertBy dist q acc) []).foldl (fun L q => L.enterTile q.1 q.2) L

/-- PAGE_ENABLE: CTRL.PAGE_EN written 1 where it was 0. -/
def execPageEnable (l : LaneId) (s : State) : Host.Outcome State Fault Refusal :=
  .next (s.modLane l (fun L =>
    if L.flag 0x40070000 4 then L else (L.setFlag 0x40070000 4 true).pageEnable))

/-- The import slots that the host has answered and no cycle has merged yet (R214, R215). -/
def Lane.answered (L : Lane) (k : Nat) : Bool :=
  (List.range (min 31 (ringUsed (L.rd 0x40070048) (ringWord L.sec.merged)))).any (fun i =>
    (L.sec.merged + i) % 62 % 31 == k)

/-- PAGE_TIMEOUT (R216): the tile asked for in import slot `k`, still PENDING in the window, has not been answered
within PAGE_TMO. -/
def execPageTimeout (l : LaneId) (k : Fin 31) (s : State) : Host.Outcome State Fault Refusal :=
  .next (s.modLane l (fun L =>
    match L.sec.asked.find? (fun t => t.slot == k.val && !t.late) with
    | none => L
    | some t =>
      let slot := tileSlot t.tx t.ty
      if t.at_ + (L.rd 0x4007004C).toNat * 100000 ≤ L.lt && L.inWindow t.tx t.ty && L.tileState slot == 1 &&
          !L.answered k then
        let L := { L with sec := { L.sec with
          asked := L.sec.asked.map (fun u => if u == t then { u with late := true } else u) } }
        ((L.setTile slot 2).bump 0x40070090).raise 63 4 0 0
      else L))

/-! ### Exclusion zones (R220 to R222) -/

/-- A polygon's vertices in cm. -/
abbrev Poly := List (Int × Int)

/-- The words of an exclusion set: P and V, the entries, the vertices; none where R220's limits fail. -/
def Lane.excSet (L : Lane) (base : Nat) : Option (List (Bool × Poly)) :=
  let hd := L.secWords base 2
  let p := (wd hd 0).toNat
  let v := (wd hd 1).toNat
  if 256 < p ∨ 16384 < v ∨ !L.ownedBy 4 base (8 + 8 * p + 8 * v) then none
  else
    let ents := (List.range p).map (fun i => L.secWords (base + 8 + 8 * i) 2)
    let bad := fun (w : List Word) =>
      let n := df w 0 16 16
      decide (n < 3) || decide (4096 < n) || decide (v < df w 0 0 16 + n) || (wd w 1).toNat / 2 != 0
    if ents.any bad then none
    else
      some (ents.map (fun w => (db w 1 0, (List.range (df w 0 16 16)).map (fun j =>
        let c := L.secWords (base + 8 + 8 * p + 8 * (df w 0 0 16 + j)) 2
        ((wd c 0).toInt, (wd c 1).toInt)))))

/-- Is (x, y) on the segment from a to b?
(Log: DEDUCED, entry 46.) -/
def onSegment (x y : Rat) (a b : Int × Int) : Bool :=
  let ax : Rat := a.1
  let ay : Rat := a.2
  let bx : Rat := b.1
  let by_ : Rat := b.2
  decide ((bx - ax) * (y - ay) - (by_ - ay) * (x - ax) = 0) &&
    decide (min ax bx ≤ x) && decide (x ≤ max ax bx) && decide (min ay by_ ≤ y) && decide (y ≤ max ay by_)

/-- Does a ray in +x from (x, y) cross the segment? -/
def rayCrosses (x y : Rat) (a b : Int × Int) : Bool :=
  let ax : Rat := a.1
  let ay : Rat := a.2
  let bx : Rat := b.1
  let by_ : Rat := b.2
  if (ay ≤ y) ↔ (by_ ≤ y) then false
  else decide (x < ax + (y - ay) * (bx - ax) / (by_ - ay))

/-- The sides of a polygon, closed from the last vertex to the first. -/
def Poly.sides (p : Poly) : List ((Int × Int) × (Int × Int)) :=
  match p with
  | [] => []
  | v :: rest => List.zip (v :: rest) (rest ++ [v])

/-- Even-odd, edges and vertices inside (R221).
(Log: DEDUCED, entry 46.) -/
def Poly.inside (p : Poly) (x y : Rat) : Bool :=
  p.sides.any (fun s => onSegment x y s.1 s.2) ||
    (p.sides.countP (fun s => rayCrosses x y s.1 s.2)) % 2 == 1

/-- The base of set 0 or 1. -/
def Lane.excBase (L : Lane) (b : Bool) : Nat := (L.rd (if b then 0x40070034 else 0x40070030)).toNat

/-- The polygons in force. -/
def Lane.polys (L : Lane) : List (Bool × Poly) :=
  if L.flag 0x40070000 5 then (L.excSet (L.excBase (L.flag 0x40070004 3))).getD [] else []

/-- A change of EXC_SEL is checked at the next cycle's start (R222). -/
def Lane.checkExclusion (L : Lane) : Lane :=
  let sel := L.flag 0x40070000 2
  if sel = L.sec.excWas then L
  else
    let L := { L with sec := { L.sec with excWas := sel } }
    match L.excSet (L.excBase sel) with
    | some _ => L.setFlag 0x40070004 3 sel
    | none => (L.setFlag 0x40070004 16 true).raise 64 5 0 0

/-! ### Prescription maps (R223 to R226) -/

/-- Bytes of the flash window (R604): none of it outside the window. -/
def Lane.flashBytes (L : Lane) (a n : Nat) : List Byte := Flash.read L.flash (a - 0x10000000) n
def Lane.flashWord (L : Lane) (a : Nat) : Word := bytesWord (L.flashBytes a 4)
def inFlash (a n : Nat) : Bool := decide (0x10000000 ≤ a ∧ a + n ≤ 0x14000000)

/-- Cells and length of a map with its signature (R223). -/
def mapNE (L : Lane) (a : Nat) : Nat := fieldNat (L.flashWord (a + 16)) 0 16
def mapNN (L : Lane) (a : Nat) : Nat := fieldNat (L.flashWord (a + 16)) 16 16
def mapBody (L : Lane) (a : Nat) : Nat := (64 + 2 * (mapNE L a * mapNN L a) + 3) / 4 * 4

/-- Reasons of R224 that hold for a map.
(Log: DESIGN CHOICE, entry 44.) -/
def Lane.mapFaults (L : Lane) (a : Nat) : List Nat :=
  let size := !inFlash a 64 || a % 4 != 0 || !inFlash a (mapBody L a + 96)
  let key := fieldNat (L.flashWord (a + 24)) 0 8
  let pub := Tab.get L.keys [] key
  let ne := mapNE L a
  let nn := mapNN L a
  let fmt := L.flashWord a != 1 || decide (ne < 1) || decide (4096 < ne) || decide (nn < 1) ||
    decide (4096 < nn) || decide (4194304 < ne * nn) || (L.flashWord (a + 24)).toNat / 256 != 0 ||
    (L.flashBytes (a + 32) 32).any (fun b => b != 0)
  let body := mapBody L a
  let sig := size || !Config.ecdsaVerify pub (Config.sha384 (L.flashBytes a body)) (L.flashBytes (a + body) 96)
  if !inFlash a 64 || a % 4 != 0 then [5]
  else (if sig then [1] else []) ++ (if 8 < key ∨ pub = [] then [2] else []) ++
    (if L.flashWord (a + 4) ≠ L.rd 0x4007000C then [3] else []) ++ (if fmt then [4] else []) ++
    (if size then [5] else [])

def Lane.layer (L : Lane) (k : Nat) : Layer := Tab.get L.sec.layers Layer.reset k
def Lane.setLayer (L : Lane) (k : Nat) (y : Layer) : Lane :=
  { L with sec := { L.sec with layers := Tab.set L.sec.layers Layer.reset k y } }
/-- STATE and REASON of a layer in RX_STAT. -/
def Lane.setRx (L : Lane) (k st reason : Nat) : Lane :=
  (L.setFld 0x4007005C (8 * k) 2 st).setFld 0x4007005C (8 * k + 2) 4 reason

/-- A write of RX_CMD with OP 1: verification starts (R224).
(Log: DEDUCED, entry 45.) -/
def Lane.rxActivate (L : Lane) (k : Nat) : Lane :=
  let y := L.layer k
  (L.setLayer k { y with check := some (L.rd (0x40070060 + 4 * k)).toNat, next := y.next % 2 }).setRx k 1 0
/-- A write of RX_CMD with OP 2: the layer goes at the next cycle, and with it a verification in progress.
(Log: DEDUCED, entry 45.) -/
def Lane.rxDeactivate (L : Lane) (k : Nat) : Lane := L.setLayer k { L.layer k with next := 1, check := none }

/-- A write of RX_CMD (R231). -/
def Lane.rxCmd (L : Lane) (v : Word) : Lane :=
  match fieldNat v 2 2 with
  | 1 => L.rxActivate (fieldNat v 0 2)
  | 2 => L.rxDeactivate (fieldNat v 0 2)
  | _ => L

/-- RX_ACTIVATE. -/
def execRxActivate (l : LaneId) (v : Word) (s : State) : Host.Outcome State Fault Refusal :=
  .next (if fieldNat v 2 2 = 1 then s.modLane l (fun L => L.rxActivate (fieldNat v 0 2)) else s)
/-- RX_DEACTIVATE. -/
def execRxDeactivate (l : LaneId) (v : Word) (s : State) : Host.Outcome State Fault Refusal :=
  .next (if fieldNat v 2 2 = 2 then s.modLane l (fun L => L.rxDeactivate (fieldNat v 0 2)) else s)

/-- RX_VERIFY_COMPLETE (R224): the map becomes ACTIVE at the next cycle, or the layer is REJECTED with one
of the reasons that hold and E64.
(Log: DESIGN CHOICE, entry 44.) -/
def execRxVerifyComplete (l : LaneId) (layer : Fin 4) (s : State) : Host.Outcome State Fault Refusal :=
  .next (s.modLane l (fun L =>
    let y := L.layer layer
    match y.check with
    | none => L
    | some a =>
      match L.mapFaults a with
      | [] => L.setLayer layer { y with next := 2 }
      | r :: rs =>
        let reason := (r :: rs).getD (Config.freeNat L.free % (rs.length + 1)) r
        let map := if y.next = 1 then none else y.map
        (((L.useFree.setLayer layer ⟨map, none, 0⟩).setRx layer 3 reason).raise 64 2
          layer (BitVec.ofNat 32 reason))))

/-- A write of SEC.FIELD deactivates every layer at the next cycle (R225).
(Log: DEDUCED, entry 45.) -/
def Lane.fieldWrite (L : Lane) (v : Word) : Lane :=
  let L := L.wr 0x4007000C v
  (List.range 4).foldl (fun L k => L.setLayer k { L.layer k with next := 1, check := none }) L
/-- FIELD_WRITE. -/
def execFieldWrite (l : LaneId) (v : Word) (s : State) : Host.Outcome State Fault Refusal :=
  .next (s.modLane l (fun L => L.fieldWrite v))

/-- Layers change at a cycle's start.
(Log: DEDUCED, entry 45.) -/
def Lane.takeLayers (L : Lane) : Lane :=
  (List.range 4).foldl (fun L k =>
    let y := L.layer k
    match y.next with
    | 1 => (L.setLayer k { y with map := none, next := 0 }).setRx k (if y.check.isSome then 1 else 0) 0
    | 2 => (L.setLayer k ⟨y.check, none, 0⟩).setRx k 2 0
    | _ => L) L

/-- The raw rate of a nozzle at a field point (R225).
(Log: DESIGN CHOICE, entry 47.) -/
def Lane.rawRate (L : Lane) (n : Nat) (e nn : Rat) : Nat :=
  let sd := L.sectD (df (L.nozD n) 3 20 6)
  let outside := if db sd 0 10 then df sd 0 16 16 else 0xFFFF
  match (L.layer (df sd 0 8 2)).map with
  | none => outside
  | some a =>
    let ce := ((e * 100 - ((L.flashWord (a + 8)).toInt : Rat)) / 100).floor
    let cn := ((nn * 100 - ((L.flashWord (a + 12)).toInt : Rat)) / 100).floor
    if 0 ≤ ce ∧ ce < (mapNE L a : Int) ∧ 0 ≤ cn ∧ cn < (mapNN L a : Int) then
      bytesNat (L.flashBytes (a + 64 + 2 * (cn.toNat * mapNE L a + ce.toNat)) 2)
    else outside

/-- UNIT of the map that serves a nozzle, none without a map, and the rate in that unit per raw count (R223, R252).
(Log: DESIGN CHOICE, entry 47.) -/
def Lane.unitStep (L : Lane) (n : Nat) : Option Nat × Rat :=
  match (L.layer (df (L.sectD (df (L.nozD n) 3 20 6)) 0 8 2)).map with
  | none => (none, Config.fixedStep)
  | some a =>
    (some (fieldNat (L.flashWord (a + 20)) 0 8), ((fieldNat (L.flashWord (a + 20)) 8 24 : Nat) : Rat) / 1000000)

/-! ### The decision (R227 to R229) -/

/-- The sample points of a nozzle's footprint line at a ground state, each with its weight (R227).
(Log: DEDUCED, entry 46.) -/
def footprint (w : List Word) (g : Ground) : List (Rat × Rat × Rat) :=
  let wm : Rat := ((df w 3 0 16 : Nat) : Rat) / 1000
  let k := max 1 (roundHalfUp (wm / (1 / 20))).toNat
  let sp := g.speed
  let de := if sp = 0 then 0 else -(g.vn / sp)
  let dn := if sp = 0 then 0 else g.ve / sp
  (List.range k).map (fun (j : Nat) =>
    let a := ((j : Rat) + 1 / 2) * wm / (k : Rat) - wm / 2
    let x := if a < 0 then -a else a
    let weight := match df w 3 16 4 with
      | 0 => 1
      | 1 => 1 - x / (wm / 2)
      | _ => if x ≤ wm / 4 then 1 else 2 - 2 * x / (wm / 2)
    (g.e + a * de, g.n + a * dn, weight))

/-- The weighted fraction of the samples that meet a test (R227).
(Log: DEDUCED, entry 46.) -/
def fraction (ps : List (Rat × Rat × Rat)) (p : Rat → Rat → Bool) : Rat :=
  let all := ps.foldl (fun a q => a + q.2.2) 0
  let hit := ps.foldl (fun a q => if p q.1 q.2.1 then a + q.2.2 else a) 0
  if all = 0 then 0 else hit / all

/-- Section bits of SECT_OFF (R198). -/
def Lane.sectOff (L : Lane) (i : Nat) : Bool := L.flag (0x40070050 + 4 * (i / 32)) (i % 32)

/-- UNIT allows application by the nozzle: 1 for a valve, 2 or 3 for a metered row (R252, R258); a FIXED
rate without a map has no unit of its own. -/
def Lane.unitOk (L : Lane) (n : Nat) : Bool :=
  match (L.unitStep n).1 with
  | none => true
  | some u => if L.meteredRow n then u == 2 || u == 3 else u == 1

/-- Is nozzle `n` wanted on `t` seconds after the cycle, when the latest issued edge left it at `on`
(R228)?  VMIN, like the section bits and the layers, is not predicted: its change is seen at a cycle (R207, R229).
(Log: DESIGN CHOICE, entry 47.) -/
def Lane.wanted (L : Lane) (polys : List (Bool × Poly)) (n : Nat) (t : Rat) (on : Bool) : Bool :=
  let w := L.nozD n
  let i := df w 3 20 6
  let sd := L.sectD i
  let g := L.ground n t
  let ps := footprint w g
  let thr : Rat := ((if df sd 0 1 7 = 0 then L.fld 0x40070008 0 7 else df sd 0 1 7 : Nat) : Rat) / 100
  let hys : Rat := ((L.fld 0x40070008 8 7 : Nat) : Rat) / 100
  let exc : Rat := ((L.fld 0x40070008 16 7 : Nat) : Rat) / 100
  let raw := L.rawRate n g.e g.n
  db sd 0 0 && !L.sectOff i &&
    decide (((L.fld 0x40070008 24 8 : Nat) : Rat) / 100 ≤ (L.ground n 0).speed) &&
    decide (fraction ps (fun e m => polys.any (fun p => p.1 && p.2.inside (e * 100) (m * 100))) ≤ exc) &&
    raw != 0 && raw != 0xFFFF && L.unitOk n &&
    decide (fraction ps (fun e m => L.covered (cellOf e) (cellOf m)) < (if on then thr else thr - hys))

/-- The boundary crossing of nozzle `n` within `horizon` us after the cycle, when its latest issued edge left it at `on`:
the first microsecond at which the decision changes, and the level from then on (R229).
(Log: DEDUCED, entry 48.) -/
def Lane.crossing (L : Lane) (polys : List (Bool × Poly)) (n horizon : Nat) (on : Bool) : Option (Nat × Bool) :=
  let now := L.wanted polys n 0 on
  ((List.range horizon).find? (fun k => L.wanted polys n (((k + 1 : Nat) : Rat) / 1000000) on != now)).map
    (fun k => (k + 1, !now))

end Sys2Proof.Machine
end

