-- ==== Sys2Proof/Machine/SecCycle.lean ====
section
/-!
DEFINITION. The section engine's cycle: delays, conditions, edges, duty, meters, painting, and the delay
learner (R30 to R35, R179, R210, R219, R235 to R262).
-/

namespace Sys2Proof.Machine

/-! ### Pressure (R237) -/

/-- PRS_SUB_GO: the admission rules of R201. -/
def Lane.prsSub (L : Lane) : Lane :=
  let stamp := L.rd64 0x40070124
  let late := match L.sec.prs, L.sec.prsWait.getLast? with
    | _, some m => decide (stamp ≤ m.1)
    | some m, none => decide (stamp ≤ m.1)
    | none, none => false
  if late then L.bump 0x40070094
  else
    { L with sec := { L.sec with
        prsWait := L.sec.prsWait ++ [(stamp, L.lt, L.rd 0x40070120)], prsAt := L.lt, prsStale := false } }

def execPrsSubGo (l : LaneId) (_v : Word) (s : State) : Host.Outcome State Fault Refusal :=
  .next (s.modLane l Lane.prsSub)

/-- PRESSURE_STALE (R237): no sample accepted for PRS_STALE.
(Log: DEDUCED, entry 50.) -/
def execPressureStale (l : LaneId) (s : State) : Host.Outcome State Fault Refusal :=
  .next (s.modLane l (fun L =>
    if L.flag 0x40070000 0 && !L.sec.prsStale &&
        decide (L.sec.prsAt + L.fld 0x40070130 24 8 * 1000000 ≤ L.lt) then
      { L with sec := { L.sec with prsStale := true } }.raise 67 3 0 0
    else L))

/-- A cycle takes the latest sample accepted for it; PRS_NOW reports it.
(Log: DEDUCED, entry 50.) -/
def Lane.takePressure (L : Lane) (t0 : Nat) : Lane :=
  let mine := L.sec.prsWait.filter (fun m => entersCycle t0 m.1 m.2.1)
  let L := match mine.getLast? with
    | some m => { L with sec := { L.sec with
        prs := some (m.1, m.2.2), prsWait := L.sec.prsWait.filter (fun k => !entersCycle t0 k.1 k.2.1) } }
    | none => L
  match L.sec.prs with
  | some p => L.wr 0x4007013C p.2
  | none => L.wr 0x4007013C (toF32 (L.fld 0x40070118 0 16 : Nat))

/-- P of R236: at least 10 kPa; PREF where no sample was accepted.
(Log: DEDUCED, entry 50.) -/
def Lane.pressure (L : Lane) : Rat :=
  match L.sec.prs with
  | some p => max 10 (f32 p.2)
  | none => (L.fld 0x40070118 0 16 : Nat)

/-- Condition 8 of R30 for a nozzle without MTR. -/
def Lane.pressureOk (L : Lane) : Bool :=
  !L.sec.prsStale && (match L.sec.prs with
    | none => false
    | some p => decide (((L.fld 0x4007011C 0 16 : Nat) : Rat) ≤ f32 p.2 ∧
        f32 p.2 ≤ ((L.fld 0x4007011C 16 16 : Nat) : Rat)))

/-! ### Learned state and delays (R235, R236, R241) -/

/-- The learned-state entry of a nozzle, as taken at the model load and updated since (R241).
(Log: DEDUCED, entry 49.) -/
def Lane.lrn (L : Lane) (n : Nat) : List Word := (L.nz n).lrn
/-- Update an entry and write it to its table in one bank cycle (R241). -/
def Lane.setLrn (L : Lane) (n : Nat) (ws : List Word) : Lane :=
  (L.setNz n { L.nz n with lrn := ws }).engWrite .section_ (L.sec.lrnBase + 16 * n) (ws.flatMap wordBytes)

/-- Transport part of a nozzle in us (R236). -/
def Lane.transport (L : Lane) (w : List Word) (on : Bool) : Rat :=
  let t : Rat := ((min 4000 (df w 6 (if on then 0 else 16) 16) * 100 : Nat) : Rat)
  if db w 7 18 then t
  else t * Config.pow (((L.fld 0x40070118 0 16 : Nat) : Rat) / L.pressure)
    (((L.fld 0x40070118 16 8 : Nat) : Rat) / 100)

/-- A delay in us before it is held to 480 ms (R235).
(Log: DESIGN CHOICE, entry 118.) -/
def Lane.rawDelay (L : Lane) (n : Nat) (on : Bool) : Nat :=
  let e := fieldNat (wd (L.lrn n) (if on then 0 else 1)) 0 24
  (roundHalfUp ((e : Rat) + L.transport (L.nozD n) on)).toNat

/-- Delay, footprint and speed of a nozzle for the cycle. -/
def Lane.nozzleDelays (L : Lane) (n : Nat) : Lane :=
  L.setNz n { L.nz n with
    dOn := min 480000 (L.rawDelay n true)
    dOff := min 480000 (L.rawDelay n false)
    w := ((df (L.nozD n) 3 0 16 : Nat) : Rat) / 1000
    v := (L.ground n 0).speed }

/-! ### Conditions of R30 -/

/-- Both confidences are at or above CONF_TH (R243). -/
def Lane.confident (L : Lane) (n : Nat) : Bool := !L.lowConf (L.lrn n) true && !L.lowConf (L.lrn n) false

/-- The bits of R30 that hold for a nozzle, bit i for the condition in row i of its table; condition 0 holds only while
the boom-motion inputs are aligned as well (R279).
(Log: DEDUCED, entry 48.) -/
def Lane.conditions (L : Lane) (n : Nat) : Nat :=
  let w := L.nozD n
  let seg := df w 3 26 3
  let z := L.nz n
  let g := L.ground n 0
  let okDelay := fun (d : Nat) => decide (20000 ≤ d ∧ d ≤ 400000)
  let boom := (List.range 16).all (fun i => !(binEn (L.binD i) && df (L.binD i) 0 4 3 == seg) || !L.flag 0x40070098 i)
  let ax := L.veh.ax
  let wz := if L.veh.wz < 0 then -L.veh.wz else L.veh.wz
  let bits : List Bool :=
    [L.flag 0x40080004 2 && boom,
     L.flag 0x40080404 1,
     boom,
     okDelay (L.rawDelay n true) && okDelay (L.rawDelay n false),
     L.confident n,
     decide (ax ≤ 3 / 2 ∧ -(3 / 2) ≤ ax),
     decide (8 * wz ≤ z.v),
     decide (3 / 10 ≤ g.h ∧ g.h ≤ 3 / 2),
     db w 7 18 || L.pressureOk]
  ((List.range 9).filter (fun i => bits.getD i false)).foldl (fun a i => a + 2 ^ i) 0

/-- E65 with data 3 for each confidence that falls below the threshold (R243). -/
def Lane.noteConfidence (L : Lane) (n : Nat) : Lane :=
  let z := L.nz n
  let on := L.lowConf z.lrn true
  let off := L.lowConf z.lrn false
  let L := L.setNz n { z with lowOn := on, lowOff := off }
  let L := if on && !z.lowOn then L.raise 65 3 n 0 else L
  if off && !z.lowOff then L.raise 65 3 n 0 else L

/-- The conditions of every enabled nozzle, COND_NOW and E66 (R250). -/
def Lane.takeConditions (L : Lane) : Lane :=
  let L := L.nozzles.foldl (fun L n =>
    (L.setNz n { L.nz n with cond := L.conditions n }).noteConfidence n) L
  let now := L.nozzles.foldl (fun a n => Nat.land a (L.nz n).cond) 0x1FF
  let was := L.sec.condWas
  let L := { L with sec := { L.sec with condWas := now } }.wr 0x40070148 (BitVec.ofNat 32 now)
  let fell := Nat.land was (0x1FF - now)
  let L := if fell ≠ 0 then L.raise 66 1 0 (BitVec.ofNat 32 fell) else L
  if now = 0x1FF ∧ was ≠ 0x1FF then L.raise 66 2 0 0 else L

/-! ### Held-off channels (R251) -/

/-- The engine learns from the switch-die status which channels are held off: each finished hold-off leaves the interval
in which its spray was missing on the ground.
(Log: DEDUCED, entry 49.) -/
def State.takeHeld (s : State) (l : LaneId) : State :=
  s.modLane l (fun L => L.nozzles.foldl (fun L n =>
    let z := L.nz n
    let w := s.die.swt (nozCh (L.nozD n))
    let new := w.offs.filter (fun i => decide (z.heldSeen < i.2))
    L.setNz n { z with
      heldAt := w.offAt
      heldSeen := new.foldl (fun m i => max m i.2) z.heldSeen
      held := z.held ++ new.map (fun i => (i.1 + 100 * z.dOff, i.2 + 100 * z.dOn)) }) L)

/-! ### Flow, duty and meters (R252 to R260) -/

/-- Demanded flow and full-open flow in L/min (R252). -/
def Lane.flowOf (L : Lane) (n : Nat) : Rat × Rat :=
  let z := L.nz n
  let g := L.ground n 0
  let r := ((L.rawRate n g.e g.n : Nat) : Rat) * (L.unitStep n).2
  let q := if L.rawRate n g.e g.n = 0xFFFF then 0 else r / 10000 * z.w * z.v * 60
  (q, ((df (L.nozD n) 7 0 16 : Nat) : Rat) / 100 *
    Config.sqrt (L.pressure / ((L.fld 0x40070118 0 16 : Nat) : Rat)))

/-- The nozzle is metered by duty. -/
def nozPwm (w : List Word) : Bool := db w 7 16
/-- The period 1/PWM_HZ in whole ticks, rounded down (R14), and so in the whole microseconds of a channel unit (R161). -/
def pwmPeriod (hz : Nat) : Nat := 100000000 / hz / 100

/-- Events 67 with kinds 1, 2 and 6 that this cycle has raised. -/
abbrev Said := List Nat

/-- Raise E67 with a kind once per cycle. -/
def Lane.once67 (L : Lane) (said : Said) (kind n : Nat) : Lane × Said :=
  if said.contains kind then (L, said) else (L.raise 67 kind n 0, kind :: said)

/-- Set or clear the SAT bit of a nozzle. -/
def Lane.setSat (L : Lane) (n : Nat) (b : Bool) : Lane := L.setFlag (0x400701A0 + 4 * (n / 32)) (n % 32) b

/-- The on-time of R252 in us for a period, with the saturation: 0 none, 1 high, 2 low. -/
def Lane.onTime (L : Lane) (n perUs : Nat) : Nat × Nat :=
  let f := L.flowOf n
  let e := L.lrn n
  let t : Rat := (perUs : Nat)
  let raw := (if f.2 = 0 then 0 else f.1 / f.2 * t) + ((fieldNat (wd e 0) 0 24 : Nat) : Rat) -
    ((fieldNat (wd e 1) 0 24 : Nat) : Rat)
  let dmin := ((L.fld 0x40070134 8 7 : Nat) : Rat) / 100 * t
  let sat := if t < raw then 1 else if raw < dmin then 2 else 0
  ((roundHalfUp (max dmin (min t raw))).toNat, sat)

/-- Duty of one nozzle in a cycle (R252, R253). -/
def Lane.duty (L : Lane) (acc : Said) (n : Nat) : Lane × Said :=
  let w := L.nozD n
  let z := L.nz n
  let f := L.flowOf n
  let ok := L.unitOk n
  let L := L.setNz n { z with q := if df w 7 0 16 = 0 ∨ !ok then 0 else f.1 }
  let r := if !ok && !db w 7 18 then L.once67 acc 6 n else (L, acc)
  let L := r.1
  if nozPwm w && df w 7 0 16 != 0 && ok then
    let per := pwmPeriod z.hz
    let o := L.onTime n per
    let L := L.setSat n (o.2 != 0)
    let r := if o.2 = 0 then (L, r.2) else L.once67 r.2 o.2 n
    let L := r.1
    let z := L.nz n
    let diff := if o.1 ≤ z.onSent then z.onSent - o.1 else o.1 - z.onSent
    if L.vis (nozCh w) && decide (per ≤ 500 * diff) && decide (z.sentAt + 100 * per ≤ L.lt) then
      ((L.sendCmd (nozCh w) 0 (.pair per o.1) none).setNz n { z with onSent := o.1, sentAt := L.lt }, r.2)
    else (L, r.2)
  else (L.setSat n false, r.2)

/-- The level of a nozzle after its latest issued edge. -/
def Lane.issuedLevel (L : Lane) (n : Nat) : Bool :=
  match (L.sec.edges.filter (fun e => e.noz == n)).getLast? with
  | some e => e.level
  | none => (L.nz n).level

/-- The time of a nozzle's latest issued edge, 0 where none is remembered. -/
def Lane.lastEdgeAt (L : Lane) (n : Nat) : Nat := ((L.nz n).mine.getLast?.map Prod.fst).getD 0

/-- The setpoint of one meter in a cycle (R258). -/
def Lane.meter (L : Lane) (acc : Said) (i : Nat) : Lane × Said :=
  let m := L.mtrD i
  if mtrEn m && !L.sec.mtrOff.contains i && L.flag 0x40070164 0 then
    let n := df m 0 0 8
    let z := L.nz n
    let g := L.ground n 0
    let raw := L.rawRate n g.e g.n
    let r := if raw = 0xFFFF then (0 : Rat) else (raw : Rat) * (L.unitStep n).2
    let base := r / 10000 * z.w * z.v
    let e := if L.unitOk n then (L, acc) else L.once67 acc 6 n
    let L := e.1
    let speed : Rat :=
      match (L.unitStep n).1 with
      | some 2 => base / ((df m 1 16 8 : Nat) : Rat)
      | some 3 => base / ((((wd m 3).toNat : Nat) : Rat) / 1000000)
      | _ => 0
    let top : Rat := ((df m 2 0 16 : Nat) : Rat) / 600
    let e := if top < speed then (L.setSat n true).once67 e.2 1 n else (L.setSat n false, e.2)
    let L := e.1
    let v := if L.issuedLevel n then min top speed * ((df m 1 0 16 : Nat) : Rat) else 0
    let L := L.meterSp (df m 1 24 6) (L.lastEdgeAt n) (toF32 v)
    (if v = 0 then L else L.setNz n { L.nz n with sp := v }, e.2)
  else (L, acc)

/-- The sum of q over the nozzles that are on in SPX.VIS and meet a test. -/
def Lane.flowSum (L : Lane) (p : Nat → Bool) : Rat :=
  (L.nozzles.filter (fun n => p n && L.vis (nozCh (L.nozD n)))).foldl (fun a n => a + (L.nz n).q) 0

/-- FLOW_TGT (R254): it follows SPX.VIS at every change, so a read forms it. -/
def Lane.flowTgt (L : Lane) : Word := toF32 (L.flowSum (fun _ => true))

/-- Does the section's measured flow differ by more than TOL (R255)? -/
def Lane.flowOut (L : Lane) (i : Nat) : Bool :=
  let d := L.sectD i
  let ppl := df d 1 16 16
  let rate := if ppl = 0 then 0 else f32 (L.rd (0x40100118 + 64 * df d 1 0 5)) / (ppl : Rat) * 60
  let want := L.flowSum (fun n => df (L.nozD n) 3 20 6 == i)
  let dev := if rate ≤ want then want - rate else rate - want
  db d 1 8 && decide (((df d 2 0 8 : Nat) : Rat) / 100 * want < dev)

/-- Does a meter's measured speed differ from its setpoint by more than TOL (R260)? -/
def Lane.meterOut (L : Lane) (i : Nat) : Bool :=
  let m := L.mtrD i
  let want := f32 (Tab.get L.sec.setpt (0, 0) (df m 1 24 6)).2
  let rate := f32 (L.rd (0x40100118 + 64 * df m 0 13 5))
  let dev := if rate ≤ want then want - rate else rate - want
  mtrEn m && !L.sec.mtrOff.contains i && L.flag 0x40070164 0 && decide (0 < want) &&
    decide (((df m 2 16 8 : Nat) : Rat) / 100 * want < dev)

/-- The cycle's comparison of flows: since when each is out of tolerance; one that has returned may be
reported again. -/
def Lane.checkFlows (L : Lane) (t0 : Nat) : Lane :=
  let L := (List.range 64).foldl (fun L i =>
    if L.flowOut i then
      (if (Tab.get L.sec.flowBad none i).isSome then L
       else { L with sec := { L.sec with flowBad := Tab.set L.sec.flowBad none i (some t0) } })
    else { L with sec := { L.sec with
      flowBad := Tab.set L.sec.flowBad none i none, flowSaid := L.sec.flowSaid.filter (fun k => k != i) } }) L
  (List.range 24).foldl (fun L i =>
    if L.meterOut i then
      (if (Tab.get L.sec.mtrBad none i).isSome then L
       else { L with sec := { L.sec with mtrBad := Tab.set L.sec.mtrBad none i (some t0) } })
    else { L with sec := { L.sec with
      mtrBad := Tab.set L.sec.mtrBad none i none, mtrSaid := L.sec.mtrSaid.filter (fun k => k != i) } }) L

/-- FLOW_TOLERANCE_EXPIRY (R255). -/
def execFlowToleranceExpiry (l : LaneId) (sect : Fin 64) (s : State) : Host.Outcome State Fault Refusal :=
  .next (s.modLane l (fun L =>
    match Tab.get L.sec.flowBad none sect with
    | none => L
    | some t =>
      if t + df (L.sectD sect) 2 8 8 * 1000000 < L.lt && !L.sec.flowSaid.contains sect.val then
        { L with sec := { L.sec with flowSaid := L.sec.flowSaid ++ [sect.val] } }.raise 67 4 sect 0
      else L))

/-- METER_TOLERANCE_EXPIRY (R260). -/
def execMeterToleranceExpiry (l : LaneId) (m : Fin 24) (s : State) : Host.Outcome State Fault Refusal :=
  .next (s.modLane l (fun L =>
    match Tab.get L.sec.mtrBad none m with
    | none => L
    | some t =>
      if t + df (L.mtrD m) 2 24 8 * 1000000 < L.lt && !L.sec.mtrSaid.contains m.val then
        { L with sec := { L.sec with mtrSaid := L.sec.mtrSaid ++ [m.val] } }.raise 67 4 m 0
      else L))

/-! ### The learner (R242 to R244) -/

/-- One result for a direction of a nozzle: 0 POINT with the measurement in us, 1 TRUNC, 2 NONE.
(Log: DEDUCED, entry 49.) -/
def Lane.learn (L : Lane) (n : Nat) (on : Bool) (res : Nat) (m : Int) : Lane :=
  if !L.flag 0x40070100 0 || L.flag 0x40070100 1 || !db (L.nozD n) 7 17 || res == 1 then L
  else
    let e := L.lrn n
    let k := if on then 0 else 1
    let d := fieldNat (wd e k) 0 24
    let conf := fieldNat (wd e k) 24 8
    let cnt := fieldNat (wd e 2) (if on then 0 else 16) 16
    let miss := fieldNat (wd e 3) 0 8
    let lost := bitOf (wd e 3) 8
    let bnd := if on then 0x40070104 else 0x40070108
    let lo := L.fld bnd 0 16 * 100
    let hi := L.fld bnd 16 16 * 100
    let tol := L.fld 0x4007010C 0 16
    let cup := L.fld 0x4007010C 16 8
    let cdn := L.fld 0x4007010C 24 8
    let put := fun (d' conf' cnt' miss' : Nat) (lost' bound : Bool) =>
      [if on then BitVec.ofNat 32 (d' + conf' * 16777216) else wd e 0,
       if on then wd e 1 else BitVec.ofNat 32 (d' + conf' * 16777216),
       setFieldNat (wd e 2) (if on then 0 else 16) 16 cnt',
       setBit (setBit (setFieldNat (wd e 3) 0 8 miss') 8 lost') (if on then 9 else 10) bound]
    let L :=
      if res = 0 then
        if m < (lo : Int) ∨ (hi : Int) < m then
          let L := (L.setLrn n (put d (conf - 2 * cdn) cnt 0 lost true)).bump 0x40070158
          if L.sec.rejSaid then L
          else { L with sec := { L.sec with rejSaid := true } }.raise 65 4 n 0
        else
          let dev := (m - (d : Int)).natAbs
          let d' := if conf = 0 ∧ cnt = 0 then m.toNat
            else (clampInt lo hi ((d : Int) +
              roundHalfUp (((m - (d : Int) : Int) : Rat) / ((L.fld 0x40070100 8 8 : Nat) : Rat)))).toNat
          let conf' := if dev ≤ tol then min 255 (conf + cup) else conf - cdn
          let L := L.setLrn n (put d' conf' (min 65535 (cnt + 1)) 0 false false)
          if lost then (L.setFlag (0x40070180 + 4 * (n / 32)) (n % 32) false).raise 65 2 n 0 else L
      else
        let miss' := min 255 (miss + 1)
        let gone := !lost && decide (L.fld 0x40070100 16 8 ≤ miss')
        let L := (L.setLrn n (put d (conf - cdn) cnt miss' (lost || gone) (bitOf (wd e 3) (if on then 9 else 10)))).bump
          0x4007015C
        if gone then (L.setFlag (0x40070180 + 4 * (n / 32)) (n % 32) true).raise 65 1 n 0 else L
    L.noteConfidence n

/-- The edge is one that the lane's own section engine or a compensation of R178 commanded at its stamped time (R240).
(Log: DEDUCED, entry 49.) -/
def Lane.ownEdge (L : Lane) (n te : Nat) (on : Bool) : Bool :=
  let near := fun (t : Nat) => decide (t ≤ te ∧ te ≤ t + 10)
  (L.nz n).mine.any (fun e => near e.1 && e.2 == on) ||
    L.spx.hist.any (fun h => h.ch == nozCh (L.nozD n) && h.level == on && (h.st == 4 || h.st == 6) && near h.at_)

/-- Does the lane take a measurement from a signature window of nozzle `n` (R240)?  Its edge is the engine's own, a
compensation, or a phase boundary of the nozzle's PWM, and the channel was not held off in it.
(Log: DEDUCED, entry 49.) -/
def State.takesMeasure (s : State) (l : LaneId) (n : Nat) (w : SigWin) : Bool :=
  let L := s.lane l
  let c := s.die.swt (nozCh (L.nozD n))
  !w.skip && c.offAt.isNone && !c.offs.any (fun i => decide (w.te < i.2)) &&
    (L.ownEdge n w.te w.on || (nozPwm (L.nozD n) && w.phase))

/-- Sample `k` of a window is a local maximum or a local minimum of the current.
(Log: DESIGN CHOICE, entry 130.) -/
def isPeak (xs : List Rat) (k : Nat) : Bool :=
  decide (0 < k ∧ k + 1 < xs.length ∧ xs.getD (k - 1) 0 < xs.getD k 0 ∧ xs.getD (k + 1) 0 ≤ xs.getD k 0)
/-- See `isPeak`.
(Log: DESIGN CHOICE, entry 130.) -/
def isDip (xs : List Rat) (k : Nat) : Bool :=
  decide (0 < k ∧ k + 1 < xs.length ∧ xs.getD k 0 < xs.getD (k - 1) 0 ∧ xs.getD k 0 ≤ xs.getD (k + 1) 0)

/-- The armature-seat dip (R238): the first local minimum after BLANK that follows a local maximum and lies at least DIP
(0.1 %) of it below it; samples are 20 us apart from the edge on.
(Log: DESIGN CHOICE, entry 130.) -/
def dipAt (xs : List Rat) (blank dip : Nat) : Option Nat :=
  (List.range xs.length).find? (fun k => decide (blank < 2000 * k) && isDip xs k &&
    (match ((List.range k).filter (isPeak xs)).getLast? with
     | some j => decide (xs.getD k 0 * 1000 ≤ xs.getD j 0 * ((1000 - dip : Nat) : Rat))
     | none => false))

/-- The clamp-end knee (R238): the first sample after the edge at or below 1 % of the current at the edge. -/
def kneeAt (xs : List Rat) : Option Nat :=
  (List.range xs.length).find? (fun k => decide (0 < k ∧ xs.getD k 0 * 100 ≤ xs.getD 0 0))

/-- SIG_CFG as the die applies it to a channel (R239). -/
def State.sigCfg (s : State) (n : Nat) : Word :=
  let cfg := s.die.image (s.governs n) 0x40070110
  if cfg = 0 then fldsReset (laneFlds 0x40070110) else cfg

/-- The result of a window from its samples so far (R238, R240): 0 POINT with the measurement in us, 1 TRUNC, 2 NONE;
none while it is still open.
(Log: DEDUCED, entry 49.) -/
def State.sigResult (s : State) (n : Nat) (w : SigWin) (xs : List Rat) : Option (Nat × Int) :=
  let cfg := s.sigCfg n
  let full := w.te + fieldNat cfg (if w.on then 0 else 8) 8 * 100000
  let fin := min full (w.cut.getD full)
  let ys := (xs.take ((fin - w.te + 1999) / 2000)).take ((s.die.replica - w.te) / 2000 + 1)
  match (if w.on then dipAt ys (fieldNat cfg 16 8 * 10000) (fieldNat cfg 24 8) else kneeAt ys) with
  | some k => some (0, ((20 * k : Nat) : Int))
  | none =>
    if fin ≤ s.die.replica ∧ fin ≤ w.te + 2000 * xs.length then some (if fin < full then 1 else 2, 0) else none

/-- SIGNATURE_WINDOW_END (R238 to R244): the oldest window of channel `n` ends with the result that the current at its edge
`i0` and the 50 kHz samples `xs` after it give, and each lane's learner takes it; nothing while they give none yet.
(Log: DEDUCED, entry 49.) -/
def execSignatureWindowEnd (n : ChNo) (i0 : Rat) (xs : List Rat) (s : State) : Host.Outcome State Fault Refusal :=
  .next (match Tab.get s.die.sig [] n with
    | [] => s
    | w :: rest =>
      match s.sigResult n w (i0 :: xs) with
      | none => s
      | some (res, m) =>
        let s := s.modDie (fun d => { d with sig := Tab.set d.sig [] n rest })
        [LaneId.a, LaneId.b].foldl (fun s l =>
          match (s.lane l).nozzleOf n with
          | none => s
          | some k =>
            if (s.lane l).running && !db ((s.lane l).nozD k) 7 18 && s.takesMeasure l k w then
              s.modLane l (fun L => L.learn k w.on res m)
            else s) s)

/-! ### Edges (R246 to R249) -/

/-- Edges still remembered by the curd queue as pending or fired. -/
def Lane.edgeLive (L : Lane) (e : SecEdge) : Bool :=
  !e.done && (match L.entOf e.handle with
    | some k => (L.ent k).st != 0
    | none => false)
/-- The entry is still PENDING. -/
def Lane.edgePending (L : Lane) (e : SecEdge) : Bool :=
  match L.entOf e.handle with
  | some k => (L.ent k).st == 1
  | none => false

/-- RETIME and SET_LEAD in ticks.
(Log: DEDUCED, entry 48.) -/
def Lane.retime (L : Lane) : Nat := L.fld 0x40070130 16 8 * 10000
def Lane.setLead (L : Lane) : Nat := L.fld 0x40070130 8 8 * 100000

/-- Seconds from the cycle's start to an instant. -/
def secs (t0 t : Nat) : Rat := (((t : Int) - (t0 : Int) : Int) : Rat) / 100000000

/-- A crossing that differs from `tc` by at most RETIME.
(Log: DEDUCED, entry 48.) -/
def Lane.nearTc (L : Lane) (a b : Nat) : Bool := decide (a ≤ b + L.retime ∧ b ≤ a + L.retime)

/-- The edge leaves the list; its level becomes the base level if it is set.
(Log: DEDUCED, entry 48.) -/
def Lane.dropEdge (L : Lane) (e : SecEdge) (base : Bool) : Lane :=
  let L := { L with sec := { L.sec with edges := L.sec.edges.filter (fun k => k != e) } }
  if base then L.setNz e.noz { L.nz e.noz with level := e.level } else L

/-- The policy of R246 on one edge of a nozzle whose crossings are `cs` (ticks and level).  In a debug halt the curd
queue accepts no command (R175), so the edge waits for its deadline.
(Log: DEDUCED, entries 41, 48.) -/
def State.policy (s : State) (l : LaneId) (polys : List (Bool × Poly)) (t0 : Nat) (cs : List (Nat × Bool))
    (e : SecEdge) : State :=
  let L := s.lane l
  if e.done then
    (if e.tc + L.retime < t0 then s.modLane l (fun L => L.dropEdge e true) else s)
  else if !L.edgeLive e then
    let setNow := match L.entOf e.handle with
      | some k => (L.ent k).res == 2
      | none => false
    s.modLane l (fun L =>
      if setNow then
        { L with sec := { L.sec with edges := L.sec.edges.map (fun k => if k == e then { k with done := true } else k) } }
      else L.dropEdge e false)
  else if L.halted then s
  else if L.wanted polys e.noz (secs t0 (e.tc + L.retime)) (L.issuedLevel e.noz) ≠ e.level then
    (s.spxDrain l e.handle).2.modLane l (fun L => L.dropEdge e false)
  else if L.edgePending e && !cs.any (fun c => c.2 == e.level && L.nearTc c.1 e.tc) then
    (s.spxDrain l e.handle).2.modLane l (fun L => L.dropEdge e false)
  else if e.tc ≤ t0 + L.setLead then
    (s.spxSet l e.handle).2.modLane l (fun L =>
      { L with sec := { L.sec with edges := L.sec.edges.map (fun k => if k == e then { k with done := true } else k) } })
  else s

/-- The crossings that no remembered edge of the nozzle serves: none near it, and none to that level that is the
nozzle's latest (R246: a fired edge is never retimed).
(Log: DEDUCED, entry 48.) -/
def Lane.unserved (L : Lane) (n : Nat) (cs : List (Nat × Bool)) : List (Nat × Bool) :=
  let mine := L.sec.edges.filter (fun e => e.noz == n)
  cs.filter (fun c => !mine.any (fun e => e.level == c.2 && L.nearTc c.1 e.tc) &&
    !(mine.getLast?.map SecEdge.level == some c.2))

/-- Issue one edge (R34, R246 to R249): what has been raised this cycle comes back.  In a debug halt the curd queue
accepts nothing new (R175), and the crossing stays unserved.
(Log: DEDUCED, entries 41, 48.) -/
def Lane.issueEdge (L : Lane) (acc : Said) (n tc te : Nat) (level late : Bool) : Lane × Said :=
  let w := L.nozD n
  let z := L.nz n
  let d := if level then z.dOn else z.dOff
  let dl := min 500000 ((d + L.fld 0x40070130 0 8 * 1000 + 9999) / 10000 * 10000)
  if L.halted then (L, acc) else
  let hz := L.fld 0x40070134 0 7
  let per := pwmPeriod hz
  let L := if level && nozPwm w then
      (if df w 7 0 16 = 0 then
        (L.sendCmd (nozCh w) 0 (.reg (perAddr (nozCh w)) (BitVec.ofNat 32 per)) none).setNz n { z with hz := hz }
      else
        let o := L.onTime n per
        (L.sendCmd (nozCh w) 0 (.pair per o.1) none).setNz n { z with hz := hz, onSent := o.1, sentAt := L.lt })
    else L
  let r := L.curd (nozCh w) level (nozPwm w) te dl 0 d
  let L := r.2
  if bitOf r.1 31 then
    let L := L.bump 0x40070154
    if acc.contains 3 then (L, acc) else (L.raise 66 3 n 0, 3 :: acc)
  else
    let L := { L with sec := { L.sec with edges := L.sec.edges ++ [SecEdge.mk n r.1.toNat tc level d false] } }
    let z := L.nz n
    let L := L.setNz n { z with
      mine := z.mine.filter (fun e => decide (L.lt ≤ e.1 + 51200000)) ++ [(te, level)] }
    if late then
      let L := L.bump 0x40070150
      if acc.contains 4 then (L, acc) else (L.raise 66 4 n 0, 4 :: acc)
    else (L, acc)

/-- Issue what a nozzle's unserved crossings ask for in this cycle. -/
def Lane.issueAll (L : Lane) (acc : Said) (n t0 : Nat) (cs : List (Nat × Bool)) : Lane × Said :=
  cs.foldl (fun a c =>
    let L := a.1
    let z := L.nz n
    let d := 100 * (if c.2 then z.dOn else z.dOff)
    let te := roundUs (c.1 - d)
    if c.1 < d + t0 + 90000 then
      L.issueEdge a.2 n c.1 (max (t0 + 90000) (roundUs (L.lt + 20000))) c.2 true
    else if te < t0 + 190000 then L.issueEdge a.2 n c.1 te c.2 false
    else a) (L, acc)

/-- A change of the decision that is already there at the cycle's start (R229, R248): where no remembered
edge stands near it.
(Log: DEDUCED, entry 48.) -/
def Lane.baseCrossing (L : Lane) (polys : List (Bool × Poly)) (n t0 : Nat) : List (Nat × Bool) :=
  let mine := L.sec.edges.filter (fun e => e.noz == n)
  if mine.any (fun e => L.nearTc e.tc t0) then []
  else
    let expected := match (mine.filter (fun e => decide (e.tc ≤ t0))).getLast? with
      | some e => e.level
      | none => (L.nz n).level
    let now := L.wanted polys n 0 (L.issuedLevel n)
    if now ≠ expected then [(t0, now)] else []

/-- The engine's edges of one nozzle in a cycle. -/
def State.nozzleCycle (s : State) (l : LaneId) (polys : List (Bool × Poly)) (t0 : Nat) (acc : Said) (n : Nat) :
    State × Said :=
  let L := s.lane l
  let z := L.nz n
  let horizon := max z.dOn z.dOff + 1900
  let base := L.baseCrossing polys n t0
  let cs := if base.isEmpty then
      ((L.crossing polys n horizon (L.issuedLevel n)).map (fun c => (t0 + 100 * c.1, c.2))).toList
    else base
  let mine := L.sec.edges.filter (fun e => e.noz == n)
  let at_ := fun (e : SecEdge) => (L.ent (e.handle % 1024)).at_
  let mine := mine.foldl (fun acc e => insertBy at_ e acc) []
  let s := mine.foldl (fun s e => s.policy l polys t0 cs e) s
  let r := (s.lane l).issueAll acc n t0 ((s.lane l).unserved n cs)
  (s.setLane l r.1, r.2)

/-! ### Painting (R179, R210, R219, R251) -/

/-- Set edges of a channel as spray on the ground: instants in ticks with the level from then on. -/
def landings (hs : List EdgeH) (ch : Nat) : List EdgeH :=
  (hs.filter (fun h => h.ch == ch && h.st == 2)).map (fun h => { h with at_ := h.at_ + 100 * h.dly })

/-- Does spray of a set edge reach the ground at an instant, the intervals of R251 left out? -/
def sprays (ls : List EdgeH) (held : List (Nat × Nat)) (t : Nat) : Bool :=
  (match latestEdge (ls.filter (fun h => decide (h.at_ ≤ t))) with
   | some h => h.level
   | none => false) && !held.any (fun i => decide (i.1 ≤ t ∧ t < i.2))

/-- The cells that the footprint line sweeps from fraction `a` (within) to `b` (outside) of the way between
two ground points (R210), the line lying across the velocity at the first. -/
def sweptCells (w : Rat) (p q : Rat × Rat) (v : Rat × Rat) (a b : Rat) : List (Int × Int) :=
  let sp := Config.sqrt (v.1 * v.1 + v.2 * v.2)
  let de := if sp = 0 then 0 else -(v.2 / sp)
  let dn := if sp = 0 then 0 else v.1 / sp
  let se := q.1 - p.1
  let sn := q.2 - p.2
  let det := se * dn - sn * de
  let ends := fun (t : Rat) (k : Rat) => (p.1 + t * se + k * de, p.2 + t * sn + k * dn)
  let cs := [ends a (w / 2), ends a (-(w / 2)), ends b (w / 2), ends b (-(w / 2))]
  let lo := fun (f : Rat × Rat → Rat) => cs.foldl (fun m c => min m (cellOf (f c))) (cellOf (f (ends a 0)))
  let hi := fun (f : Rat × Rat → Rat) => cs.foldl (fun m c => max m (cellOf (f c))) (cellOf (f (ends a 0)))
  let e0 := lo Prod.fst
  let n0 := lo Prod.snd
  let ne := (hi Prod.fst - e0 + 1).toNat
  let nn := (hi Prod.snd - n0 + 1).toNat
  (List.range (ne * nn)).filterMap (fun (k : Nat) =>
    let i := e0 + ((k % ne : Nat) : Int)
    let j := n0 + ((k / ne : Nat) : Int)
    let x := ((i : Rat) + 1 / 2) / 20 - p.1
    let y := ((j : Rat) + 1 / 2) / 20 - p.2
    let t := if det = 0 then 0 else (x * dn - y * de) / det
    let r := if det = 0 then 0 else (se * y - sn * x) / det
    if det ≠ 0 ∧ a ≤ t ∧ t < b ∧ -(w / 2) ≤ r ∧ r ≤ w / 2 then some (i, j) else none)

/-- Paint one interval between two ground points.
(Log: DEDUCED, entry 46.) -/
def Lane.paintPart (L : Lane) (n a b : Nat) (p q : Nat × Rat × Rat × Rat × Rat) : Lane × Nat :=
  let frac := fun (t : Nat) => (((t - p.1 : Nat) : Rat)) / ((q.1 - p.1 : Nat) : Rat)
  let cells := sweptCells (L.nz n).w (p.2.1, p.2.2.1) (q.2.1, q.2.2.1) (p.2.2.2.1, p.2.2.2.2) (frac a) (frac b)
  cells.foldl (fun acc c =>
    let r := acc.1.paintCell c.1 c.2
    (r.1, acc.2 + r.2)) (L, 0)

/-- Paint what of the latest 512 ms of a nozzle's track is governed by set edges and not yet painted; the
cells outside the window are counted.
(Log: DEDUCED, entry 46.) -/
def Lane.paintNozzle (L : Lane) (n t0 : Nat) (hs : List EdgeH) : Lane × Nat :=
  let z := L.nz n
  let ls := landings hs (nozCh (L.nozD n))
  let held := z.held ++ (match z.heldAt with
    | some h => [(h + 100 * z.dOff, t0 + 100000000)]
    | none => [])
  let cuts := ls.map EdgeH.at_ ++ held.flatMap (fun i => [i.1, i.2]) ++ z.painted.flatMap (fun i => [i.1, i.2])
  let pairs := List.zip z.pts (z.pts.drop 1)
  let r := pairs.foldl (fun acc pq =>
    let p := pq.1
    let q := pq.2
    let inner := cuts.filter (fun c => decide (p.1 < c ∧ c < q.1))
    let stops := (inner.foldl (fun xs c => if xs.contains c then xs else insertBy id c xs) []) ++ [q.1]
    (stops.foldl (fun st b =>
      let a := st.2
      let done := (acc.1.nz n).painted.any (fun i => decide (i.1 ≤ a ∧ b ≤ i.2))
      if sprays ls held a && !done then
        let r := st.1.1.paintPart n a b p q
        let y := r.1.nz n
        ((r.1.setNz n { y with painted := y.painted ++ [(a, b)] }, st.1.2 + r.2), b)
      else (st.1, b)) (acc, p.1)).1) (L, 0)
  let y := r.1.nz n
  (r.1.setNz n { y with painted := y.painted.filter (fun i => decide (t0 ≤ i.2 + 51200000)) }, r.2)

/-- The ground point of the cycle joins the latest 512 ms. -/
def Lane.notePoint (L : Lane) (n t0 : Nat) : Lane :=
  let z := L.nz n
  let g := L.ground n 0
  L.setNz n { z with
    pts := z.pts.filter (fun p => decide (t0 ≤ p.1 + 51200000)) ++ [(t0, g.e, g.n, g.ve, g.vn)]
    held := z.held.filter (fun i => decide (t0 ≤ i.2 + 51200000)) }

/-- Painting in a cycle: the active lane from its own set edges, the standby lane from its mirror (R219). -/
def State.paint (s : State) (l : LaneId) (t0 : Nat) : State :=
  s.modLane l (fun L =>
    let hs := if s.isActive l then L.spx.hist else L.spx.mirror
    let L := L.nozzles.foldl (fun L n => L.notePoint n t0) L
    let r := L.nozzles.foldl (fun acc n =>
      let r := acc.1.paintNozzle n t0 hs
      (r.1, acc.2 + r.2)) (L, 0)
    r.1.paintedOutside r.2)

/-! ### The cycle -/

/-- The start of the current millisecond. -/
def Lane.ms (L : Lane) : Nat := L.lt / 100000 * 100000

/-- The nominal value of a calibration parameter (R319). -/
def calNominal (i : Nat) : Rat := if 12 ≤ i ∧ i < 44 then 1 else 0
/-- The applied value of a calibration parameter as every user takes it (R311): a binary32 value (R310).
(Log: DESIGN CHOICE, entry 54.) -/
def Lane.calA (L : Lane) (i : Nat) : Rat := f32 (toF32 (calNominal i + (Tab.get L.cal CalPar.reset i).a))

/-- The duty and meter part of a cycle. -/
def Lane.metering (L : Lane) (t0 : Nat) : Lane :=
  let r := L.nozzles.foldl (fun a n => a.1.duty a.2 n) (L, [])
  let r := (List.range 24).foldl (fun a i => a.1.meter a.2 i) r
  r.1.checkFlows t0

/-- The executed edges of a channel that the SPX remembers (R177, R178): neither drained in time nor reverted. -/
def Lane.edgesOn (L : Lane) (ch : Nat) : List EdgeH :=
  L.spx.hist.filter (fun h => h.ch == ch && !([5, 7, 8].contains h.st))

/-- The window that a metered row's latest edge at or before `t` leaves open there (R240, R259): instant and level of an
edge that the engine's own or a compensation, the row not held off and not measured since.
(Log: DEDUCED, entry 49.) -/
def Lane.rowWindow (L : Lane) (row t : Nat) : Option (Nat × Bool) :=
  let z := L.nz row
  match latestEdge ((L.edgesOn (nozCh (L.nozD row))).filter (fun h => decide (h.at_ ≤ t))) with
  | some h =>
    let win := L.fld 0x40070110 (if h.level then 0 else 8) 8 * 100000
    if L.ownEdge row h.at_ h.level && z.heldAt.isNone && decide (z.measAt < h.at_ ∧ t < h.at_ + win) then
      some (h.at_, h.level)
    else none
  | none => none

/-- A measurement of a metered row, or the end of a full window without one. -/
def Lane.rowResult (L : Lane) (row te : Nat) (on : Bool) (res : Nat) (m : Int) : Lane :=
  (L.setNz row { L.nz row with measAt := te }).learn row on res m

/-- The duration of a meter's cell in ticks at the row's last setpoint (R259). -/
def Lane.cellTicks (L : Lane) (m : List Word) : Rat :=
  let sp := (L.nz (df m 0 0 8)).sp
  if sp = 0 then 0 else ((df m 1 0 16 : Nat) : Rat) / (sp * ((df m 1 16 8 : Nat) : Rat)) * 100000000

/-- The measurements of metered rows that a cycle finds (R259): the last seed pulse before a gap of two cell
periods, and the end of a full window without a measurement.
(Log: DEDUCED, entry 49.) -/
def Lane.rowWindows (L : Lane) : Lane :=
  (List.range 24).foldl (fun L i =>
    let m := L.mtrD i
    let row := df m 0 0 8
    let last := L.rd64 (0x40100124 + 64 * df m 0 18 5)
    let gap := db m 0 23 && decide ((last : Rat) + 2 * L.cellTicks m ≤ (L.lt : Rat))
    if !mtrEn m || L.sec.mtrOff.contains i then L
    else
      let L := match L.rowWindow row last with
        | some (te, false) =>
          if gap then L.rowResult row te false 0 (((last / 100 : Nat) : Int) - ((te / 100 : Nat) : Int)) else L
        | _ => L
      (L.edgesOn (nozCh (L.nozD row))).foldl (fun L h =>
        let fin := h.at_ + L.fld 0x40070110 (if h.level then 0 else 8) 8 * 100000
        let cut := (L.edgesOn h.ch).any (fun k => decide (h.at_ < k.at_ ∧ k.at_ < fin))
        let seen := db m 0 23 && !h.level && decide (h.at_ ≤ last ∧ last < fin)
        if decide (fin ≤ L.lt) && !cut && !seen && L.rowWindow row (fin - 1) == some (h.at_, h.level) then
          L.rowResult row h.at_ h.level 2 0
        else L) L) L

/-- The cycle of `t0` may begin: fusion has released the nozzle-class state of `t0`, or releases none (its engine off), and
the bound on the issue of the cycle's edges has not passed (R33).
(Log: DEDUCED, entry 48.) -/
def Lane.cycleOpen (L : Lane) (t0 : Nat) : Bool :=
  decide (L.sec.t0 < t0) && (L.fus.t0 == t0 || !L.flag 0x40080000 0) && decide (L.lt < t0 + 72000)

/-- SECTION_ENGINE_CYCLE: the cycle of t0 = the current millisecond (R33, R34), at most once for each.
(Log: DESIGN CHOICE, entry 10.) -/
def execSectionEngineCycle (l : LaneId) (s : State) : Host.Outcome State Fault Refusal :=
  let L := s.lane l
  let t0 := L.ms
  .next (if L.running && s.power == 0 && L.flag 0x40070000 0 && L.cycleOpen t0 then
    let s := s.checkModel l
    let s := s.modLane l (fun L =>
      let L := { L with sec := { L.sec with t0 := t0, rejSaid := false } }
      let L := (((L.checkExclusion).takeLayers).checkMeters).mergeTiles 31
      let L := (L.page l).askTiles 256
      let L := (L.blend t0 L.calA).takePressure t0
      L.nozzles.foldl (fun L n => L.nozzleDelays n) L.rowWindows)
    let s := (s.takeHeld l).modLane l Lane.takeConditions
    let polys := (s.lane l).polys
    let r := (s.lane l).nozzles.foldl (fun a n => a.1.nozzleCycle l polys t0 a.2 n) (s, [])
    let s := r.1.modLane l (fun L => L.metering t0)
    let s := s.paint l t0
    s.modLane l (fun L => L.wr64 0x40070140 t0)
  else s)

end Sys2Proof.Machine
end

