-- ==== Sys2Proof/Machine/Enc.lean ====
section
/-!
DEFINITION. Feedback inputs: counting, rates, indexes and absolute ports (R457 to R474), and the learner's
measurements of metered rows (R259).
-/

namespace Sys2Proof.Machine

def Lane.encSt (L : Lane) (n : Nat) : EncSt := Tab.get L.enc EncSt.reset n
def Lane.setEnc (L : Lane) (n : Nat) (e : EncSt) : Lane := { L with enc := Tab.set L.enc EncSt.reset n e }

/-- Register of channel `n` at offset `o` from its CFG. -/
def encReg (n o : Nat) : Nat := 0x40100100 + 64 * n + o

/-- MODE with 7 as 0 (R459). -/
def Lane.encMode (L : Lane) (n : Nat) : Nat := L.fld (encReg n 0) 0 3 % 7

/-- K of R462; none where the mode has no rate. -/
def Lane.encK (L : Lane) (n : Nat) : Option Nat :=
  let avg := max 1 (L.fld (encReg n 0) 16 4)
  match L.encMode n with
  | 1 | 4 | 6 => some avg
  | 2 => some (2 * avg)
  | 3 => some (4 * avg)
  | _ => none

/-- The counted event of a change of the filtered levels from (a0, b0) to (a, b): its sign before DIR
(true for +1), if there is one (R459). -/
def countedEvent (mode edge : Nat) (a0 b0 a b : Bool) : Option Bool :=
  let rise := !a0 && a
  let fall := a0 && !a
  match mode with
  | 1 => if rise && !b then some true else if fall && !b then some false else none
  | 2 => if rise then some (!b) else if fall then some b else none
  | 3 =>
    if rise then some (!b) else if fall then some b
    else if !b0 && b then some a else if b0 && !b then some (!a) else none
  | 4 => if rise then some b else none
  | 5 =>
    let hit := match edge with
      | 1 => fall
      | 2 => rise || fall
      | _ => rise
    if hit then some true else none
  | 6 => if rise then some true else none
  | _ => none

/-- The rate of R462 after a valid interval; while OVR is set it is not guaranteed (R458), and any value comes.
(Log: DESIGN CHOICE, entry 136.) -/
def Lane.encRate (L : Lane) (n : Nat) (neg : Bool) (win : List Nat) (stamp : Nat) : Lane :=
  let span : Nat := win.foldl (fun a d => a + d) 0
  let rate : Rat := ((win.length * 100000000 : Nat) : Rat) / (span : Rat)
  let ovr := L.flag (encReg n 0x10) 10
  let w := if ovr then L.freeWord else toF32 (if neg then -rate else rate)
  let L := if ovr then L.useFree else L
  ((L.wr (encReg n 0x18) w).wr64 (encReg n 0x1C) stamp).setFlag (encReg n 0x10) 9 false

/-- Rate of a single interval in counts per second. -/
def intervalRate (d : Nat) : Rat := if d = 0 then 0 else 100000000 / (d : Rat)

/-- The measurement of a metered row that feedback input `n` completes at an event (R259): a seed pulse, or a
valid interval of `d` ticks.
(Log: DEDUCED, entries 49, 85.) -/
def Lane.rowMeasure (L : Lane) (n stamp : Nat) (d : Option Nat) : Lane :=
  (List.range 24).foldl (fun L i =>
    let m := L.mtrD i
    let row := df m 0 0 8
    let z := L.nz row
    match L.rowWindow row stamp with
    | none => L
    | some (te, on) =>
      let seed := db m 0 23
      let hit :=
        if !mtrEn m || L.sec.mtrOff.contains i then false
        else if seed then df m 0 18 5 == n && on
        else df m 0 13 5 == n && (match d with
          | some d => if on then decide (z.sp / 2 ≤ intervalRate d) else decide (intervalRate d < z.sp / 20)
          | none => false)
      if hit then
        L.rowResult row te on 0 (((stamp / 100 : Nat) : Int) - ((te / 100 : Nat) : Int))
      else L) L

/-- COUNT, RATE and RATE_T of a channel as an event that is stamped with the present tick finds them, for the loops whose
boundary stands at this tick (R387).
(Log: DEDUCED, entry 85.) -/
def Lane.encMark (L : Lane) (n stamp : Nat) : Lane :=
  let e := L.encSt n
  if stamp = L.lt ∧ e.mark ≠ some stamp then
    L.setEnc n { e with
      mark := some stamp
      old := (L.rd (encReg n 0x14), L.rd (encReg n 0x18), L.rd64 (encReg n 0x1C)) }
  else L

/-- COUNT, RATE and RATE_T of a channel from the events stamped before the present tick (R387). -/
def Lane.encBefore (L : Lane) (n : Nat) : Word × Word × Nat :=
  let e := L.encSt n
  if e.mark = some L.lt then e.old else (L.rd (encReg n 0x14), L.rd (encReg n 0x18), L.rd64 (encReg n 0x1C))

/-- A counted event (R459, R461, R462): the count, the reversal, the window and the rate. -/
def Lane.countEvent (L : Lane) (n : Nat) (up : Bool) (stamp : Nat) : Lane :=
  let L := L.encMark n stamp
  let e := { L.encSt n with since := stamp }
  let st := encReg n 0x10
  let c := L.rd (encReg n 0x14)
  let L := L.wr (encReg n 0x14) (if up then c + 1 else c - 1)
  let L := if e.sign.isSome && decide (stamp < L.rd64 (encReg n 0x24) + 50) then L.setFlag st 10 true else L
  let L := (L.wr64 (encReg n 0x24) stamp).setFlag st 3 (!up)
  let rev := e.sign == some (!up)
  let L := if rev then L.setFlag st 5 true else L
  match L.encK n, e.last with
  | some k, some t =>
    if rev then (L.setEnc n { e with win := [], last := some stamp, sign := some up }).rowMeasure n stamp none
    else
      let win := e.win ++ [stamp - t]
      let win := win.drop (win.length - k)
      let L := L.setEnc n { e with win := win, last := some stamp, sign := some up }
      (L.encRate n (!up) win stamp).rowMeasure n stamp (some (stamp - t))
  | _, _ => (L.setEnc n { e with win := [], last := some stamp, sign := some up }).rowMeasure n stamp none

/-- E24 has been raised for the channel less than a millisecond ago (R460). -/
def EncSt.illRecent (e : EncSt) (now : Nat) : Bool :=
  match e.illAt with
  | some t => decide (now < t + 100000)
  | none => false

/-- An illegal transition (R460). -/
def Lane.illegalEdge (L : Lane) (n : Nat) : Lane :=
  let e := L.encSt n
  let recent := e.illRecent L.lt
  let L := (L.setFlag (encReg n 0x10) 4 true).bumpFld (encReg n 0x3C) 0 16
  let L := L.setEnc n { e with win := [], last := none, illAt := if recent then e.illAt else some L.lt }
  if recent then L else L.raise 24 n 0 0

/-- The stamp of a change of a filtered level (R83, R457): the first sample of a run of FILT + 1 at the new level.
(Log: DEDUCED, entry 85.) -/
def State.filterStamp (s : State) (l : LaneId) (n stamp : Nat) : Nat :=
  s.stampOf l (min stamp ((s.lane l).lt - (s.lane l).fld (encReg n 0) 8 8))

/-- ENCODER_EVENT: the filtered levels of A and B change to `a` and `b`, with the stamp of R83.
(Log: DEDUCED, entry 85.) -/
def execEncoderEvent (l : LaneId) (n : FbNo) (a b : Bool) (stamp : Nat) (s : State) :
    Host.Outcome State Fault Refusal :=
  let stamp := s.filterStamp l n stamp
  .next (if s.counts l then
    s.modLane l (fun L =>
      let st := encReg n 0x10
      let a0 := L.flag st 0
      let b0 := L.flag st 1
      let mode := L.encMode n
      let L := (L.setFlag st 0 a).setFlag st 1 b
      if (mode == 1 || mode == 2 || mode == 3) && a0 != a && b0 != b then L.illegalEdge n
      else
        match countedEvent mode (L.fld (encReg n 0) 4 2) a0 b0 a b with
        | some up => L.countEvent n (up != L.flag (encReg n 0) 3) stamp
        | none => L)
  else s)

/-- RATE_TIMEOUT (R463): no counted event for PTMO, from the last one or from the enable.
(Log: DEDUCED, entry 85.) -/
def execRateTimeout (l : LaneId) (n : FbNo) (s : State) : Host.Outcome State Fault Refusal :=
  .next (s.modLane l (fun L =>
    if (L.encK n).isSome && !L.flag (encReg n 0x10) 9 &&
        decide ((L.encSt n).since + max 1 (L.fld (encReg n 0) 20 8) * 1000000 ≤ L.lt) then
      ((((L.wr (encReg n 0x18) 0).wr64 (encReg n 0x1C) L.lt).setFlag (encReg n 0x10) 9 true).setEnc n
        { L.encSt n with win := [] })
    else L))

/-- The mismatch of R465. -/
def mismatch (zcap zpos : Word) (per : Nat) : Int :=
  let r := (zcap.toInt - (zpos.toNat : Int)) % (per : Int)
  if r < (per : Int) - ((per / 2 : Nat) : Int) then r else r - (per : Int)

/-- An index (R464, R465). -/
def Lane.index (L : Lane) (n stamp : Nat) : Lane :=
  let z := encReg n 4
  let st := encReg n 0x10
  let c := L.rd (encReg n 0x14)
  let L := ((L.wr (encReg n 0x2C) c).wr64 (encReg n 0x34) stamp).setFlag st 6 true
  let per := L.fld (encReg n 8) 0 24
  let e := L.encSt n
  if per = 0 then L
  else
    let m := mismatch c (L.rd (encReg n 0xC)) per
    let L := L.wr (encReg n 0x30) (BitVec.ofInt 32 m)
    if m.natAbs ≤ L.fld z 8 8 then L.setEnc n { e with zPrev := none }
    else
      let L := ((L.setFlag st 7 true).bumpFld (encReg n 0x3C) 16 16).raise 25 n 0 (BitVec.ofInt 32 m)
      let L := L.setEnc n { e with zPrev := some m }
      if L.flag z 5 && e.zPrev == some m then
        ((L.wr (encReg n 0x14) (c - BitVec.ofInt 32 m)).setFlag st 8 true).raise 26 n 0 (BitVec.ofInt 32 m)
      else L

/-- ENCODER_INDEX: the filtered level of Z changes to `z`.
(Log: DEDUCED, entry 85.) -/
def execEncoderIndex (l : LaneId) (n : FbNo) (z : Bool) (stamp : Nat) (s : State) :
    Host.Outcome State Fault Refusal :=
  let stamp := s.filterStamp l n stamp
  .next (if s.counts l then
    s.modLane l (fun L =>
      let st := encReg n 0x10
      let cfg := encReg n 4
      let z0 := L.flag st 2
      let L := L.setFlag st 2 z
      let edge := if L.flag cfg 1 then z0 && !z else !z0 && z
      let gate := !L.flag cfg 2 || (L.flag st 0 == L.flag cfg 4 && L.flag st 1 == L.flag cfg 3)
      if L.flag cfg 0 && edge && gate then L.index n stamp else L)
  else s)

/-- A write of COUNT (R466). -/
def Lane.countWrite (L : Lane) (n : Nat) (v : Word) : Lane :=
  (L.wr (encReg n 0x14) v).setEnc n { L.encSt n with zPrev := none }
/-- COUNT_WRITE. -/
def execCountWrite (l : LaneId) (n : FbNo) (v : Word) (s : State) : Host.Outcome State Fault Refusal :=
  .next (s.modLane l (fun L => L.countWrite n v))

/-- A write of CH[n].CFG (R459, R462, R465): a change of MODE starts the channel anew, one of AVG empties the
window; in mode 5 RATE reads 0.
(Log: DEDUCED, entry 85.) -/
def Lane.encCfg (L : Lane) (n : Nat) (v : Word) : Lane :=
  let was := L.rd (encReg n 0)
  let L := L.plainWrite (encReg n 0) v
  let now := L.rd (encReg n 0)
  let L := if fieldNat now 0 3 = 5 then L.wr (encReg n 0x18) 0 else L
  if fieldNat was 0 3 ≠ fieldNat now 0 3 then
    L.setEnc n { EncSt.reset with
      illAt := (L.encSt n).illAt
      since := L.lt }
  else if fieldNat was 16 4 ≠ fieldNat now 16 4 then L.setEnc n { L.encSt n with win := [] }
  else L
/-- A write of CH[n].ZCFG (R465). -/
def Lane.encZcfg (L : Lane) (n : Nat) (v : Word) : Lane :=
  (L.plainWrite (encReg n 4) v).setEnc n { L.encSt n with zPrev := none }

/-- A context captures registers in its latch set (R101). -/
def Lane.capture (L : Lane) (c : Nat) (addrs : List Nat) : Lane :=
  L.modCtx c (fun x => { x with
    outLatch := addrs.foldl (fun t a => Tab.set t 0 a (L.rd a)) x.outLatch })

/-- The registers a read of RATE or of ZCAP latches (R471). -/
def Lane.rateRead (L : Lane) (c n : Nat) : Lane := L.capture c [encReg n 0x1C, encReg n 0x20]
def Lane.zcapRead (L : Lane) (c n : Nat) : Lane :=
  L.capture c [encReg n 0x30, encReg n 0x34, encReg n 0x38]
/-- RATE_READ. -/
def execRateRead (l : LaneId) (c : CtxNo) (n : FbNo) (s : State) : Host.Outcome State Fault Refusal :=
  .next (s.modLane l (fun L => L.rateRead c n))
/-- ZCAP_READ. -/
def execZcapRead (l : LaneId) (c : CtxNo) (n : FbNo) (s : State) : Host.Outcome State Fault Refusal :=
  .next (s.modLane l (fun L => L.zcapRead c n))

/-! ### Absolute ports (R468, R469) -/

/-- Register of port `p` at offset `o`. -/
def absReg (p o : Nat) : Nat := 0x40100800 + 32 * p + o
def Lane.absSt (L : Lane) (p : Nat) : AbsSt := Tab.get L.abs_ AbsSt.reset p
def Lane.setAbs (L : Lane) (p : Nat) (a : AbsSt) : Lane := { L with abs_ := Tab.set L.abs_ AbsSt.reset p a }

/-- A write of ABS[p].CFG (R474): BITS 1 to 7 are clamped to 8, and 0 acts as 32. -/
def Lane.absCfg (L : Lane) (p : Nat) (v : Word) : Lane :=
  let L := L.plainWrite (absReg p 0) v
  if 0 < fieldNat v 8 5 ∧ fieldNat v 8 5 < 8 then L.setFld (absReg p 0) 8 5 8 else L

/-- ABS_FRAME_START: at a whole multiple of FPER the active lane clocks a frame, which both lanes with the
port enabled decode.
(Log: DESIGN CHOICE, entry 137.) -/
def execAbsFrameStart (p : Fin 4) (s : State) : Host.Outcome State Fault Refusal :=
  .next (match s.control with
    | none => s
    | some d =>
      let D := s.lane d
      let per := D.fld (absReg p 0) 16 16 * 1000
      if s.counts d && D.flag (absReg p 0) 0 && D.lt / per * per == D.lt then
        { s with absClk := Tab.set s.absClk true p false }.bothLanes (fun L =>
          if L.alive && L.flag (absReg p 0) 0 then L.setAbs p { L.absSt p with frame := some d } else L)
      else s)

/-- The 6-bit CRC of BiSS-C over bits most significant first: x^6 + x + 1 (R468). -/
def crc6 (bits : List Bool) : Nat :=
  bits.foldl (fun r b =>
    let top := (decide (32 ≤ r)) != b
    (2 * r) % 64 ^^^ (if top then 3 else 0)) 0

/-- The low `n` bits of a word, most significant first. -/
def bitsMsb (x : Word) (n : Nat) : List Bool := (List.range n).map (fun i => bitOf x (n - 1 - i))

/-- Gray code to binary, over `n` bits. -/
def fromGray (x : Word) (n : Nat) : Word :=
  ((List.range n).foldl (fun (acc : Word × Bool) i =>
    let b := acc.2 != bitOf x (n - 1 - i)
    (setBit acc.1 (n - 1 - i) b, b)) (0, false)).1

/-- One lane's decoding of the frame that ends. -/
def Lane.absEnd (L : Lane) (p : Nat) (started low : Bool) (data : Word) (err warn : Bool) (crc : Nat)
    (stamp : Nat) : Lane :=
  let cfg := absReg p 0
  let st := absReg p 4
  let a := L.absSt p
  let L := L.setAbs p { a with frame := none }
  let n := if L.fld cfg 8 5 = 0 then 32 else L.fld cfg 8 5
  let biss := L.flag cfg 1
  let tmo := if biss then !started else low
  let good := crc6 (bitsMsb data n ++ [err, warn]) ^^^ 63 == crc
  let badCrc := biss && !tmo && !good
  if tmo || badCrc then
    let L := (if tmo then L.setFlag st 2 true else L.setFlag st 1 true).bump (absReg p 0x14)
    if L.flag st 0 then
      ((L.setFlag st 0 false).setAbs p { L.absSt p with down := true }).raise 28 p 0 0
    else L
  else
    let raw := BitVec.ofNat 32 (fieldNat data 0 n)
    let pos := if !biss && L.flag cfg 2 then fromGray raw n else raw
    let L := ((L.wr (absReg p 8) pos).wr64 (absReg p 0xC) stamp).setFlag st 0 true
    let L := if biss then (L.setFlag st 3 (!err)).setFlag st 4 (!warn) else L
    if a.down then (L.setAbs p { L.absSt p with down := false }).raise 29 p 0 0 else L

/-- ABS_FRAME_END: the frame's end as the pad gave it: whether a start bit came within 20 us, whether DAT was
low at the start, the position bits, the error and warning bits and the CRC as transmitted, and the stamp
of R469.  A frame of a lane that lost control is abandoned.
(Log: DEDUCED, entry 85.) -/
def execAbsFrameEnd (p : Fin 4) (started low : Bool) (data : Word) (err warn : Bool) (crc : BitVec 6)
    (stamp : Nat) (s : State) : Host.Outcome State Fault Refusal :=
  let take := fun (l : LaneId) (L : Lane) =>
    match (L.absSt p).frame with
    | none => L
    | some d =>
      if s.isActive d then L.absEnd p started low data err warn crc.toNat (s.stampOf l stamp)
      else L.setAbs p { L.absSt p with frame := none }
  .next ((({ s with absClk := Tab.set s.absClk true p true }).modLane .a (take .a)).modLane .b (take .b))

end Sys2Proof.Machine
end

