-- ==== Sys2Proof/Machine/Cal.lean ====
section
/-!
DEFINITION. On-line calibration: parameters, sets, refinement and their registers (R310 to R321).
-/

namespace Sys2Proof.Machine

def Lane.calPar (L : Lane) (i : Nat) : CalPar := Tab.get L.cal CalPar.reset i
def Lane.setCal (L : Lane) (i : Nat) (p : CalPar) : Lane := { L with cal := Tab.set L.cal CalPar.reset i p }

/-- KIND of boom input `j` in the model in force. -/
def Lane.binKind (L : Lane) (j : Nat) : Nat := df (L.binD j) 0 0 4

/-- The group of a parameter (R310).
(Log: DESIGN CHOICE, entry 54.) -/
def Lane.calGroup (L : Lane) (i : Nat) : Nat :=
  if i < 6 then 0
  else if i < 12 then 1
  else if i < 44 then 2
  else
    match L.binKind ((i - 44) / 3) with
    | 2 => 5
    | 3 | 4 => 4
    | _ => 3

/-- The fine unit of a group (R315). -/
def fineUnit (g : Nat) : Rat :=
  match g with
  | 0 | 3 => 1 / 10000
  | 5 => 1 / 100000000
  | _ => 1 / 1000000

/-- SLEW per second, DEV and CONV of a parameter. -/
def Lane.calSlew (L : Lane) (i : Nat) : Rat :=
  ((L.fld (0x40080440 + 8 * L.calGroup i) 0 16 : Nat) : Rat) * fineUnit (L.calGroup i)
def Lane.calDev (L : Lane) (i : Nat) : Rat :=
  ((L.fld (0x40080440 + 8 * L.calGroup i) 16 16 : Nat) : Rat) * fineUnit (L.calGroup i)
def Lane.calConv (L : Lane) (i : Nat) : Rat :=
  ((L.fld (0x40080444 + 8 * L.calGroup i) 0 16 : Nat) : Rat) * fineUnit (L.calGroup i)

/-- Sigma of a parameter: 1,000 CONV until a set is loaded (R319).
(Log: DESIGN CHOICE, entry 54.) -/
def Lane.calSigma (L : Lane) (i : Nat) : Rat := (L.calPar i).sig.getD (1000 * L.calConv i)

/-- Flag and converged state of a parameter. -/
def Lane.calFlag (L : Lane) (i : Nat) : Bool := L.flag (0x40080420 + 4 * (i / 32)) (i % 32)
def Lane.setCalFlag (L : Lane) (i : Nat) (b : Bool) : Lane := L.setFlag (0x40080420 + 4 * (i / 32)) (i % 32) b
def Lane.calConverged (L : Lane) (i : Nat) : Bool := L.flag (0x40080430 + 4 * (i / 32)) (i % 32)
def Lane.setConverged (L : Lane) (i : Nat) (b : Bool) : Lane :=
  L.setFlag (0x40080430 + 4 * (i / 32)) (i % 32) b

/-- Refined: EN and its permit bit (R312). -/
def Lane.calRefined (L : Lane) (i : Nat) : Bool :=
  L.flag 0x40080400 0 && L.flag (0x40080410 + 4 * (i / 32)) (i % 32)

/-- Lane A's stream is the own stream of lane A (R277, R310): is stream A (false) or B (true) in use? -/
def Lane.imuInUse (L : Lane) (l : LaneId) (b : Bool) : Bool :=
  if (laneNo l == 1) == b then L.flag 0x40080004 4 else L.flag 0x40080004 5

/-- A parameter that serves an input in use (R314).
(Log: DEDUCED, entry 52.) -/
def Lane.calUsed (L : Lane) (l : LaneId) (i : Nat) : Bool :=
  let ant := fun (a : Nat) => !L.flag 0x40080004 (9 + a) &&
    L.fus.run.gate.any (fun m => m.1 == a && decide (L.fus.t0 < m.2.1 + 100000000))
  if i < 3 then ant 0
  else if i < 6 then ant 1
  else if i < 9 then L.imuInUse l false
  else if i < 12 then L.imuInUse l true
  else if i < 44 then
    let c := 0x40080200 + 8 * (i - 12)
    L.fld c 0 4 == 1 && L.flag c 4 && (L.flag c 5 || L.flag c 6)
  else
    let j := (i - 44) / 3
    binEn (L.binD j) && (match L.binKind j with
      | 1 | 3 | 4 => (i - 44) % 3 == 0
      | 2 => true
      | _ => false)

/-- CAL_LOAD and CAL_SNAP: the requests of CAL_CTRL. -/
def Lane.calCtrl (L : Lane) (v : Word) : Lane :=
  let L := L.plainWrite 0x40080400 v
  let f := L.fus
  { L with fus := { f with calLoad := f.calLoad || bitOf v 1, calSnap := f.calSnap || bitOf v 2 } }
def execCalLoad (l : LaneId) (v : Word) (s : State) : Host.Outcome State Fault Refusal :=
  .next (if bitOf v 1 then s.modLane l (fun L => L.calCtrl v) else s)
def execCalSnap (l : LaneId) (v : Word) (s : State) : Host.Outcome State Fault Refusal :=
  .next (if bitOf v 2 then s.modLane l (fun L => L.calCtrl v) else s)

/-- Words of a calibration set. -/
def Lane.calSet (L : Lane) : List Word :=
  let bs := (L.engRead .fusion (L.rd 0x40080408).toNat 1136).1
  (List.range 284).map (fun i => bytesWord ((bs.drop (4 * i)).take 4))

/-- Reasons of R317 that hold.
(Log: DESIGN CHOICE, entry 44.) -/
def Lane.calRefusals (L : Lane) (ws : List Word) : List Nat :=
  let e := fun (i k : Nat) => wd ws (8 + 3 * i + k)
  let fmt := wd ws 0 != 1 || wd ws 1 != 92 || (List.range 5).any (fun k => wd ws (3 + k) != 0) ||
    (List.range 92).any (fun i => (e i 2).toNat / 4 != 0)
  let num := (List.range 92).any (fun i =>
    !f32Finite (e i 0) || !f32Finite (e i 1) || decide (f32 (e i 1) ≤ 0))
  (if L.flag 0x40070000 0 then [1] else []) ++
    (if L.ownedBy 2 (L.rd 0x40080408).toNat 1136 then (if fmt then [2] else []) ++ (if num then [3] else []) else [4])

/-- Set the converged state of a parameter; E59 with data 5 where a used one leaves it (R314). -/
def Lane.putConverged (L : Lane) (l : LaneId) (i : Nat) (ok : Bool) : Lane :=
  let was := L.calConverged i
  let L := L.setConverged i ok
  if was && !ok && L.calUsed l i then L.raise 59 5 0 (BitVec.ofNat 32 i) else L

/-- A load asked for, at the start of a cycle (R317), and whether a set was loaded.
(Log: DESIGN CHOICE, entry 44.) -/
def Lane.calLoadNow (L : Lane) (l : LaneId) : Lane × Bool :=
  if !L.fus.calLoad then (L, false)
  else
    let L := { L with fus := { L.fus with calLoad := false } }
    let ws := L.calSet
    match L.calRefusals ws with
    | r :: rs =>
      let reason := (r :: rs).getD (Config.freeNat L.free % (rs.length + 1)) r
      ((L.useFree.setFld 0x40080404 4 3 reason).raise 59 4 0 (BitVec.ofNat 32 reason), false)
    | [] =>
      let L := (List.range 92).foldl (fun L i =>
        let v := f32 (wd ws (8 + 3 * i)) - calNominal i
        let conv := bitOf (wd ws (10 + 3 * i)) 0
        ((L.setCal i ⟨v, v, v, some (f32 (wd ws (9 + 3 * i))), conv⟩).putConverged l i conv).setCalFlag i
          (bitOf (wd ws (10 + 3 * i)) 1)) L
      (L.setFlag 0x40080404 0 true, true)

/-- Refine one parameter at a cycle of 1 ms: the filter state `df` is e less a as the filter gives it, and
`sg` the sigma it gives (R311 to R313).
(Log: DESIGN CHOICE, entry 54; DEDUCED, entry 89.) -/
def Lane.calRefine (L : Lane) (i : Nat) (d sg : Rat) : Lane :=
  let p := L.calPar i
  if L.calRefined i then
    let want := p.a + d
    let dev := L.calDev i
    let lim := max (p.l - dev) (min (p.l + dev) want)
    let out := lim ≠ want
    let was := L.calFlag i
    let e := if was then p.e else lim
    let L := if out ∧ !was then (L.setCalFlag i true).raise 59 1 0 (BitVec.ofNat 32 i) else L
    let step := L.calSlew i / 1000
    let a := p.a + max (-step) (min step (e - p.a))
    L.setCal i { p with a := a, e := e, sig := some sg }
  else L.setCal i { p with e := p.a }

/-- The converged state of a parameter after a cycle (R314): a frozen one has that with which it was loaded.
(Log: DESIGN CHOICE, entry 54.) -/
def Lane.calConverge (L : Lane) (l : LaneId) (i : Nat) : Lane :=
  let p := L.calPar i
  let d := if p.e ≤ p.a then p.a - p.e else p.e - p.a
  L.putConverged l i (if L.calRefined i then decide (L.calSigma i ≤ L.calConv i ∧ d ≤ L.calConv i) else p.conv)

/-- COND of CAL_STAT, and E59 when it rises. -/
def Lane.calCond (L : Lane) (l : LaneId) : Lane :=
  let ok := L.flag 0x40080404 0 &&
    (List.range 92).all (fun i => !L.calUsed l i || (L.calConverged i && !L.calFlag i))
  let was := L.flag 0x40080404 1
  let L := L.setFlag 0x40080404 1 ok
  if ok && !was then L.raise 59 2 0 0 else L

/-- A snapshot asked for, at the end of a cycle (R318).
(Log: DESIGN CHOICE, entry 54.) -/
def Lane.calSnapNow (L : Lane) : Lane :=
  if !L.fus.calSnap then L
  else
    let L := { L with fus := { L.fus with calSnap := false } }
    let base := (L.rd 0x40080408).toNat
    let L := L.engWrite .fusion base (wordBytes 1 ++ wordBytes 92)
    let ents := (List.range 92).flatMap (fun i =>
      [toF32 (L.calA i), toF32 (L.calSigma i), BitVec.ofNat 32 (b2n (L.calConverged i) + 2 * b2n (L.calFlag i))])
    let L := L.engWrite .fusion (base + 32) (ents.flatMap wordBytes)
    (L.setFlag 0x40080404 2 true).raise 59 3 0 0

end Sys2Proof.Machine
end

