-- ==== Sys2Proof/Machine/NetBase.lean ====
section
/-!
DEFINITION. What a power state below RUN does to the networks (R482, R502).
-/

namespace Sys2Proof.Machine

/-- Register of controller `c` at offset `o` (R499). -/
def canReg (c o : Nat) : Nat := 0x40110000 + 0x4000 * c + o
def Lane.canSt (L : Lane) (c : Nat) : CanSt := Tab.get L.can CanSt.reset c
def Lane.setCan (L : Lane) (c : Nat) (x : CanSt) : Lane := { L with can := Tab.set L.can CanSt.reset c x }

/-- A ring position as a number below twice the ring's length (R488). -/
def canPos (n idx wrap : Nat) : Nat := idx + (if wrap = 0 then 0 else n)

/-- Entries of the transmit ring. -/
def Lane.txrN (L : Lane) (c : Nat) : Nat := L.fld (canReg c 0x44) 0 6
def Lane.txrWr (L : Lane) (c : Nat) : Nat := canPos (L.txrN c) (L.fld (canReg c 0x48) 0 6) (L.fld (canReg c 0x48) 6 1)
def Lane.txrRd (L : Lane) (c : Nat) : Nat := canPos (L.txrN c) (L.fld (canReg c 0x4C) 0 6) (L.fld (canReg c 0x4C) 6 1)
/-- Pending entries of the transmit ring. -/
def Lane.txrPending (L : Lane) (c : Nat) : Nat :=
  let n := 2 * L.txrN c
  if n = 0 then 0 else (L.txrWr c + n - L.txrRd c) % n

/-- Withdraw every pending request of a controller (R482, R490): a request that is not on the bus completes with
RES 4 at its CAN_TX_COMPLETE. -/
def Lane.canWithdraw (L : Lane) (c : Nat) : Lane :=
  let M := L.wr (canReg c 0x3C) (L.rd (canReg c 0x3C) ||| L.rd (canReg c 0x38))
  if M.txrPending c = 0 then M else M.setCan c { M.canSt c with flushTo := some (M.txrWr c) }

/-- Register of an Ethernet port at offset `o` (R508). -/
def ethReg (n o : Nat) : Nat := 0x40120000 + 0x100 * n + o
def Lane.ethSt (L : Lane) (n : Nat) : EthSt := Tab.get L.eth EthSt.reset n
def Lane.setEth (L : Lane) (n : Nat) (x : EthSt) : Lane := { L with eth := Tab.set L.eth EthSt.reset n x }

/-- The link of a port goes down (R502). -/
def Lane.ethDown (L : Lane) (n : Nat) : Lane :=
  if L.flag (ethReg n 4) 0 then ((L.setFlag (ethReg n 4) 0 false).setFld (ethReg n 4) 1 3 0).raise 40 2 n 0 else L

/-- A lane's networks as the module goes from state `p` to state `t`. -/
def Lane.netPower (L : Lane) (p t : Nat) : Lane :=
  let M := if p = 0 ∧ t ≠ 0 then (List.range 4).foldl (fun M c => M.canWithdraw c) L else L
  if 2 ≤ t then (List.range 2).foldl (fun M n => M.ethDown n) M else M

end Sys2Proof.Machine
end

