-- ==== Sys2Proof/Machine/Contexts.lean ====
section
/-!
DEFINITION. Context commands, the scheduler, waits, debug halts and the context file (R103 to R131).
-/

namespace Sys2Proof.Machine

/-- CTX.STAT.CMD_ERR (R130). -/
def Lane.cmdErr (L : Lane) : Lane := L.setFlag 0x40030004 0 true

/-- Clear a context's set of the latch store (R101). -/
def Ctx.clearLatches (x : Ctx) : Ctx := { x with outLatch := [] }

/-- The status of a matrix command as mwait reads it (R169): none while it has not completed.
(Log: DESIGN CHOICE, entry 34.) -/
def Lane.ticketStatus (L : Lane) (t : Word) : Option Nat :=
  if 0 < serialDiff t L.mat.last then some 6
  else if L.mat.queue.any (fun m => m.ticket == t) then none
  else match L.mat.done.find? (fun e => e.1 == t.toNat) with
    | some e => some e.2
    | none => some 7

/-- The condition of a context's wait is met now (R111). -/
def Lane.condMet (L : Lane) (c : Nat) : Bool :=
  let w := (L.ctx c).wait
  match w.kind with
  | 1 => decide (w.time ≤ L.lt)
  | 2 => L.bitAt 0x40030040 w.arg
  | 3 => !(L.queue w.arg).isEmpty
  | 4 => decide ((L.queue w.arg).length < 64)
  | 5 => !(L.lock w.arg).held
  | 6 => w.cmd.isNone && (L.ticketStatus w.word).isSome
  | 7 => (List.range 4).any (fun i => L.rd (0x40030020 + 4 * i) != 0)
  | _ => false

/-- The timeout of a context's wait has expired (R112). -/
def Lane.timedOut (L : Lane) (c : Nat) : Bool :=
  let w := (L.ctx c).wait
  w.tmo && w.kind != 1 && decide (w.time ≤ L.lt)

/-- Complete a wait whose condition is met: take what it waited for, with result 0 (R111 to R115).  Every
context that waits on the same number of CTX.EPEND becomes READY with it (R113). -/
def Lane.completeWait (L : Lane) (c : Nat) : Lane :=
  let w := (L.ctx c).wait
  match w.kind with
  | 2 => ((L.waiting 2 w.arg).foldl (fun M d => M.finishWait d 0) L).setBitOf 0x40030040 w.arg false
  | 3 => match L.queue w.arg with
    | [] => L
    | v :: rest =>
      let M := (L.finishWait c 0).setQueue w.arg rest
      (M.modCtx c (fun x => x.wx w.rd2 v)).queueSpace w.arg
  | 4 => (L.finishWait c 0).queuePut w.arg w.word
  | 5 => (L.finishWait c (if (L.lock w.arg).abandoned then 2 else 0)).setLock w.arg ⟨true, c, false⟩
  | 6 => L.finishWait c (BitVec.ofNat 32 ((L.ticketStatus w.word).getD 0))
  | _ => L.finishWait c 0

/-- START (R103, R109, R101): FREE to READY with a deadline, FAULT cleared, latches cleared. -/
def Lane.start (L : Lane) (t : Nat) : Lane :=
  if t ≠ 0 ∧ (L.ctx t).st = .free then
    L.modCtx t (fun x =>
      ({ x with st := .ready, cause := 0, yielded := false, wait := Wait.none }.clearLatches).arm L.lt)
  else L.cmdErr

/-- The code an abandoned wait completes with (R155, R156).
(Log: DEDUCED, entry 30.) -/
def Wait.abandonCode (w : Wait) : Word := if w.kind = 5 then 3 else 2

/-- HALT (R103, R155): the wait of a WAITING context is abandoned, unless its condition or timeout has
fallen due, whose result is then already written.
(Log: DEDUCED, entry 30.) -/
def Lane.haltCtx (L : Lane) (t : Nat) : Lane :=
  let st := (L.ctx t).st
  if t ≠ 0 ∧ (st = .ready ∨ st = .waiting ∨ st = .running) then
    let L := if st = .waiting then
        (if L.condMet t then L.completeWait t
         else if L.timedOut t then L.finishWait t 1
         else L.modCtx t (fun x => { x with wait := { x.wait with abandoned := true } }))
      else L
    L.moveTo t .halted
  else L.cmdErr

/-- RESUME (R103, R109, R155): HALTED to READY, FAULT cleared; an abandoned wait completes.
(Log: DEDUCED, entry 30.) -/
def Lane.resume (L : Lane) (t : Nat) : Lane :=
  if t ≠ 0 ∧ (L.ctx t).st = .halted then
    L.modCtx t (fun x =>
      let y := if x.wait.abandoned then x.wx x.wait.rd x.wait.abandonCode else x
      { y with st := .ready, cause := 0, wait := Wait.none }.arm L.lt)
  else L.cmdErr

/-- KILL (R106): any state but FREE to FREE; locks pass on as ABANDONED, the wait is withdrawn, the
latches are cleared; curd edges stay. -/
def Lane.kill (L : Lane) (t : Nat) : Lane :=
  if t ≠ 0 ∧ (L.ctx t).st ≠ .free then
    let L := L.moveTo t .free
    let L := L.modCtx t (fun x => { x.clearLatches with wait := Wait.none })
    L.dropLocks t
  else L.cmdErr

/-- A command word of CTX.CMD (R130): OP 1 START to 4 KILL; the others do nothing. -/
def Lane.ctxCmd (L : Lane) (v : Word) : Lane :=
  let t := fieldNat v 0 7
  match fieldNat v 8 3 with
  | 1 => L.start t
  | 2 => L.haltCtx t
  | 3 => L.resume t
  | 4 => L.kill t
  | _ => L

/-- Whether R130 ignores the command (R150 returns it in rd). -/
def Lane.ctxCmdIgnored (L : Lane) (v : Word) : Bool :=
  let t := fieldNat v 0 7
  let st := (L.ctx t).st
  match fieldNat v 8 3 with
  | 1 => t == 0 || st != .free
  | 2 => t == 0 || st == .free || st == .halted
  | 3 => t == 0 || st != .halted
  | 4 => t == 0 || st == .free
  | _ => false

/-- START. -/
def execStart (l : LaneId) (t : CtxNo) (s : State) : Host.Outcome State Fault Refusal :=
  .next (s.modLane l (fun L => L.start t))
/-- HALT. -/
def execHalt (l : LaneId) (t : CtxNo) (s : State) : Host.Outcome State Fault Refusal :=
  .next (s.modLane l (fun L => L.haltCtx t))
/-- RESUME. -/
def execResume (l : LaneId) (t : CtxNo) (s : State) : Host.Outcome State Fault Refusal :=
  .next (s.modLane l (fun L => L.resume t))
/-- KILL. -/
def execKill (l : LaneId) (t : CtxNo) (s : State) : Host.Outcome State Fault Refusal :=
  .next (s.modLane l (fun L => L.kill t))
/-- CTX_CMD_NO_EFFECT (R130): OP 0, 5, 6 or 7 has no effect and sets no CMD_ERR. -/
def execCtxCmdNoEffect (_l : LaneId) (_v : Word) (s : State) : Host.Outcome State Fault Refusal :=
  .next s

/-- The core READY context `c` takes (R108): the lowest idle core of its affinity, else the core of
the lowest-ranked running context that `c` outranks; `given` are the cores given in this cycle. -/
def Lane.coreFor (L : Lane) (c : Nat) (given : List Nat) : Option Nat :=
  let ks := (List.range 6).filter (fun k => (L.affinity c).testBit k && !given.contains k)
  match ks.filter (fun k => L.flag (0x40030080 + 4 * k) 7) with
  | k :: _ => some k
  | [] =>
    let worst := ks.foldl (fun (acc : Option Nat) k =>
      match acc with
      | none => some k
      | some j =>
        if L.ranksAbove (L.fld (0x40030080 + 4 * j) 0 7) (L.fld (0x40030080 + 4 * k) 0 7)
        then some k else some j) none
    match worst with
    | none => none
    | some k => if L.ranksAbove c (L.fld (0x40030080 + 4 * k) 0 7) then some k else none

/-- Give core `k` to `c`; the context it held becomes READY and keeps its deadline (R109).  The context
file keeps what it holds of `c` at that moment until `c` leaves the core (R99, R126).
(Log: DEDUCED, entry 29.) -/
def Lane.giveCore (L : Lane) (k c : Nat) : Lane :=
  let L := if L.flag (0x40030080 + 4 * k) 7 then L
    else L.moveTo (L.fld (0x40030080 + 4 * k) 0 7) .ready
  let L := { L with saved := Tab.set L.saved Ctx.reset c (L.ctx c) }
  let L := L.modCtx c (fun x => { x with st := .running, core := k, yielded := false })
  L.wr (0x40030080 + 4 * k) (BitVec.ofNat 32 c)

/-- One cycle of the scheduler over the contexts of `cs`, in rank order. -/
def Lane.dispatch (L : Lane) (cs given : List Nat) : Lane :=
  match cs with
  | [] => L
  | c :: rest =>
    match L.coreFor c given with
    | some k => (L.giveCore k c).dispatch rest (k :: given)
    | none => L.dispatch rest given

/-- The cores run: not in debug halt, the module in RUN, the image running (R125, R135).
(Log: DESIGN CHOICE, entry 7; DEDUCED, entry 41.) -/
def State.coresRun (s : State) (l : LaneId) : Bool :=
  (s.lane l).running && !(s.lane l).halted && s.power == 0

/-- SCHEDULER_DISPATCH (R107, R108). -/
def execSchedulerDispatch (l : LaneId) (s : State) : Host.Outcome State Fault Refusal :=
  .next (if s.coresRun l then
    s.modLane l (fun L => L.dispatch (L.byRank (L.inState .ready)) []) else s)

/-- DEADLINE_MISS (R110): once for each DEADLINE that LT reaches while READY or RUNNING. -/
def execDeadlineMiss (l : LaneId) (c : CtxNo) (s : State) : Host.Outcome State Fault Refusal :=
  let L := s.lane l
  let x := L.ctx c
  .next (if L.running && (x.st == .ready || x.st == .running) && !x.missed &&
      decide (x.deadline ≤ L.lt) then
    s.modLane l (fun L =>
      let L := L.modCtx c (fun x => { x with missed := true, dlmiss := true })
      (L.setBitOf 0x40030030 c true).bump 0x40030060)
  else s)

/-- WAIT_COMPLETE (R112): a waiting context whose condition is met becomes READY with result 0. -/
def execWaitComplete (l : LaneId) (c : CtxNo) (s : State) : Host.Outcome State Fault Refusal :=
  let L := s.lane l
  .next (if L.running && !L.halted && (L.ctx c).st == .waiting && L.condMet c then
    s.modLane l (fun L => L.completeWait c) else s)

/-- WAIT_TIMEOUT (R112): only the timeout has expired.
(Log: DEDUCED, entry 30.) -/
def execWaitTimeout (l : LaneId) (c : CtxNo) (s : State) : Host.Outcome State Fault Refusal :=
  let L := s.lane l
  .next (if L.running && !L.halted && (L.ctx c).st == .waiting && L.timedOut c && !L.condMet c then
    s.modLane l (fun L => L.finishWait c 1) else s)

/-- The watchdog restarts from a full period when the cores resume (R124). -/
def Lane.restartWdog (L : Lane) : Lane := { L with wdogDue := L.lt + L.wdogPer * 100000 }

/-- Complete, in rank order, the waits that have fallen due (R125). -/
def Lane.completeDue (L : Lane) : Lane :=
  (L.byRank (L.inState .waiting)).foldl (fun M c =>
    if (M.ctx c).st == .waiting then
      (if M.condMet c then M.completeWait c else if M.timedOut c then M.finishWait c 1 else M)
    else M) L

/-- The cores stop for a debug halt (R125). -/
def Lane.debugHalt (L : Lane) : Lane := { L with halted := true }

/-- DEBUG_HALT (R125): the open debug port stops the cores of a running lane. -/
def execDebugHalt (l : LaneId) (s : State) : Host.Outcome State Fault Refusal :=
  .next (if (s.lane l).running && (s.lane l).debugOpen then
    s.modLane l Lane.debugHalt else s)

/-- DEBUG_RESUME (R125, R150, R124): the cores resume; a context halted by brk goes on with the next instruction, or at
the PC that the debug port has written during the halt; the waits that fell due complete in rank order; the
watchdog restarts. -/
def execDebugResume (g : DebugGo) (s : State) : Host.Outcome State Fault Refusal :=
  .next (if (s.lane g.lane).halted then
    s.modLane g.lane (fun L =>
      let L := match L.brkCtx with
        | some c => L.modCtx c (fun x => { x with pc := (g.pc.map (fun v => v &&& 0xFFFFFFFC)).getD (x.pc + 4) })
        | none => L
      ({ L with halted := false, brkCtx := none }.completeDue).restartWdog)
  else s)

/-- CSTAT as it reads (R128). -/
def Lane.cstat (L : Lane) (c : Nat) : Word :=
  let x := L.ctx c
  let st := match x.st with
    | .free => 0 | .ready => 1 | .running => 2 | .waiting => 3 | .halted => 4
  BitVec.ofNat 32 (st + L.ownPrio c * 2 ^ 4 + (if c = 0 then 0x3F else x.aff) * 2 ^ 8 +
    b2n (c == 0 || x.rlq) * 2 ^ 16 + b2n x.dlmiss * 2 ^ 17 + x.core * 2 ^ 18 +
    (L.eff c).1 * 2 ^ 24)

/-- Word `e` of a v register file, counted from the offset 0x100. -/
def Ctx.vWord (x : Ctx) (i : Nat) : Word := ((x.rv (i / 4)) >>> (32 * (i % 4))).setWidth 32

/-- A read of the context file at a word offset (R126, R127): a RUNNING context reads its registers
as it last left a core.
(Log: DEDUCED, entry 29; DESIGN CHOICE, entry 120.) -/
def Lane.ctxFileRead (L : Lane) (ofs : Nat) : Word :=
  let c := ofs / 0x200
  let o := ofs % 0x200
  let live := L.ctx c
  let x := if live.st == .running then Tab.get L.saved Ctx.reset c else live
  let w := live.wait
  let waits := live.st == .waiting
  if o < 0x80 then x.rx (o / 4)
  else if o < 0x100 then x.rf ((o - 0x80) / 4)
  else if o < 0x180 then x.vWord ((o - 0x100) / 4)
  else if o = 0x180 then x.pc
  else if o = 0x184 then L.cstat c
  else if o = 0x188 then x.flg
  else if o = 0x18C then
    if waits then BitVec.ofNat 32 (w.kind + b2n w.tmo * 16 + w.arg * 256) else 0
  else if o = 0x190 then loWord x.deadline
  else if o = 0x194 then hiWord x.deadline
  else if o = 0x198 then if waits then loWord w.time else 0
  else if o = 0x19C then if waits then hiWord w.time else 0
  else if o = 0x1A0 then x.dlRel
  else if o = 0x1A4 then BitVec.ofNat 32 x.cause
  else if o = 0x1A8 then x.faddr
  else if o ≤ 0x1B8 then Tab.get x.ltLatch 0 ((o - 0x1AC) / 4)
  else if o < 0x1C0 then 0
  else if (o / 4) % 2 = 0 then Tab.get x.rgnBase 0 ((o - 0x1C0) / 8)
  else Tab.get x.rgnLim 0 ((o - 0x1C4) / 8)

/-- A write of one word of a context's file (R127 to R129). -/
def Ctx.fileWrite (x : Ctx) (o : Nat) (v : Word) : Ctx :=
  if o < 0x80 then x.wx (o / 4) v
  else if o < 0x100 then x.wf ((o - 0x80) / 4) v
  else if o < 0x180 then
    let r := (o - 0x100) / 16
    let e := ((o - 0x100) / 4) % 4
    let old := x.rv r
    x.wv r ((old &&& ~~~((0xFFFFFFFF : VWord) <<< (32 * e))) ||| (v.setWidth 128 <<< (32 * e)))
  else if o = 0x180 then { x with pc := v &&& 0xFFFFFFFC }
  else if o = 0x184 then
    { x with
      prio := fieldNat v 4 4, aff := fieldNat v 8 6, rlq := bitOf v 16,
      dlmiss := x.dlmiss && !bitOf v 17 }
  else if o = 0x188 then { x with flg := v &&& 0xFF }
  else if o = 0x1A0 then { x with dlRel := v }
  else if o = 0x1A4 then { x with cause := fieldNat v 0 8 }
  else if o = 0x1A8 then { x with faddr := v }
  else if 0x1AC ≤ o ∧ o ≤ 0x1B8 then { x with ltLatch := Tab.set x.ltLatch 0 ((o - 0x1AC) / 4) v }
  else if 0x1C0 ≤ o then
    if (o / 4) % 2 = 0 then
      { x with rgnBase := Tab.set x.rgnBase 0 ((o - 0x1C0) / 8) (v &&& 0xFFFFFFCF) }
    else { x with rgnLim := Tab.set x.rgnLim 0 ((o - 0x1C4) / 8) (v &&& 0xFFFFFFC0) }
  else x

/-- A write of the context file by context 0 (R126): only a FREE or HALTED context takes it. -/
def Lane.ctxFileWrite (L : Lane) (ofs : Nat) (v : Word) : Lane :=
  let c := ofs / 0x200
  let st := (L.ctx c).st
  if st = .free ∨ st = .halted then L.modCtx c (fun x => x.fileWrite (ofs % 0x200 / 4 * 4) v)
  else L.setFlag 0x40030004 1 true

/-- `n` bytes of the context file at an aligned offset (R116, R118). -/
def Lane.ctxFileBytes (L : Lane) (o n : Nat) : List Byte :=
  (((List.range ((n + 3) / 4)).flatMap (fun i => wordBytes (L.ctxFileRead (o / 4 * 4 + 4 * i)))).drop (o % 4)).take n

/-- A word of the context file as a write of some of its bytes leaves it: the others keep what they hold, and DLMISS,
which a 1 clears (R128), is written 0. -/
def Lane.ctxFileMerge (L : Lane) (o : Nat) (bs : List Byte) : Word :=
  let w := L.ctxFileRead (o / 4 * 4)
  let w := if o % 0x200 / 4 * 4 = 0x184 then setBit w 17 false else w
  let old := wordBytes w
  bytesWord (old.take (o % 4) ++ bs ++ old.drop (o % 4 + bs.length))

/-- A store of 1, 2, 4, 8 or 16 bytes to the context file at an aligned offset (R116, R118, R126). -/
def Lane.ctxFileStore (L : Lane) (o : Nat) (bs : List Byte) : Lane :=
  if bs.length < 4 then L.ctxFileWrite o (L.ctxFileMerge o bs)
  else (List.range (bs.length / 4)).foldl (fun M i =>
    M.ctxFileWrite (o + 4 * i) (bytesWord ((bs.drop (4 * i)).take 4))) L

/-- CONTEXT_FILE_WRITE (R126, R127). -/
def execContextFileWrite (l : LaneId) (ofs : Fin 0x10000) (v : Word) (s : State) :
    Host.Outcome State Fault Refusal :=
  .next (s.modLane l (fun L => L.ctxFileWrite ofs v))

end Sys2Proof.Machine
end

