-- ==== Sys2Proof/Machine/Eth.lean ====
section
/-!
DEFINITION. The Ethernet ports (R501 to R509).
-/

namespace Sys2Proof.Machine

/-- A write of CFG (R509): RATE and ROLE count at a rise of EN; with EN 0 the port stops. -/
def Lane.ethCfg (L : Lane) (n : Nat) (v : Word) : Lane :=
  let was := L.flag (ethReg n 0) 0
  let M := L.plainWrite (ethReg n 0) v
  if bitOf v 0 && !was then M.setEth n { M.ethSt n with phy := fieldNat v 1 2 }
  else if was && !bitOf v 0 then (M.setEth n { M.ethSt n with scan := false }).ethDown n
  else M

/-- The DMA finds a bank that does not serve it, at address `a` (R504, R547). -/
def Lane.dmaErr (L : Lane) (n a : Nat) : Lane :=
  let M := (((L.refusedAt a).setFlag (ethReg n 0) 0 false).setFlag (ethReg n 4) 4 true).setEth n { L.ethSt n with scan := false }
  (M.ethDown n).raise 43 0 n 0

/-- The index of a ring after `i`. -/
def nextIdx (i cnt : Nat) : Nat := if i + 1 < cnt then i + 1 else 0

/-- Does the MAC accept a frame's destination (R503)? -/
def Lane.macTakes (L : Lane) (n : Nat) (f : EthFrame) : Bool :=
  let d := bytesNat (f.data.take 6)
  let mine := pairNat (L.rd (ethReg n 8)) (BitVec.ofNat 32 (L.fld (ethReg n 0xC) 0 16))
  L.flag (ethReg n 0) 3 || d == mine || d == 0xFFFFFFFFFFFF ||
    (List.range 16).any (fun k => L.flag (ethReg n 0x44 + 8 * k) 31 &&
      d == pairNat (L.rd (ethReg n 0x40 + 8 * k)) (BitVec.ofNat 32 (L.fld (ethReg n 0x44 + 8 * k) 0 16)))

/-- Drop a frame (R506). -/
def Lane.ethDrop (L : Lane) (n : Nat) : Lane := (L.bump (ethReg n 0x2C)).raise 41 2 n 0

/-- Store a frame at the descriptor of RX_IDX.
(Log: DEDUCED, entry 88.) -/
def Lane.ethStore (L : Lane) (n : Nat) (f : EthFrame) : Lane :=
  let i := L.fld (ethReg n 0x18) 0 8
  let d := (L.rd (ethReg n 0x10)).toNat + 16 * i
  if !L.servesAll .network d 16 then L.dmaErr n d
  else if !bitOf (L.word (d + 4)) 31 then L.ethDrop n
  else
    let buf := (L.word d).toNat / 16 * 16
    let body := f.data.take 1536
    if !L.servesAll .network buf 1536 then L.dmaErr n buf
    else
      let vlan := f.data.getD 12 0 == 0x81 && f.data.getD 13 0 == 0
      let st := BitVec.ofNat 32 (f.data.length % 2048 + b2n (!f.fcsOk) * 16777216 + b2n (!f.lenOk) * 33554432 +
        b2n vlan * 67108864)
      let M := (L.store buf body).storeWords (d + 8) [f.ts.setWidth 32, (f.ts >>> 32).setWidth 32]
      let M := (M.storeWords (d + 4) [st]).setFld (ethReg n 0x18) 0 8 (nextIdx i (M.fld (ethReg n 0x14) 0 9))
      let M := if f.fcsOk && f.lenOk then M else M.bump (ethReg n 0x30)
      if M.flag (ethReg n 0) 5 then M.raise 41 1 n 0 else M

/-- ETH_FRAME_RX. -/
def execEthFrameRx (l : LaneId) (n : Fin 2) (f : EthFrame) (s : State) : Host.Outcome State Fault Refusal :=
  let f := { f with ts := BitVec.ofNat 64 (s.stampOf l f.ts.toNat) }
  .next (s.modLane l (fun L =>
    if !L.running || !L.flag (ethReg n 0) 0 || !L.flag (ethReg n 4) 0 || decide (1 < s.power) then L
    else if s.power = 1 then L.bump (ethReg n 0x2C)
    else if !L.macTakes n f then L
    else if (f.fcsOk && f.lenOk) || L.flag (ethReg n 0) 4 then L.ethStore n f
    else L))

/-- A transmit descriptor completes with a status; its last write clears OWN (R505, R507). -/
def Lane.ethDone (L : Lane) (n status : Nat) (ts : BitVec 64) : Lane :=
  let i := L.fld (ethReg n 0x24) 0 8
  let d := (L.rd (ethReg n 0x1C)).toNat + 16 * i
  let w := L.word (d + 4)
  let ts := if bitOf w 29 ∧ status = 0 then ts else 0
  let M := L.storeWords (d + 8) [ts.setWidth 32, (ts >>> 32).setWidth 32]
  let M := M.storeWords (d + 4) [setBit (setFieldNat w 24 4 status) 31 false]
  let M := M.setFld (ethReg n 0x24) 0 8 (nextIdx i (M.fld (ethReg n 0x20) 0 9))
  let M := match status with
    | 0 => M.bump (ethReg n 0x34)
    | 1 => M.bump (ethReg n 0x38)
    | _ => M
  if bitOf w 29 then M.raise 42 0 n 0 else M

/-- The transmit scan: descriptors that are not sent complete; it stops at one to send, or ends at one whose OWN is
0; `k` bounds the descriptors.
(Log: DEDUCED, entry 88.) -/
def Lane.ethScan (L : Lane) (n k : Nat) : Lane :=
  match k with
  | 0 => L
  | k + 1 =>
    let d := (L.rd (ethReg n 0x1C)).toNat + 16 * L.fld (ethReg n 0x24) 0 8
    if !L.servesAll .network d 16 then L.dmaErr n d
    else
      let w := L.word (d + 4)
      if !bitOf w 31 then L.setEth n { L.ethSt n with scan := false }
      else if !L.servesAll .network ((L.word d).toNat / 16 * 16) (fieldNat w 0 11) then
        L.dmaErr n ((L.word d).toNat / 16 * 16)
      else if bitOf w 28 && !L.flag (ethReg n 0) 6 then (L.ethDone n 1 0).ethScan n k
      else if !L.flag (ethReg n 4) 0 then (L.ethDone n 2 0).ethScan n k
      else L.setEth n { L.ethSt n with scan := true }

/-- ETH_LINK_CHANGE (R502); frames the scan meets with the link down complete (R507).
(Log: DEDUCED, entry 88.) -/
def execEthLinkChange (l : LaneId) (n : Fin 2) (up : Bool) (sqi : Fin 8) (s : State) :
    Host.Outcome State Fault Refusal :=
  .next (s.modLane l (fun L =>
    if up then
      if L.running && decide (s.power ≤ 1) && L.flag (ethReg n 0) 0 then
        let M := L.setFld (ethReg n 4) 1 3 sqi
        if L.flag (ethReg n 4) 0 then M else (M.setFlag (ethReg n 4) 0 true).raise 40 1 n 0
      else L
    else
      let M := L.ethDown n
      if (M.ethSt n).scan && s.power == 0 then M.ethScan n 256 else M))

/-- A write of TX_KICK (R507); below RUN, where the MAC stops (R502), the scan waits for the return.
(Log: DEDUCED, entry 88.) -/
def Lane.txKick (L : Lane) (n power : Nat) : Lane :=
  if !L.flag (ethReg n 0) 0 then L
  else if power = 0 then L.ethScan n 256
  else L.setEth n { L.ethSt n with scan := true }
/-- The ports of a lane at the return to RUN: a scan that waits goes on (R502, R507).
(Log: DEDUCED, entry 88.) -/
def Lane.ethResume (L : Lane) : Lane :=
  (List.range 2).foldl (fun M n => if M.running && (M.ethSt n).scan then M.ethScan n 256 else M) L
/-- TX_KICK. -/
def execTxKick (l : LaneId) (n : Fin 2) (_v : Word) (s : State) : Host.Outcome State Fault Refusal :=
  .next (s.modLane l (fun L => L.txKick n s.power))

/-- ETH_TX_COMPLETE: the frame at TX_IDX has been sent. -/
def execEthTxComplete (l : LaneId) (n : Fin 2) (ts : BitVec 64) (s : State) : Host.Outcome State Fault Refusal :=
  let ts := BitVec.ofNat 64 (s.stampOf l ts.toNat)
  .next (s.modLane l (fun L =>
    if L.running && L.flag (ethReg n 4) 0 && (L.ethSt n).scan && s.power == 0 then (L.ethDone n 0 ts).ethScan n 256 else L))

end Sys2Proof.Machine
end

