-- ==== Sys2Proof/Machine/Power.lean ====
section
/-!
DEFINITION. Supplies, resets, boot and the power ladder (R45 to R73, R49, R123, R124).
-/

namespace Sys2Proof.Machine

/-- Hold a lane in reset for a cause of R73, without the steps of giving up control (R49, R59).
(Log: DEDUCED, entries 100, 101.) -/
def State.holdLane (s : State) (l : LaneId) (cause : Nat) : State :=
  let s := s.cutLinks l
  let s := s.modLane l (fun L => (L.resetKeep).setFld 0x40000010 8 4 cause)
  s.modRind (fun r => (({ r with
    beat := r.beat.set l Beat.reset, readyAt := r.readyAt.set l none }).setFlag 0x204 (laneNo l)
      false).setFlag 0x204 (2 + laneNo l) false)

/-- What RESET_N and a loss of VLOG do to the die (R49, R59): every channel off with its soft-off, every
gate off, every stored command discarded, every unit in its reset state.
(Log: DEDUCED, entry 18.) -/
def State.outputsOff (s : State) : State :=
  let s := (List.range 208).foldl (fun s n =>
    let s := s.softOff n
    s.setSw n { s.die.swt n with inp := false, defer := false, retrying := false }) s
  s.modDie (fun d =>
    { d with cmds := ⟨[], []⟩, due := ⟨[], []⟩, img := ⟨[], []⟩, sh := ⟨[], []⟩, units := [],
             freezing := ⟨false, false⟩, froze := ⟨[], []⟩, forcedOff := true, safeOff := false })

/-- Steering after RESET_N or R59 (R573): the home port, DIRECT kept, one change of R538. -/
def Rind.toHome (r : Rind) (now : Nat) : Rind :=
  ((r.steerAll (laneOfNo (r.fld 0x200 0 1))).noControl now).advanceSeq

/-- RESET_N_ASSERT (R49).
(Log: DEDUCED, entries 13, 101.) -/
def execResetNAssert (s : State) : Host.Outcome State Fault Refusal :=
  .next (if s.rind.resetLow then s
    else
      let s := (s.holdLane .a 1).holdLane .b 1
      let s := s.outputsOff
      s.modRind (fun r => ({ r with resetLow := true }).toHome s.die.replica))

/-- RESET_N_RELEASE (R49, R72): DIRECT channels follow their pads again; the lanes boot.
(Log: DEDUCED, entry 18.) -/
def execResetNRelease (s : State) : Host.Outcome State Fault Refusal :=
  .next (if s.rind.resetLow then
    let s := s.modRind (fun r => { r with resetLow := false })
    (s.modDie (fun d => { d with forcedOff := !s.rind.vlogOk })).directFollow
  else s)

/-- What a loss of VLOG does (R59): lanes in reset, outputs off, commands discarded, VLOG_UV set, the event recorded
for each lane, a transition in progress ended; steering as R573 gives.
(Log: DEDUCED, entry 13.) -/
def State.loseVlog (s : State) : State :=
  let s := (s.holdLane .a 0).holdLane .b 0
  let s := s.outputsOff
  s.modRind (fun r =>
    ((({ r with vlogOk := false, vlogRec := ⟨true, true⟩, trans := none }).setFlag 0x104 4 false).setFlag
      0x110 16 true).toHome s.die.replica)

/-- VLOG_LOSS (R59): the TCXO stops, and the replica coasts from the hold store (R76).
(Log: DEDUCED, entries 13, 101.) -/
def execVlogLoss (s : State) : Host.Outcome State Fault Refusal :=
  .next (if s.rind.vlogOk then s.clocked State.loseVlog else s)

/-- What the rind keeps in non-volatile cells (R593, R615): the monotonic counters and UPD_CFG; and it never
shows a nonce twice (R531). -/
def Rind.kept (r old : Rind) : Rind :=
  { r with mcnt := old.mcnt, mgmt := { r.mgmt with nonce := old.mgmt.nonce + 1 } }.wr 0x220 (old.rd 0x220)

/-- HOLD_STORE_EMPTY (R11, R59, R74): the rind loses its state and lane time with it.
(Log: DEDUCED, entry 19.) -/
def execHoldStoreEmpty (s : State) : Host.Outcome State Fault Refusal :=
  .next (if s.rind.vlogOk then s
    else
      let s := { s with
        rind := Rind.reset.kept s.rind
        die := Die.reset }
      s.bothLanes (fun L => { L with lt := 0, time := TimeSt.reset }))

/-- The lanes boot from any power state when VLOG is back (R59, R72): below RUN this is an exit to RUN, by a wake
where WAKE_EN.SUPPLY permits the source (R69).
(Log: DEDUCED, entry 13.) -/
def State.supplyExit (s : State) : State :=
  if s.power = 0 then s
  else
    let t := s.modRind (fun r => { r with trans := some 0 }.setFlag 0x104 4 true)
    if s.rind.flag 0x108 11 then
      t.modRind (fun r => { r with wakeOwed := ⟨true, true⟩ }.setFlag 0x10C 11 true)
    else t

/-- VLOG_POWER_UP (R72 step 1, R47): with an empty hold store the rind starts on its RC oscillator, takes
its management address from the straps (2 MADDR1 + MADDR0) and steers everything to lane A; otherwise
every setting but DIRECT goes to the home port.
(Log: DEDUCED, entries 1, 13, 14, 18.) -/
def execVlogPowerUp (strap : Fin 4) (s : State) : Host.Outcome State Fault Refusal :=
  .next (if s.rind.vlogOk then s
    else s.clocked (fun s =>
      let s := if s.rind.holdEmpty then
          s.modRind (fun r => ({ r with
            holdEmpty := false, steer := [], mgmt := { r.mgmt with busAddr := 0x58 + strap.val } }).setFlag
              0x110 18 true)
        else s.modRind (fun r => r.steerAll (laneOfNo (r.fld 0x200 0 1)))
      let s := (s.modRind (fun r => { r with vlogOk := true })).supplyExit
      (s.modDie (fun d => { d with forcedOff := s.rind.resetLow })).directFollow))

/-- LT of a lane that starts (R75): the partner's over the lane link while it counts, else the replica; and the
fraction of a tick beyond it.
(Log: DEDUCED, entry 19.) -/
def State.startLT (s : State) (l : LaneId) : Nat × Rat :=
  let P := s.lane (other l)
  if s.counts (other l) then (P.lt, P.time.sub) else (s.die.replica, s.die.sub)

/-- The result of a bank's boot test (R556, R558): bits 15:7 of BANK_STAT; a failed bank gets OWN NONE and
PWR OFF, and E83 is raised with D0 2; a bank that used spares raises it with D0 1. -/
def Lane.bankTested (L : Lane) (t : SramNo × BitVec 9) : Lane :=
  let a := 0x40040200 + 4 * t.1.val
  let L := L.setFld a 7 9 t.2.toNat
  if t.2.getLsbD 0 then
    let L := ((L.setFld a 0 3 0).setFld a 4 2 2).setFld (0x40040100 + 4 * t.1.val) 0 3 0
    (L.setFld (0x40040100 + 4 * t.1.val) 4 2 2).raise 83 2 t.1 0
  else if t.2.toNat / 16 % 8 ≠ 0 then L.raise 83 1 t.1 0
  else L

/-- LANE_RESET_RELEASE (R48, R72, R75, R77, R556): while the TCXO runs the lane leaves reset, samples MODE2 to MODE0,
loads LT and tests its banks (`tests` gives what the test found); on the wake from SLEEP no test runs.
(Log: DEDUCED, entries 1, 17, 19, 100; DESIGN CHOICE, entry 26.) -/
def execLaneResetRelease (l : LaneId) (mode : Fin 8) (tests : List (SramNo × BitVec 9)) (s : State) :
    Host.Outcome State Fault Refusal :=
  .next (if (s.lane l).phase = Phase.off ∧ s.rind.vlogOk ∧ ¬ s.rind.resetLow ∧ ¬ s.laneOff l ∧
      s.tcxo then
    let t0 := s.startLT l
    let up := s.counts (other l)
    let P := s.lane (other l)
    let s := s.modRind (fun r => r.setFlag 0x204 (4 + laneNo l) false)
    let s := s.modLane l (fun L =>
      let slept := L.fld 0x40000010 8 4 == 2
      let L := { L with phase := Phase.boot, lt := t0.1, time := { L.time with sub := t0.2, last := t0.1 } }
      let L := (L.joinTime P up).setFld 0x40000010 0 3 mode
      let L := L.setFlag 0x40000010 12 slept
      let L := { L with sram := if slept then L.sram.filter (fun e => decide (0x5C0000 ≤ e.1)) else [] }
      if slept then L else tests.foldl Lane.bankTested L)
    s.payCoast l
  else s)

/-- XT32_FAIL (R64): RC oscillator, the flag, E95 with data 3 on each running lane; a coast in progress
becomes of unknown uncertainty (R77).
(Log: DEDUCED, entries 12, 14, 16.) -/
def execXt32Fail (s : State) : Host.Outcome State Fault Refusal :=
  .next (if s.rind.flag 0x110 18 then s
    else
      let s := s.modRind (fun r =>
        { r with coastRC := r.coastRC || r.xtalCoast.isSome }.setFlag 0x110 18 true)
      s.raiseBoth 95 3 0 0)

/-- XT32_RESTORE (R64).
(Log: DEDUCED, entry 14.) -/
def execXt32Restore (s : State) : Host.Outcome State Fault Refusal :=
  .next (s.modRind (fun r => r.setFlag 0x110 18 false))

/-- The code of R67 that refuses a request for state `t`, or 0; of several that hold, the lowest.
(Log: DESIGN CHOICE, entry 114.) -/
def State.refuseCode (s : State) (t : Nat) : Nat :=
  let padOn := (List.range 208).any (fun n =>
    s.steer n != 2 && ((s.die.swt n).ph == 1 || (s.die.swt n).ph == 2))
  let gateOn := (List.range 24).any (fun n => (s.die.unit (208 + n)).gh || (s.die.unit (208 + n)).gl)
  let bridge := (List.range 24).any (fun n => (s.die.unit (208 + n)).run)
  let loopOn := fun (L : Lane) => L.rd 0x400C0008 != 0 || L.rd 0x400C000C != 0
  let curd := fun (L : Lane) => L.fld 0x40060004 0 11 != 0
  if 3 ≤ t ∧ t ≤ 5 ∧ (padOn ∨ gateOn) then 1
  else if 2 ≤ t ∧ t ≤ 5 ∧ (bridge ∨ loopOn s.laneA ∨ loopOn s.laneB) then 2
  else if 1 ≤ t ∧ t ≤ 5 ∧ (curd s.laneA ∨ curd s.laneB) then 3
  else if 1 ≤ t ∧ t ≤ 5 ∧ s.rind.rd 0x10C ≠ 0 then 4
  else if 6 ≤ t then 5
  else 0

/-- The outputs as a transition of CAVE begins (R66, R72): DIRECT channels go off as the entry starts; on an exit, and
where an entry is given up, they follow their pads again, and an exit begins step 1 of R72. -/
def State.caveEdge (s : State) (was : Bool) : State :=
  if s.caving = was then s
  else if s.caving then s.directOff
  else
    let t := if s.power = 5 then s.modRind (fun r => r.steerAll (laneOfNo (r.fld 0x200 0 1))) else s
    t.directFollow

/-- A request of state `t` that no condition refuses (R68): a transition starts, in place of one in progress.
(Log: DEDUCED, entries 15, 16, 116; DESIGN CHOICE, entry 115.) -/
def State.goPower (s : State) (t : Nat) : State :=
  if t = s.power ∧ s.rind.trans.isNone then s.modRind (fun r => r.setFld 0x100 0 3 t)
  else s.clocked (fun u =>
    let u := u.bothLanes (fun L => { L with ev := { L.ev with woken := false } })
    (u.modRind (fun r => ({ r with trans := some t }.setFld 0x100 0 3 t).setFlag 0x104 4 true)).caveEdge u.caving)

/-- A write of RIND.PWR_CTRL (R67): the active lane's or the host's.  A request that is refused changes nothing but
REFUSE, with E95; otherwise PARK takes its bit and a transition starts.
(Log: DEDUCED, entries 15, 16.) -/
def State.writePower (s : State) (w : PwrWriter) (v : Word) : State :=
  let ok := match w with
    | .host => true
    | .lane l => s.isActive l
  let t := fieldNat v 0 3
  let code := s.refuseCode t
  if !ok then s
  else if code ≠ 0 then
    (s.modRind (fun r => r.setFld 0x104 8 3 code)).raiseBoth 95 2 0 (BitVec.ofNat 32 code)
  else (s.modRind (fun r => r.setFlag 0x100 3 (bitOf v 3))).goPower t

/-- PWR_TARGET_WRITE. -/
def execPwrTargetWrite (w : PwrWriter) (v : Word) (s : State) : Host.Outcome State Fault Refusal :=
  .next (s.writePower w v)

/-- SRAM that a power state loses (R550): banks in ON, in DOZE and NAP.
(Log: DEDUCED, entry 17.) -/
def Lane.loseBanks (L : Lane) : Lane :=
  { L with sram := L.sram.filter (fun e => L.bankPower (bankOf e.1) == 1) }

/-- Banks in ON are zero-filled on the wake from DOZE or NAP (R551).
(Log: DEDUCED, entry 17.) -/
def Lane.startFill (L : Lane) : Lane :=
  (List.range 24).foldl (fun L k =>
    if L.bankPower k = 0 then L.setFlag (0x40040200 + 4 * k) 6 true else L) L

/-- The lane raises E95 for a wake once it is in RUN (R69).
(Log: DEDUCED, entry 16.) -/
def State.payWake (s : State) (l : LaneId) : State :=
  if s.rind.wakeOwed.get l ∧ (s.lane l).running then
    let s := s.modLane l (fun L => L.raise 95 1 0 (s.rind.rd 0x10C))
    s.modRind (fun r => { r with wakeOwed := r.wakeOwed.set l false })
  else s

/-- What entering state `t` from state `p` does to the SRAM of a lane (R550, R551): banks in ON are lost in DOZE and
NAP, and filled on the way out.
(Log: DEDUCED, entry 17.) -/
def Lane.bankPath (L : Lane) (p t : Nat) : Lane :=
  if 2 ≤ t ∧ t ≤ 3 then L.loseBanks
  else if t ≤ 1 ∧ (p = 2 ∨ p = 3) ∧ L.alive then L.startFill
  else L

/-- The lanes at an entry to SLEEP or CAVE (R66, R73): held in reset, in SLEEP with bank 23 kept.
(Log: DEDUCED, entry 17.) -/
def State.lanesDown (s : State) (p t : Nat) : State :=
  if t = 4 ∧ p < 4 then
    let keep := fun (L : Lane) => L.sram.filter (fun e => decide (0x5C0000 ≤ e.1))
    (((s.holdLane .a 2).holdLane .b 2).modLane .a (fun L => { L with sram := keep s.laneA })).modLane .b
      (fun L => { L with sram := keep s.laneB })
  else if t = 5 then (s.holdLane .a 3).holdLane .b 3
  else s

/-- The effects of entering state `t` from state `p` (R65, R66, R68, R550).
(Log: DEDUCED, entry 17.) -/
def State.enterPower (s : State) (p t : Nat) : State :=
  let s := s.clocked (fun u => u.modRind (fun r =>
    (((({ r with trans := none }).setFld 0x104 0 3 t).setFlag 0x104 4 false).setFlag 0x104 3 false).bumpFld
      0x104 16 16))
  let s := s.bothLanes (fun L => (L.netPower p t).bankPath p t)
  let s := s.lanesDown p t
  if t = 0 then
    let s := s.bothLanes (fun L =>
      let M := (if L.running then L.restartWdog else L).ethResume
      { M with ev := { M.ev with owed := false } })
    (s.payWake .a).payWake .b
  else s

/-- PWR_TRANSITION_COMPLETE (R68): the entry or exit in progress completes.
(Log: DESIGN CHOICE, entry 9.) -/
def execPwrTransitionComplete (s : State) : Host.Outcome State Fault Refusal :=
  .next (match s.rind.trans with
    | some t => s.enterPower s.power t
    | none => s)

/-- A lane that is out of reset has a cause to wake the module (R69): an event that its mask admits has occurred,
in IDLE and DOZE; a context's wait on an LT time has fallen due, in IDLE, DOZE and NAP, where lane time is the
replica's.  During an entry the state being entered counts.
(Log: DEDUCED, entry 116.) -/
def State.laneWakes (s : State) (l : LaneId) : Bool :=
  let L := s.lane l
  let p := match s.rind.trans with
    | some t => t
    | none => s.power
  let now := if s.counts l then L.lt else s.die.replica
  let due := (List.range 128).any (fun c =>
    (L.ctx c).st == .waiting && ((L.ctx c).wait.kind == 1 || (L.ctx c).wait.tmo) && decide ((L.ctx c).wait.time ≤ now))
  L.alive && p != 0 && ((decide (p ≤ 2) && L.ev.woken) || (decide (p ≤ 3) && due))

/-- The sources of `src` that are enabled (R69), in the layout of WAKE_SRC; source 12 counts with its cause only.
(Log: DEDUCED, entry 116.) -/
def State.sources (s : State) (src : Nat) : Nat :=
  let en := (s.rind.rd 0x108).toNat
  Nat.lor (Nat.land src (Nat.land en 4095))
    (if bitOf (BitVec.ofNat 32 src) 12 && (s.laneWakes .a || s.laneWakes .b) then 4096 else 0)

/-- The time to first fix of a baseband that is enabled runs from the wake instant (R327). -/
def Lane.gnssWake (t : Nat) (L : Lane) : Lane :=
  if L.alive && L.flag 0x400A0000 0 then { L with gns := { L.gns with startAt := t, ttff := false } } else L

/-- A wake by the sources of `src` (R69), in the layout of WAKE_SRC: it ends a state below RUN, or abandons
an entry; in RUN with no transition it does nothing.  A source that occurs while an exit to RUN is in progress sets its
bit as well.
(Log: DEDUCED, entry 13; DESIGN CHOICE, entry 117.) -/
def State.wakeBy (s : State) (src : Nat) : State :=
  let ok := s.sources src
  let below := s.power ≠ 0
  let t0 := s.rind.trans != some 0
  let entering := match s.rind.trans with
    | some t => decide (t ≠ 0)
    | none => false
  if ok == 0 || !(decide below || entering) then s
  else
    let s := s.clocked (fun u =>
      (u.modRind (fun r =>
        { r with wakeOwed := ⟨true, true⟩, trans := if below then some 0 else none }.wr 0x10C
          (r.rd 0x10C ||| BitVec.ofNat 32 ok) |>.setFlag 0x104 4 below)).caveEdge u.caving)
    if below then (if t0 then s.bothLanes (Lane.gnssWake s.die.replica) else s) else (s.payWake .a).payWake .b

/-- WAKE. -/
def execWake (src : BitVec 13) (s : State) : Host.Outcome State Fault Refusal :=
  .next (s.wakeBy src.toNat)

/-- PARK_BURST (R70): at an RTC second in DOZE with PARK set. -/
def execParkBurst (s : State) : Host.Outcome State Fault Refusal :=
  .next (if s.power = 2 ∧ s.rind.flag 0x100 3 then s.modRind (fun r => r.setFlag 0x104 3 true) else s)

/-- SOFTWARE_RESET (R73, R565): a 1 written to SWRST by context 0; other contexts are ignored. -/
def execSoftwareReset (l : LaneId) (c : CtxNo) (s : State) : Host.Outcome State Fault Refusal :=
  .next (if c.val = 0 ∧ (s.lane l).alive then s.laneReset l 1 6 else s)

/-- The watchdog restarts with the PERIOD written (R124); EXPIRED clears. -/
def Lane.kick (L : Lane) : Lane :=
  let per := max 10 (L.fld 0x40000018 0 16)
  ({ L with wdogPer := per }.restartWdog).setFlag 0x40000018 31 false

/-- WDOG_KICK (R124): any value. -/
def execWdogKick (l : LaneId) (_v : Word) (s : State) : Host.Outcome State Fault Refusal :=
  .next (s.modLane l Lane.kick)

/-- WATCHDOG_EXPIRY (R123, R124): not kicked within the period; paused in debug halt and below RUN. -/
def execWatchdogExpiry (l : LaneId) (s : State) : Host.Outcome State Fault Refusal :=
  .next (if s.coresRun l ∧ (s.lane l).wdogDue ≤ (s.lane l).lt then
    (s.laneFault l 4).modLane l (fun L => L.setFlag 0x40000018 31 true)
  else s)

end Sys2Proof.Machine
end

