-- ==== Sys2Proof/Machine/Can.lean ====
section
/-!
DEFINITION. The CAN FD controllers and the wake decoders of the rind (R478 to R500).
-/

namespace Sys2Proof.Machine

/-! ### Modes and the message memory -/

/-- The effective mode (R478): 0 INIT, 1 ACTIVE, 2 SILENT, 3 DETECT. -/
def State.emode (s : State) (l : LaneId) (c : Nat) : Nat :=
  let L := s.lane l
  if (L.canSt c).stopped then 0
  else match L.fld (canReg c 0) 0 2 with
    | 1 => if s.isActive l then 1 else 2
    | m => m

/-- STAT as a read forms it: EMODE, and TXEN from the rind's record. -/
def State.canStat (s : State) (l : LaneId) (c : Nat) : Word :=
  let x := setFieldNat ((s.lane l).rd (canReg c 4)) 0 2 (s.emode l c)
  setBit x 4 ((s.lane l).alive && Tab.get s.rind.txen none c == some l)

/-- The lane's transceiver may drive the bus. -/
def State.canTxen (s : State) (l : LaneId) (c : Nat) : Bool := bitOf (s.canStat l c) 4

/-- The message memory. -/
def Lane.mram (L : Lane) (c : Nat) : Nat := (L.rd (canReg c 0x18)).toNat
def Lane.mramOk (L : Lane) (c : Nat) : Bool := L.servesAll .network (L.mram c) 0x4000
/-- The controller cannot reach its message memory (R485, R547). -/
def Lane.mramErr (L : Lane) (c : Nat) : Lane :=
  (((L.refusedAt (L.mram c)).setCan c { L.canSt c with stopped := true }).setFlag (canReg c 4) 6 true).raise 35 3 c 0

/-! ### Completion of requests (R481, R491, R493) -/

/-- Address of a transmit request's frame: urgent slot, or the head of the ring. -/
def Lane.txAddr (L : Lane) (c src : Nat) : Nat :=
  if src < 8 then L.mram c + 0x2E00 + 80 * src else L.mram c + 0x3080 + 80 * L.fld (canReg c 0x4C) 0 6

/-- A request is pending. -/
def Lane.txPending (L : Lane) (c src : Nat) : Bool :=
  if src < 8 then L.flag (canReg c 0x38) src else decide (L.txrPending c ≠ 0)

/-- Advance TXR_RD past its entry. -/
def Lane.txrAdvance (L : Lane) (c : Nat) : Lane :=
  let n := L.txrN c
  let i := L.fld (canReg c 0x4C) 0 6
  if i + 1 < n then L.setFld (canReg c 0x4C) 0 6 (i + 1)
  else (L.setFld (canReg c 0x4C) 0 6 0).setFlag (canReg c 0x4C) 6 (!L.flag (canReg c 0x4C) 6)

/-- The counts of a completion. -/
def Lane.canCount (L : Lane) (c res : Nat) : Lane :=
  match res with
  | 2 => L.bump (canReg c 0x58)
  | 3 => L.bump (canReg c 0x5C)
  | _ => L

/-- The slot's bits, or the ring's index, after a completion. -/
def Lane.canRelease (L : Lane) (c src : Nat) : Lane :=
  if src < 8 then
    ((L.setFlag (canReg c 0x38) src false).setFlag (canReg c 0x3C) src false).setFlag (canReg c 0x40) src true
  else
    let M := L.txrAdvance c
    if (M.canSt c).flushTo = some (M.txrRd c) then M.setCan c { M.canSt c with flushTo := none } else M

/-- A request completes (R491): TS, then CST, then the slot or the ring, the count and E37. -/
def Lane.canComplete (L : Lane) (c src res att : Nat) (ts : Word) : Lane :=
  let a := L.txAddr c src
  let w := L.word (a + 68)
  let M := L.storeWords (a + 72) [if res = 1 then ts else 0, BitVec.ofNat 32 (res + 256 * min 255 att)]
  let M := (M.canRelease c src).canCount c res
  if bitOf w 17 then M.raise 37 res c (BitVec.ofNat 32 (fieldNat w 24 8)) else M

/-- How a request completes without transmission, if it does: not ACTIVE, provisional, malformed.
(Log: DEDUCED, entry 87.) -/
def State.canRefusal (s : State) (l : LaneId) (c src : Nat) : Option Nat :=
  let L := s.lane l
  let a := L.txAddr c src
  let h := L.word (a + 64)
  let w := L.word (a + 68)
  let fd := bitOf w 7
  if s.emode l c ≠ 1 then some 2
  else if bitOf w 16 && !L.flag (canReg c 0) 6 then some 3
  else if (!fd && decide (8 < fieldNat w 0 7)) || (fd && bitOf h 30) then some 5
  else none

/-- Complete at once the entries at the head of the ring that are not to be sent; `n` bounds their number.
`fresh` tells that the head cannot be on the bus, so a withdrawn one completes too. -/
def State.canDrain (s : State) (l : LaneId) (c n : Nat) (fresh : Bool) : State :=
  match n with
  | 0 => s
  | n + 1 =>
    let L := s.lane l
    if !L.txPending c 8 then s
    else if fresh && (L.canSt c).flushTo.isSome then
      (s.modLane l (fun L => L.canComplete c 8 4 0 0)).canDrain l c n true
    else match s.canRefusal l c 8 with
      | some res => (s.modLane l (fun L => L.canComplete c 8 res 0 0)).canDrain l c n true
      | none => s

/-- Requests on urgent slots (R481, R490). -/
def State.canRequest (s : State) (l : LaneId) (c : Nat) (v : Word) : State :=
  if !(s.lane l).mramOk c then s.modLane l (fun L => L.mramErr c)
  else
    (bitsBelow v 8).foldl (fun s j =>
      if (s.lane l).flag (canReg c 0x38) j then s
      else
        let s := s.modLane l (fun L => L.setFlag (canReg c 0x38) j true)
        match s.canRefusal l c j with
        | some res => s.modLane l (fun L => L.canComplete c j res 0 0)
        | none => s) s

/-- TXU_REQ. -/
def execTxuReq (l : LaneId) (c : Fin 4) (v : Word) (s : State) : Host.Outcome State Fault Refusal :=
  .next (s.canRequest l c v)

/-- A write of TXR_WR (R488, R490, R499): ignored unless it advances the index within the free entries.  Entries that
are not to be sent complete at once, behind a head that may be on the bus at its completion (R479, R481).
(Log: DEDUCED, entry 87.) -/
def State.txrWrite (s : State) (l : LaneId) (c : Nat) (v : Word) : State :=
  let L := s.lane l
  let n := L.txrN c
  let p := canPos n (fieldNat v 0 6) (fieldNat v 6 1)
  let d := (p + 2 * n - L.txrWr c) % (2 * n)
  if n ≤ fieldNat v 0 6 ∨ d = 0 ∨ n < L.txrPending c + d then s
  else if !L.mramOk c then s.modLane l (fun L => L.mramErr c)
  else
    let t := s.modLane l (fun L => L.wr (canReg c 0x48) (v &&& 0x7F))
    if L.txPending c 8 && s.canTxen l c then t else t.canDrain l c 80 false

/-- TXR_WR. -/
def execTxrWr (l : LaneId) (c : Fin 4) (v : Word) (s : State) : Host.Outcome State Fault Refusal :=
  .next (s.txrWrite l c v)

/-- A write of TXU_ABORT: withdrawals requested of the pending slots. -/
def Lane.canAbort (L : Lane) (c : Nat) (v : Word) : Lane :=
  L.wr (canReg c 0x3C) (L.rd (canReg c 0x3C) ||| (v &&& L.rd (canReg c 0x38) &&& 0xFF))
/-- TXU_ABORT. -/
def execTxuAbort (l : LaneId) (c : Fin 4) (v : Word) (s : State) : Host.Outcome State Fault Refusal :=
  .next (s.modLane l (fun L => L.canAbort c v))

/-- A write of TXR_CTL with FLUSH 1. -/
def Lane.canFlush (L : Lane) (c : Nat) (v : Word) : Lane :=
  if bitOf v 0 && L.txPending c 8 then L.setCan c { L.canSt c with flushTo := some (L.txrWr c) } else L
/-- FLUSH. -/
def execFlush (l : LaneId) (c : Fin 4) (v : Word) (s : State) : Host.Outcome State Fault Refusal :=
  .next (s.modLane l (fun L => L.canFlush c v))

/-! ### Errors (R494, R495) -/

/-- The error counters and the error state (R494, ISO 11898-1): error-passive from 128, bus-off from 256.
(Log: PRESUMED, entry 86.) -/
def Lane.canErrors (L : Lane) (c tec rec_ : Nat) : Lane :=
  let was := L.fld (canReg c 4) 2 2
  let now := if was = 2 ∨ 256 ≤ tec then 2 else if 128 ≤ tec ∨ 128 ≤ rec_ then 1 else 0
  let L := L.setCan c { L.canSt c with tec := tec, rec_ := rec_ }
  let L := (L.wr (canReg c 0x14) (BitVec.ofNat 32 (min 255 tec + 256 * min 127 rec_ + 32768 * b2n (decide (128 ≤ rec_))))).setFld
    (canReg c 4) 2 2 now
  let L := if was ≠ now then L.raise 32 now c 0 else L
  if was ≠ 2 ∧ now = 2 then L.raise 33 1 c 0 else L

/-- A frame sent without error.
(Log: PRESUMED, entry 86.) -/
def Lane.canSentOk (L : Lane) (c : Nat) : Lane := L.canErrors c ((L.canSt c).tec - 1) (L.canSt c).rec_
/-- A frame received without error; a counter above 127 falls to a value from 119 to 127.
(Log: PRESUMED, entry 86.) -/
def Lane.canRecvOk (L : Lane) (c : Nat) : Lane :=
  let r := (L.canSt c).rec_
  if 127 < r then (L.canErrors c (L.canSt c).tec (119 + Config.freeNat L.free % 9)).useFree
  else L.canErrors c (L.canSt c).tec (r - 1)

/-- In data-phase detection a BRS frame with an error is a try at the rate (R484). -/
def Lane.detMiss (L : Lane) (c : Nat) (brs : Bool) : Lane :=
  let x := L.canSt c
  if x.det = 1 then L.setCan c { x with tries := 0 }
  else if x.det = 2 ∧ brs then
    if x.tries + 1 < 4 then L.setCan c { x with tries := x.tries + 1, brs := true }
    else L.setCan c { x with tries := 0, rate := (x.rate + 1) % 4, brs := true }
  else L

/-- CAN_BUS_ERROR: the counters that ISO 11898-1 then gives; those of a controller that is not ACTIVE stay.
(Log: PRESUMED, entry 86.) -/
def execCanBusError (l : LaneId) (c : Fin 4) (tec : Fin 512) (rec_ : Fin 256) (brs : Bool) (s : State) :
    Host.Outcome State Fault Refusal :=
  .next (if (s.lane l).running && s.power == 0 then
    match s.emode l c with
    | 1 => s.modLane l (fun L => L.canErrors c tec rec_)
    | 3 => s.modLane l (fun L => L.detMiss c brs)
    | _ => s
  else s)

/-- BUS_OFF_RECOVERY (R494): with ABOR 1, or after MODE 0 and then MODE 1. -/
def execBusOffRecovery (l : LaneId) (c : Fin 4) (s : State) : Host.Outcome State Fault Refusal :=
  .next (s.modLane l (fun L =>
    if L.fld (canReg c 4) 2 2 = 2 ∧ (L.flag (canReg c 0) 5 ∨ (L.canSt c).rearm = 2) then
      let M := (L.setFld (canReg c 4) 2 2 0).setCan c { L.canSt c with rearm := 0, tec := 0, rec_ := 0 }
      ((M.wr (canReg c 0x14) 0).raise 32 0 c 0).raise 33 2 c 0
    else L))

/-- CAN_DOMINANT_TIMEOUT (R495): of the transceiver, or of the bus. -/
def execCanDominantTimeout (l : LaneId) (c : Fin 4) (bus : Bool) (s : State) :
    Host.Outcome State Fault Refusal :=
  .next (s.modLane l (fun L =>
    let x := L.canSt c
    if bus then
      if x.busDom then L else ((L.setCan c { x with busDom := true }).setFlag (canReg c 4) 8 true).raise 38 2 c 0
    else if x.domTo then L
    else ((L.setCan c { x with domTo := true }).setFlag (canReg c 4) 7 true).raise 38 1 c 0))

/-- DOMINANT_FAULT_CLEAR (R495): 11 recessive bits end both conditions; the flags stay until written.
(Log: DEDUCED, entry 87.) -/
def execDominantFaultClear (l : LaneId) (c : Fin 4) (s : State) : Host.Outcome State Fault Refusal :=
  .next (s.modLane l (fun L => L.setCan c { L.canSt c with domTo := false, busDom := false }))

/-! ### Mode requests and the rind's record (R478, R479) -/

/-- The first part of a write of CTRL: the mode's own effects.
(Log: DEDUCED, entry 87.) -/
def Lane.canMode (L : Lane) (c was now : Nat) : Lane :=
  let x := L.canSt c
  let rearm := if now = 0 then 1 else if now = 1 ∧ x.rearm = 1 then 2 else x.rearm
  let rearm := if L.fld (canReg c 4) 2 2 = 2 then rearm else 0
  let L := L.setCan c { x with rearm := rearm, stopped := false }
  let L := if now = 0 then L.canWithdraw c else L
  if now = 3 ∧ was ≠ 3 then
    (L.setCan c { L.canSt c with det := 1, rate := 0, tries := 0, detAt := L.lt, dwellAt := L.lt, brs := false }).wr
      (canReg c 0x60) 0
  else if now ≠ 3 then L.setCan c { L.canSt c with det := 0 }
  else L

/-- A write of CTRL: requests of a controller that is no longer ACTIVE complete at their next arbitration. -/
def State.canCtrl (s : State) (l : LaneId) (c : Nat) (v : Word) : State :=
  s.modLane l (fun L =>
    let was := L.fld (canReg c 0) 0 2
    (L.plainWrite (canReg c 0) v).canMode c was (fieldNat v 0 2))

/-- CAN_MODE_REQUEST. -/
def execCanModeRequest (l : LaneId) (c : Fin 4) (v : Word) (s : State) : Host.Outcome State Fault Refusal :=
  .next (s.canCtrl l c v)

/-- CAN_TXEN_CHANGE: the end of an intermission on bus `b` after the record changed.
(Log: DEDUCED, entry 87.) -/
def execCanTxenChange (b : Fin 4) (s : State) : Host.Outcome State Fault Refusal :=
  let was := Tab.get s.rind.txen none b
  .next (if was = s.control then s
    else
      let s := s.modRind (fun r => { r with txen := Tab.set r.txen none b s.control })
      let say := fun (s : State) (l : LaneId) =>
        if was = some l ∨ s.control = some l then
          s.modLane l (fun L => L.raise 39 (s.emode l b) b 0) else s
      say (say s .a) .b)

/-- CAN_TX_COMPLETE: a pending request completes: sent, withdrawn, or not sent because the lane does not drive the
bus.
(Log: DEDUCED, entry 87.) -/
def State.canDone (s : State) (l : LaneId) (c src : Nat) (sent : Bool) (att : Nat) (ts : Word) : State :=
  let L := s.lane l
  let wd := s.power ≠ 0 ∨ (if src < 8 then L.flag (canReg c 0x3C) src = true else (L.canSt c).flushTo.isSome = true)
  let res := if sent then (if s.canTxen l c && L.fld (canReg c 4) 2 2 != 2 then 1 else 0)
    else if wd then 4 else if s.canTxen l c && s.emode l c == 1 then 0 else 2
  if !L.txPending c src ∨ res = 0 then s
  else if !L.mramOk c then s.modLane l (fun L => L.mramErr c)
  else
    let s := s.modLane l (fun L => L.canComplete c src res att ts)
    let s := if res = 1 then s.modLane l (fun L => L.canSentOk c) else s
    if src < 8 then s else s.canDrain l c 80 true

def execCanTxComplete (l : LaneId) (c : Fin 4) (src : CanSrc) (sent : Bool) (att : Nat) (ts : Word) (s : State) :
    Host.Outcome State Fault Refusal :=
  .next (s.canDone l c src sent att (s.stamp32 l ts))

/-- CAN_CONFIG_WRITE (R499): MRAM_BASE, RX_PART or TXR_CNT in INIT; an accepted write resets the rings. -/
def State.canConfig (s : State) (l : LaneId) (c which : Nat) (v : Word) : State :=
  let cnt := fieldNat v 0 7 + fieldNat v 8 7 + fieldNat v 16 5
  if s.emode l c ≠ 0 then s
  else if which = 1 ∧ (128 < cnt ∨ 16 < fieldNat v 16 5) then s.modLane l (fun L => L.setFlag (canReg c 4) 9 true)
  else
    s.modLane l (fun L =>
      let a := match which with
        | 0 => 0x18
        | 1 => 0x20
        | _ => 0x44
      let M := L.plainWrite (canReg c a) v
      let M := [0x24, 0x28, 0x2C, 0x30, 0x34, 0x38, 0x3C, 0x40, 0x48, 0x4C].foldl (fun M o => M.wr (canReg c o) 0) M
      M.setCan c { M.canSt c with flushTo := none })
def execCanConfigWrite (l : LaneId) (c : Fin 4) (which : Fin 3) (v : Word) (s : State) :
    Host.Outcome State Fault Refusal :=
  .next (s.canConfig l c which v)

/-- A write of NBT, DBT or RULE_CNT counts in INIT only (R483, R499). -/
def State.canInitWrite (s : State) (l : LaneId) (c a : Nat) (v : Word) : State :=
  if s.emode l c = 0 then s.modLane l (fun L => L.plainWrite a v) else s

/-! ### Rate detection (R484) -/

/-- NBT and DET code of the nominal rate on trial. -/
def nominalRate (i : Nat) : Word × Nat :=
  let w := fun (brp : Nat) => BitVec.ofNat 32 (brp + 63 * 256 + 16 * 65536 + 16 * 8388608)
  match i with
  | 0 => (w 4, 2)
  | 1 => (w 2, 3)
  | 2 => (w 8, 1)
  | _ => (w 1, 4)
/-- BRP, TSEG1, TSEG2, SJW of the data rate on trial. -/
def dataRate (i : Nat) : Nat :=
  match i with
  | 0 => 1 + 29 * 256 + 10 * 65536 + 10 * 1048576
  | 1 => 1 + 14 * 256 + 5 * 65536 + 5 * 1048576
  | 2 => 1 + 11 * 256 + 4 * 65536 + 4 * 1048576
  | _ => 1 + 7 * 256 + 2 * 65536 + 2 * 1048576

/-- Detection ends with a data code, 0 for none.
(Log: DEDUCED, entry 89.) -/
def Lane.detDone (L : Lane) (c data : Nat) : Lane :=
  let st := canReg c 0x60
  let M := (L.setCan c { L.canSt c with det := 0 }).setFld st 4 3 data
  (M.setFlag st 7 true).raise 34 (M.fld st 0 3) c (BitVec.ofNat 32 data)

/-- A good frame in DETECT. -/
def Lane.detGood (L : Lane) (c : Nat) (brs : Bool) : Lane :=
  let x := L.canSt c
  if x.det = 1 then
    if x.tries + 1 < 2 then L.setCan c { x with tries := x.tries + 1 }
    else
      let r := nominalRate x.rate
      ((L.setCan c { x with det := 2, rate := 0, tries := 0, detAt := L.lt, brs := false }).wr (canReg c 0xC) r.1).setFld
        (canReg c 0x60) 0 3 r.2
  else if x.det = 2 ∧ brs then
    (L.wr (canReg c 0x10) (BitVec.ofNat 32 (dataRate x.rate + fieldNat (L.rd (canReg c 0x10)) 24 7 * 16777216))).detDone c
      (x.rate + 1)
  else L

/-- CAN_DETECT_DWELL. -/
def execCanDetectDwell (l : LaneId) (c : Fin 4) (s : State) : Host.Outcome State Fault Refusal :=
  .next (s.modLane l (fun L =>
    let x := L.canSt c
    if x.det = 1 ∧ x.dwellAt + max 1 (L.fld (canReg c 0x64) 0 8) * 1000000 ≤ L.lt then
      L.setCan c { x with rate := (x.rate + 1) % 4, tries := 0, dwellAt := L.lt }
    else L))

/-- CAN_DETECT_TIMEOUT. -/
def execCanDetectTimeout (l : LaneId) (c : Fin 4) (s : State) : Host.Outcome State Fault Refusal :=
  .next (s.modLane l (fun L =>
    let x := L.canSt c
    if x.detAt + max 1 (L.fld (canReg c 0x64) 8 8) * 10000000 ≤ L.lt then
      if x.det = 1 then ((L.setCan c { x with det := 0 }).setFlag (canReg c 0x60) 8 true).raise 34 0 c 0
      else if x.det = 2 ∧ !x.brs then L.detDone c 0
      else L
    else L))

/-! ### Reception (R486 to R489) -/

/-- Words of a received frame. -/
def canWords (f : CanFrame) (rule : Nat) : List Word :=
  (List.range 16).map (fun i => bytesWord ((List.range 4).map (fun j => f.data.getD (4 * i + j) 0))) ++
  [BitVec.ofNat 32 (f.id.toNat + b2n f.esi * 536870912 + b2n f.rmt * 1073741824 + b2n f.ext * 2147483648),
   BitVec.ofNat 32 (f.data.length % 128 + b2n f.fd * 128 + b2n f.brs * 256 + rule * 512), f.ts, 0]

/-- Does a rule match (R487)? -/
def ruleMatches (w a b : Word) (f : CanFrame) : Bool :=
  let x := f.id.toNat
  let lo := fieldNat a 0 29
  let hi := fieldNat b 0 29
  bitOf w 0 && bitOf w 1 == f.ext && (match fieldNat w 2 2 with
    | 0 => decide (lo ≤ x ∧ x ≤ hi)
    | 1 => x == lo || x == hi
    | 2 => Nat.land x hi == Nat.land lo hi
    | _ => false)

/-- The first rule that matches. -/
def Lane.ruleOf (L : Lane) (c : Nat) (f : CanFrame) : Option Nat :=
  (List.range (L.fld (canReg c 0x1C) 0 8)).find? (fun i =>
    let a := L.mram c + 12 * i
    ruleMatches (L.word a) (L.word (a + 4)) (L.word (a + 8)) f)

/-- Where a frame goes: 0 nowhere, 1 and 2 streams, 3 a mailbox, with its number. -/
def Lane.canDest (L : Lane) (c : Nat) (rule : Option Nat) : Nat × Nat :=
  match rule with
  | none => (match L.fld (canReg c 0) 8 2 with
    | 1 => (1, 0)
    | 2 => (2, 0)
    | _ => (0, 0))
  | some i =>
    let w := L.word (L.mram c + 12 * i)
    match fieldNat w 4 3 with
    | 1 => (1, 0)
    | 2 => (2, 0)
    | 3 => if fieldNat w 7 4 < L.fld (canReg c 0x20) 16 5 then (3, fieldNat w 7 4) else (0, 0)
    | _ => (0, 0)

/-- Advance a stream's index register. -/
def Lane.strAdvance (L : Lane) (a n : Nat) : Lane :=
  let i := L.fld a 0 7
  if i + 1 < n then L.setFld a 0 7 (i + 1) else (L.setFld a 0 7 0).setFlag a 7 (!L.flag a 7)

/-- A frame is lost or overwritten. -/
def Lane.canLost (L : Lane) (c d0 : Nat) (d2 : Word) : Lane :=
  ((L.bump (canReg c 0x54)).setFlag (canReg c 4) 5 true).raise 35 d0 c d2

/-- E36 for a stored frame. -/
def Lane.canStored (L : Lane) (c dest : Nat) : Lane :=
  if L.flag (canReg c 0) (11 + dest) then L.raise 36 dest c 0 else L

/-- Store a frame in stream `k` (0 or 1). -/
def Lane.toStream (L : Lane) (c k : Nat) (ws : List Word) : Lane :=
  let n := L.fld (canReg c 0x20) (8 * k) 7
  let wr := canReg c (0x24 + 8 * k)
  let rd := canReg c (0x28 + 8 * k)
  let first := if k = 0 then 0 else L.fld (canReg c 0x20) 0 7
  let full := decide (L.fld wr 0 7 = L.fld rd 0 7) && (L.flag wr 7 != L.flag rd 7)
  if n = 0 ∨ (full ∧ ¬ L.flag (canReg c 0) (10 + k)) then L.canLost c 1 (BitVec.ofNat 32 k)
  else
    let M := if full then (L.strAdvance rd n).canLost c 1 (BitVec.ofNat 32 k) else L
    let M := M.storeWords (M.mram c + 0x600 + 80 * (first + M.fld wr 0 7)) ws
    (M.strAdvance wr n).canStored c (1 + k)

/-- Store a frame in a mailbox. -/
def Lane.toMailbox (L : Lane) (c j : Nat) (ws : List Word) : Lane :=
  let n := L.fld (canReg c 0x20) 0 7 + L.fld (canReg c 0x20) 8 7 + j
  let M := L.storeWords (L.mram c + 0x600 + 80 * n) ws
  let M := if M.flag (canReg c 0x34) j then (M.bump (canReg c 0x54)).setFlag (canReg c 4) 5 true |>.raise 35 2 c (BitVec.ofNat 32 j)
    else M
  (M.setFlag (canReg c 0x34) j true).canStored c 3

/-- A received frame is matched and stored. -/
def Lane.canStore (L : Lane) (c : Nat) (f : CanFrame) : Lane :=
  if f.rmt && L.flag (canReg c 0) 7 then L
  else if !L.mramOk c then L.mramErr c
  else
    let rule := L.ruleOf c f
    let d := L.canDest c rule
    let ws := canWords f (rule.getD 0x7F)
    match d.1 with
    | 1 => L.toStream c 0 ws
    | 2 => L.toStream c 1 ws
    | 3 => L.toMailbox c d.2 ws
    | _ => L

/-- CAN_FRAME_RX: a frame received without error; a controller in bus-off takes no part. -/
def execCanFrameRx (l : LaneId) (c : Fin 4) (f : CanFrame) (s : State) : Host.Outcome State Fault Refusal :=
  let m := s.emode l c
  let f := { f with ts := s.stamp32 l f.ts }
  .next (if (s.lane l).running && s.power == 0 && m != 0 && (s.lane l).fld (canReg c 4) 2 2 != 2 then
    s.modLane l (fun L =>
      let M := if m = 1 then L.canRecvOk c else if m = 3 then L.detGood c (f.fd && f.brs) else L
      M.canStore c f)
  else s)

/-- A write of RSn_RD (R488): a value that would pass RSn_WR is ignored. -/
def Lane.strRelease (L : Lane) (c k : Nat) (v : Word) : Lane :=
  let n := L.fld (canReg c 0x20) (8 * k) 7
  let pos := fun (w : Word) => canPos n (fieldNat w 0 7) (fieldNat w 7 1)
  let rd := canReg c (0x28 + 8 * k)
  let wr := pos (L.rd (canReg c (0x24 + 8 * k)))
  let now := pos (L.rd rd)
  if n ≤ fieldNat v 0 7 then L
  else if (pos v + 2 * n - now) % (2 * n) ≤ (wr + 2 * n - now) % (2 * n) then L.wr rd (v &&& 0xFF)
  else L

/-! ### Wake decoders (R496 to R498) -/

/-- CAN_WAKE_DOMINANT: a dominant phase of 2 us on bus `b` (CAN_EDGE in bits 4:1 of WAKE_EN). -/
def execCanWakeDominant (b : Fin 4) (s : State) : Host.Outcome State Fault Refusal :=
  .next (s.wakeBy (2 ^ (1 + b.val)))

/-- Does a classical data frame match (R497)? -/
def Rind.canMatch (r : Rind) (b : Nat) (f : CanFrame) (dlc : Nat) : Bool :=
  let cfg := r.rd (0x140 + 0x20 * b)
  let id := BitVec.ofNat 32 f.id.toNat
  let mask := pairNat (r.rd (0x14C + 0x20 * b)) (r.rd (0x150 + 0x20 * b))
  let data := bytesNat (f.data.take (min 8 dlc))
  bitOf cfg 3 == f.ext && ((id ^^^ r.rd (0x144 + 0x20 * b)) &&& r.rd (0x148 + 0x20 * b)) == 0 &&
    (!bitOf cfg 4 || fieldNat cfg 5 4 == dlc) && (!bitOf cfg 9 || Nat.land data mask != 0)

/-- CAN_WAKE_FRAME: the rind decodes a frame below RUN on a bus with its CAN_FRAME bit (bits 8:5 of WAKE_EN). -/
def State.canWake (s : State) (b : Nat) (ok : Bool) (f : CanFrame) (dlc : Nat) : State :=
  let st := 0x154 + 0x20 * b
  let n := s.rind.fld st 0 6
  if s.power = 0 ∨ ¬ s.rind.flag 0x108 (5 + b) ∨ f.fd then s
  else if !ok then
    let n := min 32 (n + 1)
    let s := s.modRind (fun r => r.setFld st 0 6 n)
    if n = 32 then (s.modRind (fun r => r.setFlag st 9 true)).wakeBy (2 ^ (5 + b)) else s
  else
    let s := s.modRind (fun r => r.setFld st 0 6 (n - 1))
    if !f.rmt && s.rind.canMatch b f dlc then (s.modRind (fun r => r.setFlag st 8 true)).wakeBy (2 ^ (5 + b)) else s

def execCanWakeFrame (b : Fin 4) (ok : Bool) (f : CanFrame) (dlc : Fin 16) (s : State) :
    Host.Outcome State Fault Refusal :=
  .next (s.canWake b ok f dlc)

end Sys2Proof.Machine
end

