-- ==== Sys2Proof/Machine/Fus.lean ====
section
/-!
DEFINITION. Fusion: sources, windows and replay, the nozzle class and the perception class (R263 to R292),
and the inertial samples of R19.
-/

namespace Sys2Proof.Machine

def Lane.slot (L : Lane) (i : Nat) : FusSlot := Tab.get L.fus.slots FusSlot.reset i
def Lane.setSlot (L : Lane) (i : Nat) (x : FusSlot) : Lane :=
  { L with fus := { L.fus with slots := Tab.set L.fus.slots FusSlot.reset i x } }

/-- SRC_CFG and SRC_STAT of a slot. -/
def srcCfg (i : Nat) : Nat := 0x40080200 + 8 * i
def srcStat (i : Nat) : Nat := 0x40080300 + 4 * i
/-- PERIOD of a slot in us. -/
def Lane.srcPer (L : Lane) (i : Nat) : Nat := (L.rd (0x40080204 + 8 * i)).toNat
def Lane.srcKind (L : Lane) (i : Nat) : Nat := L.fld (srcCfg i) 0 4
/-- A slot with its own clock (R268).
(Log: DEDUCED, entry 53.) -/
def Lane.srcOwnClock (L : Lane) (i : Nat) : Bool := !L.flag (srcCfg i) 7 && !L.flag (srcCfg i) 18
def Lane.srcUnal (L : Lane) (i : Nat) : Bool := L.srcOwnClock i && L.flag (srcStat i) 8
def Lane.srcStale (L : Lane) (i : Nat) : Bool := L.flag (srcStat i) 9

/-! ### Sources (R263 to R270) -/

/-- ORG_GO (R263). -/
def Lane.orgGo (L : Lane) : Lane :=
  if L.flag 0x40070000 0 then L.setFlag 0x40080004 12 true
  else { L with fus := { L.fus with orgPend := true } }
def execOrgGo (l : LaneId) (_v : Word) (s : State) : Host.Outcome State Fault Refusal :=
  .next (s.modLane l Lane.orgGo)

/-- A slot becomes UNALIGNED (R269). -/
def Lane.unalign (L : Lane) (i : Nat) : Lane :=
  let was := L.flag 0x40080078 i
  let L := (L.setFlag 0x40080078 i true).setFlag (srcStat i) 8 true
  if was then L else L.raise 53 1 i 0

/-- A write of SRC_CFG[i] (R269, R291). -/
def Lane.srcWrite (L : Lane) (i : Nat) (v : Word) : Lane :=
  let was := L.rd (srcCfg i)
  let L := L.plainWrite (srcCfg i) v
  let now := L.rd (srcCfg i)
  let key := fun (w : Word) => (fieldNat w 0 4, fieldNat w 8 5, bitOf w 7, bitOf w 18)
  let changed := key was ≠ key now
  let L := if changed then (L.setSlot i { L.slot i with last := none }).setFld (srcStat i) 0 5 0 else L
  let enabled := bitOf now 4 && !bitOf was 4
  let L := if enabled then L.setSlot i { L.slot i with at_ := L.lt } else L
  if !L.srcOwnClock i then (L.setFlag 0x40080078 i false).setFlag (srcStat i) 8 false
  else if changed || enabled then L.unalign i
  else L

/-- The mapping of a source stamp to LT in ticks (R85), rounded down.
(Log: DEDUCED, entry 53.) -/
def Lane.mapStamp (L : Lane) (x s : Nat) : Nat :=
  let a := 0x40020100 + 32 * x
  let tick : Rat := (((L.rd (a + 4)).toNat : Nat) : Rat) / 2560
  let skew : Rat := ((L.rd (a + 8)).toInt : Rat) / 1000000000
  let t : Rat := ((L.rd64 (a + 24) : Nat) : Rat) +
    (((s : Int) - ((L.rd64 (a + 16) : Nat) : Int) : Int) : Rat) * tick * (1 + skew)
  (max 0 t).floor.toNat

/-- The consistency count of R268 and re-admission under R269. -/
def Lane.srcConsistent (L : Lane) (i : Nat) (ok : Bool) : Lane :=
  if !L.srcOwnClock i then L
  else if ok then
    let n := min 16 (L.fld (srcStat i) 0 5 + 1)
    let L := L.setFld (srcStat i) 0 5 n
    if n = 16 ∧ L.flag (srcStat i) 8 then
      ((L.setFlag (srcStat i) 8 false).setFlag 0x40080078 i false).raise 53 2 i 0
    else L
  else (L.setFld (srcStat i) 0 5 0).unalign i

/-- Multiply a sample's sigmas by WIDEN while its slot is UNALIGNED (R269). -/
def Lane.widen (L : Lane) (i kind : Nat) (d : List Word) : List Word :=
  if !L.srcUnal i then d
  else
    let k := max 1 (L.fld (srcCfg i) 19 4)
    let sig := match kind with
      | 1 => [1]
      | 2 | 3 => [3, 4]
      | _ => [2]
    (List.range d.length).map (fun j =>
      if sig.contains j then toF32 (f32 (wd d j) * ((k : Nat) : Rat)) else wd d j)

/-- Order of processing of two inputs (R274): stamp, kind, slot.
(Log: DESIGN CHOICE, entry 51.) -/
def FusIn.before (a b : FusIn) : Bool :=
  if a.stamp ≠ b.stamp then decide (a.stamp < b.stamp)
  else if a.kind ≠ b.kind then decide (a.kind < b.kind)
  else decide (a.slot ≤ b.slot)

/-- Insert an input at its place in processing order. -/
def insertFus (x : FusIn) (xs : List FusIn) : List FusIn :=
  match xs with
  | [] => [x]
  | y :: ys => if y.before x then y :: insertFus x ys else x :: y :: ys

/-- An accepted input joins the stored ones of the nozzle class, of the perception class. -/
def Lane.addInput (L : Lane) (x : FusIn) : Lane := { L with fus := { L.fus with ins := insertFus x L.fus.ins } }
def Lane.addPcInput (L : Lane) (x : FusIn) : Lane := { L with fus := { L.fus with pins := insertFus x L.fus.pins } }

/-- The kind under which a class stores a sample of a source's KIND (R274). -/
def inKind (kind : Nat) : Nat :=
  match kind with
  | 1 => 2
  | 5 => 3
  | 2 => 4
  | _ => 5

/-- An accepted sample of a slot (R267, R270, R281): it waits for each class that runs and that its KIND may enter.
(Log: DEDUCED, entry 53.) -/
def Lane.acceptSample (L : Lane) (i kind stamp : Nat) (d : List Word) : Lane :=
  let L := L.setSlot i { L.slot i with last := some stamp, at_ := L.lt, data := d }
  let L := if L.srcStale i then
      ((L.setFlag (srcStat i) 9 false).setFlag 0x4008007C i false).raise 57 2 i 0
    else L
  let wide := L.srcUnal i
  if kind = 4 then
    let late := decide (stamp < L.fus.pcEnd)
    if L.flag 0x40080000 1 then
      { L with fus := { L.fus with objs := L.fus.objs ++ [ObjIn.mk stamp i (L.widen i 4 d) wide late] } }
    else L
  else
    let d := if kind = 1 then toF32 (f32 (wd d 0) * L.calA (12 + i)) :: d.drop 1 else d
    let L := if kind = 1 then L.setSlot i { L.slot i with speed := f32 (wd d 0) } else L
    let x : FusIn := { stamp := stamp, kind := inKind kind, slot := i, data := d, wide := wide, arr := L.lt, used := false,
                       par := [] }
    let L := if L.flag 0x40080000 0 && (kind == 1 || kind == 5) then L.addInput x else L
    if L.flag 0x40080000 1 then L.addPcInput { x with data := L.widen i kind d } else L

/-- FUSION_SUBMIT: the tests of R267 in their order.
(Log: DEDUCED, entry 53.) -/
def Lane.fusSubmit (L : Lane) (i : Nat) : Lane :=
  let kind := L.srcKind i
  let c := srcCfg i
  if L.flag c 18 then L
  else if !L.flag c 4 || kind == 0 || decide (5 < kind) then L
  else
    let x := L.fld c 8 5
    let own := !L.flag c 7
    if own && !L.flag (0x40020100 + 32 * x) 1 then L.srcConsistent i false
    else
      let raw := L.rd64 0x40080048
      let stamp := if own then L.mapStamp x raw else raw
      if L.lt < stamp then (L.bump 0x4008006C).srcConsistent i false
      else
        let ok := decide ((L.rd (0x40020100 + 32 * x + 12)).toInt.natAbs ≤ L.srcPer i * 1000)
        let L := L.srcConsistent i ok
        let late := match (L.slot i).last with
          | some t => decide (stamp ≤ t)
          | none => false
        if late then L.bump 0x40080068
        else if L.fld 0x40080008 0 8 * 100000 ≤ L.lt - stamp then
          let L := (L.bump 0x40080064).setFlag 0x40080004 8 true
          { L with fus := { L.fus with dropped := L.fus.dropped + 1 } }
        else
          L.acceptSample i kind stamp ((List.range 6).map (fun k => L.rd (0x40080030 + 4 * k)))

def execFusionSubmit (l : LaneId) (v : Word) (s : State) : Host.Outcome State Fault Refusal :=
  .next (s.modLane l (fun L => L.fusSubmit (fieldNat v 0 5)))

/-- FUSION_SOURCE_STALE (R270). -/
def execFusionSourceStale (l : LaneId) (i : Fin 32) (s : State) : Host.Outcome State Fault Refusal :=
  .next (s.modLane l (fun L =>
    let due := (L.slot i).at_ + max 1 (L.fld (srcCfg i) 24 8) * L.srcPer i * 100
    if L.flag (srcCfg i) 4 && !L.srcStale i && decide (due ≤ L.lt) then
      ((L.setFlag (srcStat i) 9 true).setFlag 0x4008007C i true).raise 57 1 i 0
    else L))

/-! ### Inertial samples (R19, R277) -/

/-- The parameters a class holds with an input (R263, R278, R311, R312): GATE, the origin in use, the applied value of each
calibration quantity, and 1 for each that is refined, so that the filter knows the frozen ones. -/
def Lane.fusPar (L : Lane) : List Rat :=
  [((L.fld 0x40080008 8 8 : Nat) : Rat)] ++ (List.range 3).map (fun k => (((wd L.fus.org k).toInt : Int) : Rat)) ++
    (List.range 92).map L.calA ++ (List.range 92).map (fun i => ((b2n (L.calRefined i) : Nat) : Rat))

/-- Axis `k` of stream `which` corrected by its own bias and misalignment estimates (R277). -/
def imuAxis (st par : List Rat) (which k : Nat) (w : List Word) : Rat :=
  f32 (wd w k) - Config.estimate 11 w (st ++ par) (6 * which + k)

/-- Do the corrected streams differ by more than IMU_TOL in any axis? -/
def Lane.imuDiffers (L : Lane) (a b : List Word) : Bool :=
  (List.range 6).any (fun k =>
    let tol : Rat := ((L.fld 0x4008000C (if k < 3 then 0 else 16) 16 : Nat) : Rat) / 1000
    let d := imuAxis L.fus.run.st L.fusPar 0 k a - imuAxis L.fus.run.st L.fusPar 1 k b
    decide (tol < d) || decide (d < -tol))

/-- The raw samples of a stream in the half-open window that ends at `t` (R13). -/
def Lane.rawIn (L : Lane) (which t len : Nat) : List (Nat × Nat × List Word) :=
  L.fus.raws.filter (fun m => m.1 == which && decide (t ≤ m.2.1 + len ∧ m.2.1 < t))

/-- Sum of normalised innovations squared that one stream alone would have given over the last 100 ms (R277). -/
def Lane.imuNis (L : Lane) (which : Nat) : Rat :=
  Config.estimate 13 ((L.rawIn which (L.lt + 1) 10000000).flatMap (fun m => m.2.2)) (L.fus.run.st ++ L.fusPar) which

/-- Compare the own sample with the partner's latest (R277): 10 consecutive differences exclude a stream, a second without
one re-admits it. -/
def Lane.imuCompare (L : Lane) (l : LaneId) (stamp : Nat) (w other_ : List Word) : Lane :=
  let far := L.imuDiffers w other_
  match L.fus.excl with
  | some _ =>
    if far then { L with fus := { L.fus with okSince := none } }
    else
      let since := L.fus.okSince.getD stamp
      if since + 100000000 ≤ stamp then
        { L with fus := { L.fus with excl := none, okSince := none, diff := 0 } }.raise 52 3 0 0
      else { L with fus := { L.fus with okSince := some since } }
  | none =>
    let n := if far then L.fus.diff + 1 else 0
    if 10 ≤ n then
      let out := if L.imuNis 0 < L.imuNis 1 then other l else l
      let L := { L with fus := { L.fus with diff := 0, excl := some out, okSince := none } }
      (L.setFlag 0x40080004 6 true).raise 52 2 (laneNo out) 0
    else { L with fus := { L.fus with diff := n } }

/-- A sample of stream `which` (0 own, 1 partner) of lane `l` (R277); the nozzle class compares the streams and stores the
sample while it runs. -/
def Lane.imuArrive (L : Lane) (l : LaneId) (which stamp : Nat) (w : List Word) : Lane :=
  let L := { L with fus := { L.fus with
    imu := Tab.set L.fus.imu (0, []) which (stamp, w)
    raws := L.fus.raws.filter (fun m => decide (stamp ≤ m.2.1 + 110000000)) ++ [(which, stamp, w)] } }
  if !L.flag 0x40080000 0 then L
  else
    let L := L.addInput { stamp := stamp, kind := 0, slot := which, data := w, wide := false, arr := L.lt, used := false,
                          par := [] }
    let other_ := Tab.get L.fus.imu (0, []) (1 - which)
    if which ≠ 0 ∨ other_.2 = [] ∨ other_.1 + 150000 < stamp then L
    else L.imuCompare l stamp w other_.2

/-- IMU_SAMPLE: the lane reads its own IMU die and forwards the sample (R19). -/
def execImuSample (l : LaneId) (gx gy gz ax ay az : Word) (s : State) : Host.Outcome State Fault Refusal :=
  .next (if (s.lane l).alive && s.power == 0 then
    let w := [gx, gy, gz, ax, ay, az]
    let t := (s.lane l).lt
    let s := s.modLane l (fun L => L.imuArrive l 0 t w)
    if s.laneLink && (s.lane (other l)).alive then
      s.modLane (other l) (fun L => L.imuArrive (other l) 1 t w)
    else s
  else s)

/-- Stream `which` is used by a cycle (R277): it is selected, not excluded, and its last sample is at most
1.5 ms old. -/
def Lane.imuUse (L : Lane) (l : LaneId) (t0 which : Nat) : Bool :=
  let m := Tab.get L.fus.imu (0, []) which
  let lane_ := if which = 0 then l else other l
  let sel := match L.fld 0x40080000 2 2 with
    | 1 => which == 0
    | 2 => which == 1
    | _ => L.fus.excl != some lane_
  sel && m.2 != [] && decide (t0 ≤ m.1 + 150000)

/-! ### The nozzle class (R271 to R280, R283 to R285) -/

/-- The words that name an input to the filter. -/
def FusIn.head (x : FusIn) : List Word :=
  [BitVec.ofNat 32 x.kind, BitVec.ofNat 32 x.slot, loWord x.stamp, hiWord x.stamp]

/-- The six rates of an inertial step (R277): those of the stream alone, or the mean of both, each corrected.
(Log: DESIGN CHOICE, entry 51.) -/
def FusIn.rates (x : FusIn) (st : List Rat) : List Rat :=
  (List.range 6).map (fun k =>
    match x.slot with
    | 0 => imuAxis st x.par 0 k x.data
    | 1 => imuAxis st x.par 1 k x.data
    | _ => (imuAxis st x.par 0 k (x.data.take 6) + imuAxis st x.par 1 k (x.data.drop 6)) / 2)

/-- The gate of R278 on a measurement, against the state propagated to its stamp, and the consistency of its antenna; whether
it enters the update.
(Log: DESIGN CHOICE, entry 51; DEDUCED, entry 52.) -/
def FusRun.gateTest (r : FusRun) (x : FusIn) : FusRun × Bool :=
  let rej := decide (x.par.getD 0 0 / 10 < Config.estimate 12 x.data (r.st ++ x.par) 0)
  let gate := r.gate.filter (fun m => decide (x.stamp < m.2.1 + 100000000)) ++ [(x.slot, x.stamp, rej)]
  let own := gate.filter (fun m => m.1 == x.slot)
  let bad := own.countP (fun m => m.2.2)
  let was := r.inc.contains x.slot
  let inc :=
    if !was && decide (8 ≤ own.length ∧ own.length < 2 * bad) then r.inc ++ [x.slot]
    else if was && decide (10 * bad ≤ own.length) then r.inc.filter (fun a => a != x.slot)
    else r.inc
  let ok := !rej && !inc.contains x.slot
  ({ r with gate := gate, inc := inc, out := r.out ++ [(rej, ok)] }, ok)

/-- The filter states e - a after the applied values have moved (R311); those of frozen parameters are 0 (R312).
(Log: DESIGN CHOICE, entry 51.) -/
def calMoved (st par : List Rat) : List Rat :=
  (List.range (max 212 st.length)).map (fun k =>
    if 20 ≤ k ∧ k < 112 then
      (if par.getD (72 + k) 0 = 0 then 0 else st.getD k 0 - par.getD (k - 20) 0)
    else st.getD k 0)

/-- The filter states e - a and their sigmas after a load (R317).
(Log: DESIGN CHOICE, entry 51.) -/
def calSet0 (st par : List Rat) : List Rat :=
  (List.range (max 212 st.length)).map (fun k =>
    if 20 ≤ k ∧ k < 112 then 0
    else if 120 ≤ k ∧ k < 212 then par.getD (k - 120) 0
    else st.getD k 0)

/-- One stored input of the nozzle class applied to its state (R274, R276).
(Log: DESIGN CHOICE, entry 51.) -/
def FusRun.step (r : FusRun) (x : FusIn) : FusRun :=
  match x.kind with
  | 0 => { r with st := Config.fuseInput 0 r.st (x.par ++ x.rates r.st) x.head }
  | 1 =>
    let t := r.gateTest x
    if t.2 then { t.1 with st := Config.fuseInput 0 r.st x.par (x.head ++ x.data) } else t.1
  | 9 => { r with st := calMoved r.st x.par }
  | 10 => { r with st := calSet0 r.st x.par }
  | _ => { r with st := Config.fuseInput 0 r.st x.par (x.head ++ x.data) }

/-- The stored inputs of the nozzle class applied in order to a state (R272 to R274).
(Log: DESIGN CHOICE, entry 51.) -/
def FusRun.runAll (r : FusRun) (xs : List FusIn) : FusRun := xs.foldl FusRun.step { r with out := [] }

/-- The stored inputs of the perception class likewise.
(Log: DESIGN CHOICE, entry 51.) -/
def runInputs (base : List Rat) (xs : List FusIn) : List Rat :=
  xs.foldl (fun st x => Config.fuseInput 1 st x.par (x.head ++ x.data)) base

/-- A new input on its way into the nozzle class at the cycle of `t0` (R265, R269, R270, R277): of an inertial sample the
step it makes, a source's sample only with NCL set, and neither stale nor UNALIGNED.
(Log: DEDUCED, entry 53.) -/
def Lane.ncEnter (L : Lane) (l : LaneId) (t0 : Nat) (x : FusIn) : Option FusIn :=
  match x.kind with
  | 0 =>
    let both := L.imuUse l t0 0 && L.imuUse l t0 1
    if both then
      (if x.slot = 0 then
        let near := (L.fus.raws.filter (fun m => m.1 == 1 && decide (m.2.1 ≤ x.stamp))).getLast?
        some { x with slot := 2, data := x.data ++ (near.map (fun m => m.2.2)).getD (Tab.get L.fus.imu (0, []) 1).2 }
      else none)
    else if L.imuUse l t0 x.slot then some x else none
  | 1 => some x
  | _ =>
    if L.flag (srcCfg x.slot) 4 && L.flag (srcCfg x.slot) 5 && !L.srcStale x.slot && !L.srcUnal x.slot && !x.wide then some x
    else none

/-- The parameters of the cycle to whose window a stamp belongs: a late input takes those its window had (R273).
(Log: DESIGN CHOICE, entry 51.) -/
def Lane.parFor (L : Lane) (t0 stamp : Nat) : List Rat :=
  if t0 ≤ stamp + 100000 then L.fusPar
  else
    let fin := (stamp / 100000 + 1) * 100000
    ((L.fus.ins.filter (fun y => y.used && y.kind == 0 && decide (y.stamp < fin))).getLast?.map FusIn.par).getD L.fusPar

/-- Sort out the inputs that have come for the cycle of `t0`: what enters, with its parameters; the rest is dropped. -/
def Lane.enterAll (L : Lane) (l : LaneId) (t0 : Nat) : Lane :=
  let new := (L.fus.ins.filter (fun x => !x.used && decide (x.stamp < t0))).filterMap (fun x =>
    (L.ncEnter l t0 x).map (fun y => { y with par := L.parFor t0 y.stamp }))
  let rest := L.fus.ins.filter (fun x => x.used || decide (t0 ≤ x.stamp))
  { L with fus := { L.fus with ins := new.foldl (fun xs x => insertFus x xs) rest } }

/-- WHEEL slots read from a feedback input in a rate mode at each whole millisecond (R266).
(Log: DEDUCED, entry 53.) -/
def Lane.readWheels (L : Lane) : Lane :=
  (List.range 32).foldl (fun L i =>
    let c := srcCfg i
    let n := L.fld c 13 5
    let t := L.rd64 (encReg n 0x24)
    let new := match (L.slot i).last with
      | some u => decide (u < t)
      | none => true
    if L.flag c 4 && L.srcKind i == 1 && L.flag c 18 && decide (n < 24) && (L.encK n).isSome && new &&
        (L.encSt n).last.isSome then
      L.acceptSample i 1 t [L.rd (encReg n 0x18), 0]
    else L) L

/-- What the tests of a cycle's new measurements leave (R278, R279): rejections counted, antennas that turn inconsistent or
consistent, and when measurements were accepted. -/
def Lane.gateReport (L : Lane) (tested : List (FusIn × Bool × Bool)) (inc : List Nat) : Lane :=
  let new := tested.filter (fun t => !t.1.used)
  let ok := (new.filter (fun t => t.2.2)).map Prod.fst
  let L := (new.filter (fun t => t.2.1)).foldl (fun (L : Lane) _ => L.bump 0x40080070) L
  let L := (List.range 2).foldl (fun (L : Lane) a =>
    let now := inc.contains a
    if L.flag 0x40080004 (9 + a) = now then L
    else (L.setFlag 0x40080004 (9 + a) now).raise 55 (if now then a else 16 + a) 0 0) L
  ok.foldl (fun (L : Lane) x =>
    { L with fus := { L.fus with
      gnssAt := some (max x.arr (L.fus.gnssAt.getD 0))
      fixAt := if bitOf (wd x.data 2) 13 then some (max x.arr (L.fus.fixAt.getD 0)) else L.fus.fixAt } }) L

/-- An input of the filter at the end of the window of `t0` that the cycle itself makes. -/
def Lane.ownInput (L : Lane) (t0 kind slot : Nat) (data : List Word) (par : List Rat) : Lane :=
  L.addInput { stamp := t0 - 1, kind := kind, slot := slot, data := data, wide := false, arr := t0, used := true, par := par }

/-- Roll and pitch can be taken (R280): every WHEEL source has reported a speed below 0.05 m/s for 1 s, or without one the
accelerometer magnitude has varied by less than 0.05 m/s2 over 1 s. -/
def Lane.levelReady (L : Lane) (t0 : Nat) (noWheel : Bool) : Bool :=
  if noWheel then
    match (L.rawIn 0 t0 100000000).map (fun (m : Nat × Nat × List Word) => (m.2.1, Config.sqrt ((List.range 3).foldl (fun (a : Rat) k =>
        a + f32 (wd m.2.2 (3 + k)) * f32 (wd m.2.2 (3 + k))) 0))) with
    | [] => false
    | m :: rest =>
      let lo := rest.foldl (fun a q => min a q.2) m.2
      let hi := rest.foldl (fun a q => max a q.2) m.2
      decide (m.1 + 99900000 ≤ t0) && decide (hi - lo < 1 / 20)
  else match L.fus.still with
    | some t => decide (t + 100000000 ≤ t0)
    | none => false

/-- Where heading is to be taken from (R280), first come first: 1 the baseline with fixed ambiguities, 2 the course over
ground, 3 an aligned EXTPOS; and its words. -/
def Lane.headingSource (L : Lane) : Option (Nat × List Word) :=
  let ve := L.rd 0x400A0124
  let vn := L.rd 0x400A0128
  if L.fld 0x400A0004 3 2 = 2 then some (1, (List.range 32).map (fun k => L.rd (0x400A0100 + 4 * k)))
  else if 1 ≤ L.fld 0x400A0004 0 3 ∧ 9 / 4 ≤ f32 ve * f32 ve + f32 vn * f32 vn then some (2, [ve, vn])
  else (L.fus.ins.find? (fun x => x.kind == 3 && !x.wide && !L.srcUnal x.slot && f32Finite (wd x.data 3))).map
    (fun x => (3, [wd x.data 3]))

/-- Initialisation of attitude (R280): what it takes enters the filter.
(Log: DEDUCED, entry 53.) -/
def Lane.initAttitude (L : Lane) (t0 : Nat) : Lane :=
  let wheels := (List.range 32).filter (fun i => L.flag (srcCfg i) 4 && L.srcKind i == 1)
  let slow := wheels.all (fun i => (L.slot i).last.isSome && !L.srcStale i &&
    decide ((L.slot i).speed < 1 / 20 ∧ -(1 / 20) < (L.slot i).speed))
  let still := if wheels.isEmpty then L.fus.still else if slow then some (L.fus.still.getD t0) else none
  let L := { L with fus := { L.fus with still := still } }
  match L.fus.att with
  | 0 =>
    if L.levelReady t0 wheels.isEmpty then
      ({ L with fus := { L.fus with att := 1 } }).ownInput t0 7 0
        ((L.rawIn 0 t0 100000000).flatMap (fun (m : Nat × Nat × List Word) => m.2.2.drop 3)) L.fusPar
    else L
  | 1 =>
    match L.headingSource with
    | some (k, ws) => ({ L with fus := { L.fus with att := 2 } }).ownInput t0 7 k ws L.fusPar
    | none => L
  | _ => L

/-- NC_Q of R279 at a cycle.
(Log: DEDUCED, entry 52.) -/
def Lane.ncQuality (L : Lane) (l : LaneId) (t0 : Nat) : Nat :=
  let recent := fun (o : Option Nat) => match o with
    | some t => decide (t0 < t + 20000000)
    | none => false
  if !L.flag 0x40080000 0 || L.fus.att != 2 || !(L.imuUse l t0 0 || L.imuUse l t0 1) then 0
  else if !L.flag 0x40080004 7 || !recent L.fus.gnssAt then 1
  else if recent L.fus.fixAt then 3
  else 2

/-- NC_Q and FIX_OK, and E52 with data 1 at a change. -/
def Lane.setQuality (L : Lane) (q : Nat) (ok : Bool) : Lane :=
  if L.fld 0x40080004 0 2 = q ∧ L.flag 0x40080004 2 = ok then L
  else ((L.setFld 0x40080004 0 2 q).setFlag 0x40080004 2 ok).raise 52 1 0 0

/-- STAT.NO_PC is 1 while the track engine runs without the perception class (R302, R308): as this begins every entry is
FREE, every candidate gone, and E58 is raised; the table is released at the next chance (R304). -/
def Lane.checkNoPc (L : Lane) : Lane :=
  let now := L.flag 0x40090000 0 && !L.flag 0x40080000 1
  if L.flag 0x40090004 16 = now then L
  else if now then
    let M := { L with trk := { L.trk with tracks := [], cands := [], noPc := true, freeDue := true } }
    ((M.setFlag 0x40090004 16 true).setFld 0x40090004 0 9 0).raise 58 4 0 0
  else { L with trk := { L.trk with noPc := false } }.setFlag 0x40090004 16 false

/-- No inertial stream is in use (R277). -/
def Lane.imuOff (L : Lane) : Lane := (L.setFlag 0x40080004 4 false).setFlag 0x40080004 5 false

/-- A write of FUS.CTRL: a class that is disabled holds no estimate (R279, R282). -/
def Lane.fusCtrl (L : Lane) (v : Word) : Lane :=
  let was := L.rd 0x40080000
  let L := L.plainWrite 0x40080000 v
  let now := L.rd 0x40080000
  let L :=
    if bitOf was 0 ≠ bitOf now 0 then
      ({ L with fus := { L.fus with
          base := FusRun.reset, run := FusRun.reset, att := 0, still := none, ins := [], ncs := [] } }.imuOff).setQuality 0 false
    else L
  let L :=
    if bitOf was 1 && !bitOf now 1 then
      let L := { L with fus := { L.fus with pcBase := [], pins := [], objs := [], fwd := [], line0 := false } }
      if L.flag 0x40080004 3 then (L.setFlag 0x40080004 3 false).raise 56 1 0 0 else L
    else L
  L.checkNoPc

/-- AGE in us (R283), saturating. -/
def ageOf (tov : Nat) (stamps : List (Option Nat)) : Word :=
  match stamps.filterMap id with
  | [] => 0
  | t :: rest => satWord ((tov - rest.foldl (fun a b => min a b) t) / 100)

/-- The nozzle class's stamps for AGE. -/
def Lane.ncStamps (L : Lane) (l : LaneId) (t0 q : Nat) : List (Option Nat) :=
  (List.range 2).map (fun w => if L.imuUse l t0 w then
      (L.fus.raws.filter (fun m => m.1 == w && decide (m.2.1 < t0))).getLast?.map (fun m => m.2.1)
    else none) ++
  [if 2 ≤ q then (L.fus.ins.filter (fun x => x.kind == 1 && x.used)).getLast?.map FusIn.stamp else none] ++
  (List.range 32).map (fun i =>
    if L.flag (srcCfg i) 4 && L.flag (srcCfg i) 5 && !L.srcStale i && !L.srcUnal i then (L.slot i).ncAt else none)

/-- Two pi. -/
def twoPi : Rat := 62831853071795865 / 10000000000000000
/-- An angle brought to 0 to 2 pi (R264). -/
def heading2Pi (a : Rat) : Rat := a - twoPi * (((a / twoPi).floor : Int) : Rat)

/-- The words of NC_OUT from the state of the estimate (R284): the position in the field frame of the origin in use (R263).
(Log: DESIGN CHOICE, entry 51.) -/
def Lane.ncWords (L : Lane) (t0 q : Nat) (ok rpl gnss a b : Bool) (age : Word) (est : List Rat) : List Word :=
  let v := fun (k : Nat) => est.getD k 0
  let set := L.flag 0x40080004 7
  let pos := fun (k : Nat) => if set then satInt (roundHalfUp (Config.estimate 14 L.fus.org est k * 10000)) else 0
  let flags := q + 4 * b2n ok + 8 * b2n rpl + 16 * b2n a + 32 * b2n b + 64 * b2n gnss
  [L.nc 0 + 1, loWord t0, hiWord t0, age, BitVec.ofNat 32 flags, pos 0, pos 1, pos 2] ++
    (List.range 14).map (fun (k : Nat) => toF32 (if k = 5 then heading2Pi (v 8) else v (3 + k))) ++ [0, 0]

/-- Write words to consecutive registers. -/
def Lane.wrWords (L : Lane) (a : Nat) (ws : List Word) : Lane :=
  (List.range ws.length).foldl (fun L i => L.wr (a + 4 * i) (wd ws i)) L

/-- The comparison of R285 once both positions of one TOV are known. -/
def Lane.comparePeer (L : Lane) : Lane :=
  match L.fus.mine, L.fus.peer with
  | some (t, e, n), some (u, pe, pn) =>
    if t = u then
      let de : Rat := ((e - pe : Int) : Rat) / 10
      let dn : Rat := ((n - pn : Int) : Rat) / 10
      let d := (roundHalfUp (Config.sqrt (de * de + dn * dn))).toNat
      let far := decide (L.fld 0x40080028 0 16 < d)
      let was := L.flag 0x40080004 11
      let L := (L.wr 0x40080024 (satWord d)).setFlag 0x40080004 11 far
      if far && !was then L.raise 52 4 0 0 else L
    else L
  | _, _ => L

/-- The inputs before an instant are in the class's estimate from now on. -/
def markUsed (t0 : Nat) (xs : List FusIn) : List FusIn :=
  xs.map (fun x => if x.stamp < t0 then { x with used := true } else x)

/-- Mark what the nozzle class has taken, in its slots and in its store. -/
def Lane.markNc (L : Lane) (t0 : Nat) : Lane :=
  let new := L.fus.ins.filter (fun x => !x.used && decide (x.stamp < t0) && (x.kind == 2 || x.kind == 3))
  let L := new.foldl (fun (L : Lane) x =>
    L.setSlot x.slot { L.slot x.slot with ncAt := some (max x.stamp ((L.slot x.slot).ncAt.getD 0)) }) L
  { L with fus := { L.fus with ins := markUsed t0 L.fus.ins } }

/-- Used inputs older than any that a replay can still precede join the stored state: 50 ms beyond the longest HORIZON.
(Log: DESIGN CHOICE, entry 51.) -/
def Lane.trimInputs (L : Lane) (t0 : Nat) : Lane :=
  let old := fun (x : FusIn) => x.used && decide (x.stamp + 25000000 < t0)
  { L with fus := { L.fus with
      base := { L.fus.base.runAll (L.fus.ins.filter old) with out := [] }
      ins := L.fus.ins.filter (fun x => !old x) } }

/-- The replay bank belongs to fusion (R275). -/
def Lane.replayBank (L : Lane) : Bool := L.ownedBy 2 (L.rd 0x40080020).toNat 0x40000

/-- What the replay bank holds after a cycle (R275): the stored states and inputs, in a format the spec does not give.
(Log: DESIGN CHOICE, entry 51.) -/
def Lane.fillReplay (L : Lane) : Lane :=
  (L.engWrite .fusion (L.rd 0x40080020).toNat (Config.freeBytes L.free 0x40000)).useFree

/-- The replay bank is not fusion's at the start of a cycle (R275): no output, NC_Q 0, E52; and the stored states and inputs
that the bank held are lost, so that the estimate goes on from one that the spec does not give.
(Log: DESIGN CHOICE, entry 51.) -/
def Lane.loseReplay (L : Lane) : Lane :=
  let st := (List.range 212).map (fun k => Config.freeRat (L.free + k))
  let M := { L with fus := { L.fus with
    ins := [], pins := [], base := { FusRun.reset with st := st }, run := { FusRun.reset with st := st }, pcBase := st } }
  (((M.useFree).imuOff).setQuality 0 false).raise 52 5 0 0

/-- Refine every parameter at a cycle's end, and tell the filter how far the applied values moved (R311, R312). -/
def Lane.calCycle (L : Lane) (l : LaneId) (t0 : Nat) (st : List Rat) : Lane :=
  let M := (List.range 92).foldl (fun (M : Lane) i => M.calRefine i (st.getD (20 + i) 0) (st.getD (120 + i) 0)) L
  let moves := (List.range 92).map (fun i => (M.calPar i).a - (L.calPar i).a)
  let M := M.ownInput t0 9 0 [] (moves ++ (List.range 92).map (fun i => ((b2n (L.calRefined i) : Nat) : Rat)))
  let N := (List.range 92).foldl (fun (N : Lane) i => N.calConverge l i) M
  N.calCond l

/-- What the perception class may take of an output as its prior (R281): velocity, yaw rate and their sigmas. -/
def priorWords (ws : List Word) (st : List Rat) : List Word :=
  [wd ws 8, wd ws 9, wd ws 16, wd ws 21, toF32 (Config.estimate 16 [] st 0)]

/-- The nozzle-class cycle of `t0` once the bank is there. -/
def Lane.ncCycle (L : Lane) (l : LaneId) (t0 : Nat) : Lane :=
  let L := (L.initAttitude t0).enterAll l t0
  let xs := L.fus.ins.filter (fun x => decide (x.stamp < t0))
  let rpl := xs.any (fun x => !x.used && decide (x.stamp + 100000 < t0))
  let run := L.fus.base.runAll xs
  let tested := List.zip (xs.filter (fun x => x.kind == 1)) run.out
  let gnss := tested.any (fun t => !t.1.used && t.2.2)
  let L := L.gateReport tested run.inc
  let est := run.st
  let q := L.ncQuality l t0
  let lim : Rat := ((L.fld 0x40080008 16 8 : Nat) : Rat) / 1000
  let ok := q == 3 && decide (est.getD 13 0 ≤ lim) && decide (est.getD 14 0 ≤ lim)
  let a := L.imuUse l t0 (if laneNo l = 0 then 0 else 1)
  let b := L.imuUse l t0 (if laneNo l = 0 then 1 else 0)
  let L := (L.setFlag 0x40080004 4 (L.imuUse l t0 0)).setFlag 0x40080004 5 (L.imuUse l t0 1)
  let L := ({ L with fus := { L.fus with run := run } }.setQuality q ok).markNc t0
  let ws := L.ncWords t0 q ok rpl gnss a b (ageOf t0 (L.ncStamps l t0 q)) est
  let L := ((L.wrWords 0x40080080 ws).calCycle l t0 est).trimInputs t0
  let L := if rpl then L.bump 0x40080060 else L
  let L := { L with fus := { L.fus with
    mine := some (t0, (wd ws 5).toInt, (wd ws 6).toInt)
    ncs := L.fus.ncs.drop (L.fus.ncs.length - 99) ++ [(t0, priorWords ws est)] } }
  L.fillReplay

/-- The origin asked for is taken into use (R263). -/
def Lane.takeOrigin (L : Lane) : Lane :=
  if L.fus.orgPend then
    let M := { L with fus := { L.fus with
      orgPend := false, org := [L.rd 0x40080010, L.rd 0x40080014, L.rd 0x40080018] } }
    M.setFlag 0x40080004 7 true
  else L

/-- E54 of a cycle, with the samples dropped since the last (R267, R286).
(Log: DEDUCED, entry 53.) -/
def Lane.reportDrops (L : Lane) : Lane :=
  let n := L.fus.dropped
  if n = 0 then L
  else
    let M := { L with fus := { L.fus with dropped := 0 } }
    M.raise 54 0 0 (BitVec.ofNat 32 n)

/-- A whole nozzle-class cycle of a lane.
(Log: DESIGN CHOICE, entry 51.) -/
def Lane.ncRun (L : Lane) (l : LaneId) (t0 : Nat) : Lane :=
  let L := { L with fus := { L.fus with t0 := t0 } }
  let r := (L.takeOrigin).calLoadNow l
  let L := if r.2 then
      r.1.ownInput (t0 - 100000) 10 0 [] ((List.range 92).map r.1.calSigma)
    else r.1
  let L := if L.replayBank then L.ncCycle l t0 else ((L.loseReplay).refusedAt (L.rd 0x40080020).toNat).calCond l
  (L.calSnapNow).reportDrops

/-- The partner's position of its latest output arrives (R285).
(Log: DEDUCED, entry 106.) -/
def Lane.takePeer (L : Lane) (p : Option (Nat × Int × Int)) : Lane :=
  let M := { L with fus := { L.fus with peer := p } }
  M.comparePeer

/-- FUSION_NC_CYCLE: the cut-off of the window that ends at the latest t0 with t0 + 200 us reached (R271).
(Log: DESIGN CHOICE, entry 10.) -/
def execFusionNcCycle (l : LaneId) (s : State) : Host.Outcome State Fault Refusal :=
  let L := s.lane l
  let t0 := (L.lt - 20000) / 100000 * 100000
  .next (if L.running && s.power == 0 && L.flag 0x40080000 0 && decide (L.fus.t0 < t0) then
    let s := s.modLane l (fun L => L.ncRun l t0)
    let mine := (s.lane l).fus.mine
    let s := if s.laneLink then s.modLane (other l) (fun L => L.takePeer mine) else s
    s.modLane l Lane.comparePeer
  else s)

/-! ### The perception class (R281 to R283) -/

/-- A new input enters the perception class only with PCL set and its slot not stale (R265, R270). -/
def Lane.pcEnters (L : Lane) (x : FusIn) : Bool :=
  L.flag (srcCfg x.slot) 4 && L.flag (srcCfg x.slot) 6 && !L.srcStale x.slot

/-- The prior at a window's end (R281): the nozzle class's speed and yaw rate of that time of validity, their sigmas
multiplied by 10. -/
def Lane.pcPrior (L : Lane) (e : Nat) : List FusIn :=
  ((L.fus.ncs.find? (fun m => m.1 == e)).map (fun m =>
    ({ stamp := e - 1, kind := 6, slot := 0,
       data := [wd m.2 0, wd m.2 1, wd m.2 2, toF32 (f32 (wd m.2 3) * 10), toF32 (f32 (wd m.2 4) * 10)],
       wide := false, arr := L.lt, used := true, par := [] } : FusIn))).toList

/-- AGE's stamps of the perception class (R283). -/
def Lane.pcStamps (L : Lane) (seq : Nat) : List (Option Nat) :=
  (List.range 32).map (fun i =>
    let z := L.slot i
    let line := z.pcLine && decide (seq ≤ z.pcSeq + 1)
    let wheel := L.srcKind i == 1 && L.flag (srcCfg i) 4 && L.flag (srcCfg i) 6 && !L.srcStale i
    if line || wheel then z.pcAt else none)

/-- What the slots remember of an entry into output `seq`. -/
def Lane.markPc (L : Lane) (seq : Nat) (new : List FusIn) : Lane :=
  new.foldl (fun (L : Lane) x => L.setSlot x.slot { L.slot x.slot with
    pcAt := some (max x.stamp ((L.slot x.slot).pcAt.getD 0)), pcSeq := seq, pcLine := x.kind == 4 || x.kind == 5 }) L

/-- Used inputs of the perception class older than a replay can still precede join its stored state.
(Log: DESIGN CHOICE, entry 51.) -/
def Lane.trimPc (L : Lane) (p e : Nat) : Lane :=
  let old := fun (x : FusIn) => x.used && decide (x.stamp + 20000000 + 2 * p < e)
  { L with fus := { L.fus with
      pcBase := runInputs L.fus.pcBase (L.fus.pins.filter old)
      pins := L.fus.pins.filter (fun x => !old x) } }

/-- The perception-class output of the window that ends at `e`; the objects of the window go to the track engine. -/
def Lane.pcCycle (L : Lane) (p e : Nat) : Lane :=
  let new := L.fus.pins.filter (fun x => !x.used && decide (x.stamp < e) && L.pcEnters x)
  let rest := L.fus.pins.filter (fun x => x.used || decide (e ≤ x.stamp))
  let lines := new.any (fun x => x.kind == 4 || x.kind == 5)
  let rpl := new.any (fun x => decide (x.stamp + p < e))
  let wide := new.any (fun x => x.wide)
  let pins := markUsed e ((new ++ L.pcPrior e).foldl (fun xs x => insertFus x xs) rest)
  let est := runInputs L.fus.pcBase (pins.filter (fun x => decide (x.stamp < e)))
  let v := fun (k : Nat) => est.getD k 0
  let seq := L.rd 0x400800E0 + 1
  let was := L.flag 0x40080004 3
  let valid := lines || L.fus.line0
  let L := { L with fus := { L.fus with
    pins := pins, line0 := lines, pcEnd := e, pcTov := e
    fwd := L.fus.objs.filter (fun o => decide (o.stamp < e))
    objs := L.fus.objs.filter (fun o => decide (e ≤ o.stamp))
    egos := (L.fus.egos.drop (L.fus.egos.length - 31)) ++ [(e, v 0, v 1, v 2)] } }
  let L := L.markPc seq.toNat new
  let flags := b2n valid + 2 * b2n rpl + 4 * b2n wide
  let ws := [seq, loWord e, hiWord e, ageOf e (L.pcStamps seq.toNat), BitVec.ofNat 32 flags] ++
    (List.range 9).map (fun (k : Nat) => toF32 (v k)) ++ [0, 0]
  let L := ((L.wrWords 0x400800E0 ws).setFlag 0x40080004 3 valid).trimPc p e
  let L := if rpl then L.bump 0x40080060 else L
  let L := if was ≠ valid then L.raise 56 (if valid then 2 else 1) 0 0 else L
  L.fillReplay

/-- FUSION_PC_CYCLE: the cut-off of the latest perception window that ended 2 ms ago or more.
(Log: DESIGN CHOICE, entry 10.) -/
def execFusionPcCycle (l : LaneId) (s : State) : Host.Outcome State Fault Refusal :=
  let L := s.lane l
  let p := L.fld 0x40080008 24 8 * 100000
  let e := (L.lt - 200000) / p * p
  .next (if L.running && s.power == 0 && L.flag 0x40080000 1 && decide (L.fus.pcEnd < e) then
    s.modLane l (fun L =>
      if L.replayBank then L.pcCycle p e
      else
        let M := L.loseReplay.refusedAt (L.rd 0x40080020).toNat
        { M with fus := { M.fus with pcEnd := e } })
  else s)

/-- The words a read of NC_OUT[0] or of PC_OUT[0] latches (R284). -/
def Lane.ncRead (L : Lane) (c : Nat) : Lane := L.capture c ((List.range 23).map (fun i => 0x40080084 + 4 * i))
def Lane.pcRead (L : Lane) (c : Nat) : Lane := L.capture c ((List.range 15).map (fun i => 0x400800E4 + 4 * i))

end Sys2Proof.Machine
end

