-- ==== Sys2Proof/Machine/Trk.lean ====
section
/-!
DEFINITION. The track engine: prediction, assignment, candidates, histories, deletion, confirmation and
release of the table (R293 to R309).
-/

namespace Sys2Proof.Machine

def Lane.track (L : Lane) (k : Nat) : Option Track := Tab.get L.trk.tracks none k
def Lane.setTrack (L : Lane) (k : Nat) (t : Option Track) : Lane :=
  { L with trk := { L.trk with tracks := Tab.set L.trk.tracks none k t } }

def Track.x (t : Track) : Rat := t.num.getD 0 0
def Track.y (t : Track) : Rat := t.num.getD 1 0
def Track.vx (t : Track) : Rat := t.num.getD 2 0
def Track.vy (t : Track) : Rat := t.num.getD 3 0
def Track.pxx (t : Track) : Rat := t.num.getD 4 0
def Track.pxy (t : Track) : Rat := t.num.getD 5 0
def Track.pyy (t : Track) : Rat := t.num.getD 6 0

/-- A detection's class, confidence, and marker test (R265, R294). -/
def ObjIn.cls (o : ObjIn) : Nat := fieldNat (wd o.data 4) 0 8
def ObjIn.conf (o : ObjIn) : Nat := fieldNat (wd o.data 4) 8 8
def ObjIn.marker (o : ObjIn) : Bool := o.cls == 255
def ObjIn.x (o : ObjIn) : Rat := f32 (wd o.data 0)
def ObjIn.y (o : ObjIn) : Rat := f32 (wd o.data 1)
def ObjIn.sig (o : ObjIn) : Rat := f32 (wd o.data 2)

/-- A point after the vehicle has moved by (dx, dy) and turned by dh, clockwise positive (R264, R295). -/
def egoShift (e : Nat × Rat × Rat × Rat) (x y : Rat) : Rat × Rat :=
  let px := x - e.2.1
  let py := y - e.2.2.1
  let c := Config.cos e.2.2.2
  let s := Config.sin e.2.2.2
  (c * px - s * py, s * px + c * py)
/-- The same for a vector. -/
def egoTurn (e : Nat × Rat × Rat × Rat) (x y : Rat) : Rat × Rat :=
  let c := Config.cos e.2.2.2
  let s := Config.sin e.2.2.2
  (c * x - s * y, s * x + c * y)

/-- Prediction over one window of `dt` seconds (step 1 of R295); the covariance, whose propagation the spec
names without its arithmetic, by an uninterpreted step.
(Log: DESIGN CHOICE, entry 56.) -/
def Track.predict (t : Track) (e : Nat × Rat × Rat × Rat) (dt qacc : Rat) : Track :=
  let p := egoShift e t.x t.y
  let v := egoTurn e t.vx t.vy
  let cov := Config.fuseStep 2 t.num [toF32 dt, toF32 qacc, toF32 e.2.1, toF32 e.2.2.1, toF32 e.2.2.2]
  { t with num := [p.1 + v.1 * dt, p.2 + v.2 * dt, v.1, v.2] ++ cov.drop 4 }

/-- The windows between two instants, with their lengths in seconds. -/
def Lane.egosFrom (L : Lane) (t0 t1 : Nat) : List ((Nat × Rat × Rat × Rat) × Rat) :=
  let es := L.fus.egos.filter (fun e => decide (t0 < e.1 ∧ e.1 ≤ t1))
  (List.range es.length).filterMap (fun i =>
    match es[i]? with
    | none => none
    | some e =>
      let prev := if i = 0 then t0 else (es.getD (i - 1) e).1
      some (e, (((e.1 - prev : Nat) : Rat)) / 100000000))

/-- A history shifted by `n` opportunities that were misses (R298). -/
def histMiss (h n : Nat) : Nat := h / 2 ^ min n 5

/-- Predict every track and carry every candidate over the windows since the last update; an opportunity in a window whose
update was skipped is a miss (R298, R302).
(Log: DEDUCED, entry 133.) -/
def Lane.predictAll (L : Lane) (t0 t1 : Nat) : Lane :=
  let es := L.egosFrom t0 t1
  let q : Rat := ((L.fld 0x40090008 16 8 : Nat) : Rat) / 10
  let n := L.trk.wins.countP (fun w => w.2 && decide (t0 < w.1 ∧ w.1 < t1))
  let tr := L.trk.tracks.map (fun k => (k.1, k.2.map (fun t =>
    let u := es.foldl (fun (t : Track) e => t.predict e.1 e.2 q) t
    { u with hit := false, hist := histMiss u.hist n, opps := u.opps + n })))
  let cs := L.trk.cands.map (fun c =>
    let d := es.foldl (fun (c : Cand) e =>
      let p := egoShift e.1 c.x c.y
      { c with x := p.1, y := p.2 }) c
    { d with hist := histMiss d.hist n, opps := d.opps + n })
  { L with trk := { L.trk with tracks := tr, cands := cs } }

/-- Classes agree (R296). -/
def clsAgree (a b : Nat) : Bool := a == b || a == 0 || b == 0

/-- Squared Mahalanobis distance of an innovation (R296).
(Log: DESIGN CHOICE, entry 56.) -/
def mahal (dx dy pxx pxy pyy s : Rat) : Rat :=
  let a := pxx + s * s
  let b := pyy + s * s
  let det := a * b - pxy * pxy
  (b * dx * dx - 2 * pxy * dx * dy + a * dy * dy) / (if det = 0 then 1 else det)

def Track.dist (t : Track) (x y : Rat) (o : ObjIn) : Rat := mahal (o.x - x) (o.y - y) t.pxx t.pxy t.pyy o.sig
/-- The end of the window of a stamp. -/
def winEnd (stamp p : Nat) : Nat := (stamp / p + 1) * p

/-- A detection is late for the update at `tov`: its window has had its output (R301). -/
def ObjIn.past (o : ObjIn) (tov p : Nat) : Bool := decide (winEnd o.stamp p < tov)

/-- The ego-motions of the windows between a detection's and the one that ends at `tov`. -/
def Lane.egosSince (L : Lane) (o : ObjIn) (tov p : Nat) : List (Nat × Rat × Rat × Rat) :=
  L.fus.egos.filter (fun e => decide (winEnd o.stamp p < e.1 ∧ e.1 ≤ tov))

/-- A detection's position carried to `tov` with the ego-motion (R301). -/
def Lane.carried (L : Lane) (o : ObjIn) (tov p : Nat) : Rat × Rat :=
  (L.egosSince o tov p).foldl (fun (q : Rat × Rat) e => egoShift e q.1 q.2) (o.x, o.y)

/-- The track's position carried back to a late detection's stamp (R301).
(Log: DESIGN CHOICE, entry 56.) -/
def Lane.backTo (L : Lane) (t : Track) (o : ObjIn) (tov p : Nat) : Rat × Rat :=
  let es := (L.egosSince o tov p).reverse
  let dt : Rat := (((tov - o.stamp : Nat) : Rat)) / 100000000
  es.foldl (fun (q : Rat × Rat) e =>
    let c := Config.cos e.2.2.2
    let s := Config.sin e.2.2.2
    (c * q.1 + s * q.2 + e.2.1, c * q.2 - s * q.1 + e.2.2.1)) (t.x - t.vx * dt, t.y - t.vy * dt)

/-- GATE as a number. -/
def Lane.trkGate (L : Lane) : Rat := ((L.fld 0x40090008 0 8 : Nat) : Rat) / 10

/-- A track takes a detection (step 3 of R295); its numbers by an uninterpreted update, of a late detection out of sequence:
to the state at `tov`, with the ego-motion since its window (R301).
(Log: DESIGN CHOICE, entry 56.) -/
def Track.take (t : Track) (o : ObjIn) (tov : Nat) (es : List (Nat × Rat × Rat × Rat)) : Track :=
  { t with
    num := Config.fuseStep (if es.isEmpty then 3 else 5) t.num (o.data ++ [loWord o.stamp, hiWord o.stamp] ++
      (if es.isEmpty then [] else [loWord tov, hiWord tov]) ++
      es.flatMap (fun e => [loWord e.1, hiWord e.1, toF32 e.2.1, toF32 e.2.2.1, toF32 e.2.2.2]))
    hit := true
    wide := o.wide
    conf := o.conf
    cls := if t.cls = 0 then o.cls else t.cls
    n := min 65535 (t.n + 1)
    src := o.slot
    tAssoc := max t.tAssoc o.stamp
    size := wd o.data 3 }

/-- The tracks a detection gates with, each with its squared distance. -/
def Lane.gatesOf (L : Lane) (o : ObjIn) (tov p : Nat) : List (Nat × Rat) :=
  L.trk.tracks.filterMap (fun k =>
    match k.2 with
    | none => none
    | some t =>
      let q := if o.past tov p then L.backTo t o tov p else (t.x, t.y)
      let d := t.dist q.1 q.2 o
      if clsAgree t.cls o.cls && decide (d ≤ L.trkGate) then some (k.1, d) else none)

/-- A gated pair: squared distance, table index, detection's stamp and number. -/
abbrev GPair := Rat × Nat × Nat × Nat
/-- The order of greedy assignment (R296). -/
def GPair.before (a b : GPair) : Bool :=
  if a.1 ≠ b.1 then decide (a.1 < b.1)
  else if a.2.1 ≠ b.2.1 then decide (a.2.1 < b.2.1)
  else decide (a.2.2.1 ≤ b.2.2.1)
def insertPair (x : GPair) (xs : List GPair) : List GPair :=
  match xs with
  | [] => [x]
  | y :: ys => if GPair.before x y then x :: y :: ys else y :: insertPair x ys

/-- Greedy assignment of detections: the lane and the numbers of those assigned. -/
def Lane.assign (L : Lane) (os : List ObjIn) (tov p : Nat) : Lane × List Nat :=
  let pairs := (List.range os.length).flatMap (fun i =>
    match os[i]? with
    | none => []
    | some o => (L.gatesOf o tov p).map (fun g => ((g.2, g.1, o.stamp, i) : GPair)))
  (pairs.foldl (fun a x => insertPair x a) []).foldl (fun (acc : Lane × List Nat) g =>
    match acc.1.track g.2.1, os[g.2.2.2]? with
    | some t, some o =>
      if t.hit || acc.2.contains g.2.2.2 then acc
      else (acc.1.setTrack g.2.1 (some (t.take o tov (L.egosSince o tov p))), acc.2 ++ [g.2.2.2])
    | _, _ => acc) (L, [])

/-- The windows of a history that starts at `a`, oldest first, before the one that ends at `tov` (R298): `a` itself, the later
opportunities, and `b`. -/
def Lane.histWins (L : Lane) (a b tov : Nat) : List Nat :=
  let w := a :: ((L.trk.wins.filter (fun w => decide (a < w.1 ∧ w.1 < tov) && (w.2 || w.1 == b))).map Prod.fst)
  if b < tov ∧ ¬ w.contains b then w.filter (fun e => decide (e < b)) ++ [b] ++ w.filter (fun e => decide (b < e))
  else w

/-- A history over windows in order: `a` and `b` are associations (R298). -/
def histOver (a b : Nat) (ws : List Nat) : Nat :=
  ws.foldl (fun h e => h / 2 + 16 * b2n (e == a || e == b)) 0

/-- A new candidate, carried to `tov`, its first opportunity the window of its stamp; in a full list it replaces the one of the
earliest stamp (R297, R298). -/
def Lane.addCand (L : Lane) (o : ObjIn) (tov p : Nat) (opp : Bool) : Lane :=
  let a := winEnd o.stamp p
  let q := L.carried o tov p
  let ws := L.histWins a a tov ++ (if opp && decide (a < tov) then [tov] else [])
  let c : Cand := ⟨o, q.1, q.2, a, histOver a a ws, ws.length⟩
  let cs := L.trk.cands
  let cs := if cs.length < 64 then cs
    else
      let least := cs.foldl (fun a k => min a k.obj.stamp) (c.obj.stamp + 2 ^ 64)
      match cs.findIdx? (fun k => k.obj.stamp == least) with
      | some i => cs.eraseIdx i
      | none => cs
  { L with trk := { L.trk with cands := cs ++ [c] } }

/-- Squared distance of a left-over detection from a candidate, a track at rest with covariance D2 squared (R297). -/
def Lane.candDist (L : Lane) (c : Cand) (o : ObjIn) (tov p : Nat) : Rat :=
  let q := L.carried o tov p
  mahal (q.1 - c.x) (q.2 - c.y) (c.obj.sig * c.obj.sig) 0 (c.obj.sig * c.obj.sig) o.sig

/-- A left-over detection matches a candidate (R297). -/
def Lane.candFits (L : Lane) (c : Cand) (o : ObjIn) (tov p : Nat) : Bool :=
  clsAgree c.obj.cls o.cls && decide (c.win < winEnd o.stamp p) && decide (o.stamp < c.obj.stamp + 20000000) &&
    decide (L.candDist c o tov p ≤ L.trkGate)

/-- The candidate nearest to a detection among those it matches.
(Log: DESIGN CHOICE, entry 56.) -/
def Lane.nearest (L : Lane) (o : ObjIn) (tov p : Nat) : Option Nat :=
  ((List.range L.trk.cands.length).foldl (fun (a : Option (Nat × Rat)) i =>
    match L.trk.cands[i]? with
    | none => a
    | some c =>
      if L.candFits c o tov p then
        let d := L.candDist c o tov p
        match a with
        | none => some (i, d)
        | some b => if d < b.2 then some (i, d) else a
      else a) none).map Prod.fst

/-- Candidate `c` and detection `o` give birth to a track (R297, R298, R300); its history, the window of this update included,
has an association in the window of each; `full` tells whether E58 with data 3 has been raised in this update.
(Log: DESIGN CHOICE, entries 56, 57.) -/
def Lane.birth (L : Lane) (full : Bool) (c : Cand) (o : ObjIn) (tov p : Nat) (opp : Bool) : Lane × Bool :=
  let free := (List.range 256).filter (fun k => (L.track k).isNone)
  if free.isEmpty then
    let L := (L.bump 0x40090028).setFlag 0x40090004 17 true
    ((if full then L else L.raise 58 3 0 0), true)
  else
    let k := free.getD (Config.freeNat L.free % free.length) 0
    let L := L.useFree
    let id := L.rd 0x40090030
    let cls := if c.obj.cls = 0 then o.cls else c.obj.cls
    let b := winEnd o.stamp p
    let ws := L.histWins c.win b tov ++ (if opp || b == tov then [tov] else [])
    let q := L.carried o tov p
    let t : Track :=
      { id := id, st := 1, coast := false, wide := o.wide, hist := histOver c.win b ws, opps := ws.length, cls := cls,
        conf := o.conf, n := 2, src := o.slot, tAssoc := o.stamp, tBirth := o.stamp,
        num := [q.1, q.2] ++ (Config.fuseStep 4 [c.x, c.y]
          (c.obj.data ++ o.data ++ [loWord c.obj.stamp, loWord o.stamp, loWord tov])).drop 2,
        size := wd o.data 3, hit := true }
    (((L.setTrack k (some t)).bump 0x40090020).wr 0x40090030 (if id = 0xFFFFFFFF then 1 else id + 1), full)

/-- Step 4 and 5 of R295 on one left-over detection: it gives birth to a track with the candidate it matches, or is one of
those that form candidates (the third part). -/
def Lane.seed (a : Lane × Bool × List ObjIn) (o : ObjIn) (tov p : Nat) (opp : Bool) : Lane × Bool × List ObjIn :=
  match a.1.nearest o tov p with
  | none => (a.1, a.2.1, a.2.2 ++ [o])
  | some i =>
    match a.1.trk.cands[i]? with
    | none => a
    | some c =>
      let r := ({ a.1 with trk := { a.1.trk with cands := a.1.trk.cands.eraseIdx i } } : Lane).birth a.2.1 c o tov p opp
      (r.1, r.2, a.2.2)

/-- Count of ones in a history. -/
def histOnes (h : Nat) : Nat := (List.range 5).countP (fun i => h / 2 ^ i % 2 == 1)

/-- The larger standard deviation of a position covariance. -/
def Track.sigma (t : Track) : Rat :=
  let m := (t.pxx + t.pyy) / 2
  let d := (t.pxx - t.pyy) / 2
  Config.sqrt (m + Config.sqrt (d * d + t.pxy * t.pxy))

/-- Step 6 of R295 on one track: history, deletion, confirmation.
(Log: DESIGN CHOICE, entry 56; DEDUCED, entry 89.) -/
def Lane.ageTrack (L : Lane) (tov : Nat) (opp : Bool) (k : Nat) : Lane :=
  match L.track k with
  | none => L
  | some t =>
    let t := if opp then { t with hist := t.hist / 2 + 16 * b2n t.hit, opps := t.opps + 1 } else t
    let t := { t with coast := !t.hit }
    let max_ : Rat := ((L.fld 0x40090008 8 8 : Nat) : Rat) / 10
    let gone := decide (t.tAssoc + 100000000 ≤ tov) || decide (max_ < t.sigma) ||
      (t.st == 1 && decide (5 ≤ t.opps) && decide (histOnes t.hist < 3))
    if gone then
      let L := (L.setTrack k none).bump 0x40090024
      if t.st = 2 then L.raise 58 2 0 (BitVec.ofNat 32 k) else L
    else if t.st = 1 ∧ 3 ≤ histOnes t.hist then
      (L.setTrack k (some { t with st := 2 })).raise 58 1 0 (BitVec.ofNat 32 k)
    else L.setTrack k (some t)

/-- The sixteen words of a track's entry (R303). -/
def Track.words (t : Track) : List Word :=
  [t.id,
   BitVec.ofNat 32 (t.st + 4 * b2n t.coast + 8 * b2n t.wide + 16 * t.hist + 65536 * t.cls + 16777216 * t.conf),
   BitVec.ofNat 32 (t.n + 65536 * t.src), loWord t.tAssoc, hiWord t.tAssoc, loWord t.tBirth, hiWord t.tBirth,
   toF32 t.x, toF32 t.y, toF32 t.vx, toF32 t.vy, toF32 t.pxx, toF32 t.pxy, toF32 t.pyy, t.size, 0]

/-- The words of a FREE entry (R303): ID and STATE are 0, and so are the reserved bits; the rest is free.
(Log: DESIGN CHOICE, entry 57.) -/
def freeEntry (d : Nat) : List Word :=
  [0, Config.freeWord (d + 1) &&& 0xFFFF01FC, Config.freeWord (d + 2) &&& 0x001FFFFF] ++
    (List.range 12).map (fun (w : Nat) => Config.freeWord (d + 3 + w)) ++ [0]

/-- Write the copy that is not current and make it current (R304).
(Log: DESIGN CHOICE, entry 57.) -/
def Lane.releaseTracks (L : Lane) (tov : Nat) : Lane :=
  let c := (L.rd 0x40090010 + 1).toNat % 2
  let ents := (List.range 256).flatMap (fun (k : Nat) =>
    match L.track k with
    | some t => t.words
    | none => freeEntry (L.free + 16 * k))
  let L := L.useFree
  let L := L.engWrite .tracks ((L.rd 0x4009000C).toNat + 0x4000 * c) (ents.flatMap wordBytes)
  let n := (List.range 256).countP (fun k => (L.track k).isSome)
  let L := ((L.wr 0x40090010 (L.rd 0x40090010 + 1)).wr64 0x40090014 tov).setFld 0x40090004 0 9 n
  { L with trk := { L.trk with freeDue := false, relAt := L.lt } }

/-- The copy that is not current may be written: PC_PER less 2 ms have passed since it was (R304). -/
def Lane.copyFree (L : Lane) (p : Nat) : Bool := decide (L.trk.relAt + p ≤ L.lt + 200000)

/-- Every entry FREE, every candidate gone (R302). -/
def Lane.emptyTracks (L : Lane) : Lane := { L with trk := { L.trk with tracks := [], cands := [] } }

/-- Steps 2 and 3 of R295 on late detections that gate (R301): they take the tracks that are still free; one whose tracks have a
current detection is counted in CNT_LATE. -/
def Lane.takeLate (L : Lane) (os : List ObjIn) (tov p : Nat) : Lane :=
  let r := L.assign os tov p
  (List.range os.length).foldl (fun (M : Lane) i =>
    match os[i]? with
    | none => M
    | some o =>
      let kept := (L.gatesOf o tov p).any (fun g =>
        match L.track g.1 with
        | some t => t.hit
        | none => false)
      if !r.2.contains i && kept then M.bump 0x4009002C else M) r.1

/-- Steps 4 and 5 of R295: the detections that are left match the candidates that stand, in order of stamp, and the rest become
candidates; those of 200 ms and more are discarded (R297).
(Log: DEDUCED, entry 134.) -/
def Lane.seedAll (L : Lane) (left : List ObjIn) (tov p : Nat) (opp : Bool) : Lane :=
  let xs := left.foldl (fun acc o => insertBy ObjIn.stamp o acc) []
  let age := fun (c : Cand) => if opp then { c with hist := c.hist / 2, opps := c.opps + 1 } else c
  let r := xs.foldl (fun a o => Lane.seed a o tov p opp) (L, false, [])
  let M : Lane := { r.1 with trk := { r.1.trk with cands := r.1.trk.cands.map age } }
  let M := r.2.2.foldl (fun (M : Lane) o => M.addCand o tov p opp) M
  { M with trk := { M.trk with cands := M.trk.cands.filter (fun c => decide (tov < c.obj.stamp + 20000000)) } }

/-- The update for the window that ends at `tov` (R295).
(Log: DESIGN CHOICE, entry 57.) -/
def Lane.trackUpdate (L : Lane) (tov p : Nat) (opp : Bool) : Lane :=
  let L := if L.trk.clr then (L.emptyTracks).raise 58 4 0 0 else L
  let L := L.predictAll L.trk.from_ tov
  let mine := L.fus.fwd.filter (fun o => bitOf (L.rd 0x4009001C) o.slot && !o.marker)
  let now := mine.filter (fun o => !o.past tov p)
  let old := mine.filter (fun o => o.past tov p)
  let gates := fun (M : Lane) (o : ObjIn) => !(M.gatesOf o tov p).isEmpty
  let left := mine.filter (fun o => !gates L o)
  let L := ((L.assign (now.filter (gates L)) tov p).1).takeLate (old.filter (gates L)) tov p
  let was := L.trk.tracks
  let L := L.seedAll left tov p opp
  let L := { L with trk := { L.trk with clr := false, from_ := tov } }
  let L := (List.range 256).foldl (fun (L : Lane) k => L.ageTrack tov (opp && (Tab.get was none k).isSome) k) L
  L.releaseTracks tov

/-- A window is an opportunity (R294): an OBJECT sample of an enabled slot entered its update.
(Log: DEDUCED, entry 133.) -/
def Lane.opportunity (L : Lane) : Bool := L.fus.fwd.any (fun o => bitOf (L.rd 0x4009001C) o.slot)

/-- The engine has come to the window that ends at `tov`, whether or not it updates.
(Log: DEDUCED, entry 133.) -/
def Lane.noteWindow (L : Lane) (tov : Nat) (opp : Bool) : Lane :=
  { L with trk := { L.trk with
      tov := tov
      wins := L.trk.wins.drop (L.trk.wins.length - 31) ++ [(tov, opp)] } }

/-- TRACK_UPDATE: once for each perception-class output (R293), when the copy may be written (R304); with the perception class
off the cleared table is released (R302); without the bank nothing is released.
(Log: DESIGN CHOICE, entries 10, 57.) -/
def execTrackUpdate (l : LaneId) (s : State) : Host.Outcome State Fault Refusal :=
  let L := s.lane l
  let tov := L.fus.pcTov
  let p := L.fld 0x40080008 24 8 * 100000
  let bank := L.ownedBy 5 (L.rd 0x4009000C).toNat 0x8000
  .next (if L.running && s.power == 0 && L.flag 0x40090000 0 then
    if !L.flag 0x40080000 1 then
      if L.trk.freeDue && bank && L.copyFree p then s.modLane l (fun L => L.releaseTracks L.trk.from_) else s
    else if decide (L.trk.tov < tov) && bank && L.copyFree p then
      s.modLane l (fun L => (L.trackUpdate tov p L.opportunity).noteWindow tov L.opportunity)
    else if decide (L.trk.tov < tov) && !bank then
      s.modLane l (fun L => ((L.refusedAt (L.rd 0x4009000C).toNat).noteWindow tov L.opportunity).raise 58 5 0 0)
    else s
  else s)

/-- A write of TRK.CTRL; TRACK_CLEAR asks for a clear at the next update (R302); an engine that is enabled begins with the next
output (R293). -/
def Lane.trkCtrl (L : Lane) (v : Word) : Lane :=
  let was := L.flag 0x40090000 0
  let L := L.plainWrite 0x40090000 v
  let rise := L.flag 0x40090000 0 && !was
  ({ L with trk := { L.trk with
      clr := L.trk.clr || bitOf v 1
      tov := if rise then L.fus.pcTov else L.trk.tov } } : Lane).checkNoPc
def execTrackClear (l : LaneId) (v : Word) (s : State) : Host.Outcome State Fault Refusal :=
  .next (if bitOf v 1 then s.modLane l (fun L => L.trkCtrl v) else s)

end Sys2Proof.Machine
end

