-- ==== Sys2Proof/Machine/Gns.lean ====
section
/-!
DEFINITION. The GNSS baseband: antenna bias, starts, notches and jamming, corrections, solutions, the
measurement ring and the aid store (R322 to R355).
-/

namespace Sys2Proof
open Machine

/-- The satellite: system and PRN. -/
def GnsObs.sat (o : GnsObs) : Nat := o.sys.val * 64 + o.prn.val

/-- A satellite-signal pair of an antenna, as a number. -/
def GnsObs.key (o : GnsObs) : Nat := ((o.sat * 8) + o.sig.val) * 2 + b2n o.ant

/-- Order of records: antenna, system, PRN, signal (R347). -/
def GnsObs.rank (o : GnsObs) : Nat := b2n o.ant * 131072 + o.sat * 8 + o.sig.val

/-- An ephemeris that a solution may use (R328). -/
def GnsObs.usable (o : GnsObs) : Bool := o.eph.val == 1 || o.eph.val == 3 || (o.eph.val == 2 && o.iod)

/-- The eight words of a record (R347).
(Log: DESIGN CHOICE, entry 59.) -/
def GnsObs.words (o : GnsObs) (epoch : Nat) (fixed : Bool) : List Word :=
  let phv := o.phv && o.eph.val != 3
  let cp : BitVec 64 := if phv then o.cp else 0
  [loWord epoch, hiWord epoch,
   BitVec.ofNat 32 (o.sys.val + 8 * o.prn.val + 512 * o.sig.val + 4096 * b2n o.ant + 8192 * b2n fixed +
     16384 * b2n o.slip + 32768 * b2n phv + 65536 * o.cn0.toNat + 16777216 * o.eph.val),
   o.pr.extractLsb' 0 32, o.pr.extractLsb' 32 32, cp.extractLsb' 0 32, cp.extractLsb' 32 32, o.dop]

end Sys2Proof

namespace Sys2Proof.Machine

def Lane.modGns (L : Lane) (f : Gns → Gns) : Lane := { L with gns := f L.gns }

/-- The baseband writes its aid store, whose format is not given: its bytes are free (R327).
(Log: DESIGN CHOICE, entry 61.) -/
def Lane.writeAid (L : Lane) : Lane :=
  let bs := L.freeBytes 0x8000
  L.useFree.engWrite .gnss (L.rd 0x400A00B8).toNat bs

/-! ### Antenna bias (R325) -/

def State.antenna (s : State) (a : Nat) : AntSt := Tab.get s.ant AntSt.reset a
def State.setAnt (s : State) (a : Nat) (x : AntSt) : State := { s with ant := Tab.set s.ant AntSt.reset a x }

/-- BIAS_EN of the active lane (R325). -/
def State.biasWanted (s : State) (a : Nat) : Bool :=
  match s.control with
  | some d => (s.lane d).flag (0x400A0010 + 4 * a) 0
  | none => false

/-- Bias is applied: wanted, and not removed for a short. -/
def State.biasOn (s : State) (a : Nat) : Bool := s.biasWanted a && !(s.antenna a).short

/-- ANT_CFG[a] as it reads: APPLIED, OPEN, SHORT and I_MA from the front end (R354). -/
def State.antWord (s : State) (l : LaneId) (a : Nat) : Word :=
  let w := (s.lane l).rd (0x400A0010 + 4 * a)
  let x := s.antenna a
  setFieldNat (setBit (setBit (setBit w 2 (s.biasOn a)) 3 (x.opn && s.biasOn a)) 4 x.short) 8 8
    (if s.biasOn a then min 255 x.ma else 0)

/-- ANTENNA_SHORT: the current has stayed at the limit for 10 ms. -/
def execAntennaShort (a : Fin 2) (s : State) : Host.Outcome State Fault Refusal :=
  .next (if s.biasOn a then
    (s.setAnt a { s.antenna a with short := true, opn := false }).raiseBoth 46 2 a 0
  else s)

/-- ANTENNA_BIAS_RETRY: 10 ms of bias in each second of a short; `gone` tells whether it has gone.
(Log: DESIGN CHOICE, entry 58.) -/
def execAntennaBiasRetry (a : Fin 2) (gone : Bool) (s : State) : Host.Outcome State Fault Refusal :=
  .next (if (s.antenna a).short && s.biasWanted a && gone then
    (s.setAnt a { s.antenna a with short := false }).raiseBoth 46 3 a 0
  else s)

/-- ANTENNA_OPEN: the bias current is now `ma` mA; OPEN below 2 mA, and normal again above. -/
def execAntennaOpen (a : Fin 2) (ma : Nat) (s : State) : Host.Outcome State Fault Refusal :=
  .next (if s.biasOn a then
    let x := s.antenna a
    let s := s.setAnt a { x with ma := ma, opn := decide (ma < 2) }
    if ma < 2 then (if x.opn then s else s.raiseBoth 46 1 a 0)
    else if x.opn then s.raiseBoth 46 3 a 0
    else s
  else s)

/-! ### Start (R327) -/

/-- The start the baseband makes: 1 hot, 2 warm, 3 cold; what the store holds is read from its words.
(Log: DESIGN CHOICE, entry 61.) -/
def Lane.startKind (L : Lane) : Nat :=
  let r := L.engRead .gnss (L.rd 0x400A00B8).toNat 0x8000
  let ws := (List.range 0x2000).map (fun i => bytesWord ((r.1.drop (4 * i)).take 4))
  let unc := L.gtUnc
  let known := !L.flag 0x4002000C 2
  if !Config.judge 30 ws [] then 3
  else if Config.judge 31 ws [] && decide (unc.toNat ≤ 1000000000) && known then 1
  else if Config.judge 32 ws [] && unc != 0xFFFFFFFF then 2
  else 3

/-- The station is deselected: every fixed ambiguity is released (R337, R342).
(Log: DESIGN CHOICE, entry 59.) -/
def Lane.deselect (L : Lane) : Lane :=
  match L.gns.stn with
  | none => L
  | some id =>
    let L := if 5 ≤ L.gns.fixed.length then L.raise 49 1 0 0 else L
    let L := L.modGns (fun g => { g with
      stn := none, arp := [], tcs := [], fixed := [], reuse := [], bad := [], run := 0 })
    (L.setFlag 0x400A0004 17 true).raise 45 2 id 0

/-- The cable delays as they stand, which the measurements of the next epoch take (R84).
(Log: DESIGN CHOICE, entry 58.) -/
def Lane.cables (L : Lane) : List Word := [L.rd 0x40020040, L.rd 0x40020044]

def Lane.gnssStart (L : Lane) : Lane :=
  let k := L.startKind
  L.modGns (fun g => { g with
    start := k
    startAt := L.lt
    ttff := false
    epoch := L.lt
    cable := L.cables })

/-- The baseband stops: it has no solution, no timing fix, no corrections and no fixed ambiguity (R339, R341 to R344).
(Log: DEDUCED, entry 131.) -/
def Lane.gnssStop (L : Lane) : Lane :=
  let changed := L.fld 0x400A0004 0 5 ≠ 0
  let corr := L.flag 0x400A0004 7
  let amb := decide (5 ≤ L.gns.fixed.length)
  let L := ((L.setFld 0x400A0004 0 16 0).setFlag 0x400A0004 18 false).wr 0x400A00B0 0xFFFFFFFF
  let L := L.modGns (fun g => { g with fixed := [], bad := [], reuse := [], run := 0, hdgRun := 0, pred := [] })
  let L := if amb then L.raise 49 1 0 0 else L
  let L := if corr then L.raise 45 4 0 0 else L
  if changed then L.raise 44 0 0 0 else L

/-- A write of GNS.CTRL: EN rising starts the baseband (R327), EN falling stops it, STN_RESET and AID_CLR act at once. -/
def Lane.gnsCtrl (L : Lane) (v : Word) : Lane :=
  let was := L.flag 0x400A0000 0
  let L := L.plainWrite 0x400A0000 v
  let L := if bitOf v 4 then L.deselect else L
  let L := if bitOf v 5 then L.writeAid else L
  if bitOf v 0 && !was then L.gnssStart else if was && !bitOf v 0 then L.gnssStop else L

/-- GNSS_START. -/
def execGnssStart (l : LaneId) (v : Word) (s : State) : Host.Outcome State Fault Refusal :=
  .next (if bitOf v 0 && !(s.lane l).flag 0x400A0000 0 then s.modLane l (fun L => L.gnsCtrl v) else s)
/-- STN_RESET. -/
def execStnReset (l : LaneId) (v : Word) (s : State) : Host.Outcome State Fault Refusal :=
  .next (if bitOf v 4 then s.modLane l (fun L => L.gnsCtrl v) else s)
/-- AID_CLR.
(Log: DESIGN CHOICE, entry 61.) -/
def execAidClr (l : LaneId) (v : Word) (s : State) : Host.Outcome State Fault Refusal :=
  .next (if bitOf v 5 then s.modLane l (fun L => L.gnsCtrl v) else s)

/-- PARK_BURST_END (R329): a snapshot fix of at least 4 satellites updates the store of the active lane.
(Log: DESIGN CHOICE, entry 61.) -/
def execParkBurstEnd (sats : List (Fin 4 × Fin 64)) (s : State) : Host.Outcome State Fault Refusal :=
  .next (if s.rind.flag 0x104 3 then
    let s := s.modRind (fun r => r.setFlag 0x104 3 false)
    match s.control with
    | some d => if 4 ≤ sats.length then s.modLane d Lane.writeAid else s
    | none => s
  else s)

/-! ### Interference (R330 to R333) -/

/-- JAM_MEASURE: `excess` is P less P0 in hundredths of a dB (R333).
(Log: DESIGN CHOICE, entry 58.) -/
def execJamMeasure (l : LaneId) (a : Fin 2) (b : Fin 3) (excess : Int) (s : State) :
    Host.Outcome State Fault Refusal :=
  .next (if (s.lane l).alive && s.power == 0 then
    s.modLane l (fun L =>
      let j := min 255 ((4 * max 0 excess) / 100).toNat
      let was := L.fld (0x400A0018 + 4 * a.val) (8 * b.val) 8
      let th := L.fld (0x400A0010 + 4 * a.val) 24 8
      let L := L.setFld (0x400A0018 + 4 * a.val) (8 * b.val) 8 j
      if was < th ∧ th ≤ j then L.raise 48 1 a (BitVec.ofNat 32 b.val)
      else if th ≤ was + 8 ∧ j + 8 < th then L.raise 48 2 a (BitVec.ofNat 32 b.val)
      else L)
  else s)

/-- The range of CENTRE of a band (R323). -/
def notchRange (b : Nat) : Int :=
  match b with
  | 0 => 1800
  | 1 => 1200
  | _ => 2800

/-- Band of notch m, and antenna and band together. -/
def notchBand (m : Nat) : Nat := m / 4 % 3
def notchGroup (m : Nat) : Nat := m / 4

/-- A write of NOTCH[m] (R332, R355). -/
def Lane.notchWrite (L : Lane) (m : Nat) (v : Word) : Lane :=
  let a := 0x400A0040 + 4 * m
  let L := L.plainWrite a v
  let c := sext16 (L.fld a 8 16)
  let c := clampInt (-(notchRange (notchBand m))) (notchRange (notchBand m)) c
  let L := L.setFld a 8 16 (c % 65536).toNat
  let L := if L.flag a 0 && L.flag a 1 then L else L.setFlag a 4 false
  L.modGns (fun g => { g with changed := notchGroup m :: g.changed.filter (fun k => k != notchGroup m) })

def execNotchWrite (l : LaneId) (m : Fin 24) (v : Word) (s : State) : Host.Outcome State Fault Refusal :=
  .next (s.modLane l (fun L => L.notchWrite m v))

/-- 3 dB width of a notch in 10 kHz units. -/
def notchWidth (w : Nat) : Nat :=
  match w with
  | 0 => 5
  | 1 => 20
  | 2 => 50
  | _ => 100

/-- A centre is open to notch `m` (R323, R331): within its band, and twice the larger width or more away from every other
notch of its band and antenna that is enabled and fixed or settled.
(Log: DEDUCED, entry 132.) -/
def Lane.notchClear (L : Lane) (m : Nat) (c : Int) : Bool :=
  let a := fun (k : Nat) => 0x400A0040 + 4 * k
  decide (-(notchRange (notchBand m)) ≤ c ∧ c ≤ notchRange (notchBand m)) &&
    (List.range 4).all (fun j =>
      let k := 4 * notchGroup m + j
      let w := max (notchWidth (L.fld (a m) 2 2)) (notchWidth (L.fld (a k) 2 2))
      k == m || !L.flag (a k) 0 || (L.flag (a k) 1 && !L.flag (a k) 4) ||
        decide (2 * w ≤ (c - sext16 (L.fld (a k) 8 16)).natAbs))

/-- What an adaptive notch has settled on by the epoch (R330 to R332). -/
def Lane.notchMove (L : Lane) (m : Nat) (locked : Bool) (centre : BitVec 16) : Lane :=
  let a := 0x400A0040 + 4 * m
  if L.flag a 0 && L.flag a 1 && (!locked || L.notchClear m (sext16 centre.toNat)) then
    let d := (sext16 (L.fld a 8 16) - sext16 centre.toNat).natAbs
    let L := (L.setFlag a 4 locked).setFld a 8 16 centre.toNat
    if notchWidth (L.fld a 2 2) < d then
      L.modGns (fun g => { g with changed := notchGroup m :: g.changed.filter (fun k => k != notchGroup m) })
    else L
  else L

/-! ### Corrections (R335 to R339) -/

/-- CRC-24Q of the RTCM 3 transport frame.
(Log: PRESUMED, entry 60.) -/
def crc24 (bs : List Byte) : Nat :=
  bs.foldl (fun crc b =>
    (List.range 8).foldl (fun r i =>
      let top := decide (0x800000 ≤ r) != b.getLsbD (7 - i)
      let r := (2 * r) % 0x1000000
      if top then r ^^^ 0x864CFB else r) crc) 0

/-- Bits of a byte string, most significant first, as a number. -/
def frameBits (bs : List Byte) (pos n : Nat) : Nat :=
  (List.range n).foldl (fun a i =>
    let k := pos + i
    2 * a + b2n ((bs.getD (k / 8) 0).getLsbD (7 - k % 8))) 0

/-- A frame whose byte count agrees with its length field and whose CRC holds (R336).
(Log: PRESUMED, entry 60.) -/
def frameOk (bs : List Byte) (n : Nat) : Bool :=
  bs.length == n && n == 6 + frameBits bs 14 10 &&
    crc24 (bs.take (n - 3)) == frameBits (bs.drop (n - 3)) 0 24

/-- Bytes that queue P holds. -/
def Gns.pBytes (g : Gns) : Nat :=
  g.part.length + (g.frames.filter (fun f => !f.1)).foldl (fun a f => a + f.2.length) 0
/-- Bytes that queue H holds. -/
def Gns.hBytes (g : Gns) : Nat :=
  (g.frames.filter (fun f => f.1)).foldl (fun a f => a + f.2.length) 0

/-- CORR_P_DATA (R336). -/
def Lane.corrData (L : Lane) (v : Word) : Lane :=
  if 2044 < L.gns.pBytes then
    (L.modGns (fun g => { g with dropped := true })).setFlag 0x400A0004 16 true |>.raise 45 5 0 0
  else L.modGns (fun g => { g with part := g.part ++ wordBytes v })
def execCorrPData (l : LaneId) (v : Word) (s : State) : Host.Outcome State Fault Refusal :=
  .next (s.modLane l (fun L => L.corrData v))

/-- CORR_P_GO (R336). -/
def Lane.corrGo (L : Lane) (v : Word) : Lane :=
  let n := fieldNat v 0 11
  let bs := L.gns.part.take n
  let whole := !L.gns.dropped && decide (L.gns.part.length = (n + 3) / 4 * 4)
  let L := L.modGns (fun g => { g with part := [], dropped := false })
  if whole && frameOk bs n then L.modGns (fun g => { g with frames := g.frames ++ [(false, bs)] })
  else L.bump 0x400A00C0
def execCorrPGo (l : LaneId) (v : Word) (s : State) : Host.Outcome State Fault Refusal :=
  .next (s.modLane l (fun L => L.corrGo v))

/-- Bytes as words, zero-filled at the end. -/
def packWords (bs : List Byte) : List Word :=
  (List.range ((bs.length + 3) / 4)).map (fun i => bytesWord ((bs.drop (4 * i)).take 4))

/-- Words of the current solution. -/
def Lane.solWords (L : Lane) : List Word := (List.range 24).map (fun i => L.rd (0x400A0100 + 4 * i))

/-- Message number and station of a frame's payload.
(Log: PRESUMED, entry 60.) -/
def msgType (bs : List Byte) : Nat := frameBits bs 24 12
def msgStation (bs : List Byte) : Nat := frameBits bs 36 12
def isMsm (t : Nat) : Bool :=
  (decide (1074 ≤ t) && decide (t ≤ 1077)) || (decide (1094 ≤ t) && decide (t ≤ 1097)) ||
    (decide (1124 ≤ t) && decide (t ≤ 1127))
def isArp (t : Nat) : Bool := t == 1005 || t == 1006
def isEph (t : Nat) : Bool := t == 1019 || t == 1042 || t == 1046

/-- Select a station (R337). -/
def Lane.selectStation (L : Lane) (id : Nat) (arp : List Word) : Lane :=
  (L.modGns (fun g => { g with stn := some id, arp := arp })).raise 45 1 id 0

/-- A station message (R337, R338).
(Log: PRESUMED, entry 60.) -/
def Lane.arpMessage (L : Lane) (bs : List Byte) : Lane :=
  let id := msgStation bs
  let ws := packWords bs
  match L.gns.stn with
  | some k =>
    if k ≠ id then L.bump 0x400A00C8
    else if L.fld 0x400A0004 0 3 ≠ 0 ∧
        ((L.fld 0x400A000C 8 8 : Nat) : Rat) < Config.estimate 24 (ws ++ L.solWords) [] 0 then
      (L.bump 0x400A00C4).deselect
    else if 1 / 10 < Config.estimate 25 (ws ++ L.gns.arp) [] 0 then (L.deselect).selectStation id ws
    else L
  | none =>
    if L.fld 0x400A0004 0 3 ≠ 0 ∧
        ((L.fld 0x400A000C 8 8 : Nat) : Rat) < Config.estimate 24 (ws ++ L.solWords) [] 0 then
      L.bump 0x400A00C4
    else L.selectStation id ws

/-- An MSM message (R338): LT of its epoch, the signals excluded and the signals in all are read from it.
(Log: PRESUMED, entry 60.) -/
def Lane.msmMessage (L : Lane) (bs : List Byte) : Lane :=
  let ws := packWords bs
  if L.gns.stn ≠ some (msgStation bs) then L.bump 0x400A00C8
  else
    let tc := (Config.estimate 26 ws [] 0).floor
    let now : Int := (L.lt : Nat)
    let key := (msgStation bs * 4096 + msgType bs / 10, tc)
    if now + 100000000 < tc ∨ tc + ((L.fld 0x400A000C 0 8 * 100000000 : Nat) : Int) < now then L.bump 0x400A00C4
    else if L.gns.applied.contains key then L
    else
      let out := (Config.estimate 28 (ws ++ L.gns.arp) [((L.fld 0x400A000C 16 8 : Nat) : Rat)] 0).floor.toNat
      let all := (Config.estimate 29 ws [] 0).floor.toNat
      let L := L.wr 0x400A00C4 (satAdd (L.rd 0x400A00C4) out)
      if all < 3 * out then L.raise 45 3 0 0
      else L.modGns (fun g => { g with
        tcs := g.tcs.drop (g.tcs.length - 63) ++ [tc]
        applied := (g.applied.drop (g.applied.length - 63)) ++ [key]
        fresh := g.fresh || g.tcs.all (fun t => decide (t < tc)) })

/-- CORRECTION_FRAME: the baseband takes the next completed frame and checks it (R335, R338). -/
def execCorrectionFrame (l : LaneId) (s : State) : Host.Outcome State Fault Refusal :=
  .next (s.modLane l (fun L =>
    match L.gns.frames with
    | [] => L
    | f :: rest =>
      if !L.flag 0x400A0000 0 then L
      else
        let L := L.modGns (fun g => { g with frames := rest })
        let t := msgType f.2
        if isArp t then L.arpMessage f.2
        else if isMsm t then L.msmMessage f.2
        else if isEph t then L.writeAid
        else L.bump 0x400A00C8))

/-! ### Epochs (R341 to R348) -/

/-- Epoch period in ticks (R353). -/
def Lane.epochTicks (L : Lane) : Nat :=
  match L.fld 0x400A0008 0 3 with
  | 0 => 100000000
  | 1 => 50000000
  | 2 => 20000000
  | 3 => 10000000
  | 4 => 5000000
  | 5 => 2000000
  | _ => 1000000

/-- Front-end band of a signal (R322). -/
def sigBand (s : Nat) : Nat :=
  match s with
  | 0 | 3 | 6 => 0
  | 1 => 1
  | _ => 2



/-- Leave out the lowest satellites, whole, until the channels suffice (R324). -/
def fitChannels (n : Nat) (os : List GnsObs) : List GnsObs :=
  match n with
  | 0 => os
  | n + 1 =>
    if os.length ≤ 192 then os
    else
      match os with
      | [] => []
      | o :: rest =>
        let low := rest.foldl (fun (a : GnsObs) b => if b.elev.val < a.elev.val then b else a) o
        fitChannels n (os.filter (fun b => b.sat != low.sat))

/-- Distinct satellites of a list. -/
def satsOf (os : List GnsObs) : List Nat :=
  os.foldl (fun acc o => if acc.contains o.sat then acc else acc ++ [o.sat]) []



/-- Signals tracked at an epoch, with SLIP from notch changes, in record order (R324, R332). -/
def Lane.tracked (L : Lane) (os : List GnsObs) : List GnsObs :=
  let os := os.filter (fun o => L.flag 0x400A0000 (8 + o.sig.val) && decide (L.fld 0x400A0008 8 7 ≤ o.elev.val))
  let os := fitChannels os.length os
  let os := os.map (fun o =>
    { o with slip := o.slip || L.gns.changed.contains (3 * b2n o.ant + sigBand o.sig.val) })
  os.foldl (fun acc o => insertBy GnsObs.rank o acc) []

/-- Ephemerides more than 300 m out are discarded (R328).
(Log: DESIGN CHOICE, entry 58; DEDUCED, entry 89.) -/
def Lane.checkEph (L : Lane) (os : List GnsObs) : Lane × List GnsObs :=
  let bad := satsOf (os.filter (fun o => o.far && o.eph.val != 0))
  let L := bad.foldl (fun (L : Lane) b =>
    (L.bump 0x400A00D0).raise 51 2 (b / 64 * 256 + b % 64) 0) L
  (L, os.map (fun o => if bad.contains o.sat then { o with eph := 0 } else o))

/-- Corrections at a rover epoch (R339): CORR_OK, CORR_AGE and E45 when it falls. -/
def Lane.takeCorr (L : Lane) (epoch : Nat) : Lane :=
  let lim : Int := ((L.fld 0x400A000C 0 8 * 100000000 : Nat) : Int)
  let use := L.gns.tcs.filter (fun t => decide (t ≤ (epoch : Int) ∧ (epoch : Int) < t + lim))
  let ok := !use.isEmpty
  let was := L.flag 0x400A0004 7
  let age : Word := if ok then satInt (((epoch : Int) - use.foldl max (use.headD 0)) / 100000) else 0xFFFFFFFF
  let L := (L.setFlag 0x400A0004 7 ok).wr 0x400A00B0 age
  if was && !ok then
    (L.modGns (fun g => { g with reuse := g.fixed, fixed := [], bad := [], run := 0 })).raise 45 4 0 0
  else L

/-- Ambiguities at an epoch (R342).  The ratio test, the residual tests and the station's lock indicators are
uninterpreted functions of the records; a set is fixed at a station epoch; `was` pairs were fixed before.
(Log: DESIGN CHOICE, entry 59.) -/
def Lane.ambiguities (L : Lane) (os : List GnsObs) (epoch was : Nat) : Lane :=
  let ok := L.flag 0x400A0004 7 && L.flag 0x400A0000 3 && L.flag 0x400A0000 1
  let ws := os.flatMap (fun o => o.words epoch false)
  let slips := (os.filter (fun o => o.slip)).map GnsObs.key
  let here := (os.filter (fun o => o.phv && o.usable && o.eph.val != 3)).map GnsObs.key
  let out := fun (k : Nat) => Config.judge 21 (BitVec.ofNat 32 k :: ws) []
  let L := L.modGns (fun g =>
    let kept := g.fixed.filter (fun k => here.contains k && !slips.contains k && !(g.bad.contains k && out k))
    let bad := kept.filter out
    let back := if g.fixed.isEmpty then
        g.reuse.filter (fun k => here.contains k && !slips.contains k && Config.judge 22 (BitVec.ofNat 32 k :: ws) [] &&
          !out k)
      else []
    let run := if g.fresh then
        (if Config.judge 20 (BitVec.ofNat 32 (L.fld 0x400A0008 16 8) :: ws) [] then g.run + 1 else 0)
      else g.run
    let fixn := max 1 (L.fld 0x400A0008 24 3)
    let fixed := if !ok then []
      else if g.fresh && decide (fixn ≤ run) then here.filter (fun k => !slips.contains k)
      else kept ++ back
    { g with
      fixed := fixed
      bad := if ok then bad else []
      reuse := if ok then [] else g.reuse.filter (fun k => !slips.contains k)
      run := if ok then run else 0
      fresh := false })
  if 5 ≤ was ∧ L.gns.fixed.length < 5 then L.raise 49 1 0 0 else L

/-- Distance between the applied lever arms in metres (R311, R343). -/
def Lane.leverDist (L : Lane) : Rat :=
  Config.sqrt ((List.range 3).foldl (fun (a : Rat) k =>
    a + (L.calA (3 + k) - L.calA k) * (L.calA (3 + k) - L.calA k)) 0)

/-- SOL_TYPE (R341).
(Log: DESIGN CHOICE, entry 59.) -/
def Lane.solType (L : Lane) (os : List GnsObs) : Nat :=
  let mine := os.filter (fun o => !o.ant && o.usable)
  let corr := L.flag 0x400A0000 3 && L.flag 0x400A0004 7
  if (satsOf mine).length < 4 then 0
  else if !corr then 1
  else if L.flag 0x400A0000 1 && decide (5 ≤ L.gns.fixed.length) then 4
  else if 4 ≤ (satsOf (mine.filter (fun o => o.phv && o.eph.val != 3))).length then 3
  else 2

/-- The ratio test of the baseline's ambiguities at an epoch (R342, R343): the count of consecutive epochs that passed it.
(Log: DESIGN CHOICE, entry 59.) -/
def Lane.baseline (L : Lane) (os : List GnsObs) (epoch : Nat) : Lane :=
  let ws := os.flatMap (fun o => o.words epoch false)
  let pass := Config.judge 23 (BitVec.ofNat 32 (L.fld 0x400A0008 16 8) :: ws) []
  L.modGns (fun g => { g with hdgRun := if pass then g.hdgRun + 1 else 0 })

/-- HDG_TYPE (R343).
(Log: DESIGN CHOICE, entry 59.) -/
def Lane.hdgType (L : Lane) (os : List GnsObs) (epoch : Nat) : Nat :=
  let pairs := fun (b : Bool) => (satsOf (os.filter (fun o => o.ant == b && o.phv && o.usable && o.eph.val != 3))).length
  let d := L.leverDist
  let ws := os.flatMap (fun o => o.words epoch false)
  let len := Config.estimate 20 (ws ++ L.gns.cable) [] 17
  let dev := if len ≤ d then d - len else len - d
  if !L.flag 0x400A0000 2 || decide (d < 3 / 10) || decide (pairs false < 4) || decide (pairs true < 4) then 0
  else if decide (max 1 (L.fld 0x400A0008 24 3) ≤ L.gns.hdgRun) &&
      decide (dev ≤ ((L.fld 0x400A000C 24 8 : Nat) : Rat) / 1000) then 2
  else 1

/-- Antenna `b` has a timing fix (R344).
(Log: DESIGN CHOICE, entry 59.) -/
def timingFix (os : List GnsObs) (b : Bool) (epoch : Nat) : Bool :=
  let mine := os.filter (fun o => o.ant == b && o.usable)
  decide (4 ≤ (satsOf mine).length) &&
    decide (Config.estimate 21 (mine.flatMap (fun o => o.words epoch false)) [] 0 ≤ 50)

/-- A 64-bit quantity as two words. -/
def int64Words (i : Int) : List Word :=
  let n := (i % 18446744073709551616).toNat
  [loWord n, hiWord n]

/-- The words of SOL (R348).
(Log: DESIGN CHOICE, entry 59.) -/
def Lane.solution (L : Lane) (os : List GnsObs) (epoch sol hdg nsat : Nat) (pred : Bool) : List Word :=
  let ws := os.flatMap (fun o => o.words epoch false)
  let v := fun (k : Nat) => Config.estimate 20 (ws ++ L.gns.cable) [] k
  let f := fun (k : Nat) => toF32 (v k)
  [L.rd 0x400A0100 + 1, loWord epoch, hiWord epoch,
   BitVec.ofNat 32 (sol + 8 * hdg + 32 * b2n (pred && sol != 0) + 256 * min 255 nsat)] ++
    int64Words (roundHalfUp (v 0 * 100000000000)) ++ int64Words (roundHalfUp (v 1 * 100000000000)) ++
    [satInt (roundHalfUp (v 2 * 10000)), f 3, f 4, f 5, f 6, f 7, f 8, f 9, f 10, f 11, f 12, L.rd 0x400A00B0,
     (match L.gns.stn with
      | some id => BitVec.ofNat 32 (id % 4096 + 0x80000000)
      | none => 0),
     f 17, 0, 0]

/-- Write the ring of R347. -/
def Lane.writeRing (L : Lane) (recs : List (List Word)) : Lane :=
  if !L.flag 0x400A0000 6 then L
  else
    let base := (L.rd 0x400A00A0).toNat
    let L := recs.foldl (fun (L : Lane) r =>
      let i := L.fld 0x400A00A4 0 11
      (L.engWrite .gnss (base + 32 * i) (r.flatMap wordBytes)).setFld 0x400A00A4 0 11 (i + 1)) L
    L.setFld 0x400A00A4 16 16 (L.fld 0x400A00A4 16 16 + 1)

/-- The measurements go to the lane's own fusion while its nozzle class runs (R276, R346): each has the epoch as its stamp and
goes with its antenna's cable delay in use; an epoch that is HORIZON old or older is dropped (R267).
(Log: DESIGN CHOICE, entry 58.) -/
def Lane.feedFusion (L : Lane) (epoch : Nat) (recs : List (Nat × List Word)) : Lane :=
  if !L.flag 0x40080000 0 then L
  else if L.fld 0x40080008 0 8 * 100000 ≤ L.lt - epoch then
    if recs.isEmpty then L
    else
      let L := (L.bump 0x40080064).setFlag 0x40080004 8 true
      { L with fus := { L.fus with dropped := L.fus.dropped + 1 } }
  else recs.foldl (fun (L : Lane) r =>
    L.addInput { stamp := epoch, kind := 1, slot := r.1, data := r.2 ++ [wd L.gns.cable r.1], wide := false, arr := L.lt,
                 used := false, par := [] }) L

/-- The discipline loop takes the clock solution of an epoch with a timing fix (R79).
(Log: DESIGN CHOICE, entry 26.) -/
def Lane.epochRate (L : Lane) : Lane :=
  if L.antFix L.tant && L.flag 0x40020008 0 && L.time.map.isSome && L.fld 0x4002000C 0 1 == 1 then L.takeRate else L

/-- What the epoch reports: solution type, heading type, timing fixes, and TTFF at the first solution.
(Log: DEDUCED, entry 89.) -/
def Lane.reportSolution (L : Lane) (os : List GnsObs) (epoch sol hdg : Nat) (preds : List Nat) : Lane :=
  let nsat := (satsOf (os.filter (fun o => !o.ant && o.usable))).length
  let changed := L.fld 0x400A0004 0 3 ≠ sol ∨ L.fld 0x400A0004 3 2 ≠ hdg
  let L := (((((L.setFld 0x400A0004 0 3 sol).setFld 0x400A0004 3 2 hdg).setFlag 0x400A0004 5
    (timingFix os false epoch)).setFlag 0x400A0004 6 (timingFix os true epoch)).setFld 0x400A0004 8 8
    (min 255 nsat)).setFlag 0x400A0004 18 (!preds.isEmpty && sol != 0)
  let L := (preds.filter (fun p => !L.gns.pred.contains p)).foldl (fun (L : Lane) p =>
    if sol = 0 then L else L.raise 51 1 (p / 64 * 256 + p % 64) 0) L
  let L := L.modGns (fun g => { g with pred := if sol = 0 then [] else preds })
  let L := L.wrWords 0x400A0100 (L.solution os epoch sol hdg nsat (!preds.isEmpty))
  let L := if changed then L.raise 44 sol 0 (BitVec.ofNat 32 hdg) else L
  if sol ≠ 0 ∧ !L.gns.ttff then
    let ms := satWord ((L.lt - L.gns.startAt) / 100000)
    (L.modGns (fun g => { g with ttff := true })).wr 0x400A00BC ms |>.raise 50 0 0 ms
  else L

/-- The baseband's work for one epoch. -/
def Lane.gnssEpoch (L : Lane) (e : GnsEpoch) : Lane :=
  let L := e.notches.foldl (fun (L : Lane) n => L.notchMove n.1 n.2.1 n.2.2) L
  let L := match e.leap with
    | some n => L.wr 0x400A00B4 (BitVec.ofNat 32 (n.toNat + 0x80000000))
    | none => L
  let all := L.tracked e.obs
  let wanted := e.obs.filter (fun o =>
    L.flag 0x400A0000 (8 + o.sig.val) && decide (L.fld 0x400A0008 8 7 ≤ o.elev.val))
  let L := if all.length < wanted.length then L.bump 0x400A00D4 else L
  let L := all.foldl (fun (L : Lane) o => if o.slip then L.bump 0x400A00CC else L) L
  let r := L.checkEph all
  let os := r.2
  let L := (r.1.takeCorr e.epoch).ambiguities os e.epoch r.1.gns.fixed.length
  let sol := L.solType os
  let L := L.baseline os e.epoch
  let hdg := L.hdgType os e.epoch
  let preds := satsOf (os.filter (fun o => !o.ant && o.eph.val == 3))
  let recs := os.map (fun o => (b2n o.ant, o.words e.epoch (L.gns.fixed.contains o.key)))
  let L := (L.writeRing (recs.map Prod.snd)).feedFusion e.epoch recs
  let L := L.reportSolution os e.epoch sol hdg preds
  (L.modGns (fun g => { g with epoch := e.epoch, changed := [], cable := L.cables })).writeAid.epochRate

/-- GNSS_EPOCH: an epoch at a whole multiple of the period, later than the last, no more than 8 ms ago (R346).
(Log: DESIGN CHOICE, entries 10, 58.) -/
def execGnssEpoch (l : LaneId) (e : GnsEpoch) (s : State) : Host.Outcome State Fault Refusal :=
  let L := s.lane l
  let p := L.epochTicks
  .next (if L.running && s.power == 0 && L.flag 0x400A0000 0 && decide (e.epoch / p * p = e.epoch) &&
      decide (L.gns.epoch < e.epoch) && decide (e.epoch ≤ L.lt) && decide (L.lt ≤ e.epoch + 800000) then
    s.modLane l (fun L => L.gnssEpoch e)
  else s)

/-- The words a read of SOL[0] latches (R348). -/
def Lane.solRead (L : Lane) (c : Nat) : Lane := L.capture c ((List.range 23).map (fun i => 0x400A0104 + 4 * i))

end Sys2Proof.Machine
end

