-- ==== Sys2Proof/Machine/Flags.lean ====
section
/-!
DEFINITION. FLG (R128): the rounding mode and the sticky bits that float and vector instructions set.
-/

namespace Sys2Proof.Machine

/-- FLG.RM. -/
def Ctx.rm (x : Ctx) : Nat := fieldNat x.flg 6 2

/-- Set sticky bits of FLG; none is cleared (R102, R144). -/
def Ctx.stick (x : Ctx) (e : Exc) : Ctx := { x with flg := x.flg ||| BitVec.ofNat 32 (e % 64) }

/-- A float instruction: `f` gives the result word and the exceptions from the rounding mode. -/
def State.fop (s : State) (l : LaneId) (c : CtxNo) (rd : RegNo) (f : Nat → Ctx → Word × Exc) :
    State :=
  s.issue l c true false (s.onCtx l c (fun x =>
    let r := f x.rm x
    (x.stick r.2).wf rd r.1))

/-- A float instruction that writes an x register. -/
def State.fopX (s : State) (l : LaneId) (c : CtxNo) (rd : RegNo) (f : Nat → Ctx → Word × Exc) :
    State :=
  s.issue l c true false (s.onCtx l c (fun x =>
    let r := f x.rm x
    (x.stick r.2).wx rd r.1))

end Sys2Proof.Machine
end

