-- ==== Sys2Proof/Machine/Sync.lean ====
section
/-!
DEFINITION. Time, events, queues and locks: the format T instructions (R111 to R115, R154 to R156).
-/

namespace Sys2Proof.Machine

/-- The context begins a wait, its PC at the next instruction.  A timeout that has already passed
completes it at once with result 1 (R112). -/
def Lane.beginWait (L : Lane) (c : Nat) (w : Wait) : Lane :=
  if w.tmo && decide (w.time ≤ L.lt) then L.modCtx c (fun x => x.step (fun y => y.wx w.rd 1))
  else
    (L.moveTo c .waiting).modCtx c (fun x =>
      let y := x.step id
      { y with wait := w })

/-- The context goes on with the next instruction and rd holds `v`. -/
def Lane.goOn (L : Lane) (c rd : Nat) (v : Word) : Lane :=
  L.modCtx c (fun x => x.step (fun y => y.wx rd v))

/-- The absolute timeout of a wait (R154). -/
def Ctx.timeout (x : Ctx) (tm : Bool) (rs2 : RegNo) : Nat := if tm then x.rPair rs2 else 0

/-- LTRD (R154): both words of one tick; where xd and xe are one register it holds the high word. -/
def execLtrd (l : LaneId) (c : CtxNo) (rd rs1 : RegNo) (s : State) :
    Host.Outcome State Fault Refusal :=
  .next (s.issue l c true false (s.onCtx l c (fun x =>
    (x.wx rd (loWord (s.lane l).lt)).wx rs1 (hiWord (s.lane l).lt))))

/-- WTLT (R154, R112): wait until LT reaches the pair; at once if it has. -/
def execWtlt (l : LaneId) (c : CtxNo) (rd rs1 : RegNo) (s : State) :
    Host.Outcome State Fault Refusal :=
  .next (s.issue l c (pairOk rs1) false (.ok (s.modLane l (fun L =>
    let t := (L.ctx c).rPair rs1
    if t ≤ L.lt then L.goOn c rd 0
    else L.beginWait c ⟨1, 0, false, t, rd, 0, 0, false, none⟩))))

/-- WTEV (R113, R154): n 0 to 159; a set bit completes the wait and clears. -/
def execWtev (l : LaneId) (c : CtxNo) (rd : RegNo) (tm : Bool) (rs2 : RegNo) (n : BitVec 8)
    (s : State) : Host.Outcome State Fault Refusal :=
  .next (s.issue l c (tmOk tm rs2 && decide (n.toNat < 160)) false (.ok (s.modLane l (fun L =>
    let t := (L.ctx c).timeout tm rs2
    if L.bitAt 0x40030040 n.toNat then (L.goOn c rd 0).setBitOf 0x40030040 n.toNat false
    else L.beginWait c ⟨2, n.toNat, tm, t, rd, 0, 0, false, none⟩))))

/-- EVPOST (R113, R154): signal s, number 96 + s. -/
def execEvpost (l : LaneId) (c : CtxNo) (n : BitVec 8) (s : State) :
    Host.Outcome State Fault Refusal :=
  .next (s.issue l c (decide (n.toNat < 64)) false
    (s.onLane l c (fun L => L.post (96 + n.toNat))))

/-- QPUT (R114): append, or wait with QSPACE while the queue is full. -/
def execQput (l : LaneId) (c : CtxNo) (rd rs1 : RegNo) (tm : Bool) (rs2 : RegNo) (n : BitVec 8)
    (s : State) : Host.Outcome State Fault Refusal :=
  .next (s.issue l c (tmOk tm rs2 && decide (n.toNat < 32)) false (.ok (s.modLane l (fun L =>
    let x := L.ctx c
    if (L.queue n.toNat).length < 64 then (L.goOn c rd 0).queuePut n.toNat (x.rx rs1)
    else L.beginWait c ⟨4, n.toNat, tm, x.timeout tm rs2, rd, 0, x.rx rs1, false, none⟩))))

/-- QGET (R114, R154): take the oldest word, or wait with QDATA; xw is written only with result 0, and
where rd and xw are one register it holds the word. -/
def execQget (l : LaneId) (c : CtxNo) (rd rs1 : RegNo) (tm : Bool) (rs2 : RegNo) (n : BitVec 8)
    (s : State) : Host.Outcome State Fault Refusal :=
  .next (s.issue l c (tmOk tm rs2 && decide (n.toNat < 32)) false (.ok (s.modLane l (fun L =>
    match L.queue n.toNat with
    | w :: rest =>
      let L := (L.goOn c rd 0).modCtx c (fun x => x.wx rs1 w)
      (L.setQueue n.toNat rest).queueSpace n.toNat
    | [] => L.beginWait c
        ⟨3, n.toNat, tm, (L.ctx c).timeout tm rs2, rd, rs1, 0, false, none⟩))))

/-- LKACQ (R115, R156): a free lock is taken at once, with 2 where it was ABANDONED; a lock the
context already holds is a LOCK fault. -/
def execLkacq (l : LaneId) (c : CtxNo) (rd : RegNo) (tm : Bool) (rs2 : RegNo) (n : BitVec 8)
    (s : State) : Host.Outcome State Fault Refusal :=
  let k := (s.lane l).lock n.toNat
  .next (s.issue l c (tmOk tm rs2 && decide (n.toNat < 64)) false
    (if k.held && k.holder == c.val then .fault 7 none
     else .ok (s.modLane l (fun L =>
       if !k.held then
         (L.goOn c rd (if k.abandoned then 2 else 0)).setLock n.toNat ⟨true, c, false⟩
       else L.beginWait c
         ⟨5, n.toNat, tm, (L.ctx c).timeout tm rs2, rd, 0, 0, false, none⟩))))

/-- LKREL (R115): to the highest-ranked waiter; a lock the context does not hold is a LOCK fault. -/
def execLkrel (l : LaneId) (c : CtxNo) (n : BitVec 8) (s : State) :
    Host.Outcome State Fault Refusal :=
  let k := (s.lane l).lock n.toNat
  .next (s.issue l c (decide (n.toNat < 64)) false
    (if k.held && k.holder == c.val then
      s.onLane l c (fun L => L.passLock n.toNat false)
     else .fault 7 none))

/-- WTFLT (R111, R154): context 0 waits until any bit of CTX.FAULT_PEND is 1. -/
def execWtflt (l : LaneId) (c : CtxNo) (rd : RegNo) (tm : Bool) (rs2 : RegNo) (s : State) :
    Host.Outcome State Fault Refusal :=
  .next (s.issue l c (tmOk tm rs2) true (.ok (s.modLane l (fun L =>
    if (List.range 4).any (fun i => L.rd (0x40030020 + 4 * i) != 0) then L.goOn c rd 0
    else L.beginWait c ⟨7, 0, tm, (L.ctx c).timeout tm rs2, rd, 0, 0, false, none⟩))))

end Sys2Proof.Machine
end

