-- ==== Sys2Proof/Machine/Engines.lean ====
section
/-!
DEFINITION. The engine commands of format X for the switch-link path, the speculation engine and the
small-matrix unit (R133, R134, R157 to R169).
-/

namespace Sys2Proof.Machine

/-- What an engine makes of a command: refused (an ENGINE fault), or the value of rd and the state. -/
abbrev XRes := Option (Word × State)

/-- A descriptor of R158: channel in bits 7:0, level in bit 8; none where the engine refuses it. -/
def edgeDesc (x : Word) : Option (Nat × Bool) :=
  if x.toNat / 512 = 0 ∧ fieldNat x 0 8 < 208 then some (fieldNat x 0 8, bitOf x 8) else none

/-- EDGE at acceptance (R158). -/
def State.xEdge (s : State) (l : LaneId) (c : Nat) (rs1 rs2 : RegNo) : XRes :=
  let x := (s.lane l).ctx c
  (edgeDesc (x.rx rs1)).map (fun d => (0, s.directEdge l d.1 d.2 (roundUs (x.rPair rs2))))

/-- PAIR at acceptance (R161): index, reserved bits, and the limits of R408 and R424. -/
def State.xPair (s : State) (l : LaneId) (c : Nat) (rs1 rs2 rs3 : RegNo) : XRes :=
  let x := (s.lane l).ctx c
  let u := x.rx rs1
  let per := (x.rx rs2).toNat
  let dut := (x.rx rs3).toNat
  let br := bitOf u 8
  let i := fieldNat u 0 8
  let ok := u.toNat / 512 = 0 ∧
    (if br then i < 24 ∧ 100 ≤ per ∧ per ≤ 65535 ∧ dut ≤ 65535
     else i < 208 ∧ 20 ≤ per ∧ per ≤ 1048575 ∧ dut ≤ 1048575)
  if ok then
    some (0, s.modLane l (fun L => L.sendCmd (if br then 208 + i else i) 0 (.pair per dut) none))
  else none

/-- The SPX queue takes a command of 6 core cycles (R157).
(Log: DEDUCED, entry 35.) -/
def Lane.spxTake (L : Lane) : Lane := { L with spxQ := L.spxQ ++ [6] }
/-- The SPX queue holds 16 commands (R157).
(Log: DEDUCED, entry 35.) -/
def Lane.spxFull (L : Lane) : Bool := decide (16 ≤ L.spxQ.length)
/-- The LPE queue takes a command of `n` core cycles (R157).
(Log: DEDUCED, entry 35.) -/
def Lane.lpeTake (L : Lane) (n : Nat) : Lane := { L with lpeQ := L.lpeQ ++ [n] }
/-- The LPE queue holds 16 commands (R157).
(Log: DEDUCED, entry 35.) -/
def Lane.lpeFull (L : Lane) : Bool := decide (16 ≤ L.lpeQ.length)

/-- CURD at acceptance (R162). -/
def State.xCurd (s : State) (l : LaneId) (c : Nat) (rs1 rs2 rs3 : RegNo) : XRes :=
  let L := s.lane l
  let x := L.ctx c
  let dl := (x.rx rs3).toNat
  match edgeDesc (x.rx rs1) with
  | none => none
  | some d =>
    if dl = 0 ∨ 500000 < dl then none
    else
      let dly := match L.nozzleOf d.1 with
        | some n => if d.2 then (L.nz n).dOn else (L.nz n).dOff
        | none => 0
      let r := L.curd d.1 d.2 false (roundUs (x.rPair rs2)) dl 1 dly
      some (r.1, s.setLane l r.2.spxTake)

/-- SET, DRAIN and CRDST at acceptance: a value that is no handle is refused (R164). -/
def State.xHandle (s : State) (l : LaneId) (c : Nat) (rs1 : RegNo) (f : State → Nat → Nat × State) :
    XRes :=
  let h := (((s.lane l).ctx c).rx rs1).toNat
  if h / 4194304 ≠ 0 then none
  else some (BitVec.ofNat 32 (f s h).1, (f s h).2.modLane l Lane.spxTake)

/-- SET at acceptance. -/
def State.xSet (s : State) (l : LaneId) (c : Nat) (rs1 : RegNo) : XRes :=
  s.xHandle l c rs1 (fun s h => s.spxSet l h)
/-- DRAIN at acceptance. -/
def State.xDrain (s : State) (l : LaneId) (c : Nat) (rs1 : RegNo) : XRes :=
  s.xHandle l c rs1 (fun s h => s.spxDrain l h)
/-- CRDST at acceptance. -/
def State.xCrdst (s : State) (l : LaneId) (c : Nat) (rs1 : RegNo) : XRes :=
  s.xHandle l c rs1 (fun s h => s.spxState l h)

/-! ### The small-matrix unit -/

/-- The words of a matrix block by its header: address and word (R167). -/
def Lane.blockWords (L : Lane) (a : Nat) : List (Nat × Word) :=
  let h := L.word a
  let rows := fieldNat h 0 8
  let cols := fieldNat h 8 8
  let stride := fieldNat h 16 16
  (a, h) :: (List.range (min rows 16)).flatMap (fun i => (List.range (min cols 16)).map (fun j =>
    let p := a + 16 + 4 * (i * stride + j)
    (p, L.word p)))

/-- A matrix command at acceptance (R168): refused for an address that is no multiple of 16; else its
ticket.  `nb` tells whether rs3 names a second operand block. -/
def State.xMat (s : State) (l : LaneId) (c : Nat) (op : Nat) (rs1 rs2 : RegNo) (rs3 : Nat) (nb : Bool) :
    XRes :=
  let L := s.lane l
  let x := L.ctx c
  let ca := x.rx rs1
  let aa := x.rx rs2
  let bb := if nb then x.rx rs3 else 0
  if ca.toNat % 16 ≠ 0 ∨ aa.toNat % 16 ≠ 0 ∨ bb.toNat % 16 ≠ 0 then none
  else
    let t := L.mat.last + 1
    let put := fun (m : Tab Word) (ws : List (Nat × Word)) => ws.foldl (fun m e => Tab.put m e.1 e.2) m
    let snap := put (put [] (L.blockWords aa.toNat)) (if nb then L.blockWords bb.toNat else [])
    let cmd : MatCmd := ⟨op, ca, aa, bb, c, t, x.rm, if op = 20 then x.rf rs3 else 0, snap⟩
    some (t, s.modLane l (fun L => { L with mat := { L.mat with
      queue := L.mat.queue ++ [cmd], last := t } }))

/-- Issue a command to an engine (R133, R157): a full queue makes the context wait with the command; a
refusal is an ENGINE fault; else rd takes the value and the context goes on.
(Log: DEDUCED, entry 35.) -/
def State.xIssue (s : State) (l : LaneId) (c : CtxNo) (rd : RegNo) (wf full : Bool) (i : Instr)
    (r : XRes) : State :=
  s.issue l c wf false
    (if full then .ok (s.modLane l (fun L => L.beginWait c ⟨6, 0, false, 0, rd, 0, 0, false, some i⟩))
     else match r with
      | none => .fault 9 none
      | some (v, t) => .ok (t.modLane l (fun L => L.goOn c rd v)))

/-- A frame on the link that is a command of the path: an edge or a grouped pair (R157). -/
def LinkMsg.onPath (m : LinkMsg) : Bool :=
  match m with
  | .cmd c => !(match c.act with
    | .reg _ _ => true
    | .level _ | .pwmStart | .pair _ _ | .duty _ | .check => false)
  | .cancel _ _ | .swReg _ _ | .direct _ _ => false

/-- The switch-link command path holds 64 commands that have not left (R157).
(Log: DEDUCED, entry 35.) -/
def Lane.pathFull (L : Lane) : Bool := decide (64 ≤ L.link.countP LinkMsg.onPath)
/-- The small-matrix unit's queue holds 8 commands (R134).
(Log: DEDUCED, entry 35.) -/
def Lane.matFull (L : Lane) : Bool := decide (8 ≤ L.mat.queue.length)

/-- EDGE. -/
def execEdge (l : LaneId) (c : CtxNo) (rs1 rs2 : RegNo) (s : State) :
    Host.Outcome State Fault Refusal :=
  .next (s.xIssue l c 0 (pairOk rs2) (s.lane l).pathFull (.edge l c rs1 rs2) (s.xEdge l c rs1 rs2))

/-- PAIR. -/
def execPair (l : LaneId) (c : CtxNo) (rs1 rs2 rs3 : RegNo) (s : State) :
    Host.Outcome State Fault Refusal :=
  .next (s.xIssue l c 0 true (s.lane l).pathFull (.pair l c rs1 rs2 rs3) (s.xPair l c rs1 rs2 rs3))

/-- CURD. -/
def execCurd (l : LaneId) (c : CtxNo) (rd rs1 rs2 rs3 : RegNo) (s : State) :
    Host.Outcome State Fault Refusal :=
  .next (s.xIssue l c rd (pairOk rs2) (s.lane l).spxFull (.curd l c rd rs1 rs2 rs3) (s.xCurd l c rs1 rs2 rs3))

/-- SET. -/
def execSetEdge (l : LaneId) (c : CtxNo) (rd rs1 : RegNo) (s : State) :
    Host.Outcome State Fault Refusal :=
  .next (s.xIssue l c rd true (s.lane l).spxFull (.setEdge l c rd rs1) (s.xSet l c rs1))

/-- DRAIN. -/
def execDrain (l : LaneId) (c : CtxNo) (rd rs1 : RegNo) (s : State) :
    Host.Outcome State Fault Refusal :=
  .next (s.xIssue l c rd true (s.lane l).spxFull (.drain l c rd rs1) (s.xDrain l c rs1))

/-- CRDST. -/
def execCrdst (l : LaneId) (c : CtxNo) (rd rs1 : RegNo) (s : State) :
    Host.Outcome State Fault Refusal :=
  .next (s.xIssue l c rd true (s.lane l).spxFull (.crdst l c rd rs1) (s.xCrdst l c rs1))

/-- MMUL. -/
def execMmul (l : LaneId) (c : CtxNo) (rd rs1 rs2 rs3 : RegNo) (s : State) :
    Host.Outcome State Fault Refusal :=
  .next (s.xIssue l c rd true (s.lane l).matFull (.mmul l c rd rs1 rs2 rs3)
    (s.xMat l c 16 rs1 rs2 rs3 true))
/-- MMULT. -/
def execMmult (l : LaneId) (c : CtxNo) (rd rs1 rs2 rs3 : RegNo) (s : State) :
    Host.Outcome State Fault Refusal :=
  .next (s.xIssue l c rd true (s.lane l).matFull (.mmult l c rd rs1 rs2 rs3)
    (s.xMat l c 17 rs1 rs2 rs3 true))
/-- MADD. -/
def execMadd (l : LaneId) (c : CtxNo) (rd rs1 rs2 rs3 : RegNo) (s : State) :
    Host.Outcome State Fault Refusal :=
  .next (s.xIssue l c rd true (s.lane l).matFull (.madd l c rd rs1 rs2 rs3)
    (s.xMat l c 18 rs1 rs2 rs3 true))
/-- MSUB. -/
def execMsub (l : LaneId) (c : CtxNo) (rd rs1 rs2 rs3 : RegNo) (s : State) :
    Host.Outcome State Fault Refusal :=
  .next (s.xIssue l c rd true (s.lane l).matFull (.msub l c rd rs1 rs2 rs3)
    (s.xMat l c 19 rs1 rs2 rs3 true))
/-- MSCAL: rs3 names the scale factor in an f register. -/
def execMscal (l : LaneId) (c : CtxNo) (rd rs1 rs2 rs3 : RegNo) (s : State) :
    Host.Outcome State Fault Refusal :=
  .next (s.xIssue l c rd true (s.lane l).matFull (.mscal l c rd rs1 rs2 rs3)
    (s.xMat l c 20 rs1 rs2 rs3 false))
/-- MCHOL. -/
def execMchol (l : LaneId) (c : CtxNo) (rd rs1 rs2 : RegNo) (s : State) :
    Host.Outcome State Fault Refusal :=
  .next (s.xIssue l c rd true (s.lane l).matFull (.mchol l c rd rs1 rs2)
    (s.xMat l c 21 rs1 rs2 0 false))
/-- MSOLVE. -/
def execMsolve (l : LaneId) (c : CtxNo) (rd rs1 rs2 rs3 : RegNo) (s : State) :
    Host.Outcome State Fault Refusal :=
  .next (s.xIssue l c rd true (s.lane l).matFull (.msolve l c rd rs1 rs2 rs3)
    (s.xMat l c 22 rs1 rs2 rs3 true))

/-- MWAIT (R169): the status of a completed ticket at once, else a wait. -/
def execMwait (l : LaneId) (c : CtxNo) (rd rs1 : RegNo) (s : State) :
    Host.Outcome State Fault Refusal :=
  .next (s.issue l c true false (.ok (s.modLane l (fun L =>
    let t := (L.ctx c).rx rs1
    match L.ticketStatus t with
    | some st => L.goOn c rd (BitVec.ofNat 32 st)
    | none => L.beginWait c ⟨6, 0, false, 0, rd, 0, t, false, none⟩))))

/-! ### Running a matrix command -/

/-- A matrix operand: rows, columns, stride in words, base. -/
structure MBlk where
  base : Nat
  rows : Nat
  cols : Nat
  stride : Nat
deriving DecidableEq, Repr

/-- A word of an operand at completion: where memory was written since issue it is the old or the new word
(R134).
(Log: DESIGN CHOICE, entry 34.) -/
def Lane.matWord (L : Lane) (m : MatCmd) (a : Nat) : Word :=
  let now := L.word a
  match m.snap.find? (fun e => e.1 == a) with
  | some e => if e.2 = now then now else if Config.freeBool (L.free + a) then now else e.2
  | none => now

def Lane.mBlk (L : Lane) (m : MatCmd) (a : Nat) : MBlk :=
  let h := L.matWord m a
  ⟨a, fieldNat h 0 8, fieldNat h 8 8, fieldNat h 16 16⟩

/-- Element (i, j) (R167). -/
def MBlk.at_ (b : MBlk) (i j : Nat) : Nat := b.base + 16 + 4 * (i * b.stride + j)
/-- One past the last byte of a block with `r` rows and `c` columns.
(Log: DESIGN CHOICE, entry 123.) -/
def MBlk.stop (b : MBlk) (r c : Nat) : Nat := b.base + 16 + 4 * ((r - 1) * b.stride + c)

/-- Dimensions 1 to 16 and a stride that holds the columns. -/
def MBlk.ok (b : MBlk) : Bool :=
  decide (1 ≤ b.rows ∧ b.rows ≤ 16 ∧ 1 ≤ b.cols ∧ b.cols ≤ 16 ∧ b.cols ≤ b.stride)

/-- Two byte ranges overlap. -/
def rangesMeet (a0 a1 b0 b1 : Nat) : Bool := decide (a0 < b1 ∧ b0 < a1)

/-- The dimensions of the result, where the operands' agree (R168). -/
def matDims (op : Nat) (a b : MBlk) : Option (Nat × Nat) :=
  match op with
  | 16 => if a.cols = b.rows then some (a.rows, b.cols) else none
  | 17 => if a.rows = b.rows then some (a.cols, b.cols) else none
  | 18 | 19 => if a.rows = b.rows ∧ a.cols = b.cols then some (a.rows, a.cols) else none
  | 20 => some (a.rows, a.cols)
  | 21 => if a.rows = a.cols then some (a.rows, a.rows) else none
  | 22 => if a.rows = a.cols ∧ a.rows = b.rows then some (b.rows, b.cols) else none
  | _ => none

/-- The exceptions of a list of element results, together. -/
def joinExc (rs : List (Word × Exc)) : Exc := rs.foldl (fun e r => e ||| r.2) 0

/-- Elements of a result computed one by one in row order, each from those before it.
(Log: DESIGN CHOICE, entry 33.) -/
def buildElems (f : List (Word × Exc) → Nat → Word × Exc) (n : Nat) : List (Word × Exc) :=
  (List.range n).foldl (fun acc k => acc ++ [f acc k]) []

/-- The products' sum as infinities alone decide it: some term is +infinity and some is -infinity. -/
def infClash (init : Option Word) (ps : List (Word × Word)) : Bool :=
  let neg := init.isSome
  let sign := fun (p : Word × Word) => ((bitOf p.1 31 != bitOf p.2 31) != neg)
  let big := fun (w : Word) => fieldNat w 0 31 == 0x7F800000
  let terms := (ps.filter (fun p => big p.1 || big p.2)).map sign ++
    (match init with
     | some x => if big x then [bitOf x 31] else []
     | none => [])
  terms.any id && terms.any (fun b => !b)

/-- A sum of products (R144, R168).  One product alone is a multiplication, no product leaves the number the sum is
taken from, and a NaN among the operands, a product of infinity and 0 or infinities of both signs give the canonical
NaN; for the rest the order and the number of roundings are not given.
(Log: DESIGN CHOICE, entry 33.) -/
def sumOf (rm : Nat) (init : Option Word) (ps : List (Word × Word)) : Word × Exc :=
  match init, ps with
  | some x, [] => (x, 0)
  | none, [(a, b)] => fmul rm a b
  | _, _ =>
    let r := Config.sumProducts rm init ps
    let ws := (init.toList ++ ps.flatMap (fun p => [p.1, p.2])).map FVal.ofWord
    let bad := ps.any (fun p => !(FVal.ofWord p.1).isNaN && !(FVal.ofWord p.2).isNaN &&
      (FVal.ofWord (fmul rm p.1 p.2).1).isNaN) || infClash init ps
    if bad || ws.any FVal.isSNaN then (canonNaN, r.2 ||| Exc.nv)
    else if ws.any FVal.isNaN then (canonNaN, r.2)
    else r

/-- The factor L of R168, row by row; the flag tells a pivot that was not positive.
(Log: DESIGN CHOICE, entry 33.) -/
def cholElems (rm n : Nat) (a : Nat → Nat → Word) : List (Word × Exc) × Bool :=
  let elem := fun (acc : List (Word × Exc)) (k : Nat) =>
    let i := k / n
    let j := k % n
    let g := fun (p q : Nat) => (acc.getD (p * n + q) (0, 0)).1
    if i < j then ((0 : Word), 0)
    else
      let sum := sumOf rm (some (a i j)) ((List.range j).map (fun q => (g i q, g j q)))
      if i = j then
        let r := fsqrt rm sum.1
        (r.1, r.2 ||| sum.2)
      else
        let r := fdiv rm sum.1 (g j j)
        (r.1, r.2 ||| sum.2)
  let es := buildElems elem (n * n)
  let bad := (List.range n).any (fun i =>
    let g := fun (p q : Nat) => (es.getD (p * n + q) (0, 0)).1
    let piv := (sumOf rm (some (a i i)) ((List.range i).map (fun q => (g i q, g i q)))).1
    !(flt 0 piv).1)
  (es, bad)

/-- One column of the solve of R168: forward and back substitution with the factor.
(Log: DESIGN CHOICE, entry 33.) -/
def solveColumn (rm n : Nat) (lo : Nat → Nat → Word) (b : Nat → Word) : List (Word × Exc) :=
  let fwd := buildElems (fun acc i =>
    let sum := sumOf rm (some (b i)) ((List.range i).map (fun q =>
      (lo i q, (acc.getD q (0, 0)).1)))
    let r := fdiv rm sum.1 (lo i i)
    (r.1, r.2 ||| sum.2)) n
  let back := (List.range n).foldl (fun (acc : List (Word × Exc)) k =>
    let i := n - 1 - k
    let y := (fwd.getD i (0, 0)).1
    let sum := sumOf rm (some y) ((List.range k).map (fun q =>
      (lo (i + 1 + q) i, (acc.getD q (0, 0)).1)))
    let r := fdiv rm sum.1 (lo i i)
    (r.1, r.2 ||| sum.2) :: acc) []
  back.map (fun r => (r.1, r.2 ||| joinExc fwd))

/-- The result elements of a command in row order, and whether mchol met a bad pivot. -/
def Lane.matResult (L : Lane) (m : MatCmd) (a b : MBlk) (n p : Nat) : List (Word × Exc) × Bool :=
  let ea := fun (i j : Nat) => L.matWord m (a.at_ i j)
  let eb := fun (i j : Nat) => L.matWord m (b.at_ i j)
  let each := fun (f : Nat → Nat → Word × Exc) => (List.range (n * p)).map (fun k => f (k / p) (k % p))
  match m.op with
  | 16 => (each (fun i j => sumOf m.rm none
      ((List.range a.cols).map (fun q => (ea i q, eb q j)))), false)
  | 17 => (each (fun i j => sumOf m.rm none
      ((List.range a.rows).map (fun q => (ea q i, eb q j)))), false)
  | 18 => (each (fun i j => fadd m.rm (ea i j) (eb i j)), false)
  | 19 => (each (fun i j => fsub m.rm (ea i j) (eb i j)), false)
  | 20 => (each (fun i j => fmul m.rm m.scale (ea i j)), false)
  | 21 => cholElems m.rm n ea
  | _ =>
    let cols := (List.range p).map (fun j => solveColumn m.rm n ea (fun i => eb i j))
    (each (fun i j => (cols.getD j []).getD i (0, 0)), false)

/-- Does the command name a second block? -/
def MatCmd.two (m : MatCmd) : Bool := m.op != 20 && m.op != 21

/-- The status of a command before it writes anything: 1, 3 or 4, or none of them (R169).  A block whose
header the unit cannot reach has status 3.
(Log: DESIGN CHOICE, entries 34, 122.) -/
def Lane.matCheck (L : Lane) (m : MatCmd) : Option Nat :=
  let ca := m.c.toNat
  let aa := m.a.toNat
  let ba := m.b.toNat
  if !(L.servesAll .dma0 ca 16 && L.servesAll .dma0 aa 16 && (!m.two || L.servesAll .dma0 ba 16)) then some 3
  else
    let a := L.mBlk m aa
    let b := L.mBlk m ba
    let c := L.mBlk m ca
    match (if a.ok && (!m.two || b.ok) then matDims m.op a b else none) with
    | none => some 1
    | some (n, p) =>
      if c.stride < p then some 1
      else
        let cEnd := c.stop n p
        let aEnd := a.stop a.rows a.cols
        let bEnd := b.stop b.rows b.cols
        if !(L.servesAll .dma0 ca (cEnd - ca) && L.servesAll .dma0 aa (aEnd - aa) &&
            (!m.two || L.servesAll .dma0 ba (bEnd - ba))) then some 3
        else
          let mayA := m.op == 18 || m.op == 19 || m.op == 20 || m.op == 21
          let mayB := m.op == 18 || m.op == 19 || m.op == 22
          let badA := rangesMeet ca cEnd aa aEnd && !(mayA && ca == aa)
          let badB := m.two && rangesMeet ca cEnd ba bEnd && !(mayB && ca == ba)
          if badA || badB then some 4 else none

/-- Store the result block: header ROWS and COLS, and the elements (R167). -/
def Lane.matStore (L : Lane) (c : MBlk) (n p : Nat) (es : List Word) : Lane :=
  let L := L.store c.base [BitVec.ofNat 8 n, BitVec.ofNat 8 p]
  (List.range (n * p)).foldl (fun L k =>
    L.store (c.at_ (k / p) (k % p)) (wordBytes (es.getD k 0))) L

/-- The snapshots of the commands still queued follow what the unit itself wrote.
(Log: DESIGN CHOICE, entry 34.) -/
def Lane.resnap (L old : Lane) : Lane :=
  { L with mat := { L.mat with queue := L.mat.queue.map (fun m =>
      { m with snap := m.snap.map (fun e =>
          if old.word e.1 = L.word e.1 then e else (e.1, L.word e.1)) }) } }

/-- The unit completes the command at the head of its queue: the result, the sticky bits of the issuing
context, the status, and every context that waits on the ticket becomes READY (R134, R168, R169).  A command of the LKP (context
number 128) works in WORK_BASE, where what it leaves is not stated (R369).
(Log: DESIGN CHOICE, entries 34, 124.) -/
def Lane.matComplete (L : Lane) : Lane :=
  match L.mat.queue with
  | [] => L
  | m :: rest =>
    let old := L
    let fin := fun (L : Lane) (st : Nat) =>
      let L := { L with mat := { L.mat with
        queue := rest, done := ((m.ticket.toNat, st) :: L.mat.done).take 17 } }
      let L := L.resnap old
      if L.halted then L
      else
        (allBelow 128 (fun c => (L.ctx c).st == .waiting && (L.ctx c).wait.kind == 6 &&
          (L.ctx c).wait.cmd.isNone && (L.ctx c).wait.word == m.ticket)).foldl
            (fun L c => L.finishWait c (BitVec.ofNat 32 st)) L
    if m.ctx = 128 then
      (if L.servesAll .dma0 m.c.toNat 4096 then fin (L.store m.c.toNat (L.freeBytes 4096)).useFree 0
       else fin (L.refusedAt m.c.toNat) 3)
    else match L.matCheck m with
    | some st => fin (if st = 3 then L.refused else L) st
    | none =>
      let a := L.mBlk m m.a.toNat
      let b := L.mBlk m m.b.toNat
      let c := L.mBlk m m.c.toNat
      match matDims m.op a b with
      | none => fin L 1
      | some (n, p) =>
        let r := L.matResult m a b n p
        let L := (L.modCtx m.ctx (fun x => x.stick (joinExc r.1))).useFree
        if r.2 then
          let L := L.matStore c n p ((List.range (n * p)).map (fun k => Config.freeWord (L.free + k)))
          fin L.useFree 2
        else fin (L.matStore c n p (r.1.map Prod.fst)) 0

end Sys2Proof.Machine
end

