-- ==== Sys2Proof/Machine/Lpe.lean ====
section
/-!
DEFINITION. The loop engine: parameters and enables, boundaries, the control law, supervision and the
standby lane (R166, R381 to R404).
-/

namespace Sys2Proof.Machine

/-! ### Binary32 arithmetic of the control law (R391) -/

def fAdd (x y : Word) : Word := (fadd 0 x y).1
def fSub (x y : Word) : Word := (fsub 0 x y).1
def fMul (x y : Word) : Word := (fmul 0 x y).1
def fDiv (x y : Word) : Word := (fdiv 0 x y).1
/-- x > y; false where either is a NaN. -/
def fGt (x y : Word) : Bool := (flt y x).1
def fOne : Word := 0x3F800000

/-- clamp(x, lo, hi). -/
def fClamp (x lo hi : Word) : Word := if fGt lo x then lo else if fGt x hi then hi else x

/-- The entries a table uses (R392): a table ends at the first breakpoint that is not greater than the one
before. -/
def gainEntries (ws : List Word) : List (Word × Word) :=
  match ws with
  | [] | [_] => []
  | x :: g :: rest =>
    match rest with
    | [] | [_] => [(x, g)]
    | y :: _ => if fGt y x then (x, g) :: gainEntries rest else [(x, g)]

/-- Linear interpolation between two breakpoints. -/
def lerp (a b : Word × Word) (x : Word) : Word :=
  fAdd a.2 (fMul (fDiv (fSub x a.1) (fSub b.1 a.1)) (fSub b.2 a.2))

/-- interp of R392 on the entries in use. -/
def interp (es : List (Word × Word)) (x : Word) : Word :=
  match es with
  | [] => 0
  | [a] => a.2
  | a :: b :: rest =>
    if !fGt x a.1 then a.2
    else if fGt b.1 x then lerp a b x
    else interp (b :: rest) x

/-! ### Fields of a loop's parameters (R401, R402) -/

def loopEn (p : Tab Word) : Bool := bitOf (loopGet p 0) 0
def loopPer (p : Tab Word) : Nat := fieldNat (loopGet p 3) 0 17
def loopOfs (p : Tab Word) : Nat := fieldNat (loopGet p 4) 0 17
def loopSpSrc (p : Tab Word) : Nat := fieldNat (loopGet p 1) 0 3
def loopSpIdx (p : Tab Word) : Nat := fieldNat (loopGet p 1) 4 6
def loopPvSrc (p : Tab Word) : Nat := fieldNat (loopGet p 1) 12 3
def loopPvIdx (p : Tab Word) : Nat := fieldNat (loopGet p 1) 16 8
def loopKind (p : Tab Word) : Nat := fieldNat (loopGet p 2) 0 2
def loopIdx (p : Tab Word) : Nat := fieldNat (loopGet p 2) 8 8
/-- HOLD as lphold sets it. -/
def loopHold (p : Tab Word) : Bool := loopGet p 32 == 1

/-- The pulse unit a loop commands, if any. -/
def loopUnit (p : Tab Word) : Option Nat :=
  match loopKind p with
  | 1 => some (208 + loopIdx p)
  | 2 => some (loopIdx p)
  | _ => none

/-- Accepted parameters of a loop. -/
def Lane.loopP (L : Lane) (k : Nat) : Tab Word := Tab.get L.lpe.acc [] k
/-- EN is 1 as accepted. -/
def Lane.loopOn (L : Lane) (k : Nat) : Bool := loopEn (L.loopP k)

/-- The load of the enabled loops in evaluations per second (R386). -/
def Lane.loopLoad (L : Lane) (ks : List Nat) : Rat :=
  ks.foldl (fun (a : Rat) k => if loopPer (L.loopP k) = 0 then a else
    a + 100000 / ((loopPer (L.loopP k) : Nat) : Rat)) 0

def Lane.loopsOn (L : Lane) : List Nat := allBelow 64 L.loopOn

/-- EN, FLAG, HOLD and LOAD follow the loops (R403, R404).
(Log: DEDUCED, entry 66.) -/
def Lane.loopRegs (L : Lane) : Lane :=
  let word := fun (w : Nat) (p : Nat → Bool) =>
    (List.range 32).foldl (fun (x : Word) j => setBit x j (p (32 * w + j))) 0
  let fl := fun k => (L.loop k).flag
  let ho := fun k => loopHold (L.loop k).p || ((L.loop k).flag && (L.loop k).act == 1)
  let M := ((((((L.wr 0x400C0008 (word 0 L.loopOn)).wr 0x400C000C (word 1 L.loopOn)).wr 0x400C0010
    (word 0 fl)).wr 0x400C0014 (word 1 fl)).wr 0x400C0018 (word 0 ho)).wr 0x400C001C (word 1 ho))
  M.setFld 0x400C0000 0 18 (L.loopLoad L.loopsOn).floor.toNat

/-! ### Enables (R395) -/

/-- The outer loop's period and offset fit the inner loop's (R390). -/
def nestOk (inner outer : Tab Word) : Bool :=
  let n := loopPer outer / loopPer inner
  decide (n * loopPer inner = loopPer outer ∧ 1 ≤ n ∧ n ≤ 256 ∧
    loopOfs outer % loopPer inner = loopOfs inner % loopPer inner)

/-- The loops outward of `k`, at most `n`. -/
def Lane.outward (L : Lane) (n k : Nat) : List Nat :=
  match n with
  | 0 => []
  | n + 1 =>
    if loopSpSrc (L.loopP k) = 1 then
      let o := loopSpIdx (L.loopP k)
      o :: L.outward n o
    else []

/-- The enabled loops that take their setpoint from `k`. -/
def Lane.innerOf (L : Lane) (k : Nat) : List Nat :=
  L.loopsOn.filter (fun j => loopSpSrc (L.loopP j) == 1 && loopSpIdx (L.loopP j) == k && j != k)

/-- Loops in the longest chain inward of `k`, counted to at most `n`. -/
def Lane.inward (L : Lane) (n k : Nat) : Nat :=
  match n with
  | 0 => 0
  | n + 1 => ((L.innerOf k).map (fun j => 1 + L.inward n j)).foldl max 0

/-- The cascade of `k` fails R390. -/
def Lane.cascadeBad (L : Lane) (k : Nat) : Bool :=
  let up := L.outward 5 k
  let p := L.loopP k
  let o := loopSpIdx p
  (loopSpSrc p == 1 && (up.contains k || !L.loopOn o || !nestOk p (L.loopP o))) ||
    (L.innerOf k).any (fun j => !nestOk (L.loopP j) p) || decide (4 < up.length + 1 + L.inward 5 k)

/-- The first condition of R395 that refuses an enable of loop `k`, 0 for none; the parameters as accepted
with EN 0.
(Log: DEDUCED, entry 66.) -/
def State.enableErr (s : State) (l : LaneId) (k : Nat) : Nat :=
  let L := s.lane l
  let p := L.loopP k
  let out := loopUnit p
  let pv := loopPvIdx p
  let pvBad := match loopPvSrc p with
    | 0 => false
    | 1 | 2 | 3 => decide (24 ≤ pv)
    | 4 => decide (208 ≤ pv)
    | _ => true
  let outBad := match loopKind p with
    | 0 => false
    | 1 => decide (24 ≤ loopIdx p)
    | 2 => decide (208 ≤ loopIdx p) || s.steer (loopIdx p) == 2
    | _ => true
  if 200000 < L.loopLoad (k :: L.loopsOn) then 1
  else if loopPer p ≤ loopOfs p ∨ loopPer p < 5 then 2
  else if L.cascadeBad k then 3
  else if out.isSome && L.loopsOn.any (fun j => j != k && loopUnit (L.loopP j) == out) then 4
  else if pvBad || outBad || decide (3 ≤ loopSpSrc p) then 5
  else if loopKind p == 2 && (L.nozzleOf (loopIdx p)).isSome then 6
  else 0

/-- A loop starts (R395, R396) with its parameters as they stand: nothing applied yet, the model anew. -/
def Lane.loopStart (L : Lane) (k : Nat) : Lane :=
  let x := L.loop k
  let d := L.lpe.dueAt k (L.lt + 1)
  let M := { L with lpe := { L.lpe with wq := d.2 } }
  let p := (x.take d.1).p
  let clr := loopGet p 33 == 1
  M.setLoop k { LoopSt.reset with
    run := true
    enAt := L.lt
    p := loopSet (loopSet p 33 0) 0 (L.loopAcc k 0)
    u := x.u
    e := x.e
    res := x.res
    ym := x.ym
    flag := x.flag && !clr
    act := if clr then 0 else x.act
    bad := x.bad
    sat := x.sat
    fresh := true }

/-! ### lpwr, lprd and lphold (R166, R383, R393) -/

/-- An accepted write of one parameter: at once where the loop does not run, else at its next boundary. -/
def Lane.loopWrite (L : Lane) (k p : Nat) (v : Word) : Lane :=
  let L := if p < 32 then L.setLoopAcc k p v else L
  if (L.loop k).run then { L with lpe := { L.lpe with wq := L.lpe.wq ++ [⟨L.lt, 0, k, p, v⟩] } }
  else L.setLoop k ((L.loop k).take [⟨L.lt, 0, k, p, v⟩])

/-- The bits of a parameter that a write keeps. -/
def loopMask (p : Nat) : Word :=
  match p with
  | 0 => 0xD
  | 1 => 0x00FF73F7
  | 2 => 0xFF03
  | 3 | 4 => 0x1FFFF
  | 17 => 0xFFFFFF07
  | _ => 0xFFFFFFFF

/-- CLRF clears the flag at once where the loop does not run. -/
def Lane.loopClrf (L : Lane) (k : Nat) : Lane :=
  if (L.loop k).run then L.loopWrite k 33 1
  else L.setLoop k { L.loop k with flag := false, act := 0, above := 0 }

/-- A write of CTL.
(Log: DEDUCED, entry 66.) -/
def State.loopCtl (s : State) (l : LaneId) (k : Nat) (v : Word) : State :=
  let L := s.lane l
  let was := L.loopOn k
  let L := if bitOf v 4 then L.loopClrf k else L
  if bitOf v 0 && !was then
    let s := s.setLane l L
    match s.enableErr l k with
    | 0 =>
      let L := L.setLoopAcc k 0 (v &&& loopMask 0)
      s.setLane l ((L.loopStart k).loopRegs)
    | err =>
      let L := L.loopWrite k 0 (setBit (v &&& loopMask 0) 0 false)
      let L := ((L.setFld 0x400C0000 20 3 err).setFld 0x400C0000 24 6 k).setFlag 0x400C0000 30 true
      s.setLane l (L.raise 74 err k 0)
  else s.setLane l ((L.loopWrite k 0 (v &&& loopMask 0)).loopRegs)

/-- lpwr at acceptance: refused for a loop above 63, an unassigned or read-only parameter. -/
def State.xLpwr (s : State) (l : LaneId) (c : Nat) (rs1 rs2 : RegNo) (p : Nat) : XRes :=
  let L := s.lane l
  let x := L.ctx c
  let kw := x.rx rs1
  let k := fieldNat kw 0 6
  let v := x.rx rs2
  if kw.toNat / 64 ≠ 0 ∨ 21 ≤ p ∨ (1 ≤ p ∧ p ≤ 4 ∧ L.loopOn k) then none
  else if p = 0 then some (0, (s.loopCtl l k v).modLane l (fun L => L.lpeTake 4))
  else some (0, s.setLane l ((L.loopWrite k p (v &&& loopMask p)).lpeTake 4))

/-- A parameter as it stood at the loop's last boundary (R166, R401, R402).
(Log: DEDUCED, entry 66.) -/
def LoopSt.param (x : LoopSt) (p : Nat) : Word :=
  match p with
  | 0 => setBit (setBit (loopGet x.p 0) 1 (loopHold x.p)) 5 x.flag
  | 21 => x.u
  | 22 => x.e
  | 23 => x.res
  | 24 => x.ym
  | 25 => BitVec.ofNat 32 (b2n x.flag + 2 * b2n (x.flag && x.act != 0) + 4 * b2n x.bad + 8 * b2n x.sat +
      16 * b2n (loopHold x.p))
  | _ => loopGet x.p p

/-- lprd at acceptance. -/
def State.xLprd (s : State) (l : LaneId) (c : Nat) (rs1 : RegNo) (p : Nat) : XRes :=
  let L := s.lane l
  let kw := (L.ctx c).rx rs1
  if kw.toNat / 64 ≠ 0 ∨ 26 ≤ p then none
  else some ((L.loop (fieldNat kw 0 6)).param p, s.modLane l (fun L => L.lpeTake 6))

/-- lphold at acceptance. -/
def State.xLphold (s : State) (l : LaneId) (c : Nat) (rs1 rs2 : RegNo) : XRes :=
  let L := s.lane l
  let x := L.ctx c
  let kw := x.rx rs1
  if kw.toNat / 64 ≠ 0 then none
  else some (0, s.setLane l ((L.loopWrite (fieldNat kw 0 6) 32 (x.rx rs2 &&& 1)).loopRegs.lpeTake 4))

/-- LPWR. -/
def execLpwr (l : LaneId) (c : CtxNo) (rs1 rs2 : RegNo) (p : Fin 32) (s : State) :
    Host.Outcome State Fault Refusal :=
  .next (s.xIssue l c 0 true (s.lane l).lpeFull (.lpwr l c rs1 rs2 p) (s.xLpwr l c rs1 rs2 p))
/-- LPRD. -/
def execLprd (l : LaneId) (c : CtxNo) (rd rs1 : RegNo) (p : Fin 32) (s : State) :
    Host.Outcome State Fault Refusal :=
  .next (s.xIssue l c rd true (s.lane l).lpeFull (.lprd l c rd rs1 p) (s.xLprd l c rs1 p))
/-- LPHOLD. -/
def execLphold (l : LaneId) (c : CtxNo) (rs1 rs2 : RegNo) (s : State) :
    Host.Outcome State Fault Refusal :=
  .next (s.xIssue l c 0 true (s.lane l).lpeFull (.lphold l c rs1 rs2) (s.xLphold l c rs1 rs2))

/-! ### Gain tables (R392) -/

/-- A write of a word of a gain table: the word it replaces still counts at a boundary of this tick.
(Log: DEDUCED, entry 66.) -/
def Lane.tblWrite (L : Lane) (a : Nat) (v : Word) : Lane :=
  let old := L.lpe.old.filter (fun e => e.1 == L.lt)
  let old := if old.any (fun e => e.2.1 == a) then old else old ++ [(L.lt, a, L.rd a)]
  { L.wr a v with lpe := { L.lpe with old := old } }

/-- The words of gain table `g` as a boundary of this tick sees them.
(Log: DEDUCED, entry 66.) -/
def Lane.gainTable (L : Lane) (g : Nat) : List Word :=
  (List.range 32).map (fun m =>
    let a := 0x400C1000 + 128 * g + 4 * m
    match L.lpe.old.find? (fun e => e.1 == L.lt && e.2.1 == a) with
    | some e => e.2.2
    | none => L.rd a)

/-! ### Inputs and setpoints (R387 to R390) -/

/-- The input of a loop at a boundary and whether it is bad; `sense` is the latest sample of a bridge's sense
input in volts, none where it is too old. -/
def State.loopInput (s : State) (l : LaneId) (p : Tab Word) (sense : Option Word) : Word × Bool :=
  let L := s.lane l
  let n := loopPvIdx p
  let lim := 4 * loopPer p * 1000
  let r : Word × Bool := match loopPvSrc p with
    | 0 => (loopGet p 7, false)
    | 1 => ((itof 0 (L.encBefore n).1).1, L.encMode n == 0)
    | 2 => ((L.encBefore n).2.1, (L.encK n).isNone || (L.encSt n).last.isNone ||
        decide ((L.encBefore n).2.2 + lim < L.lt))
    | 3 => match sense with
      | some v => (v, false)
      | none => (0, true)
    | _ =>
      let w := s.die.swt n
      let fs : Rat := if isH n then 60 else 12
      let x := if w.codeAt.any (fun t => decide (t < L.lt)) then (w.code, w.codeAt) else (w.code0, w.at0)
      (toF32 (((x.1 : Nat) : Rat) * fs / 4096), match x.2 with
        | some t => decide (t + lim < L.lt)
        | none => true)
  let v := fMul r.1 (loopGet p 9)
  (v, r.2 || !f32Finite r.1)

/-- The output loop `k` applies at this tick, if it has applied any, whether or not its boundary has been
processed yet. -/
def Lane.outerU (L : Lane) (k : Nat) : Option Word :=
  let x := L.loop k
  let per := loopPer x.p * 1000
  let here := per ≠ 0 ∧ (L.lt + per - loopOfs x.p * 1000 % per) % per = 0 ∧ x.at_ ≠ L.lt
  match x.pend with
  | some u => if here then some u else if x.live then some x.u else none
  | none => if x.live then some x.u else none

/-- The setpoint at a boundary before KSP, and the cascade setpoint that a loop keeps (R389, R390). -/
def Lane.loopSp (L : Lane) (x : LoopSt) : Word × Option Word :=
  match loopSpSrc x.p with
  | 1 =>
    let o := loopSpIdx x.p
    let v := if (L.loop o).run then (match L.outerU o with
        | some u => some u
        | none => x.spc) else x.spc
    (v.getD (loopGet x.p 6), v)
  | 2 => (L.flowTgt, none)
  | _ => (loopGet x.p 6, none)

/-! ### Boundaries (R383, R390, R393, R395, R397) -/

/-- A loop stops at a boundary: E77 for each loop that follows it (R390). -/
def Lane.loopStop (L : Lane) (k : Nat) : Lane :=
  let L := L.setLoop k { L.loop k with run := false, pend := none, snap := none }
  ((allBelow 64 (fun j => (L.loop j).run && loopSpSrc (L.loop j).p == 1 && loopSpIdx (L.loop j).p == k)).foldl
    (fun L j => L.raise 77 0 j 0) L).loopRegs

/-- An evaluation has not completed by 25 us after its boundary (R385). -/
def Lane.loopOver (L : Lane) (k : Nat) : Lane :=
  let M := L.setLoop k { L.loop k with snap := none }
  ((M.bump 0x400C0020).setFlag 0x400C0000 31 true).raise 75 0 k 0

/-- SUP.EN. -/
def supEn (p : Tab Word) : Bool := bitOf (loopGet p 17) 2

/-- The first part of a boundary: the pending output is applied, and the parameters are taken. -/
def Lane.loopTake (L : Lane) (k : Nat) : Lane :=
  let x := L.loop k
  let x := match x.pend with
    | some u => { x with u := u, live := true, pend := none }
    | none => x
  let d := L.lpe.dueAt k L.lt
  let L := { L with lpe := { L.lpe with wq := d.2 } }
  let sup := supEn x.p
  let x := { x.take d.1 with at_ := L.lt, dly := (x.u :: x.dly).take 256, snap := none }
  let clr := loopGet x.p 33 == 1
  let x := if clr then
      { x with flag := false, act := 0, above := 0, held := x.held || (x.flag && x.act != 0),
               p := loopSet x.p 33 0, fresh := true }
    else x
  let x := if supEn x.p && !sup then { x with fresh := true } else x
  L.setLoop k x

/-- LOOP_BOUNDARY: an evaluation that the last boundary left open has overrun.
(Log: DEDUCED, entry 66.) -/
def State.loopBoundary (s : State) (l : LaneId) (k : Nat) (sense : Option Word) : State :=
  let s := s.modLane l (fun L => if (L.loop k).snap.isSome then L.loopOver k else L)
  let s := s.modLane l (fun L => L.loopTake k)
  let L := s.lane l
  let x := L.loop k
  if !loopEn x.p then s.setLane l (L.loopStop k)
  else if x.flag && x.act == 3 then
    let M := L.setLoopAcc k 0 (setBit (L.loopAcc k 0) 0 false)
    let M := M.setLoop k { M.loop k with p := loopSet x.p 0 (setBit (loopGet x.p 0) 0 false) }
    s.setLane l (M.loopStop k)
  else
    let pv := s.loopInput l x.p sense
    let sp := L.loopSp x
    let L := if pv.2 then L.bump 0x400C0024 else L
    let L := if pv.2 && !x.bad then L.raise 76 0 k 0 else L
    let t := loopGet x.p 5
    let snap : LoopSnap :=
      { at_ := L.lt, tp := L.gainTable (fieldNat t 0 5), ti := L.gainTable (fieldNat t 8 5), pv := pv.1,
        bad := pv.2, sp := fMul sp.1 (loopGet x.p 8) }
    s.setLane l ((L.setLoop k { x with bad := pv.2, spc := sp.2, snap := some snap }).loopRegs)

/-- The LPE runs in RUN and IDLE (R381). -/
def State.lpeRuns (s : State) (l : LaneId) : Bool := (s.lane l).running && decide (s.power ≤ 1)

def execLoopBoundary (l : LaneId) (k : Fin 64) (sense : Option Word) (s : State) :
    Host.Outcome State Fault Refusal :=
  let L := s.lane l
  let x := L.loop k
  let per := loopPer x.p * 1000
  .next (if s.lpeRuns l && x.run && decide (x.enAt < L.lt) && decide (x.at_ ≠ L.lt) &&
      decide (L.lt % per = loopOfs x.p * 1000) then s.loopBoundary l k sense else s)

/-! ### Evaluations (R391, R394, R396 to R398) -/

/-- a = exp(-T / MTAU). -/
def modelDecay (p : Tab Word) : Word :=
  let tau := loopGet p 19
  if fGt tau 0 then
    let t : Rat := ((loopPer p : Nat) : Rat) / 100000
    toF32 (Config.exp (-(t / f32 tau)))
  else 0

/-- The model's update at a boundary with a good input, and the supervision (R396, R397).
(Log: DEDUCED, entry 66.) -/
def Lane.supervise (L : Lane) (k : Nat) (pv : Word) : Lane :=
  let x := L.loop k
  let p := x.p
  let ym := if x.fresh then pv else x.ym
  let dly := if x.fresh then List.replicate 256 x.u else x.dly
  let a := modelDecay p
  let d := fieldNat (loopGet p 17) 8 8
  let ym := fAdd (fMul a ym) (fMul (fMul (fSub fOne a) (loopGet p 18)) (dly.getD d x.u))
  let res := fSub pv ym
  let above := if fGt (fabs res) (loopGet p 20) then x.above + 1 else 0
  let hit := !x.flag && above == max 1 (fieldNat (loopGet p 17) 16 16)
  let act := fieldNat (loopGet p 17) 0 2
  let y := { x with ym := ym, dly := dly, res := res, above := above, fresh := false }
  if hit then ((L.setLoop k { y with flag := true, act := act }).raise 72 0 k 0).raise 73 act k 0
  else L.setLoop k y

/-- What an evaluation gives: the output for the next boundary, error, integrator, SAT, HOLD. -/
structure LoopOut where
  u : Option Word
  e : Word
  i : Word
  sat : Bool
  held : Bool
deriving DecidableEq, Repr

/-- The control law of R391 with the bumpless rule of R394. -/
def LoopSt.law (x : LoopSt) (sn : LoopSnap) : LoopOut :=
  let p := x.p
  let e := if bitOf (loopGet p 0) 3 then fSub sn.pv sn.sp else fSub sn.sp sn.pv
  let t := toF32 (((loopPer p : Nat) : Rat) / 100000)
  let kp := interp (gainEntries sn.tp) (fabs e)
  let ki := interp (gainEntries sn.ti) (fabs e)
  let pr := fMul kp e
  let lo := loopGet p 13
  let hi := loopGet p 14
  let bump := x.held && bitOf (loopGet p 0) 2 && x.live
  let i0 := if bump then fClamp (fSub (fSub x.u (loopGet p 10)) pr) lo hi else loopGet p 15
  let di := if bump then 0 else fMul (fMul ki e) t
  let u := fAdd (fAdd (fAdd (loopGet p 10) pr) i0) di
  let out := (loopUnit p).isSome
  let umin := if out then fClamp (loopGet p 11) 0 fOne else loopGet p 11
  let umax := if out then fClamp (loopGet p 12) 0 fOne else loopGet p 12
  let up := fGt u umax
  let dn := !up && fGt umin u
  let u2 := if up then umax else if dn then umin else u
  let di2 := if (up && fGt di 0) || (dn && fGt 0 di) then 0 else di
  ⟨some u2, e, if bump then i0 else fClamp (fAdd i0 di2) lo hi, up || dn, false⟩

/-- The output of an evaluation in the order of R398.
(Log: DEDUCED, entry 66.) -/
def LoopSt.evaluate (x : LoopSt) (sn : LoopSnap) : LoopOut :=
  let e := if bitOf (loopGet x.p 0) 3 then fSub sn.pv sn.sp else fSub sn.sp sn.pv
  let keep := if x.live then some x.u else none
  let i := loopGet x.p 15
  if x.flag && decide (2 ≤ x.act) then ⟨some (loopGet x.p 16), e, i, false, true⟩
  else if (x.flag && x.act == 1) || loopHold x.p then ⟨keep, e, i, x.sat, true⟩
  else if sn.bad then ⟨keep, x.e, i, x.sat, x.held⟩
  else x.law sn

/-- The duty of an output in the unit's resolution, a half rounded up, within the period; an output that is
no number gives a duty no rule states.
(Log: DESIGN CHOICE, entry 67.) -/
def Lane.loopDuty (L : Lane) (u : Word) (per : Nat) : Nat :=
  if (FVal.ofWord u).isNaN then Config.freeNat L.free % (per + 1)
  else if !f32Finite u then (if bitOf u 31 then 0 else per)
  else min per (roundHalfUp (f32 u * ((per : Nat) : Rat))).toNat

/-- LOOP_EVALUATION: the evaluation completes, and a unit's command leaves stamped for the next boundary.
(Log: DESIGN CHOICE, entry 67.) -/
def State.loopEvaluate (s : State) (l : LaneId) (k : Nat) (sn : LoopSnap) : State :=
  let L := s.lane l
  let L := if supEn (L.loop k).p && !sn.bad then L.supervise k sn.pv else L
  let x := L.loop k
  let o := x.evaluate sn
  let L := L.setLoop k { x with
    pend := o.u, e := o.e, p := loopSet x.p 15 o.i, sat := o.sat, held := o.held, snap := none }
  let L := match loopUnit x.p, o.u with
    | some unit, some u =>
      let per := (s.die.image l (perAddr unit)).toNat
      (L.sendCmd unit (sn.at_ + loopPer x.p * 1000) (.pair per (L.loopDuty u per)) none).useFree
    | _, _ => L
  s.setLane l L.loopRegs

def execLoopEvaluation (l : LaneId) (k : Fin 64) (s : State) : Host.Outcome State Fault Refusal :=
  .next (match ((s.lane l).loop k).snap with
    | some sn => if s.lpeRuns l && decide ((s.lane l).lt ≤ sn.at_ + 2500) then s.loopEvaluate l k sn else s
    | none => s)

/-- LOOP_OVERRUN (R385): 25 us after a boundary its evaluation has not completed. -/
def execLoopOverrun (l : LaneId) (k : Fin 64) (s : State) : Host.Outcome State Fault Refusal :=
  .next (match ((s.lane l).loop k).snap with
    | some sn =>
      if s.lpeRuns l && decide (sn.at_ + 2500 ≤ (s.lane l).lt) then
        s.modLane l (fun L => L.loopOver k)
      else s
    | none => s)

/-! ### The standby lane (R399) -/

/-- Integrator, model output and delay line of the partner's loop. -/
def LoopSt.mirror (x y : LoopSt) : LoopSt :=
  { x with p := loopSet x.p 15 (loopGet y.p 15), ym := y.ym, dly := y.dly, fresh := y.fresh }

/-- LOOP_MIRROR: at each whole millisecond, for every loop enabled in both lanes.
(Log: DEDUCED, entry 106.) -/
def execLoopMirror (s : State) : Host.Outcome State Fault Refusal :=
  .next (match s.control with
    | some x =>
      let A := s.lane x
      if s.lpeRuns x && s.lpeRuns (other x) && s.laneLink && decide (A.lt % 100000 = 0) then
        s.modLane (other x) (fun L =>
          (allBelow 64 (fun k => (A.loop k).run && (L.loop k).run)).foldl
            (fun L k => L.setLoop k ((L.loop k).mirror (A.loop k))) L)
      else s
    | none => s)

end Sys2Proof.Machine
end

