-- ==== Sys2Proof/Machine/Vault.lean ====
section
/-!
DEFINITION. The security block and the flash die: enrolment, counters, images, configuration copies, the
ledger's blocks, debug unlock, and the end of the boot (R588 to R610, R616, R617).
-/

namespace Sys2Proof.Machine

def Lane.modVault (L : Lane) (f : Vault → Vault) : Lane := { L with vault := f L.vault }

/-- Bytes of the flash die from an offset (R604). -/
def Lane.die (L : Lane) (o n : Nat) : List Byte := Flash.read L.flash o n
/-- A little-endian word of the flash die. -/
def Lane.dieWord (L : Lane) (o : Nat) : Word := bytesWord (L.die o 4)

/-- XOR with the keystream: seals and opens alike (R592, R513). -/
def gcmXor (key nonce bs : List Byte) : List Byte :=
  (List.range bs.length).map (fun i => bs.getD i 0 ^^^ Config.gcmStream key nonce i)

/-- The sealing key (R588, R592): one of the module, for both lanes.
(Log: DEDUCED, entry 110.) -/
def sealKey : List Byte := derivedKey 1 0xFF

/-! ### Monotonic counters (R593) -/

/-- MCNT: 0, 1 the image floors of lanes A and B; 2, 3 their configuration floors. -/
def State.mcnt (s : State) (i : Nat) : Word := Tab.get s.rind.mcnt 0 i
def State.setMcnt (s : State) (i : Nat) (v : Word) : State :=
  s.modRind (fun r => { r with mcnt := Tab.set r.mcnt 0 i v })
def State.imgFloor (s : State) (l : LaneId) : Word := s.mcnt (laneNo l)
def State.cfgFloor (s : State) (l : LaneId) : Word := s.mcnt (2 + laneNo l)

/-- A serial number is later than another (R15). -/
def later (x y : Word) : Bool := decide (0 < serialDiff x y)

/-- CNT_REF. -/
def State.cntRef (s : State) (l : LaneId) : State := s.modLane l (fun L => L.setFlag 0x40150004 5 true)

/-- COMMIT (R593): the image floor goes to the SVN of the running image. -/
def State.commitFloor (s : State) (l : LaneId) : State :=
  let svn := (s.lane l).rd 0x401500E0
  if svn.toNat < (s.imgFloor l).toNat then s.cntRef l else s.setMcnt (laneNo l) svn

/-- COMMIT_IMAGE_FLOOR. -/
def execCommitImageFloor (l : LaneId) (s : State) : Host.Outcome State Fault Refusal :=
  .next (if (s.lane l).running then s.commitFloor l else s)

/-- A write of CFG_FLOOR (R593): only to a later value. -/
def State.writeCfgFloor (s : State) (l : LaneId) (v : Word) : State :=
  if later v (s.cfgFloor l) then s.setMcnt (2 + laneNo l) v else s.cntRef l

/-- CFG_FLOOR_WRITE. -/
def execCfgFloorWrite (l : LaneId) (v : Word) (s : State) : Host.Outcome State Fault Refusal :=
  .next (if (s.lane l).running then s.writeCfgFloor l v else s)

/-! ### Enrolment (R589, R590) -/

/-- ENR_HASH as bytes. -/
def Lane.enrHash (L : Lane) : List Byte := (List.range 12).flatMap (fun w => wordBytes (L.rd (0x40150010 + 4 * w)))

/-- A write of ENR_GO: refused with ENR_REF where the lane is enrolled, the value is another, or an attempt has
failed since the reset; ignored while a burn runs.
(Log: DEDUCED, entry 108.) -/
def Lane.enrGo (L : Lane) (v : Word) : Lane :=
  if L.enrolled || v != 0x454E524C || L.flag 0x40150004 3 then L.setFlag 0x40150004 2 true
  else if L.vault.burn.isSome then L
  else (L.modVault (fun x => { x with burn := some L.enrHash })).setFlag 0x40150004 1 true

/-- ENR_GO. -/
def execEnrGo (l : LaneId) (v : Word) (s : State) : Host.Outcome State Fault Refusal :=
  .next (s.modLane l (fun L => if L.running then L.enrGo v else L))

/-- ENROLMENT_COMPLETE: the burn ends; `ok` tells whether it verified.  ENROLLED is set, the debug port locks
and E91 with D0 2 is raised, or ENR_FAIL stands until the reset.
(Log: DEDUCED, entry 108.) -/
def execEnrolmentComplete (l : LaneId) (ok : Bool) (s : State) : Host.Outcome State Fault Refusal :=
  .next (s.modLane l (fun L =>
    match L.vault.burn with
    | none => L
    | some h =>
      let M := (L.modVault (fun x => { x with burn := none })).setFlag 0x40150004 1 false
      if ok then
        (((M.modVault (fun x => { x with hash := h })).setFlag 0x40150004 0 true).setFlag 0x40150004 4
          false).raise 91 2 0 0
      else M.setFlag 0x40150004 3 true))

/-! ### Debug unlock (R600) -/

/-- The words of DBG_CHAL. -/
def Lane.setChal (L : Lane) (bs : List Byte) : Lane :=
  (List.range 12).foldl (fun M w => M.wr (0x401500B0 + 4 * w) (bytesWord ((bs.drop (4 * w)).take 4))) L

/-- A challenge is issued: serial number, count, 32 random bytes; none while the refusal of 60 s runs.
(Log: DEDUCED, entry 109.) -/
def Lane.issueChal (L : Lane) (l : LaneId) : Lane :=
  if L.vault.lockTill.isSome then L
  else
    let bs := natBytes (Config.laneSerial (l == .b)).toNat 8 ++ natBytes (L.vault.chals + 1) 8 ++
      Config.freeBytes L.free 32
    (L.useFree.modVault (fun x => { x with chals := x.chals + 1, chal := some bs })).setChal bs

/-- DBG_CHAL_READ: a read of DBG_CHAL[0] by context 0 or through the debug port. -/
def execDbgChalRead (l : LaneId) (s : State) : Host.Outcome State Fault Refusal :=
  .next (s.modLane l (fun L => if L.alive then L.issueChal l else L))

/-- A response that failed: the challenge goes, E89 with D0 3, and at the third in a row 60 s without one.
(Log: DEDUCED, entry 109.) -/
def Lane.failDebug (L : Lane) : Lane :=
  let n := L.vault.fails + 1
  let M := (L.modVault (fun x => { x with chal := none, fails := if n < 3 then n else 0 })).setChal []
  let M := if n < 3 then M else M.modVault (fun x => { x with lockTill := some (L.lt + 6000000000) })
  M.raise 89 3 0 0

/-- DEBUG_RESPONSE: `sig` over the challenge under `pub`, which must be the enrolled root.
(Log: DEDUCED, entry 109.) -/
def execDebugResponse (l : LaneId) (pub sig : List Byte) (s : State) : Host.Outcome State Fault Refusal :=
  .next (s.modLane l (fun L =>
    if L.alive && L.enrolled then
      match L.vault.chal with
      | none => L.failDebug
      | some ch =>
        if Config.sha384 pub == L.vault.hash && Config.ecdsaVerify pub (Config.sha384 ch) sig then
          ((L.modVault (fun x => { x with fails := 0 })).setFlag 0x40150004 4 true).raise 91 1 0 0
        else L.failDebug
    else L))

/-- DEBUG_LOCK_EXPIRY.
(Log: DEDUCED, entry 109.) -/
def execDebugLockExpiry (l : LaneId) (s : State) : Host.Outcome State Fault Refusal :=
  .next (s.modLane l (fun L =>
    match L.vault.lockTill with
    | some t => if t ≤ L.lt then L.modVault (fun x => { x with lockTill := none }) else L
    | none => L))

/-! ### Configuration copies (R592, R605 to R610) -/

/-- Offset of copy `i` in the flash die. -/
def copyOfs (i : Nat) : Nat := 0x40000 + 0x20000 * i
def Lane.copySeq (L : Lane) (i : Nat) : Word := L.dieWord (copyOfs i)
def Lane.copyFmt (L : Lane) (i : Nat) : Nat := bytesNat (L.die (copyOfs i + 12) 2)
def Lane.copyLen (L : Lane) (i : Nat) : Nat := 16 * bytesNat (L.die (copyOfs i + 14) 2)

/-- Copy `i` of a lane opens: IDX, LEN, and the tag over header and sealed contents. -/
def Lane.copyOpens (L : Lane) (l : LaneId) (i : Nat) : Bool :=
  let h := L.die (copyOfs i) 16
  let n := L.copyLen i
  h.getD 4 0 == BitVec.ofNat 8 (i + 2 * laneNo l) && decide (1200 ≤ n) && decide (n ≤ 65536) &&
    L.die (copyOfs i + 16 + n) 16 == Config.gcmTag sealKey (h.take 12) h (L.die (copyOfs i + 16) n)

/-- Copy `i` is valid (R610). -/
def State.copyValid (s : State) (l : LaneId) (i : Nat) : Bool :=
  (s.lane l).copyOpens l i && decide (0 ≤ serialDiff ((s.lane l).copySeq i) (s.cfgFloor l))

/-- The opened contents of copy `i`. -/
def Lane.copyText (L : Lane) (i : Nat) : List Byte :=
  gcmXor sealKey (L.die (copyOfs i) 12) (L.die (copyOfs i + 16) (L.copyLen i))

/-- The newest valid copy; copy 0 where the two have one SEQ. -/
def State.newestCopy (s : State) (l : LaneId) : Option Nat :=
  let L := s.lane l
  match s.copyValid l 0, s.copyValid l 1 with
  | true, true => some (if later (L.copySeq 1) (L.copySeq 0) then 1 else 0)
  | true, false => some 0
  | false, true => some 1
  | false, false => none

/-- The older slot, which the next write takes (R608). -/
def State.olderSlot (s : State) (l : LaneId) : Nat :=
  match s.newestCopy l with
  | some 0 => 1
  | some _ => 0
  | none => 1

/-- The older slot when both copies are valid with one SEQ is slot 1, as `newestCopy` names copy 0. -/
def Lane.cfgSrcOk (L : Lane) : Bool :=
  let n := L.fld 0x4016000C 0 17
  decide (1200 ≤ n) && decide (n ≤ 65536) && n % 16 == 0 && L.ownedBy 1 (L.rd 0x40160008).toNat n

/-- NSEQ is later than the floor and than each valid copy (R608). -/
def State.nseqOk (s : State) (l : LaneId) : Bool :=
  let n := (s.lane l).rd 0x40160010
  later n (s.cfgFloor l) &&
    [0, 1].all (fun i => !s.copyValid l i || later n ((s.lane l).copySeq i))

def Lane.wrRef (L : Lane) : Lane := L.setFlag 0x40160004 7 true

/-- A write of CFG_WR (R608): the contents are sealed with a fresh nonce, and the slot they will take is
invalid until the write is done (R609).
(Log: DEDUCED, entry 111.) -/
def State.cfgWr (s : State) (l : LaneId) : State :=
  let L := s.lane l
  if L.flag 0x40160004 0 || !L.cfgSrcOk || !s.nseqOk l then s.modLane l Lane.wrRef
  else
    let i := s.olderSlot l
    let text := L.bytes (L.rd 0x40160008).toNat (L.fld 0x4016000C 0 17)
    let head := wordBytes (L.rd 0x40160010) ++ [BitVec.ofNat 8 (i + 2 * laneNo l)] ++ Config.freeBytes L.free 7 ++
      natBytes (L.rd 0x40160014).toNat 2 ++ natBytes (text.length / 16) 2
    let ct := gcmXor sealKey (head.take 12) text
    let bs := head ++ ct ++ Config.gcmTag sealKey (head.take 12) head ct
    s.modLane l (fun L =>
      { L.useFree with
        flash := Flash.erase L.flash (copyOfs i) 0x20000
        vault := { L.vault with wr := some (NvmWr.mk true (copyOfs i) bs) } }.setFlag 0x40160004 0 true)

/-- CFG_WR. -/
def execCfgWr (l : LaneId) (s : State) : Host.Outcome State Fault Refusal :=
  .next (if (s.lane l).running then s.cfgWr l else s)

/-- CFG_WRITE_COMPLETE: the copy is read back and opened; `ok` is false where a cell did not take its value,
and the slot then holds bytes that no rule states.
(Log: DEDUCED, entry 111.) -/
def execCfgWriteComplete (l : LaneId) (ok : Bool) (s : State) : Host.Outcome State Fault Refusal :=
  .next (s.modLane l (fun L =>
    match L.vault.wr with
    | some w =>
      if w.cfg then
        let bs := if ok then w.bytes else Config.freeBytes L.free w.bytes.length
        let M := { L.useFree with
          flash := Flash.write L.flash w.ofs bs
          vault := { L.vault with wr := none } }
        let good := ok && M.copyOpens l ((w.ofs - 0x40000) / 0x20000)
        (M.setFlag 0x40160004 0 false).setFlag 0x40160004 (if good then 8 else 9) true
      else L
    | none => L))

/-- A write of PD_WR (R608): the sector is erased first; any place but the program-data region, a length out of
range, or a source that the core cluster does not own is refused.
(Log: DEDUCED, entry 111.) -/
def Lane.pdWr (L : Lane) : Lane :=
  let n := L.fld 0x40160038 0 13
  let dst := (L.rd 0x40160034).toNat
  let src := (L.rd 0x40160030).toNat
  if L.flag 0x40160004 0 || decide (n < 4) || decide (4096 < n) || decide (dst < 0x3000000) ||
      decide (0x4000000 ≤ dst) || dst % 4096 != 0 || !L.ownedBy 1 src n then L.wrRef
  else
    { L with
      flash := Flash.erase L.flash dst 4096
      vault := { L.vault with wr := some (NvmWr.mk false dst (L.bytes src n)) } }.setFlag 0x40160004 0 true

/-- PD_WR. -/
def execPdWr (l : LaneId) (s : State) : Host.Outcome State Fault Refusal :=
  .next (s.modLane l (fun L => if L.running then L.pdWr else L))

/-- PD_WRITE_COMPLETE.
(Log: DEDUCED, entry 111.) -/
def execPdWriteComplete (l : LaneId) (s : State) : Host.Outcome State Fault Refusal :=
  .next (s.modLane l (fun L =>
    match L.vault.wr with
    | some w =>
      if w.cfg then L
      else
        { L with
          flash := Flash.write L.flash w.ofs w.bytes
          vault := { L.vault with wr := none } }.setFlag 0x40160004 0 false
    | none => L))

/-! ### The signed ledger (R598, R599) -/

/-- A sealed block of `n` records. -/
def Lane.ldgBlock (L : Lane) (l : LaneId) (n : Nat) (recs : List Byte) : List Byte :=
  let body := natBytes 1 4 ++ natBytes (laneNo l + 256 * n) 4 ++ natBytes L.vault.idx 8 ++ L.vault.prev ++
    recs ++ List.replicate (3840 - recs.length) 0
  body ++ Config.ecdsaSign (l == .b) (Config.sha384 body) ++ List.replicate 96 0

/-- The records at LDG_RD, in ring order.
(Log: DEDUCED, entry 113.) -/
def Lane.ldgRecs (L : Lane) (n : Nat) : List Byte :=
  let base := (L.rd 0x40060040).toNat / 0x20000 * 0x20000
  let rd := L.fld 0x40060048 0 12
  (List.range n).flatMap (fun i => (L.engRead .dma1 (base + 32 * ((rd + i) % 4096)) 32).1)

/-- LEDGER_BLOCK_SEAL: at 120 records, or when the oldest has waited 250 ms; never over a block that is not
delivered.  Space returns to a full ring, and the GAP record of what it lost is written (R187).
(Log: DEDUCED, entry 113.) -/
def Lane.sealBlock (L : Lane) (l : LaneId) : Lane :=
  let n := min 120 L.spx.held
  let bs := L.ldgBlock l n (L.ldgRecs n)
  Lane.lostGap { (L.setFld 0x40060048 0 12 (L.fld 0x40060048 0 12 + n)) with
    flash := Flash.write (Flash.erase L.flash (0x2000000 + 4096 * (L.vault.idx % 4096)) 4096)
      (0x2000000 + 4096 * (L.vault.idx % 4096)) bs
    vault := { L.vault with idx := L.vault.idx + 1, prev := Config.sha384 bs }
    spx := { L.spx with held := L.spx.held - n, wrote := L.spx.wrote.drop n } }

/-- See `Lane.sealBlock`. -/
def execLedgerBlockSeal (l : LaneId) (s : State) : Host.Outcome State Fault Refusal :=
  .next (s.modLane l (fun L =>
    let old := match L.spx.wrote with
      | t :: _ => decide (t + 25000000 ≤ L.lt)
      | [] => false
    if L.running && (decide (120 ≤ L.spx.held) || old) && decide (L.vault.idx < L.vault.taken + 4096) then
      L.sealBlock l
    else L))

/-! ### The end of the boot (R72, R591, R607, R610) -/

/-- The first check of R591 that the image fails, or 0.
(Log: DEDUCED, entry 110.) -/
def State.imageCheck (s : State) (l : LaneId) : Nat :=
  let L := s.lane l
  let h := L.die 0x100000 512
  let len := (L.dieWord 0x10000C).toNat
  let load := (L.dieWord 0x100010).toNat
  let root := (h.drop 72).take 96
  let signPub := (h.drop 168).take 96
  if L.dieWord 0x100000 ≠ 0x4958464B ∨ L.dieWord 0x100004 ≠ 1 ∨ (h.drop 456).any (fun b => b != 0) ∨
      load < 0x100200 ∨ 0x2000000 < load + len then 1
  else if L.enrolled && !(Config.sha384 root == L.vault.hash) then 2
  else if !(Config.ecdsaVerify root (Config.sha384 (signPub ++ (h.drop 8).take 4)) ((h.drop 264).take 96) &&
      Config.ecdsaVerify signPub (Config.sha384 (h.take 360)) ((h.drop 360).take 96)) then 3
  else if !((h.drop 24).take 48 == Config.sha384 (L.die load len)) then 4
  else if (L.dieWord 0x100008).toNat < (s.imgFloor l).toNat then 5
  else 0

/-- The default block of the image (R607), if it has one. -/
def Lane.defaultBlock (L : Lane) : Option (List Byte) :=
  let load := (L.dieWord 0x100010).toNat
  let len := (L.dieWord 0x10000C).toNat
  let o := (L.dieWord (load + 4)).toNat
  let n := (L.dieWord (load + 8)).toNat
  if o = 0 ∨ n < 1200 ∨ 65536 < n ∨ n % 16 ≠ 0 ∨ len < o + n then none else some (L.die (load + o) n)

/-- The keys of a keys section (R606): a slot whose FILLED bit is 0 is empty.
(Log: DEDUCED, entry 110.) -/
def keysOf (bs : List Byte) (root : List Byte) : Tab (List Byte) :=
  let filled := bytesWord ((bs.drop 1184).take 4)
  let put := fun (t : Tab (List Byte)) (k : Nat) (v : List Byte) => Tab.set t [] k v
  let t := put [] 0 root
  let t := (List.range 8).foldl (fun t i =>
    if bitOf filled (8 + i) then put t (1 + i) ((bs.drop (384 + 96 * i)).take 96) else t) t
  let t := (List.range 4).foldl (fun t i =>
    if bitOf filled i then put t (16 + i) ((bs.drop (96 * i)).take 96) else t) t
  if bitOf filled 16 then put t 32 ((bs.drop 1152).take 32) else t

/-- E89 with D0 2 for each copy that is not valid (R592).
(Log: DEDUCED, entry 110.) -/
def State.reportCopies (s : State) (l : LaneId) : State :=
  [0, 1].foldl (fun t i =>
    if s.copyValid l i then t else t.modLane l (fun L => L.raise 89 2 0 0)) s

/-- VAL0, VAL1, SEQ0 and SEQ1. -/
def State.showCopies (s : State) (l : LaneId) : State :=
  [0, 1].foldl (fun t i =>
    if s.copyValid l i then
      t.modLane l (fun L => (L.setFlag 0x40160004 (5 + i) true).wr (0x40160018 + 4 * i) (L.copySeq i))
    else t) s

/-- The configuration a running image gets (R610): contents, SEL, DEFAULT, FMT_OLD. -/
def State.selectCfg (s : State) (l : LaneId) : List Byte × Nat × Bool × Bool :=
  let L := s.lane l
  let fmt := (L.rd 0x40160014).toNat
  match s.newestCopy l with
  | some i =>
    if L.copyFmt i = fmt then (L.copyText i, i, false, false)
    else ((L.copyText i).take 1200 ++ (L.defaultBlock.getD []).drop 1200, i, false, true)
  | none => (L.defaultBlock.getD [], 2, true, false)

/-- The contents are placed, the registers tell of them, and the floor advances (R593, R610). -/
def State.placeCfg (s : State) (l : LaneId) : State :=
  let c := s.selectCfg l
  let root := if (s.lane l).enrolled then (s.lane l).die (0x100000 + 72) 96 else []
  let seq := match s.newestCopy l with
    | some i => (s.lane l).copySeq i
    | none => 0
  let t := s.modLane l (fun L =>
    let L := { L with keys := keysOf c.1 root }
    let L := (L.setFld 0x40160004 1 2 c.2.1).setFlag 0x40160004 3 c.2.2.1
    let L := ((L.setFlag 0x40160004 4 c.2.2.2).wr 0x40160020 seq).wr 0x40160024 (BitVec.ofNat 32 c.1.length)
    if L.bankPower 22 = 2 then L else L.store 0x580000 c.1)
  if c.2.2.1 then t.modLane l (fun L => L.raise 90 0 0 0)
  else if later seq (t.cfgFloor l) then t.setMcnt (2 + laneNo l) seq else t

/-- Context 0 starts in RUNNING at the entry point, on core 0 (R104).
(Log: DEDUCED, entry 29.) -/
def Lane.startSupervisor (L : Lane) (entry : Word) : Lane :=
  ({ L with phase := Phase.run, spx := { L.spx with gap := true } }.setCtx 0
    { Ctx.reset with st := .running, pc := entry }).wr 0x40030080 0

/-- The image runs: its SVN and digest, context 0, the watchdog. -/
def State.startImage (s : State) (l : LaneId) : State :=
  let L := s.lane l
  let load := (L.dieWord 0x100010).toNat
  let t := s.modLane l (fun L =>
    (L.modVault (fun v => { v with digest := L.die 0x100018 48 })).wr 0x401500E0 (L.dieWord 0x100008) |>.wr
      0x40160014 (L.dieWord load))
  let t := ((t.reportCopies l).showCopies l).placeCfg l
  t.modLane l (fun L => (L.startSupervisor (L.dieWord 0x100014)).restartWdog)

/-- The first boot of a lane after R59 completes: E92 once, and the rind clears the lane's record (R59). -/
def State.reportVlog (s : State) (l : LaneId) : State :=
  if s.rind.vlogRec.get l then
    (s.modLane l (fun L => L.raise 92 0 0 0)).modRind (fun r => { r with vlogRec := r.vlogRec.set l false })
  else s

/-- The resident loader runs with the keys of the newest valid copy (R610).
(Log: DEDUCED, entry 110.) -/
def State.startLoader (s : State) (l : LaneId) : State :=
  let L := s.lane l
  let keys := match s.newestCopy l with
    | some i => keysOf ((L.copyText i).take 1200) []
    | none => []
  (s.reportCopies l).modLane l (fun L =>
    { L with
      phase := Phase.loader
      keys := keys
      host := { L.host with upd := L.vault.begun.map (fun n => Upd.mk n 0 none) }
      vault := { L.vault with begun := none } })

/-- BOOT_COMPLETE (R48, R59, R72, R591, R597, R613): MODE 0b010 enters factory test before enrolment; MODE 0b001, a
restart for an update, or an image that fails a check goes to the loader; else the image runs.
(Log: DEDUCED, entry 110.) -/
def State.bootLane (s : State) (l : LaneId) : State :=
  let L := s.lane l
  let mode := L.fld 0x40000010 0 3
  let t := s.modLane l (fun L => L.modVault (fun v => { v with loader := false }))
  let n := s.imageCheck l
  let t :=
    if mode = 2 ∧ ¬ L.enrolled then t.modLane l (fun L => { L with phase := Phase.factory })
    else if mode = 1 ∨ L.vault.loader then t.startLoader l
    else if n = 0 then
      let u := (t.startImage l).payWake l
      if u.isActive l then u.sendKey else u
    else (t.modLane l (fun L => L.raise 89 1 0 (BitVec.ofNat 32 n))).startLoader l
  t.reportVlog l

/-- See `State.bootLane`.
(Log: DEDUCED, entry 1; DESIGN CHOICE, entry 9.) -/
def execBootComplete (l : LaneId) (s : State) : Host.Outcome State Fault Refusal :=
  .next (if (s.lane l).phase = Phase.boot then s.bootLane l else s)

end Sys2Proof.Machine
end

