-- ==== Sys2Proof/Machine/HostPort.lean ====
section
/-!
DEFINITION. The host port: frames, sessions, responses, HRDY, messages, tiles, ledger blocks and updates
(R511 to R526, R594 to R596, R611 to R614).  A frame row takes the bytes that follow its opcode.
-/

namespace Sys2Proof.Machine

def Lane.modHost (L : Lane) (f : HostSt → HostSt) : Lane := { L with host := f L.host }
def Lane.sess (L : Lane) (n : Nat) : Option Sess := Tab.get L.host.sess none n

/-- Store a session, or close it; VLT.STAT.SESS follows. -/
def Lane.setSess (L : Lane) (n : Nat) (x : Option Sess) : Lane :=
  (L.modHost (fun h => { h with sess := Tab.set h.sess none n x })).setFlag 0x40150004 (7 + n) x.isSome

/-- A session closes with E88 (R596). -/
def Lane.closeSess (L : Lane) (n d0 : Nat) : Lane :=
  if (L.sess n).isSome then (L.setSess n none).raise 88 d0 n 0 else L

/-- The host port serves frames (R516, R518): the program or the loader runs, the module is in RUN, and EN is
1. -/
def State.hostServed (s : State) (l : LaneId) : Bool :=
  let L := s.lane l
  (L.running || L.phase == Phase.loader) && s.power == 0 && L.flag 0x40130000 0

/-- HRDY_x (R518, R520).
(Log: DEDUCED, entry 92.) -/
def State.hrdy (s : State) (l : LaneId) : Bool :=
  s.hostServed l && !(s.lane l).host.busy && !(s.lane l).ev.pulse

/-- Opcodes of command frames with the range of LENGTH (R514). -/
def opLen (op : Nat) : Option (Nat × Nat) :=
  match op with
  | 0x10 => some (228, 228)
  | 0x11 => some (0, 0)
  | 0x20 => some (4, 4)
  | 0x21 => some (0, 0)
  | 0x22 => some (0, 0)
  | 0x30 => some (0, 1020)
  | 0x31 => some (0, 0)
  | 0x40 => some (6, 1029)
  | 0x50 => some (0, 0)
  | 0x51 => some (0, 0)
  | 0x52 => some (8256, 8256)
  | 0x60 => some (0, 0)
  | 0x70 => some (4, 4104)
  | _ => none

/-- Opcodes that need a session once the owner has enrolled. -/
def needsSess (op : Nat) : Bool := op != 0x10 && op != 0x21
/-- Opcodes that the loader serves (R516). -/
def loaderOp (op : Nat) : Bool := op == 0x10 || op == 0x11 || op == 0x21 || op == 0x70

/-- A frame with its header fields (R512). -/
structure Frame where
  op : Nat
  all : List Byte
deriving DecidableEq, Repr

def Frame.b (f : Frame) (i : Nat) : Nat := (f.all.getD i 0).toNat
def Frame.len (f : Frame) : Nat := f.b 2 + 256 * f.b 3
def Frame.ses (f : Frame) : Nat := f.b 4
def Frame.seq (f : Frame) : Nat := f.b 6 + 256 * f.b 7
def Frame.body (f : Frame) : List Byte := (f.all.drop 8).take f.len
def mkFrame (op : Nat) (f : List Byte) : Frame := ⟨op, BitVec.ofNat 8 op :: f⟩

/-- The nonce of the `n`-th request or response of a direction (R596). -/
def sessNonce (iv : List Byte) (n : Nat) : List Byte := iv ++ natBytes n 8

/-- Checks 1 to 8 of R516 in order: the first RESULT that is not 0.
(Log: DEDUCED, entry 90.) -/
def Lane.frameResult (L : Lane) (f : Frame) : Nat :=
  let want := 8 + f.len + (if f.ses = 0 then 0 else 16)
  if f.all.length < 8 ∨ f.all.length ≠ want then 9
  else if (opLen f.op).isNone ∨ f.b 1 ≠ 0 ∨ f.b 5 ≠ 0 then 1
  else if !(match opLen f.op with
      | some r => decide (r.1 ≤ f.len) && decide (f.len ≤ r.2)
      | none => false) then 2
  else if f.ses ≠ 0 then
    match L.sess f.ses with
    | none => 3
    | some x =>
      if f.all.drop (8 + f.len) ≠ Config.gcmTag x.kHD (sessNonce x.ivHD (x.n + 1)) (f.all.take 8) f.body then 4
      else if f.seq ≠ (x.n + 1) % 65536 then 5
      else if L.phase = Phase.loader ∧ !loaderOp f.op then 10
      else 0
  else if L.enrolled && needsSess f.op then 6
  else if L.phase = Phase.loader ∧ !loaderOp f.op then 10
  else 0

/-- The request's payload in clear (R513). -/
def Lane.clearBody (L : Lane) (f : Frame) : List Byte :=
  match L.sess f.ses with
  | some x => if f.ses = 0 then f.body else gcmXor x.kHD (sessNonce x.ivHD (x.n + 1)) f.body
  | none => f.body

/-- A response's bytes (R512, R513): protected where `x` is the session and `n` the request's number.
(Log: DEDUCED, entry 90.) -/
def respBytes (f : Frame) (result flags : Nat) (pay : List Byte) (x : Option Sess) : List Byte :=
  let head := [BitVec.ofNat 8 f.op, BitVec.ofNat 8 flags] ++ natBytes pay.length 2 ++
    [BitVec.ofNat 8 f.ses, BitVec.ofNat 8 result] ++ natBytes f.seq 2
  match x with
  | none => head ++ pay
  | some y =>
    let nonce := sessNonce y.ivDH (y.n + 1)
    let ct := gcmXor y.kDH nonce pay
    head ++ ct ++ Config.gcmTag y.kDH nonce head ct

/-- What an opcode makes of an accepted request: RESULT, FLAGS, payload, what a complete FETCH does, whether
the lane has restarted, and the state. -/
structure Ans where
  result : Nat
  flags : Nat
  pay : List Byte
  act : Nat
  n : Nat
  gone : Bool
  st : State

def Ans.fail (s : State) (r : Nat) : Ans := ⟨r, 0, [], 0, 0, false, s⟩
def Ans.ok (s : State) (pay : List Byte) : Ans := ⟨0, 0, pay, 0, 0, false, s⟩

/-- Keep a response. -/
def Lane.keepResp (L : Lane) (op : Nat) (bs : List Byte) (act n : Nat) : Lane :=
  L.modHost (fun h => { h with busy := true, resp := some (Resp.mk op bs act n) })

/-- The counts of refused frames (R541): frame errors, tag failures; the fourth in a row closes the session
(R515).
(Log: DEDUCED, entry 90.) -/
def Lane.noteFailure (L : Lane) (f : Frame) (r : Nat) : Lane :=
  if r = 9 then L.bump 0x40130030
  else if r = 4 then
    let M := L.bump 0x40130034
    match M.sess f.ses with
    | none => M
    | some x =>
      if 4 ≤ x.fails + 1 then M.closeSess f.ses 3
      else M.setSess f.ses (some { x with fails := x.fails + 1 })
  else if r = 5 ∨ r = 6 ∨ r = 10 then
    match L.sess f.ses with
    | some x => L.setSess f.ses (some { x with fails := 0 })
    | none => L
  else L

/-- A request is accepted: its number and its time; the 2^32nd closes the session (R596).
(Log: DEDUCED, entry 91.) -/
def Lane.countReq (L : Lane) (n : Nat) : Lane :=
  match if n = 0 then none else L.sess n with
  | none => L
  | some x =>
    let M := L.setSess n (some { x with n := x.n + 1, fails := 0, at_ := L.lt })
    if x.n + 1 < 4294967296 then M else M.closeSess n 2

/-- A waiting response is lost to a new command frame (R517). -/
def Lane.loseResp (L : Lane) : Lane :=
  if L.host.resp.isSome then (L.modHost (fun h => { h with resp := none })).bump 0x4013003C else L

/-- The session whose keys protect a response: only past checks 4 and 5.
(Log: DEDUCED, entry 91.) -/
def Lane.respSess (L : Lane) (f : Frame) (r : Nat) : Option Sess :=
  if f.ses = 0 ∨ r = 9 ∨ r = 1 ∨ r = 2 ∨ r = 3 ∨ r = 4 then none else L.sess f.ses

/-- RESULT 10 comes after the SEQ check, so the request counts as accepted.
(Log: DEDUCED, entry 91.) -/
def Lane.countRefused (L : Lane) (f : Frame) (r : Nat) : Lane := if r = 10 then L.countReq f.ses else L

/-- A command frame that the port takes. -/
def State.answer (s : State) (l : LaneId) (f : Frame) (body : State → List Byte → Ans) : State :=
  let L := s.lane l
  let r := L.frameResult f
  if r ≠ 0 then
    s.modLane l (fun M =>
      ((M.noteFailure f r).countRefused f r).keepResp f.op (respBytes f r 0 [] (L.respSess f r)) 0 0)
  else
    let x := if f.ses = 0 then none else L.sess f.ses
    let a := body s (L.clearBody f)
    if a.gone then a.st
    else
      (a.st.modLane l (fun M => M.countReq f.ses)).modLane l (fun M =>
        M.keepResp f.op (respBytes f a.result a.flags a.pay x) a.act a.n)

/-- A command frame (R517, R519): ignored while HRDY is low for a cause that is not busy, counted while busy;
else a waiting response is discarded and the lane is busy until RESPONSE_READY. -/
def State.command (s : State) (l : LaneId) (op : Nat) (f : List Byte) (body : State → List Byte → Ans) : State :=
  if !s.hostServed l then s
  else if (s.lane l).host.busy then s.modLane l (fun L => L.bump 0x40130038)
  else (s.modLane l Lane.loseResp).answer l (mkFrame op f) body

/-! ### Status and fetch -/

/-- The status word (R521). -/
def Lane.statusWord (L : Lane) (l : LaneId) : List Byte :=
  let wait := L.host.resp.isSome && !L.host.busy
  let n := match L.host.resp with
    | some r => if wait then r.bytes.length else 0
    | none => 0
  let open_ := [1, 2, 3, 4].any (fun i => (L.sess i).isSome)
  let w0 := L.ev.q.length + 512 * b2n L.ev.evlost + 1024 * b2n wait + 2048 * b2n open_ +
    4096 * b2n (L.phase == Phase.loader) + 65536 * n
  let v := L.host.view
  let w1 := b2n (!v.none_ && v.act == l) + 2 * laneNo v.act + 65536 * v.seq
  natBytes w0 4 ++ natBytes w1 4

/-- A STATUS or FETCH frame: ignored, counted while busy, or served. -/
def State.direct (s : State) (l : LaneId) (f : Lane → Lane) : State :=
  if !s.hostServed l then s
  else if (s.lane l).host.busy then s.modLane l (fun L => L.bump 0x40130038)
  else s.modLane l f

/-- STATUS. -/
def execStatusFrame (l : LaneId) (s : State) : Host.Outcome State Fault Refusal :=
  .next (s.direct l (fun L => L.modHost (fun h => { h with out := L.statusWord l })))

/-- What a complete FETCH does to the queue or ring it read (R517).
(Log: DEDUCED, entry 113.) -/
def Lane.commitResp (L : Lane) (r : Resp) : Lane :=
  let M := if r.op = 0x20 then { L with ev := { L.ev with evlost := false } } else L
  match r.act with
  | 1 => { M with ev := { M.ev with q := M.ev.q.drop r.n } }
  | 2 => M.setFld 0x40130028 0 6 (M.fld 0x40130028 0 6 + 1)
  | 3 => M.wr 0x40070040 (ringNext (M.rd 0x40070040))
  | 4 => M.modVault (fun v => { v with taken := v.taken + 1 })
  | _ => M

/-- A FETCH frame; `complete` tells whether it ran to its last byte (R517). -/
def Lane.fetch (L : Lane) (complete : Bool) : Lane :=
  match L.host.resp with
  | none => L.modHost (fun h => { h with out := [0x02, 0, 0, 0, 0, 7, 0, 0] })
  | some r =>
    let M := L.modHost (fun h => { h with out := r.bytes })
    if complete then
      let M := (M.commitResp r).modHost (fun h => { h with resp := none })
      if M.host.restart then M.modHost (fun h => { h with restartAt := some L.lt }) else M
    else M

/-- FETCH.
(Log: DEDUCED, entry 90.) -/
def execFetch (l : LaneId) (complete : Bool) (s : State) : Host.Outcome State Fault Refusal :=
  .next (s.direct l (fun L => L.fetch complete))

/-- RESPONSE_READY (R519): HRDY rises; the restart of an accepted BEGIN falls due in 100 ms (R613).
(Log: DEDUCED, entry 92.) -/
def execResponseReady (l : LaneId) (s : State) : Host.Outcome State Fault Refusal :=
  .next (s.modLane l (fun L =>
    if L.host.busy then
      let M := { L.modHost (fun h => { h with busy := false }) with ev := { L.ev with owed := false } }
      if M.host.restart && M.host.restartAt.isNone then
        M.modHost (fun h => { h with restartAt := some (L.lt + 10000000) })
      else M
    else L))

/-- ATTENTION_PULSE (R520): an event has entered while HRDY was high.
(Log: DEDUCED, entry 92.) -/
def execAttentionPulse (l : LaneId) (s : State) : Host.Outcome State Fault Refusal :=
  .next (if s.hrdy l && (s.lane l).ev.owed then
    s.modLane l (fun L => { L with ev := { L.ev with owed := false, pulse := true } })
  else s)

/-- ATTENTION_PULSE_END. -/
def execAttentionPulseEnd (l : LaneId) (s : State) : Host.Outcome State Fault Refusal :=
  .next (s.modLane l (fun L => { L with ev := { L.ev with pulse := false } }))

/-! ### Sessions (R594 to R596) -/

/-- The least session number that is free.
(Log: DEDUCED, entry 91.) -/
def Lane.freeSess (L : Lane) : Option Nat := firstWhere (fun n => (L.sess n).isNone) [1, 2, 3, 4]

/-- The host's key and signature hold (R594). -/
def Lane.hostProof (L : Lane) (pay : List Byte) : Bool :=
  let hk := (pay.getD 128 0).toNat
  if L.enrolled then
    let pub := Tab.get L.keys [] (16 + hk)
    decide (hk < 4) && pub != [] && Config.ecdsaVerify pub
      (Config.sha384 (pay.take 132 ++ natBytes Config.serial.toNat 8)) (pay.drop 132)
  else hk == 0xFF

/-- A session opens: the lane's ephemeral key and nonce, its signature and certificate, the derived keys. -/
def State.openSess (s : State) (l : LaneId) (n : Nat) (pay : List Byte) : Ans :=
  let L := s.lane l
  let b := l == .b
  let qd := (List.range 96).map (Config.ephemeral b L.vault.eph)
  let nd := Config.freeBytes L.free 32
  let head := [BitVec.ofNat 8 n, 0, 0, 0] ++ qd ++ nd
  let sig := Config.ecdsaSign b (Config.sha384 (pay ++ head))
  let key := fun (i len : Nat) => (List.range len).map (fun j =>
    Config.hkdf (Config.ecdh b L.vault.eph (pay.take 96)) ((pay.drop 96).take 32 ++ nd)
      (natBytes Config.serial.toNat 8 ++ [BitVec.ofNat 8 (laneNo l), BitVec.ofNat 8 n]) (i + j))
  let x : Sess := ⟨0, 0, L.lt, key 0 32, key 32 32, key 64 4, key 68 4⟩
  Ans.ok (s.modLane l (fun L =>
    ((L.useFree.modVault (fun v => { v with eph := v.eph + 1 })).setSess n (some x)).raise 88 1 n 0))
    (head ++ sig ++ Config.vendorCert b)

/-- SESS_INIT: RESULT 4 where the proof fails, 2 where its reserved bytes are not 0 or it comes inside a
session, 8 where 4 sessions are open.
(Log: DEDUCED, entry 91.) -/
def State.sessInit (s : State) (l : LaneId) (ses : Nat) (pay : List Byte) : Ans :=
  let L := s.lane l
  if !L.hostProof pay then Ans.fail (s.modLane l (fun L => L.raise 88 4 0 0)) 4
  else if ses ≠ 0 ∨ ((pay.drop 129).take 3).any (fun b => b != 0) then Ans.fail s 2
  else match L.freeSess with
    | none => Ans.fail s 8
    | some n => s.openSess l n pay
/-- See `State.sessInit`. -/
def execSessInit (l : LaneId) (f : List Byte) (s : State) : Host.Outcome State Fault Refusal :=
  .next (s.command l 0x10 f (fun t pay => t.sessInit l (mkFrame 0x10 f).ses pay))

/-- SESS_FIN closes the session of its frame.
(Log: DEDUCED, entry 91.) -/
def execSessFin (l : LaneId) (f : List Byte) (s : State) : Host.Outcome State Fault Refusal :=
  .next (s.command l 0x11 f (fun t _ => Ans.ok (t.modLane l (fun L => L.closeSess (mkFrame 0x11 f).ses 2)) []))

/-- SESSION_TIMEOUT: 30 s without an accepted request. -/
def execSessionTimeout (l : LaneId) (n : Fin 4) (s : State) : Host.Outcome State Fault Refusal :=
  .next (s.modLane l (fun L =>
    match L.sess (n.val + 1) with
    | some x => if x.at_ + 3000000000 ≤ L.lt then L.closeSess (n.val + 1) 2 else L
    | none => L))

/-! ### Reading (R514, R524) -/

/-- An entry of the event queue as 16 bytes. -/
def EvEntry.bytes (e : EvEntry) : List Byte :=
  natBytes (e.ev % 128 + 128 * b2n e.loss + 256 * e.d0 + 65536 * e.d1) 4 ++ wordBytes e.d2 ++ natBytes e.stamp 8

/-- EV_READ: entries queued in a tick before the frame's stamp. -/
def State.evRead (s : State) (l : LaneId) (stamp : Nat) (pay : List Byte) : Ans :=
  let n := bytesNat pay
  if n < 1 ∨ 64 < n then Ans.fail s 2
  else
    let es := ((s.lane l).ev.q.takeWhile (fun e => decide (e.stamp < stamp))).take n
    if es.length = 0 then Ans.fail s 7
    else { Ans.ok s (es.flatMap EvEntry.bytes) with act := 1, n := es.length }
/-- See `State.evRead`.
(Log: DEDUCED, entry 90.) -/
def execEvRead (l : LaneId) (stamp : BitVec 64) (f : List Byte) (s : State) :
    Host.Outcome State Fault Refusal :=
  .next (s.command l 0x20 f (fun t pay => t.evRead l stamp.toNat pay))

/-- RIND.OWN_SUM (R536). -/
def State.ownSum (s : State) : Word :=
  let r := s.rind
  let mixed := (List.range 232).any (fun u => s.steer u == 0) && (List.range 232).any (fun u => s.steer u == 1)
  BitVec.ofNat 32 (laneNo r.act + 2 * r.fld 0x200 0 1 + 4 * b2n mixed + 8 * b2n r.none_ + 65536 * r.fld 0x10 16 16)
/-- RIND.STEER[w]. -/
def State.steerWord (s : State) (w : Nat) : Word :=
  BitVec.ofNat 32 ((List.range 16).foldr (fun i a =>
    4 * a + (if 16 * w + i < 232 then s.steer (16 * w + i) else 0)) 0)

/-- OWN_READ. -/
def execOwnRead (l : LaneId) (f : List Byte) (s : State) : Host.Outcome State Fault Refusal :=
  .next (s.command l 0x21 f (fun t _ =>
    Ans.ok t (wordBytes t.ownSum ++ (List.range 15).flatMap (fun w => wordBytes (t.steerWord w)))))

/-- VIS_READ. -/
def execVisRead (l : LaneId) (f : List Byte) (s : State) : Host.Outcome State Fault Refusal :=
  .next (s.command l 0x22 f (fun t _ =>
    Ans.ok t ((List.range 7).flatMap (fun w => wordBytes ((t.lane l).visWord w)))))

/-! ### Messages (R522, R523) -/

/-- The slot of a ring position: its address, where the host master reaches it. -/
def Lane.msgSlot (L : Lane) (base : Nat) (pos : Nat) : Option Nat :=
  let a := (L.rd base).toNat + 1024 * (pos % 32)
  if L.servesAll .host a 1024 then some a else none
/-- A slot that cannot be reached counts where a bank refused it (R522, R547). -/
def Lane.msgRefused (L : Lane) (base : Nat) (pos : Nat) : Lane :=
  L.refusedAt ((L.rd base).toNat + 1024 * (pos % 32))

/-- The slot index of a message goes to a hardware queue; a full one drops it. -/
def Lane.postMsg (L : Lane) (slot : Nat) : Lane :=
  if L.flag 0x40130000 2 && decide ((L.queue (L.fld 0x40130000 3 5)).length < 64) then
    L.queuePut (L.fld 0x40130000 3 5) (BitVec.ofNat 32 slot)
  else L

/-- MSG_WRITE. -/
def State.msgWrite (s : State) (l : LaneId) (pay : List Byte) : Ans :=
  let L := s.lane l
  let wr := L.fld 0x40130014 0 6
  let rd := L.fld 0x40130018 0 6
  match L.msgSlot 0x40130010 wr with
  | none => Ans.fail (s.modLane l (fun L => L.msgRefused 0x40130010 wr)) 8
  | some a =>
    if wr % 32 = rd % 32 ∧ wr ≠ rd then Ans.fail s 8
    else
      Ans.ok (s.modLane l (fun L =>
        ((L.store a (natBytes pay.length 4 ++ pay)).setFld 0x40130014 0 6 (wr + 1)).postMsg (wr % 32))) []
/-- See `State.msgWrite`. -/
def execMsgWrite (l : LaneId) (f : List Byte) (s : State) : Host.Outcome State Fault Refusal :=
  .next (s.command l 0x30 f (fun t pay => t.msgWrite l pay))

/-- MSG_READ: at most 64 positions; slots with PROV that may not pass are skipped at once. -/
def State.msgRead (s : State) (l : LaneId) (n : Nat) : Ans :=
  match n with
  | 0 => Ans.fail s 7
  | n + 1 =>
    let L := s.lane l
    let rd := L.fld 0x40130028 0 6
    if L.fld 0x40130024 0 6 = rd then Ans.fail s 7
    else match L.msgSlot 0x40130020 rd with
      | none => Ans.fail (s.modLane l (fun L => L.msgRefused 0x40130020 rd)) 8
      | some a =>
        let w := L.word a
        if bitOf w 16 && !L.flag 0x40130000 1 then
          (s.modLane l (fun L => (L.setFld 0x40130028 0 6 (rd + 1)).bump 0x40130040)).msgRead l n
        else
          { Ans.ok s (L.bytes (a + 4) (min 1020 (fieldNat w 0 11))) with act := 2, flags := b2n (bitOf w 16) }
/-- See `State.msgRead`. -/
def execMsgRead (l : LaneId) (f : List Byte) (s : State) : Host.Outcome State Fault Refusal :=
  .next (s.command l 0x31 f (fun t _ => t.msgRead l 64))

/-- CORR: a frame into queue H (R335); one whose length or CRC fails is discarded and counted (R336).
(Log: DEDUCED, entry 93.) -/
def State.corrH (s : State) (l : LaneId) (pay : List Byte) : Ans :=
  let L := s.lane l
  if 2048 < L.gns.hBytes + pay.length then Ans.fail s 8
  else if frameOk pay pay.length then
    Ans.ok (s.modLane l (fun L => L.modGns (fun g => { g with frames := g.frames ++ [(true, pay)] }))) []
  else Ans.ok (s.modLane l (fun L => L.bump 0x400A00C0)) []
/-- See `State.corrH`. -/
def execCorrFrame (l : LaneId) (f : List Byte) (s : State) : Host.Outcome State Fault Refusal :=
  .next (s.command l 0x40 f (fun t pay => t.corrH l pay))

/-! ### Tiles and ledger blocks (R214, R215, R599) -/

/-- TILE_TAKE. -/
def State.tileTake (s : State) (l : LaneId) : Ans :=
  let L := s.lane l
  if ringUsed (L.rd 0x4007003C) (L.rd 0x40070040) = 0 then Ans.fail s 7
  else
    let r := L.engRead .section_ ((L.rd 0x40070028).toNat + 0x2040 * (ringPos (L.rd 0x40070040) % 31)) 8256
    { Ans.ok (s.setLane l r.2) r.1 with act := 3 }
/-- See `State.tileTake`. -/
def execTileTake (l : LaneId) (f : List Byte) (s : State) : Host.Outcome State Fault Refusal :=
  .next (s.command l 0x50 f (fun t _ => t.tileTake l))

/-- The import slot at XIN_DONE, if a request is outstanding. -/
def Lane.tileSlotDone (L : Lane) : Option Nat :=
  if ringUsed (L.rd 0x40070044) (L.rd 0x40070048) = 0 then none
  else some ((L.rd 0x40070028).toNat + 0x40000 + 0x2040 * (ringPos (L.rd 0x40070048) % 31))

/-- TILE_REQ. -/
def State.tileReq (s : State) (l : LaneId) : Ans :=
  match (s.lane l).tileSlotDone with
  | none => Ans.fail s 7
  | some a =>
    let r := (s.lane l).engRead .section_ a 48
    Ans.ok (s.setLane l r.2) r.1
/-- See `State.tileReq`. -/
def execTileReq (l : LaneId) (f : List Byte) (s : State) : Host.Outcome State Fault Refusal :=
  .next (s.command l 0x51 f (fun t _ => t.tileReq l))

/-- TILE_ANS. -/
def State.tileAns (s : State) (l : LaneId) (pay : List Byte) : Ans :=
  match (s.lane l).tileSlotDone with
  | none => Ans.fail s 8
  | some a =>
    Ans.ok (s.modLane l (fun L =>
      (L.engWrite .section_ a pay).wr 0x40070048 (ringNext (L.rd 0x40070048)))) []
/-- See `State.tileAns`. -/
def execTileAns (l : LaneId) (f : List Byte) (s : State) : Host.Outcome State Fault Refusal :=
  .next (s.command l 0x52 f (fun t pay => t.tileAns l pay))

/-- LDG_READ.
(Log: DEDUCED, entry 113.) -/
def State.ldgRead (s : State) (l : LaneId) : Ans :=
  let L := s.lane l
  if L.vault.idx ≤ L.vault.taken then Ans.fail s 7
  else { Ans.ok s (L.die (0x2000000 + 4096 * (L.vault.taken % 4096)) 4096) with act := 4 }
/-- See `State.ldgRead`. -/
def execLdgRead (l : LaneId) (f : List Byte) (s : State) : Host.Outcome State Fault Refusal :=
  .next (s.command l 0x60 f (fun t _ => t.ldgRead l))

/-! ### Updates (R611 to R614) -/

/-- The horizontal speed of a lane's nozzle class, squared, where NC_Q is at least 1. -/
def Lane.ncSpeed2 (L : Lane) : Option Rat :=
  if fieldNat (L.nc 4) 0 2 = 0 then none else some (L.veh.ve * L.veh.ve + L.veh.vn * L.veh.vn)

/-- Moving (UCODE 1).
(Log: DEDUCED, entry 112.) -/
def State.moving (s : State) : Bool :=
  match s.laneA.ncSpeed2, s.laneB.ncSpeed2 with
  | none, none => !s.rind.none_
  | x, y => decide ((9 : Rat) / 100 < x.getD 0) || decide ((9 : Rat) / 100 < y.getD 0)

/-- Low supply (UCODE 3); voltages in mV.
(Log: DEDUCED, entry 112.) -/
def State.lowSupply (s : State) (vlog : Nat) (vbat : List Nat) : Bool :=
  let lim := if s.rind.flag 0x220 1 then 21000 else 10500
  decide (vlog < lim) || vbat.any (fun v => decide (6000 ≤ v) && decide (v < lim))

/-- The first UCODE that refuses a BEGIN (R612), or 0. -/
def State.beginCode (s : State) (l : LaneId) (total svn : Nat) (low : Bool) : Nat :=
  if s.moving then 1
  else if (s.lane l).flag 0x40140004 0 then 2
  else if low then 3
  else if s.rind.flag 0x220 0 then 4
  else if !s.rind.flag 0x200 1 || s.rind.proving.isSome || s.rind.plan.isSome then 5
  else if total < 528 ∨ 0x1F00000 < total then 7
  else if svn < (s.imgFloor l).toNat then 9
  else 0

/-- A response of UPD. -/
def updAns (s : State) (l : LaneId) (code : Nat) : Ans :=
  let got := match (s.lane l).host.upd with
    | some u => u.got
    | none => 0
  Ans.ok s ([BitVec.ofNat 8 code, 0, 0, 0] ++ natBytes got 4)

/-- BEGIN (sub 1).
(Log: DEDUCED, entry 112.) -/
def State.updBegin (s : State) (l : LaneId) (ses : Nat) (pay : List Byte) (low : Bool) : Ans :=
  let total := bytesNat ((pay.drop 4).take 4)
  let code := s.beginCode l total (bytesNat ((pay.drop 8).take 4)) low
  if code ≠ 0 then updAns s l code
  else
    let run := (s.lane l).running
    updAns (s.modLane l (fun L => L.modHost (fun h => { h with
      upd := some (Upd.mk total 0 (if run then none else some ses))
      restart := run }))) l 0

/-- The transfer that a DATA or END of session `ses` may go on with.
(Log: DEDUCED, entry 112.) -/
def Lane.updOf (L : Lane) (ses : Nat) : Option Upd :=
  match L.host.upd with
  | some u => if u.owner = none ∨ u.owner = some ses then some u else none
  | none => none

/-- DATA (sub 2).
(Log: DEDUCED, entry 112.) -/
def State.updData (s : State) (l : LaneId) (ses : Nat) (pay : List Byte) (low : Bool) : Ans :=
  if (s.lane l).running then updAns s l 10
  else match (s.lane l).updOf ses with
    | none => updAns s l 8
    | some u =>
      let ofs := bytesNat ((pay.drop 4).take 4)
      let bs := pay.drop 8
      if ofs ≠ u.got ∨ ofs % 4096 ≠ 0 then updAns s l 6
      else if u.total < ofs + bs.length then updAns s l 7
      else if low then updAns s l 3
      else
        updAns (s.modLane l (fun L =>
          let M := L.modHost (fun h => { h with upd := some (Upd.mk u.total (u.got + bs.length) (some ses)) })
          { M with flash := Flash.write (Flash.erase L.flash (0x100000 + ofs) 4096) (0x100000 + ofs) bs })) l 0

/-- The lane restarts for an update: it gives up control if it holds it by then, and its links go down (R73, R613, R614).
(Log: DEDUCED, entry 101.) -/
def State.restartLane (s : State) (l : LaneId) : State :=
  ((if s.isActive l then s.giveUp l 1 0 else s).cutLinks l).modLane l (fun L => (L.resetKeep).setFld 0x40000010 8 4 7)

/-- END (sub 3).
(Log: DEDUCED, entry 112.) -/
def State.updEnd (s : State) (l : LaneId) (ses : Nat) : Ans :=
  if (s.lane l).running then updAns s l 10
  else match (s.lane l).updOf ses with
    | none => updAns s l 8
    | some u =>
      if u.got < u.total then updAns s l 6
      else { Ans.ok (s.restartLane l) [] with gone := true }

/-- A UPD request: a sub-command that R611 does not list, reserved bytes that are not 0, or a length that is
not the sub-command's is RESULT 2. -/
def State.upd (s : State) (l : LaneId) (ses : Nat) (pay : List Byte) (low : Bool) : Ans :=
  if ((pay.drop 1).take 3).any (fun b => b != 0) then Ans.fail s 2
  else match (pay.getD 0 0).toNat, pay.length with
    | 1, 12 => s.updBegin l ses pay low
    | 2, n => if n < 9 then Ans.fail s 2 else s.updData l ses pay low
    | 3, 4 => s.updEnd l ses
    | 4, 4 => updAns s l 0
    | _, _ => Ans.fail s 2

/-- A UPD frame as the row for sub-command `sub`: a frame that passes the checks and carries another
sub-command is another row's, and leaves the state as it is.
(Log: DEDUCED, entry 112.) -/
def State.updRow (s : State) (l : LaneId) (f : List Byte) (sub : Nat) (low : Bool) : State :=
  let L := s.lane l
  let fr := mkFrame 0x70 f
  let got := ((L.clearBody fr).getD 0 0).toNat
  if L.frameResult fr = 0 ∧ 1 ≤ got ∧ got ≤ 4 ∧ got ≠ sub then s
  else s.command l 0x70 f (fun t pay => t.upd l fr.ses pay low)

/-- BEGIN; `vlog` and `vbat` are the supplies in mV. -/
def execUpdBegin (l : LaneId) (f : List Byte) (vlog : Nat) (vbat : List Nat) (s : State) :
    Host.Outcome State Fault Refusal :=
  .next (s.updRow l f 1 (s.lowSupply vlog vbat))
/-- DATA. -/
def execUpdData (l : LaneId) (f : List Byte) (vlog : Nat) (vbat : List Nat) (s : State) :
    Host.Outcome State Fault Refusal :=
  .next (s.updRow l f 2 (s.lowSupply vlog vbat))
/-- END. -/
def execUpdEnd (l : LaneId) (f : List Byte) (s : State) : Host.Outcome State Fault Refusal :=
  .next (s.updRow l f 3 false)
/-- QUERY. -/
def execUpdQuery (l : LaneId) (f : List Byte) (s : State) : Host.Outcome State Fault Refusal :=
  .next (s.updRow l f 4 false)

/-- LOADER_RESTART (R613): after the complete FETCH of the response, or 100 ms after it was ready. -/
def execLoaderRestart (l : LaneId) (s : State) : Host.Outcome State Fault Refusal :=
  let L := s.lane l
  .next (match L.host.restartAt with
    | some t =>
      if L.running ∧ L.host.restart ∧ t ≤ L.lt then
        (s.modLane l (fun L => L.modVault (fun v => { v with
          loader := true
          begun := L.host.upd.map (fun u => u.total) }))).restartLane l
      else s
    | none => s)

/-- UNKNOWN_OPCODE (R516): RESULT 1, or the RESULT of an earlier check. -/
def execUnknownOpcode (l : LaneId) (op : Byte) (f : List Byte) (s : State) : Host.Outcome State Fault Refusal :=
  .next (if op = 1 ∨ op = 2 ∨ (opLen op.toNat).isSome then s
    else s.command l op.toNat f (fun t _ => Ans.fail t 1))

end Sys2Proof.Machine
end

