-- ==== Sys2Proof/Machine/Mgmt.lean ====
section
/-!
DEFINITION. The rind as a register block, the management port and its protected writes, and the lanes' views
of ownership (R528 to R540).
-/

namespace Sys2Proof.Machine

/-! ### Reading the rind (R529, R536) -/

/-- A register of the rind as it reads; unassigned addresses read 0.
(Log: DESIGN CHOICE, entry 137.) -/
def State.rindRead (s : State) (a : Nat) : Word :=
  let r := s.rind
  if a = 0x00 then
    BitVec.ofNat 32 (0x208 + 65536 * Config.grade.toNat + 16777216 * Config.step.toNat)
  else if a = 0x04 then loWord Config.serial.toNat
  else if a = 0x08 then hiWord Config.serial.toNat
  else if a = 0x10 then s.ownSum
  else if a = 0x110 then
    setBit (r.rd a) 17 (s.die.replica == 0 || Config.holdLow s.die.replica)
  else if 0x20 ≤ a ∧ a < 0x5C ∧ a % 4 = 0 then s.steerWord ((a - 0x20) / 4)
  else if 0x60 ≤ a ∧ a < 0x6C ∧ a % 4 = 0 then Config.nonceWord r.mgmt.nonce ((a - 0x60) / 4)
  else fldsRead (rindFlds a) (r.rd a)

/-- MGMT_READ (R529): `n` words from `addr` on, each latched at its first byte; the address match is a wake
source (R528).
(Log: DEDUCED, entry 94.) -/
def execMgmtRead (addr : BitVec 16) (n : Nat) (s : State) : Host.Outcome State Fault Refusal :=
  let t := s.wakeBy 1024
  .next (t.modRind (fun r => { r with mgmt := { r.mgmt with
    readBack := (List.range n).map (fun i => t.rindRead ((addr.toNat + 4 * i) % 65536)) } }))

/-! ### Protected writes (R531 to R535) -/

/-- LANE_OFF (R533): refused where it would hold both lanes; a lane that it newly holds gives up control and
stands in reset, to report cause 8 once released.
(Log: DEDUCED, entry 101.) -/
def State.writeLaneOff (s : State) (v : Word) : State × Bool :=
  if fieldNat v 0 2 = 3 then (s, false)
  else
    let hold := fun (t : State) (l : LaneId) =>
      if bitOf v (laneNo l) && !t.laneOff l then
        (if t.isActive l then t.giveUp l 4 0 else t).holdLane l 8
      else t
    let t := hold (hold s .a) .b
    (t.modRind (fun r => r.setFld 0x90 0 2 (fieldNat v 0 2)), true)

/-- E_SNAP (R535): the counters are latched, and with bit 1 they start anew.
(Log: DEDUCED, entry 94.) -/
def State.writeSnap (s : State) (v : Word) : State :=
  if fieldNat v 0 2 = 0 then s
  else
    let n := s.rind.mgmt.eDraw
    let r := (List.range 8).foldl (fun (r : Rind) k => r.wr (0xA0 + 4 * k) (Config.energy n k)) s.rind
    let r := (r.wr 0xC0 (Config.energy n 8)).wr 0xC4
      (satWord ((s.die.replica - s.rind.mgmt.eFrom) / 100000000))
    { s with rind := { r with mgmt := { r.mgmt with
        eDraw := n + 1
        eFrom := if bitOf v 1 then s.die.replica else r.mgmt.eFrom } } }

/-- A write of the register that MG_ADDR names, and its RES (R531, R537). -/
def State.protectedWrite (s : State) (a : Nat) (v : Word) : State × Nat :=
  if a = 0x100 then (s.writePower .host v, if s.refuseCode (fieldNat v 0 3) = 0 then 0 else 2)
  else if a = 0x90 then ((s.writeLaneOff v).1, if (s.writeLaneOff v).2 then 0 else 2)
  else if a = 0x94 then
    if bitOf v 0 then (s.proofSwap.1, if s.proofSwap.2 then 0 else 2) else (s, 0)
  else if a = 0x98 then (s.writeSnap v, 0)
  else (s, 1)

/-- OK, FAIL and RES of MG_STAT; KEY and the rest stand. -/
def Rind.mgRes (r : Rind) (ok fail : Bool) (res : Nat) : Rind :=
  ((r.setFlag 0x8C 1 ok).setFlag 0x8C 2 fail).setFld 0x8C 12 4 res

/-- The tag that MG_TAG must hold (R531). -/
def Rind.mgTag (r : Rind) (key : List Byte) : List Byte :=
  Config.gcmTag key ((List.range 3).flatMap (fun w => wordBytes (Config.nonceWord r.mgmt.nonce w)))
    (wordBytes (r.rd 0x70) ++ wordBytes (r.rd 0x74)) []
def Rind.mgGiven (r : Rind) : List Byte := (List.range 4).flatMap (fun w => wordBytes (r.rd (0x78 + 4 * w)))

/-- A tag that fails: FAIL, E89 with D0 4, the count, and after 8 in a row 10 s without GO.
(Log: DEDUCED, entry 94.) -/
def State.mgFail (s : State) : State :=
  let n := s.rind.fld 0x8C 8 4 + 1
  let t := s.modRind (fun r =>
    ((r.setFlag 0x8C 1 false).setFlag 0x8C 2 true).setFld 0x8C 8 4 (min 8 n))
  let t := t.bothLanes (fun L => if L.running then L.raise 89 4 0 0 else L)
  if n < 8 then t
  else t.modRind (fun r =>
    { r with mgmt := { r.mgmt with lockUntil := some (s.die.replica + 1000000000) } }.setFlag 0x8C 3 true)

/-- A write of MG_GO; each uses up the nonce.
(Log: DEDUCED, entry 94.) -/
def State.mgGo (s : State) : State :=
  let r := s.rind
  let t := s.modRind (fun r => { r with mgmt := { r.mgmt with nonce := r.mgmt.nonce + 1 } })
  if r.mgmt.lockUntil.isSome then t.modRind (fun r => r.mgRes false false 4)
  else match r.mgmt.key with
    | none => t.modRind (fun r => r.mgRes false false 3)
    | some key =>
      if r.mgGiven = r.mgTag key then
        let w := t.protectedWrite (r.fld 0x70 0 16) (r.rd 0x74)
        w.1.modRind (fun r => (r.mgRes true false w.2).setFld 0x8C 8 4 0)
      else t.mgFail

/-- MG_GO. -/
def execMgGo (s : State) : Host.Outcome State Fault Refusal := .next s.mgGo

/-- MG_LOCK_EXPIRY.
(Log: DEDUCED, entry 94.) -/
def execMgLockExpiry (s : State) : Host.Outcome State Fault Refusal :=
  .next (match s.rind.mgmt.lockUntil with
    | some t =>
      if t ≤ s.die.replica then
        s.modRind (fun r => ({ r with mgmt := { r.mgmt with lockUntil := none } }.setFlag 0x8C 3 false).setFld
          0x8C 8 4 0)
      else s
    | none => s)

/-- A word written through the management port (R530): MG_ADDR, MG_VAL, MG_TAG and MG_GO only. -/
def State.mgmtWord (s : State) (a : Nat) (v : Word) : State :=
  if a = 0x88 then s.mgGo
  else if a = 0x70 then s.modRind (fun r => r.wr a (v &&& 0xFFFF))
  else if a = 0x74 ∨ (0x78 ≤ a ∧ a < 0x88 ∧ a % 4 = 0) then s.modRind (fun r => r.wr a v)
  else s

/-- The words of a write transfer; a partial word is discarded (R529). -/
def wordsOf (bs : List Byte) : List Word :=
  (List.range (bs.length / 4)).map (fun i => bytesWord ((bs.drop (4 * i)).take 4))

/-- MGMT_WRITE (R528, R529): the address match comes first.
(Log: DEDUCED, entry 94.) -/
def execMgmtWrite (addr : BitVec 16) (data : List Byte) (s : State) : Host.Outcome State Fault Refusal :=
  .next (((wordsOf data).zipIdx).foldl (fun (t : State) (e : Word × Nat) =>
    t.mgmtWord ((addr.toNat + 4 * e.2) % 65536) e.1) (s.wakeBy 1024))

/-! ### Lane writes to the rind (R71, R530) -/

/-- A lane writes a rind register through its window: the active lane only; addresses 0x60 to 0xC7 ignored;
RED_STAT's W1C bits and the others by their access codes (R584). -/
def State.rindWrite (s : State) (l : LaneId) (a : Nat) (v : Word) : State :=
  if !s.isActive l || (decide (0x60 ≤ a) && decide (a < 0xC8)) then s
  else if a = 0x100 then s.writePower (.lane l) v
  else s.modRind (fun r => r.wr a (fldsWrite (rindFlds a) false (r.rd a) v))

/-! ### Views of ownership (R539) -/

/-- OWNERSHIP_VIEW_ADOPT: the lane takes the register's state as its view. -/
def execOwnershipViewAdopt (l : LaneId) (s : State) : Host.Outcome State Fault Refusal :=
  .next (s.modLane l (fun L =>
    if L.alive then
      L.modHost (fun h => { h with view := View.mk s.rind.act s.rind.none_ (s.rind.fld 0x10 16 16) s.rind.steer })
    else L))

/-- OWNERSHIP_DISAGREE: the view differs; E86 with D0 1 where the lane's own role is in dispute, else D0 2 with
the first unit that differs.
(Log: DEDUCED, entry 89.) -/
def execOwnershipDisagree (l : LaneId) (s : State) : Host.Outcome State Fault Refusal :=
  let v := (s.lane l).host.view
  let seq := BitVec.ofNat 32 (s.rind.fld 0x10 16 16)
  .next (if (!v.none_ && v.act == l) != s.isActive l then s.modLane l (fun L => L.raise 86 1 0 seq)
    else match firstWhere (fun u => Tab.get v.steer 0 u != s.steer u) (List.range 232) with
      | some u => s.modLane l (fun L => L.raise 86 2 u seq)
      | none => s)

end Sys2Proof.Machine
end

