-- ==== Sys2Proof/Machine/Pulse.lean ====
section
/-!
DEFINITION. The commands of the pulse units: execution of stored commands, periods, gates, trips and
freezes (R25, R405 to R422).
-/

namespace Sys2Proof.Machine

/-- The first command of a list that meets `p`, and the list without it. -/
def takeFirst {α : Type} (p : α → Bool) (xs : List α) : Option (α × List α) :=
  match xs with
  | [] => none
  | x :: rest =>
    if p x then some (x, rest)
    else match takeFirst p rest with
      | some (y, ys) => some (y, x :: ys)
      | none => none

def PulseCmd.isReg (c : PulseCmd) : Bool :=
  match c.act with
  | .reg _ _ => true
  | .level _ | .pwmStart | .pair _ _ | .duty _ | .check => false

/-- A late execution (R20, R25): LATE, LATE_CNT and E06 of the lane whose port the unit executes.
(Log: DEDUCED, entry 68.) -/
def State.countLate (s : State) (l : LaneId) (c : PulseCmd) : State :=
  if c.late.isSome && s.steer c.unit == laneNo l && !s.rind.none_ then
    s.modLane l (fun L => ((L.setFlag 0x400F0040 3 true).bumpFld 0x400F0040 16 16).raise 6 0 c.unit 0)
  else s

/-- The earliest stamped command that has come due on the port of a lane for a unit that runs, among register writes
or among the others; of equal stamps the one that came first (R25, R66, R406).
(Log: DEDUCED, entry 69.) -/
def State.takeDue (s : State) (l : LaneId) (reg : Bool) : Option (PulseCmd × List PulseCmd) :=
  let xs := s.die.cmds.get l
  let due := fun (c : PulseCmd) => c.isReg == reg && decide (c.at_ ≤ s.die.replica) && !s.ladderIdle c.unit
  takeFirst (fun c => due c && xs.all (fun d => !due d || decide (c.at_ ≤ d.at_))) xs

/-- A later command of the port sets the output of the same unit and names the same instant (R160).
(Log: DEDUCED, entry 69.) -/
def PulseCmd.beaten (c : PulseCmd) (rest : List PulseCmd) : Bool :=
  c.sets && rest.any (fun d => d.sets && !d.isReg && d.unit == c.unit && d.at_ == c.at_ && d.late == c.late)

/-- PULSE_COMMAND_EXECUTE (R25): the earliest stamped command of the lane's port whose stamp replica LT
has reached; of two that set one unit's output at one instant only the later issued is executed (R160).
(Log: DEDUCED, entry 69.) -/
def execPulseCommandExecute (l : LaneId) (s : State) : Host.Outcome State Fault Refusal :=
  .next (match s.takeDue l false with
    | some (c, rest) =>
      let s := s.modDie (fun d => { d with cmds := d.cmds.set l rest })
      if c.beaten rest then s else ((s.countLate l c).runCmd l c).curdRan l c.curd
    | none => s)

/-- PULSE_REGISTER_APPLY (R406): the earliest register write of the port that has come due. -/
def execPulseRegisterApply (l : LaneId) (s : State) : Host.Outcome State Fault Refusal :=
  .next (match s.takeDue l true with
    | some (c, rest) => (s.modDie (fun d => { d with cmds := d.cmds.set l rest })).runCmd l c
    | none => s)

/-- CHANNEL_PERIOD_START (R408): the running period of PER us has ended. -/
def execChannelPeriodStart (n : ChNo) (s : State) : Host.Outcome State Fault Refusal :=
  let p := s.die.unit n
  .next (if p.run && !p.frozen && !s.ladderIdle n && decide (p.start + p.per * 100 ≤ s.die.replica) then
    s.channelPeriod n false else s)

/-- CHANNEL_DUTY_END (R408): DUTY us of the period have passed and DUTY is below PER. -/
def execChannelDutyEnd (n : ChNo) (s : State) : Host.Outcome State Fault Refusal :=
  let p := s.die.unit n
  .next (if p.run && !p.frozen && !s.ladderIdle n && p.h && decide (p.dut < p.per) &&
      decide (p.start + p.dut * 100 ≤ s.die.replica) then
    (s.modDie (fun d => d.setUnit n { d.unit n with h := false })).settle n else s)

/-- The number of bridge `n` among the pulse units. -/
def brUnit (n : BrNo) : Nat := 208 + n.val

/-- BRIDGE_PERIOD_START (R410, R411, R414). -/
def execBridgePeriodStart (n : BrNo) (s : State) : Host.Outcome State Fault Refusal :=
  let p := s.die.unit (brUnit n)
  .next (if p.run && !p.frozen && !s.ladderIdle (brUnit n) && decide (p.start + p.per ≤ s.die.replica) then
    s.bridgePeriod (brUnit n) else s)

/-- Mid-period M of the running period (R410). -/
def PUnit.midAt (p : PUnit) : Nat := p.start + p.per / 2

/-- BRIDGE_MID_PERIOD (R410, R411): the rise of a centre-aligned reference at M less half the duty, and
at M the mid-period update of DUTY.
(Log: DEDUCED, entry 73.) -/
def execBridgeMidPeriod (n : BrNo) (s : State) : Host.Outcome State Fault Refusal :=
  let u := brUnit n
  let p := s.die.unit u
  let now := s.die.replica
  .next (if !p.run || p.frozen || s.ladderIdle u then s
    else
      let s := if p.align && !p.h && !p.mid && decide (0 < p.dut) &&
          decide (p.midAt - p.dut / 2 ≤ now) && decide (now ≤ p.midAt) then s.bridgeRef u true else s
      if p.mid || decide (now < p.midAt) then s
      else
        let s := s.modDie (fun d => d.setUnit u { d.unit u with mid := true })
        if !p.upd then s
        else
          let s := s.transfer u false
          let q := s.die.unit u
          if q.align then s
          else
            let s := s.modDie (fun d => d.setUnit u { d.unit u with dut := (d.unit u).dut2 })
            if q.h && decide (q.start + q.dut2 ≤ q.midAt) && decide (q.dut2 < q.per)
            then s.bridgeRef u false else s)

/-- When the reference of the running period falls (R410): S + DUTY, or M + half of D2 rounded up.
(Log: DEDUCED, entry 73.) -/
def PUnit.fallAt (p : PUnit) : Nat :=
  if p.align then p.midAt + (p.dut2 + 1) / 2 else p.start + p.dut

/-- BRIDGE_DUTY_END (R410): h falls and GH turns off. -/
def execBridgeDutyEnd (n : BrNo) (s : State) : Host.Outcome State Fault Refusal :=
  let u := brUnit n
  let p := s.die.unit u
  let d := if p.align then p.dut2 else p.dut
  .next (if p.run && !p.frozen && !s.ladderIdle u && p.h && decide (d < p.per) && decide (p.fallAt ≤ s.die.replica) &&
      (!p.align || p.mid) then s.bridgeRef u false else s)

/-- The reference of the waiting gate ends by the instant at which the gate would turn on: no pulse (R410). -/
def PUnit.noPulse (p : PUnit) : Bool :=
  p.run && p.force == 0 && !p.refresh && !p.trip &&
    (decide (p.start + p.per ≤ p.waitAt) ||
      (p.wait == 1 && decide ((if p.align then p.dut2 else p.dut) < p.per) && decide (p.fallAt ≤ p.waitAt)))

/-- DEAD_TIME_EXPIRY (R410): the waiting gate turns on, unless its reference falls no later (no pulse).  In a freeze
only the turn-on of a trip's BRAKE comes (R416).
(Log: DEDUCED, entry 75.) -/
def execDeadTimeExpiry (n : BrNo) (s : State) : Host.Outcome State Fault Refusal :=
  let u := brUnit n
  let p := s.die.unit u
  .next (if p.wait ≠ 0 ∧ p.waitAt ≤ s.die.replica ∧ ¬ (p.frozen ∧ ¬ s.tripped u p) ∧ ¬ p.noPulse ∧
      ¬ s.die.safeOff ∧ ¬ s.ladderIdle u then
    s.modDie (fun d => d.setUnit u
      (if p.wait = 1 then
        { p with gh := p.refresh || p.h || p.force == 3, wait := 0, refresh := false }
       else { p with gl := true, glSeen := true, wait := 0 }))
    else s)

/-- BOOTSTRAP_REFRESH_END (R414): at S + DT + BSW, GL turns off; GH turns on DT later if its reference
is on, and the waveform governs again.
(Log: DEDUCED, entry 75.) -/
def execBootstrapRefreshEnd (n : BrNo) (s : State) : Host.Outcome State Fault Refusal :=
  let u := brUnit n
  let p := s.die.unit u
  let now := s.die.replica
  .next (if p.refresh && p.gl && !p.frozen && !s.ladderIdle u && decide (p.start + p.dt + s.bsw u ≤ now) then
    s.modDie (fun d => d.setUnit u
      (if p.h then
        (if p.dt = 0 then { p with gl := false, glOff := now, gh := true, wait := 0, refresh := false }
         else { p with gl := false, glOff := now, wait := 1, waitAt := now + p.dt })
       else { p with gl := true, glSeen := true, refresh := false, wait := 0 }))
    else s)

/-- COMMIT (R412): the staged values of the lane's port become pending; they transfer while the unit obeys that
port (R407).
(Log: DEDUCED, entry 71.) -/
def execCommit (l : LaneId) (u : UnitNo) (s : State) : Host.Outcome State Fault Refusal :=
  .next (s.commitUnit l u)

/-- FORCE (R415): the port's image changes; the unit obeys the port that governs it. -/
def execForceWrite (l : LaneId) (u : UnitNo) (v : Fin 4) (s : State) :
    Host.Outcome State Fault Refusal :=
  let lo := if isBridge u then 4 else 2
  let s := s.modDie (fun d => d.setImage l (cfgAddr u)
    (setFieldNat (d.image l (cfgAddr u)) lo 2 v))
  .next (if s.governs u = l ∧ ¬ s.rind.none_ ∧ ¬ s.ladderIdle u then s.forceUnit u v else s)

/-- The filtered trip pads as a command reports them: the die's view changes, and PGB.TRIPF[k].ACTIVE
with it, and the stamp of each that changed goes to the lanes (R83, R417, R424).
(Log: DESIGN CHOICE, entry 74.) -/
def State.seePads (s : State) (u src stamp : Nat) : State :=
  let s := (List.range 8).foldl (fun s k =>
    if Tab.get s.die.tripIn false k = src.testBit k then s else s.passStamp k stamp) s
  let s := s.modDie (fun d =>
    { d with tripIn := (List.range 8).foldl (fun t k => Tab.set t false k (src.testBit k)) d.tripIn,
             isHigh := Tab.set d.isHigh false u (src.testBit 9) })
  s.bothLanes (fun L => (List.range 8).foldl (fun M k =>
    M.setFlag (0x400E0020 + 4 * k) 31 (src.testBit k)) L)

/-- TRIP (R83, R417, R418): the sources as they stand now; the unit trips if a source it selects is among them.
(Log: DESIGN CHOICE, entry 74.) -/
def execTrip (u : UnitNo) (src : TripPads) (s : State) : Host.Outcome State Fault Refusal :=
  let s := s.seePads u src.src.toNat src.stamp
  let hit := Nat.land (s.selected u) src.src.toNat
  .next (if hit ≠ 0 ∧ ¬ (s.die.unit u).trip then s.tripUnit u hit else s)

/-- TCLR (R419): a request of the lane whose port governs the unit, with the pads as they stand.
(Log: DESIGN CHOICE, entry 74.) -/
def execTclr (l : LaneId) (u : UnitNo) (active : BitVec 10) (s : State) :
    Host.Outcome State Fault Refusal :=
  let s := s.seePads u active.toNat s.die.replica
  .next (if s.governs u = l ∧ ¬ s.rind.none_ then s.clearTrip u else s)

/-- SHUTDOWN_COMPLETE (R420): the shutdown has ended; a held enable is applied now. -/
def execShutdownComplete (u : UnitNo) (s : State) : Host.Outcome State Fault Refusal :=
  let p := s.die.unit u
  .next (match p.shut with
    | some t =>
      if t ≤ s.die.replica then
        let s := s.modDie (fun d => d.setUnit u { p with shut := none, held := false })
        (if isBridge u && p.enHeld then s.startWave u else s).settle u
      else s
    | none => s)

/-- The units steered to a lane's port. -/
def State.unitsOf (s : State) (l : LaneId) : List Nat :=
  (List.range 232).filter (fun u => s.steer u == laneNo l)

/-- UNIT_FREEZE (R421): at a debug halt every unit steered to the lane's port holds as it is; a dead time
in progress is abandoned with both gates off; E21 with data 1 and the count, if any unit froze.
(Log: DEDUCED, entry 76.) -/
def execUnitFreeze (l : LaneId) (s : State) : Host.Outcome State Fault Refusal :=
  .next (if (s.lane l).halted && (s.lane l).flag 0x400F0040 0 && !s.die.freezing.get l then
    let us := s.unitsOf l
    let s := s.modDie (fun d =>
      us.foldl (fun d u =>
        let p := d.unit u
        let p := if p.wait ≠ 0 ∧ ¬ s.tripped u p then p.gatesOff s.die.replica else p
        d.setUnit u { p with frozen := true })
        { d with freezing := d.freezing.set l true, froze := d.froze.set l us })
    if us.isEmpty then s
    else s.raiseBoth 21 1 0 (BitVec.ofNat 32 us.length)
  else s)

/-- UNIT_RELEASE (R422): the debug halt has ended or the link is down; each unit that the lane froze
resumes: LEVEL keeps its level, a running waveform begins a fresh period.
(Log: DEDUCED, entry 76.) -/
def execUnitRelease (l : LaneId) (s : State) : Host.Outcome State Fault Refusal :=
  .next (if s.die.freezing.get l && (!(s.lane l).halted || !(s.lane l).flag 0x400F0040 0) then
    let us := (List.range 232).filter (fun u => (s.die.froze.get l).contains u && (s.die.unit u).frozen)
    let s := s.modDie (fun d => { d with freezing := d.freezing.set l false, froze := d.froze.set l [] })
    let s := us.foldl (fun s u =>
      let s := s.modDie (fun d => d.setUnit u { d.unit u with frozen := false })
      if (s.die.unit u).run then
        (if isBridge u then s.bridgePeriod u else s.channelPeriod u false)
      else s.settle u) s
    if us.isEmpty then s
    else s.raiseBoth 21 2 0 (BitVec.ofNat 32 us.length)
  else s)

end Sys2Proof.Machine
end

