-- ==== Sys2Proof/Machine/Links.lean ====
section
/-!
DEFINITION. The switch links and the lane link (R22, R24, R172, R174, R406, R449, R451).
-/

namespace Sys2Proof.Machine

/-- The stamp of a command as it arrives (R25, R406, R578): a register write, a port check and a grouped pair without a
stamp take the first tick of their unit strictly after the arrival; a command whose stamp has passed takes the first whole
microsecond strictly after it and is late.
(Log: DEDUCED, entry 68.) -/
def PulseCmd.arrive (c : PulseCmd) (now : Nat) : PulseCmd :=
  let tick := (now / unitTick c.unit + 1) * unitTick c.unit
  match c.act with
  | .reg _ _ | .check => { c with at_ := tick }
  | .pair _ _ =>
    if c.at_ = 0 then { c with at_ := tick }
    else if c.at_ < now then { c with at_ := (now / 100 + 1) * 100, late := some c.at_ } else c
  | .level _ | .pwmStart | .duty _ =>
    if c.at_ < now then { c with at_ := (now / 100 + 1) * 100, late := some c.at_ } else c

/-- A command arrives at its unit's port: stored until it comes due, or discarded and counted where the port's
debug halt has frozen the unit (R421).
(Log: DEDUCED, entry 76.) -/
def State.arriveCmd (s : State) (l : LaneId) (c : PulseCmd) : State :=
  if (s.die.unit c.unit).frozen && s.steer c.unit == laneNo l then
    s.modLane l (fun L => L.bump (if isBridge c.unit then 0x400E0014 else 0x400D0014))
  else s.modDie (fun d => { d with cmds := d.cmds.set l (d.cmds.get l ++ [c.arrive d.replica]) })

/-- A write of the switch registers arrives (R449): CH_CMD acts, the W1C bits of CH_STAT clear for the lane
whose image governs the channel, the rest goes into the port's image. -/
def State.arriveReg (s : State) (l : LaneId) (a : Nat) (v : Word) : State :=
  if a = 0x400F0084 then
    let n := fieldNat v 0 8
    if 208 ≤ n then s
    else
      let t := if bitOf v 8 then s.thermalClear l n else s
      if bitOf v 9 then t.lclr l n else t
  else if 0x400F1000 ≤ a ∧ a < 0x400F1D00 ∧ a % 16 = 8 then
    let n := (a - 0x400F1000) / 16
    let w := s.die.swt n
    if s.governs n ≠ l then s
    else s.setSw n { w with
      thcRej := w.thcRej && !bitOf v 7
      cutFlags := w.cutFlags % 8 &&& (7 - fieldNat v 8 3) }
  else s.modDie (fun d => d.setImage l a (fldsWrite (laneFlds a) false (d.image l a) v))

/-- A frame arrives at the switch die.
(Log: DEDUCED, entry 84.) -/
def State.arriveMsg (s : State) (l : LaneId) (m : LinkMsg) : State :=
  match m with
  | .cmd c => s.arriveCmd l c
  | .cancel h _ => s.cancelAt l h
  | .swReg a v => s.arriveReg l a v
  | .direct j on =>
    if s.isActive l then s.modRind (fun r => { r with dirReq := Tab.set r.dirReq 0 j (if on then 1 else 2) })
    else s

/-- SWITCH_LINK_FRAME (R22): the oldest frame of the lane's link arrives; one whose CRC fails is discarded and
stays to be repeated, and LINK_STAT.CRC_ERR is set (R27).  Frames towards the lane carry what its registers
read of the die.
(Log: DESIGN CHOICE, entries 9, 107.) -/
def execSwitchLinkFrame (l : LaneId) (toDie crcOk : Bool) (s : State) : Host.Outcome State Fault Refusal :=
  .next (if !(s.lane l).linkUp then s
  else if !crcOk then s.modLane l (fun L => L.setFlag 0x400F0040 2 true)
  else if toDie then
    match (s.lane l).link with
    | [] => s
    | m :: rest => (s.modLane l (fun L => { L with link := rest })).arriveMsg l m
  else s)

/-- SWITCH_LINK_TRAINED (R22). -/
def execSwitchLinkTrained (l : LaneId) (s : State) : Host.Outcome State Fault Refusal :=
  .next (if (s.lane l).alive then s.modLane l (fun L => L.setFlag 0x400F0040 0 true) else s)

/-- SWITCH_LINK_DOWN (R174): commands that are not yet due go, and the lane's SPX resolves its pending edges. -/
def execSwitchLinkDown (l : LaneId) (s : State) : Host.Outcome State Fault Refusal :=
  .next ((s.linkDown l).modLane l Lane.spxLinkDown)

/-- The configurations in use match, and the images do (R563).
(Log: DEDUCED, entry 106.) -/
def State.same (s : State) : Bool :=
  let dflt := fun (L : Lane) => L.fld 0x40160004 1 2 == 2
  s.laneA.running && s.laneB.running && s.laneA.vault.digest == s.laneB.vault.digest &&
    dflt s.laneA == dflt s.laneB && (dflt s.laneA || s.laneA.rd 0x40160020 == s.laneB.rd 0x40160020)

/-- The partner's set edges join a lane's mirror (R180), with the lane's own delay of their nozzle.
(Log: DEDUCED, entry 106.) -/
def Lane.takeMirror (L : Lane) (hs : List EdgeH) : Lane :=
  let own := fun (h : EdgeH) =>
    match L.nozzleOf h.ch with
    | some n => { h with dly := if h.level then (L.nz n).dOn else (L.nz n).dOff }
    | none => { h with dly := 0 }
  { L with spx := { L.spx with mirror := L.spx.mirror ++ hs.map own } }

/-- LANE_LINK_MIRROR (R24, R78, R180, R563): once a millisecond while the lane link is up, the active lane's set
edges go to the standby lane's mirror, both hold one mapping offset, and SAME follows.
(Log: DEDUCED, entry 106.) -/
def execLaneLinkMirror (s : State) : Host.Outcome State Fault Refusal :=
  .next (if s.laneLink && s.laneA.alive && s.laneB.alive then
    let same := s.same
    let t := match s.control with
      | none => s
      | some x =>
        let hs := (s.lane x).spx.unsent
        let m := (s.lane x).time.map
        s.modLane (other x) (fun L =>
          { L.takeMirror hs with time := { L.time with
            map := if L.time.map.isNone then m else L.time.map
            rate := (s.lane x).time.rate } })
    t.bothLanes (fun L => { L with spx := { L.spx with unsent := [] } }.setFlag 0x40140004 4 same)
  else s)

/-- Channel `n` is the channel of an enabled nozzle or the output of an enabled loop (R451). -/
def Lane.chInUse (L : Lane) (n : Nat) : Bool :=
  L.nozzles.any (fun z => nozCh (L.nozD z) == n) || L.loopsOn.any (fun k => loopUnit (L.loopP k) == some n)

/-- A write of DIR_CFG[j].REQ (R451): stored on the standby lane; the active lane refuses a request for a
channel in use with ERR and E07 with D0 3, and forwards any other.
(Log: DEDUCED, entry 84.) -/
def State.directReq (s : State) (l : LaneId) (j : Nat) (on : Bool) : State :=
  let a := 0x400F2100 + 4 * j
  let t := s.modLane l (fun L => L.setFlag a 0 on)
  if !s.isActive l then t
  else if on && (s.lane l).chInUse (192 + j) then
    t.modLane l (fun L => (L.setFlag a 3 true).raise 7 3 (192 + j) 0)
  else t.modLane l (fun L => L.send (.direct j on))

/-- DIRECT_REQUEST.
(Log: DESIGN CHOICE, entry 95.) -/
def execDirectRequest (l : LaneId) (j : DirNo) (on : Bool) (s : State) : Host.Outcome State Fault Refusal :=
  .next (s.directReq l j on)

end Sys2Proof.Machine
end

