-- ==== Sys2Proof/Machine/Lkp.lean ====
section
/-!
DEFINITION. Line and station keeping: references, votes, errors, allocation, outputs and stops (R356 to R380).
Numbers are exact rationals; a value a register holds is rounded to binary32 on its way there.
-/

namespace Sys2Proof.Machine

def Lane.modLkp (L : Lane) (f : Lkp → Lkp) : Lane := { L with lkp := f L.lkp }

/-- Register of the LKP block at offset `o`. -/
def lkReg (o : Nat) : Nat := 0x400B0000 + o
def lkCtrl : Nat := 0x400B0000
def lkStat : Nat := 0x400B0004
def refCfg (r : Nat) : Nat := 0x400B0200 + 8 * r
def refStat (r : Nat) : Nat := 0x400B0300 + 4 * r
/-- The mode in force (R377). -/
def Lane.lkMode (L : Lane) : Nat := L.fld 0x400B0004 0 2
/-- A binary32 register of the block. -/
def Lane.lkF (L : Lane) (o : Nat) : Rat := f32 (L.rd (lkReg o))
/-- A register in mm, as metres. -/
def Lane.lkMm (L : Lane) (o : Nat) : Rat := (((L.rd (lkReg o)).toNat : Nat) : Rat) / 1000

def absR (x : Rat) : Rat := if x < 0 then -x else x

/-! ### Stops (R374) -/

/-- A stop is requested: STOP, the heading at the request, E71 with data 1 and the cause.
(Log: DEDUCED, entry 65.) -/
def Lane.lkStop (L : Lane) (cause : Nat) : Lane :=
  if L.flag lkStat 10 then L
  else
    let M := L.modLkp (fun k => { k with cause := cause, stopHdg := L.veh.hdg, slow := false })
    (M.setFlag lkStat 10 true).raise 71 1 0 (BitVec.ofNat 32 cause)

/-- Nozzle-class speed along the vehicle x axis. -/
def Veh.fwd (v : Veh) : Rat := v.ve * Config.sin v.hdg + v.vn * Config.cos v.hdg
/-- Ground speed. -/
def Veh.ground (v : Veh) : Rat := Config.sqrt (v.ve * v.ve + v.vn * v.vn)

/-! ### The actuator table (R368) -/

/-- The descriptors that the table in SRAM holds. -/
def Lane.actTable (L : Lane) : List (List Word) :=
  let n := L.fld (lkReg 0x74) 0 4
  (List.range n).map (fun j => (List.range 16).map (fun i => L.word ((L.rd (lkReg 0x70)).toNat + 64 * j + 4 * i)))

def actEn (w : List Word) : Bool := db w 0 31
def actKind (w : List Word) : Nat := df w 0 0 2
def actTarget (w : List Word) : Nat := df w 0 2 6

/-- The table fails a condition of R368.
(Log: DEDUCED, entry 65.) -/
def Lane.actBad (L : Lane) (t : List (List Word)) : Bool :=
  let n := L.fld (lkReg 0x74) 0 4
  let one := fun (w : List Word) =>
    df w 0 9 22 != 0 || wd w 15 != 0 || !((List.range 14).all (fun i => f32Finite (wd w (1 + i)))) ||
    decide (f32 (wd w 2) < f32 (wd w 1)) || decide (f32 (wd w 3) ≤ 0) || decide (f32 (wd w 4) ≤ 0) ||
    actKind w == 0 || actKind w == 3 || (actKind w == 2 && decide (32 ≤ actTarget w))
  let loops := (t.filter (fun w => actEn w && actKind w == 1)).map actTarget
  n == 0 || decide (12 < n) || !L.ownedBy 1 (L.rd (lkReg 0x70)).toNat (64 * n) || t.any one ||
    decide (loops.eraseDups.length ≠ loops.length) || !(t.any actEn)

/-- Effectiveness of an actuator in an axis at forward speed `v`. -/
def effOf (w : List Word) (v : Rat) (i : Nat) : Rat := f32 (wd w (6 + i)) + v * f32 (wd w (10 + i))

/-- The enabled actuators. -/
def Lane.lkActs (L : Lane) : List Nat := (List.range L.lkp.acts.length).filter (fun j => actEn (L.lkp.acts.getD j []))
/-- Those in work. -/
def Lane.lkWorking (L : Lane) : List Nat := L.lkActs.filter (fun j => !L.lkp.bad.contains j)
def Lane.actD (L : Lane) (j : Nat) : List Word := L.lkp.acts.getD j []
/-- ACT_U[j], the output of the previous cycle. -/
def Lane.actU (L : Lane) (j : Nat) : Rat := L.lkF (0xC0 + 4 * j)
def wTau (L : Lane) (i : Nat) : Rat := L.lkF (0x60 + 4 * i)

/-- Some axis with a weight has no working actuator (R372). -/
def Lane.lkUncovered (L : Lane) : Bool :=
  let v := L.veh.fwd
  (List.range 4).any (fun i => decide (wTau L i ≠ 0) &&
    L.lkWorking.all (fun j => decide (effOf (L.actD j) v i = 0)))

/-! ### Paths (R364) -/

/-- Vertices of the path at `base`. -/
def Lane.pathCnt (L : Lane) (base : Nat) : Nat := (L.word base).toNat
def Lane.vertex (L : Lane) (base i : Nat) : Int × Int :=
  ((L.word (base + 16 + 8 * i)).toInt, (L.word (base + 20 + 8 * i)).toInt)

/-- The path at `base` meets R364. -/
def Lane.pathOk (L : Lane) (base : Nat) : Bool :=
  let m := L.pathCnt base
  decide (2 ≤ m ∧ m ≤ 8192) && (List.range 3).all (fun i => L.word (base + 4 + 4 * i) == 0) &&
    L.ownedBy 1 base (16 + 8 * m) &&
    (List.range (m - 1)).all (fun i => L.vertex base i != L.vertex base (i + 1))

/-- The base that PATH_SEL selects. -/
def Lane.pathBase (L : Lane) : Nat := (L.rd (lkReg (if L.flag lkCtrl 2 then 0x24 else 0x20))).toNat

/-- A vertex in metres. -/
def Lane.vert (L : Lane) (i : Nat) : Rat × Rat :=
  let v := L.vertex (L.lkp.path.getD 0) i
  ((v.1 : Rat) / 1000, (v.2 : Rat) / 1000)
/-- Segments of the path in use. -/
def Lane.segs (L : Lane) : Nat := L.pathCnt (L.lkp.path.getD 0) - 1

/-- Squared distance from a point to segment `i`. -/
def Lane.segDist (L : Lane) (i : Nat) (p : Rat × Rat) : Rat :=
  let a := L.vert i
  let b := L.vert (i + 1)
  let dx := b.1 - a.1
  let dy := b.2 - a.2
  let l2 := dx * dx + dy * dy
  let t := if l2 = 0 then 0 else max 0 (min 1 (((p.1 - a.1) * dx + (p.2 - a.2) * dy) / l2))
  let ex := p.1 - a.1 - t * dx
  let ey := p.2 - a.2 - t * dy
  ex * ex + ey * ey

/-- The nearest of a list of segments, the first where two are as near. -/
def Lane.nearSeg (L : Lane) (is : List Nat) (p : Rat × Rat) (d : Nat) : Nat :=
  match is with
  | [] => d
  | i :: rest => (rest.foldl (fun (a : Nat × Rat) j =>
      let q := L.segDist j p
      if q < a.2 then (j, q) else a) (i, L.segDist i p)).1

/-- A frame: origin and the unit vector of its along axis. -/
structure LkFrame where
  e : Rat
  n : Rat
  ue : Rat
  un : Rat
deriving DecidableEq, Repr

/-- Azimuth of the along axis. -/
def LkFrame.azimuth (f : LkFrame) : Rat := Config.atan2 f.ue f.un
/-- Along and cross coordinates, left positive. -/
def LkFrame.toFrame (f : LkFrame) (p : Rat × Rat) : Rat × Rat :=
  let x := p.1 - f.e
  let y := p.2 - f.n
  (x * f.ue + y * f.un, y * f.ue - x * f.un)
def LkFrame.toField (f : LkFrame) (q : Rat × Rat) : Rat × Rat :=
  (f.e + q.1 * f.ue - q.2 * f.un, f.n + q.1 * f.un + q.2 * f.ue)

/-- The frame of the current segment. -/
def Lane.segFrame (L : Lane) (i : Nat) : LkFrame :=
  let a := L.vert i
  let b := L.vert (i + 1)
  let dx := b.1 - a.1
  let dy := b.2 - a.2
  let len := Config.sqrt (dx * dx + dy * dy)
  ⟨a.1, a.2, dx / len, dy / len⟩

/-- The frame of HOLD. -/
def Lane.holdFrame (L : Lane) : LkFrame :=
  match L.lkp.hold with
  | some (e, n, h) => ⟨e, n, Config.sin h, Config.cos h⟩
  | none =>
    let h := L.lkF 0x30
    ⟨((L.rd (lkReg 0x28)).toInt : Rat) / 1000, ((L.rd (lkReg 0x2C)).toInt : Rat) / 1000, Config.sin h, Config.cos h⟩

/-- The frame of the active target (R365); in OFF, that of HOLD.
(Log: DEDUCED, entry 63.) -/
def Lane.lkFrame (L : Lane) : LkFrame :=
  if L.lkMode = 1 ∨ L.lkMode = 3 then L.segFrame L.lkp.seg else L.holdFrame

/-! ### Modes (R363, R364) -/

/-- A mode is entered: E68 with data 1, and the integrator is 0. -/
def Lane.lkEnter (L : Lane) (m : Nat) : Lane :=
  let M := L.modLkp (fun k => { k with ie := if L.lkMode = m then k.ie else 0, hold := none, ended := false })
  (M.setFld lkStat 0 2 m).raise 68 1 0 (BitVec.ofNat 32 m)

/-- A request or a path is refused: E68 with data 2 and the code. -/
def Lane.lkRefuse (L : Lane) (code : Nat) : Lane := L.raise 68 2 0 (BitVec.ofNat 32 code)

/-- The selected path comes into use, or fails its checks. -/
def Lane.takePath (L : Lane) : Lane × Bool :=
  let sel := b2n (L.flag lkCtrl 2)
  let b := L.pathBase
  let L := L.modLkp (fun k => { k with sel := sel })
  if L.pathOk b then
    ((L.modLkp (fun k => { k with path := some b, newPath := true, ended := false })).setFlag lkStat 16 (sel == 1), true)
  else ((L.setFlag lkStat 13 true), false)

/-- The request of R363 at the start of a cycle; `q` is NC_Q of this cycle's output.
(Log: DEDUCED, entry 65.) -/
def Lane.lkRequest (L : Lane) (q : Nat) : Lane :=
  match L.lkp.req with
  | none => L
  | some m =>
    let L := L.modLkp (fun k => { k with req := none })
    if m = 0 then L.lkEnter 0
    else
      let off := L.lkMode == 0
      let t := L.actTable
      let line := m == 1 || m == 3
      let code :=
        if off && (L.actBad t || !L.ownedBy 1 (L.rd (lkReg 0x78)).toNat 4096) then 1
        else if line && !L.pathOk L.pathBase then 2
        else if L.fld lkStat 5 2 = 0 ∨ L.fld lkStat 7 2 = 0 ∨ L.flag lkStat 10 then 3
        else if m = 2 ∧ L.lkF 0x1C < L.veh.ground then 4
        else if q = 0 then 5
        else 0
      if code ≠ 0 then
        let L := if code = 2 then L.setFlag lkStat 13 true else L
        (L.setFld lkStat 2 3 code).lkRefuse code
      else
        let L := if off then L.modLkp (fun k => { k with
            acts := t, bad := (List.range 12).filter (fun j => L.flag (lkReg 0x7C) j), drops := [] }) else L
        let L := if line && (off || L.lkMode == 2 || L.lkp.sel != b2n (L.flag lkCtrl 2)) then L.takePath.1 else L
        L.lkEnter m

/-- A change of PATH_SEL in LINE or SHIFT takes effect at the next cycle. -/
def Lane.lkPathSel (L : Lane) : Lane :=
  if (L.lkMode = 1 ∨ L.lkMode = 3) ∧ L.lkp.sel ≠ b2n (L.flag lkCtrl 2) then
    let r := L.takePath
    if r.2 then r.1 else r.1.lkRefuse 2
  else L

/-! ### References (R358, R359) -/

/-- What a reference gives at a cycle: field position and sigma in metres; for the row reference `e` is its
cross-track value. -/
structure LkRef where
  r : Nat
  e : Rat
  n : Rat
  sig : Rat
deriving DecidableEq, Repr

/-- Is a time of validity within AGE_MAX of the cycle? -/
def Lane.refFresh (L : Lane) (r tk t : Nat) : Bool := decide (tk ≤ t + L.fld (refCfg r) 8 8 * 100000)

/-- Carry a position from `t` to the cycle with the nozzle-class velocity. -/
def carry (v : Veh) (tk t : Nat) (p : Rat × Rat) : Rat × Rat :=
  let dt : Rat := (((tk : Int) - (t : Int) : Int) : Rat) / 100000000
  (p.1 + v.ve * dt, p.2 + v.vn * dt)

/-- A GNSS solution as a field position: the conversion of latitude, longitude and height, and of the antenna's
lever arm, is an uninterpreted function of the solution, the origin, the lever arm and the attitude.
(Log: DESIGN CHOICE, entry 62.) -/
def Lane.solRef (L : Lane) (r tk : Nat) (sol : List Word) : Option LkRef :=
  let t := pairNat (wd sol 1) (wd sol 2)
  let ws := sol ++ L.fus.org ++ [L.nc 11, L.nc 12, L.nc 13]
  let arm := (List.range 3).map (fun k => L.calA k)
  let p := carry L.veh tk t (Config.estimate 30 ws arm 0, Config.estimate 30 ws arm 1)
  if df sol 3 0 3 = 4 ∧ L.refFresh r tk t then some ⟨r, p.1, p.2, f32 (wd sol 16)⟩ else none

/-- The wheel sources admitted to the nozzle class. -/
def Lane.wheels (L : Lane) : List Nat := (List.range 32).filter (fun i =>
  L.flag (srcCfg i) 4 && L.srcKind i == 1 && L.flag (srcCfg i) 5 && !L.srcStale i && !L.srcUnal i)

/-- The mean speed of the wheel sources.
(Log: DESIGN CHOICE, entry 62.) -/
def Lane.wheelSpeed (L : Lane) : Rat :=
  if L.wheels.isEmpty then 0
  else (L.wheels.foldl (fun (a : Rat) i => a + (L.slot i).speed) 0) / ((L.wheels.length : Nat) : Rat)

/-- One cycle of a derived reference's track: wheel speed along the fused heading, or the integration of an
inertial stream, an uninterpreted step (R358).
(Log: DESIGN CHOICE, entry 62.) -/
def Lane.stepTrack (L : Lane) (l : LaneId) (tk r : Nat) : List Rat :=
  let st := Tab.get L.lkp.odo [] r
  if r = 4 then
    let h := L.veh.hdg
    [st.getD 0 0 + L.wheelSpeed * Config.sin h / 200, st.getD 1 0 + L.wheelSpeed * Config.cos h / 200]
  else
    let which := if laneNo l = r - 2 then 0 else 1
    let xs := L.rawIn which tk 500000
    Config.fuseStep (20 + r) st (xs.flatMap (fun m => m.2.2) ++ [L.nc 11, L.nc 12, L.nc 13])

/-- A derived reference: its track from its anchor, sigma grown by DRIFT.
(Log: DESIGN CHOICE, entry 62.) -/
def Lane.derivedRef (L : Lane) (r tk : Nat) : Option LkRef :=
  let a := Tab.get L.lkp.anch LkVote.none r
  if a.t = 0 then none
  else
    let now := Tab.get L.lkp.odo [] r
    let was := Tab.get a.odo [] r
    let dt : Rat := ((tk - a.t : Nat) : Rat) / 100000000
    some ⟨r, a.e + now.getD 0 0 - was.getD 0 0, a.n + now.getD 1 0 - was.getD 1 0,
      a.sig + ((L.fld (refCfg r) 16 16 : Nat) : Rat) / 1000 * dt⟩

/-- The value of a reference at the cycle, and none where a condition of R358 other than rejection fails. -/
def Lane.refValue (L : Lane) (l : LaneId) (tk r : Nat) (peer : Option (List Word)) : Option LkRef :=
  let v := if !L.flag (refCfg r) 0 then none
    else match r with
    | 0 => L.solRef 0 tk L.solWords
    | 1 => peer.bind (fun sol => L.solRef 1 tk sol)
    | 2 | 3 =>
      let which := if laneNo l = r - 2 then 0 else 1
      if L.imuUse l tk which then L.derivedRef r tk else none
    | 4 => if L.wheels.isEmpty then none else L.derivedRef 4 tk
    | 5 =>
      let t := L.rd64 0x400800E4
      let u := L.lkFrame
      let dt : Rat := (((tk : Int) - (t : Int) : Int) : Rat) / 100000000
      let vc := L.veh.vn * u.ue - L.veh.ve * u.un
      if L.flag 0x40080004 3 ∧ (L.lkMode = 1 ∨ L.lkMode = 3) ∧ L.refFresh 5 tk t then
        some ⟨5, -(f32 (L.rd 0x40080108)) + vc * dt, 0, f32 (L.rd 0x40080110)⟩
      else none
    | _ =>
      let i := L.fld (refCfg r) 2 5
      match (L.slot i).last with
      | none => none
      | some t =>
        let d := (L.slot i).data
        let p := carry L.veh tk t (f32 (wd d 0), f32 (wd d 1))
        if L.flag (srcCfg i) 4 && L.srcKind i == 5 && !L.srcStale i && !L.srcUnal i && L.refFresh r tk t then
          some ⟨r, p.1, p.2, f32 (wd d 2)⟩ else none
  v.filter (fun x => decide (x.sig * 1000 ≤ ((L.fld (0x400B0204 + 8 * r) 0 16 : Nat) : Rat)))

def refAbs (r : Nat) : Bool := [0, 1, 5, 6, 7].contains r

/-! ### The vote (R360 to R362) -/

/-- A reference's value in an axis of a frame: 0 along, 1 cross; none where it does not serve it. -/
def LkRef.axis (x : LkRef) (f : LkFrame) (ax : Nat) : Option Rat :=
  if x.r = 5 then (if ax = 1 then some x.e else none)
  else
    let q := f.toFrame (x.e, x.n)
    some (if ax = 0 then q.1 else q.2)

def insertRat (x : Rat) (xs : List Rat) : List Rat :=
  match xs with
  | [] => [x]
  | y :: ys => if x ≤ y then x :: y :: ys else y :: insertRat x ys

/-- The median; with an even count the mean of the two middle values. -/
def median (xs : List Rat) : Rat :=
  let ys := xs.foldr insertRat []
  let n := ys.length
  if n % 2 = 1 then ys.getD (n / 2) 0 else (ys.getD (n / 2 - 1) 0 + ys.getD (n / 2) 0) / 2

/-- The raw vote of an axis: level, value, and whether a pair disagrees; `prev` is the previous presented vote
carried to the cycle. -/
def rawVote (tol : Rat) (prev : Option Rat) (xs : List (Rat × Rat)) : Nat × Option Rat × Bool :=
  match xs with
  | [] => (0, none, false)
  | [a] => (1, some a.1, false)
  | [a, b] =>
    let d := absR (a.1 - b.1)
    if d ≤ tol then
      let wa := if a.2 = 0 then 0 else 1 / (a.2 * a.2)
      let wb := if b.2 = 0 then 0 else 1 / (b.2 * b.2)
      (2, some (if wa + wb = 0 then (a.1 + b.1) / 2 else (a.1 * wa + b.1 * wb) / (wa + wb)), false)
    else
      match prev with
      | some p => (2, some (if absR (a.1 - p) ≤ absR (b.1 - p) then a.1 else b.1), true)
      | none => (2, some a.1, true)
  | _ => (3, some (median (xs.map Prod.fst)), false)

/-- Both axes of a vote; `dis` counts the axes whose pair disagrees. -/
structure LkBallot where
  lvA : Nat
  lvC : Nat
  a : Option Rat
  c : Option Rat
  dis : Nat
  setA : List Nat
  setC : List Nat
deriving DecidableEq, Repr

def ballot (tol : Rat) (f : LkFrame) (prev : Option (Rat × Rat)) (refs : List LkRef) : LkBallot :=
  let pv := prev.map f.toFrame
  let one := fun (ax : Nat) => refs.filterMap (fun x => (x.axis f ax).map (fun v => (x.r, v, x.sig)))
  let ra := one 0
  let rc := one 1
  let va := rawVote tol (pv.map Prod.fst) (ra.map Prod.snd)
  let vc := rawVote tol (pv.map Prod.snd) (rc.map Prod.snd)
  ⟨va.1, vc.1, va.2.1, vc.2.1, b2n va.2.2 + b2n vc.2.2, ra.map Prod.fst, rc.map Prod.fst⟩

/-- Decay of a presentation offset by at most `m`. -/
def decay (m d : Rat) : Rat := if absR d ≤ m then 0 else if 0 < d then d - m else d + m

/-- The offset after a cycle: decayed, and moved by the old raw vote less the new where the set changes. -/
def offsetNow (m d : Rat) (old new : Option Rat) (changed : Bool) : Rat :=
  let d := decay m d
  match changed, old, new with
  | true, some o, some n => d + o - n
  | _, _, _ => d

/-- Outlier and agreement counts of one reference (R361); the result tells whether it changed its rejection. -/
def Lane.judgeRef (L : Lane) (f : LkFrame) (b : LkBallot) (pa pc : Option Rat) (x : LkRef) : Lane × Bool :=
  let st := refStat x.r
  let rej := L.lkMm 0x0C
  let far := fun (lv ax : Nat) (raw : Option Rat) => match x.axis f ax, raw with
    | some v, some w => lv == 3 && decide (rej < absR (v - w))
    | _, _ => false
  let near := fun (ax : Nat) (p : Option Rat) => match x.axis f ax, p with
    | some v, some w => decide (absR (v - w) * 2 ≤ rej)
    | some _, none => false
    | none, _ => true
  if L.flag st 2 then
    let L := L.setFlag st 1 false
    if near 0 pa && near 1 pc then
      let n := min 255 (L.fld st 8 8 + 1)
      if max 1 (L.fld (lkReg 8) 8 8) ≤ n then
        (((L.setFld st 8 8 0).setFlag st 2 false).raise 69 2 x.r 0, true)
      else (L.setFld st 8 8 n, false)
    else (L.setFld st 8 8 0, false)
  else if far b.lvA 0 b.a || far b.lvC 1 b.c then
    let n := min 255 (L.fld st 8 8 + 1)
    let L := ((L.setFlag st 1 true).setFld st 8 8 n).bump (lkReg 0x108)
    if max 1 (L.fld (lkReg 8) 4 4) ≤ n then
      (((L.setFld st 8 8 0).setFlag st 2 true).raise 69 1 x.r 0, true)
    else (L, false)
  else ((L.setFld st 8 8 0).setFlag st 1 false, false)

/-- Levels, DR and disagreement of a cycle (R360). -/
def Lane.reportVote (L : Lane) (tk : Nat) (b : LkBallot) (absValid : Bool) : Lane :=
  let oldA := L.fld lkStat 5 2
  let oldC := L.fld lkStat 7 2
  let L := (List.range b.dis).foldl (fun (L : Lane) _ =>
    ((L.setFlag lkStat 11 true).bump (lkReg 0x10C)).raise 69 3 0 0) L
  let L := (L.setFld lkStat 5 2 b.lvA).setFld lkStat 7 2 b.lvC
  let L := if oldA ≠ b.lvA ∨ oldC ≠ b.lvC then
      L.raise 69 4 0 (BitVec.ofNat 32 (b.lvA * 65536 + b.lvC)) else L
  let L := if b.lvA = 0 ∨ b.lvC = 0 then L.lkStop 1 else L
  if absValid then
    if L.flag lkStat 9 then
      ((L.modLkp (fun k => { k with drAt := none })).setFlag lkStat 9 false).raise 69 6 0 0
    else L
  else if L.flag lkStat 9 then L
  else ((L.modLkp (fun k => { k with drAt := some tk })).setFlag lkStat 9 true).raise 69 5 0 0

/-- Re-anchoring (R359).
(Log: DESIGN CHOICE, entry 62.) -/
def Lane.reanchor (L : Lane) (tk : Nat) (b : LkBallot) (pos : Rat × Rat) (sig : Rat) : Lane :=
  let two := fun (s : List Nat) => decide (2 ≤ (s.filter refAbs).length)
  let vs := (⟨tk, pos.1, pos.2, sig, L.lkp.odo⟩ :: L.lkp.votes).take 1001
  let L := L.modLkp (fun k => { k with votes := vs })
  let lag := max 1 (L.fld (lkReg 8) 24 8) * 5000000
  if two b.setA && two b.setC then
    match vs.find? (fun v => v.t + lag == tk) with
    | some v => L.modLkp (fun k => { k with anch := [(2, v), (3, v), (4, v)] })
    | none => L
  else L

/-- References and vote of the cycle (R358 to R362). -/
def Lane.lkVote (L : Lane) (l : LaneId) (tk : Nat) (peer : Option (List Word)) : Lane :=
  let L := L.modLkp (fun k => { k with odo := [(2, L.stepTrack l tk 2), (3, L.stepTrack l tk 3), (4, L.stepTrack l tk 4)] })
  let all := (List.range 8).filterMap (fun r => L.refValue l tk r peer)
  let f := L.lkFrame
  let tol := L.lkMm 0x10
  let m := L.lkMm 0x14 / 200
  let step := fun (p : Rat × Rat) => (p.1 + L.veh.ve / 200, p.2 + L.veh.vn / 200)
  let prevRaw := (L.lkp.raw.map step)
  let prev := (L.lkp.pres.map step)
  let old := prevRaw.map f.toFrame
  let ok := fun (L : Lane) => all.filter (fun x => !L.flag (refStat x.r) 2)
  let b1 := ballot tol f prev (ok L)
  let d1 := fun (b : LkBallot) =>
    (offsetNow m L.lkp.dA (old.map Prod.fst) b.a (b.setA != L.lkp.setA),
     offsetNow m L.lkp.dC (old.map Prod.snd) b.c (b.setC != L.lkp.setC))
  let o1 := d1 b1
  let pa := b1.a.map (fun x => x + o1.1)
  let pc := b1.c.map (fun x => x + o1.2)
  let L := (List.range 8).foldl (fun L r =>
    match all.find? (fun x => x.r == r) with
    | some x =>
      let L := L.setFld (refStat r) 16 16 (min 65535 (roundHalfUp (x.sig * 1000)).toNat)
      (L.judgeRef f b1 pa pc x).1
    | none => (L.setFld (refStat r) 8 8 0).setFlag (refStat r) 1 false) L
  let refs := ok L
  let b := ballot tol f prev refs
  let o := d1 b
  let L := (List.range 8).foldl (fun L r => L.setFlag (refStat r) 0 (refs.any (fun x => x.r == r))) L
  let oldF := old.getD (0, 0)
  let raw := f.toField (b.a.getD oldF.1, b.c.getD oldF.2)
  let pr := (f.toFrame raw)
  let pres := f.toField (pr.1 + o.1, pr.2 + o.2)
  let had := prevRaw.isSome || b.a.isSome || b.c.isSome
  let L := L.modLkp (fun k => { k with
    dA := o.1, dC := o.2, raw := if had then some raw else none, pres := if had then some pres else none,
    setA := b.setA, setC := b.setC })
  let L := L.reportVote tk b (refs.any (fun x => refAbs x.r))
  if b.lvA ≠ 0 ∧ b.lvC ≠ 0 then
    L.reanchor tk b raw (Config.estimate 32 [] (refs.map LkRef.sig) 0)
  else L

/-! ### Errors and demand (R365 to R367) -/

def piR : Rat := 31415926535897932 / 10000000000000000

/-- An angle wrapped into [-pi, pi).
(Log: DEDUCED, entry 63.) -/
def wrapPi (x : Rat) : Rat := x - (((x + piR) / (2 * piR)).floor : Rat) * (2 * piR)

/-- Twice the signed area over the product of side lengths: curvature of the circle through three points,
positive to the left.
(Log: DEDUCED, entry 63.) -/
def curvature (a b c : Rat × Rat) : Rat :=
  let cr := (b.1 - a.1) * (c.2 - b.2) - (b.2 - a.2) * (c.1 - b.1)
  let len := fun (p q : Rat × Rat) => Config.sqrt ((q.1 - p.1) * (q.1 - p.1) + (q.2 - p.2) * (q.2 - p.2))
  let d := len a b * len b c * len a c
  if d = 0 then 0 else 2 * cr / d

/-- The curvature at the current segment: the circle through its end vertex and the vertices on either side;
none beyond the last.
(Log: DEDUCED, entry 63.) -/
def Lane.lkKappa (L : Lane) : Rat :=
  let i := L.lkp.seg
  if i + 2 ≤ L.segs then curvature (L.vert i) (L.vert (i + 1)) (L.vert (i + 2)) else 0

/-- Follow the path (R364): every segment for a new path, then forward over the next 16. -/
def Lane.followPath (L : Lane) : Lane :=
  if L.lkMode = 1 ∨ L.lkMode = 3 then
    let p := L.lkp.pres.getD (0, 0)
    let n := L.segs
    let i := if L.lkp.newPath then L.nearSeg (List.range n) p 0
      else L.nearSeg ((List.range 17).map (fun j => L.lkp.seg + j) |>.filter (fun j => decide (j < n))) p L.lkp.seg
    L.modLkp (fun k => { k with seg := i, newPath := false })
  else L

/-- The end of the path (R365). -/
def Lane.pathEnd (L : Lane) : Lane :=
  if L.lkMode = 1 ∨ L.lkMode = 3 then
    let n := L.segs
    let f := L.segFrame (n - 1)
    let a := L.vert n
    let q := f.toFrame (L.lkp.pres.getD (0, 0))
    let z := f.toFrame a
    if L.lkp.seg + 1 = n ∧ z.1 ≤ q.1 ∧ ¬ L.lkp.ended then
      let L := (L.modLkp (fun k => { k with ended := true })).raise 68 3 0 0
      if L.flag lkCtrl 3 then
        let M := L.lkEnter 2
        M.modLkp (fun k => { k with hold := some (a.1, a.2, f.azimuth) })
      else L.lkStop 4
    else L
  else L

/-- The errors of a cycle: e_a, e_c, e_h, e_i. -/
structure LkErr where
  a : Rat
  c : Rat
  h : Rat
  i : Rat
deriving DecidableEq, Repr

def Lane.lkErrors (L : Lane) : LkErr :=
  let f := L.lkFrame
  let q := f.toFrame (L.lkp.pres.getD (0, 0))
  let h := wrapPi (L.veh.hdg - f.azimuth)
  match L.lkMode with
  | 2 => ⟨q.1, q.2, h, 0⟩
  | 3 => ⟨0, q.2, h, q.2 + L.lkp.impV - L.lkF 0x38⟩
  | 1 => ⟨0, q.2, h, 0⟩
  | _ => ⟨0, 0, 0, 0⟩

/-- The effort demand (R367, R374). -/
def Lane.lkTau (L : Lane) (x : LkErr) : List Rat :=
  let v := L.veh.fwd
  let kc := L.lkF 0x40
  let kh := L.lkF 0x44
  let ki := L.lkF 0x48
  let ky := L.lkF 0x4C
  let ka := L.lkF 0x50
  let kv := L.lkF 0x54
  let ks := L.lkF 0x58
  if L.flag lkStat 10 then
    [if L.lkp.slow then -kv * v else -(L.lkF 0x18), -kh * wrapPi (L.veh.hdg - L.lkp.stopHdg), 0, 0]
  else if L.lkMode = 2 then [-ka * x.a - kv * v, -kh * x.h, -ky * x.c, 0]
  else
    [kv * (L.lkF 0x34 - v), L.lkKappa * v - kh * x.h - kc * x.c - ki * L.lkp.ie, -ky * x.c,
     if L.lkMode = 3 ∧ ¬ L.flag lkStat 14 then -ks * x.i else 0]

/-! ### Allocation (R369) -/

/-- Gaussian elimination of a positive definite system, unknown by unknown: each row holds its coefficients
and right side.
(Log: DESIGN CHOICE, entry 64.) -/
def eliminate (n : Nat) (rows : List (List Rat)) : List Rat :=
  match n, rows with
  | 0, _ => []
  | _, [] => []
  | n + 1, p :: rest =>
    let d := p.getD 0 0
    let red := rest.map (fun r =>
      let k := if d = 0 then 0 else r.getD 0 0 / d
      (List.zipWith (fun a b => a - k * b) r p).drop 1)
    let xs := eliminate n red
    let tail := p.drop 1
    let s := (List.zipWith (fun a b => a * b) tail xs).foldl (fun (a : Rat) b => a + b) 0
    ((if d = 0 then 0 else (tail.getD n 0 - s) / d) :: xs)

/-- Residuals of the axes. -/
def residuals (tau : List Rat) (xs : List Alloc) : List Rat :=
  (List.range 4).map (fun i => xs.foldl (fun (a : Rat) x => a + x.b.getD i 0 * x.u) 0 - tau.getD i 0)

/-- The free actuators' outputs with the others held: the exact solution, plus the rounding of the small-matrix
unit, which no rule states.
(Log: DESIGN CHOICE, entry 64.) -/
def solveFree (wt tau : List Rat) (xs : List Alloc) : List Alloc :=
  let free := xs.filter (fun x => x.at_ == 0)
  let held := xs.filter (fun x => x.at_ != 0)
  let t := (residuals tau held).map (fun r => -r)
  let rows := free.map (fun x =>
    free.map (fun y => (List.range 4).foldl (fun (a : Rat) i => a + wt.getD i 0 * x.b.getD i 0 * y.b.getD i 0)
      (if x.j = y.j then x.w else 0)) ++
    [(List.range 4).foldl (fun (a : Rat) i => a + wt.getD i 0 * x.b.getD i 0 * t.getD i 0) (x.w * x.p)])
  let sol := eliminate free.length rows
  let us := (List.range free.length).map (fun i =>
    (((free.getD i ⟨0, 0, 0, 0, 0, [], 0, 0⟩).j), sol.getD i 0 + Config.estimate 33 [] rows.flatten i))
  xs.map (fun x => match us.find? (fun e => e.1 == x.j) with
    | some e => { x with u := e.2 }
    | none => x)

/-- Hold at its bound every free actuator outside its bounds. -/
def holdOut (x : Alloc) : Alloc :=
  if x.at_ ≠ 0 then x
  else if x.u < x.lo then { x with u := x.lo, at_ := 1 }
  else if x.hi < x.u then { x with u := x.hi, at_ := 2 }
  else x

/-- How strongly the gradient of a held actuator points into its bounds; 0 where it does not. -/
def inPull (wt res : List Rat) (x : Alloc) : Rat :=
  let g := (List.range 4).foldl (fun (a : Rat) i => a + wt.getD i 0 * x.b.getD i 0 * res.getD i 0) (x.w * (x.u - x.p))
  match x.at_ with
  | 1 => max 0 (-g)
  | 2 => max 0 g
  | _ => 0

/-- Free the held actuator that pulls most strongly, if any.
(Log: DESIGN CHOICE, entry 64.) -/
def freeOne (wt tau : List Rat) (xs : List Alloc) : List Alloc :=
  let res := residuals tau xs
  let best := xs.foldl (fun (a : Nat × Rat) x =>
    let g := inPull wt res x
    if a.2 < g then (x.j, g) else a) (0, 0)
  if best.2 = 0 then xs else xs.map (fun x => if x.j = best.1 then { x with at_ := 0 } else x)

/-- An actuator of the table as the allocation takes it. -/
def Lane.allocOf (L : Lane) (v : Rat) (j : Nat) : Alloc :=
  let w := L.actD j
  let p := L.actU j
  let r := f32 (wd w 3) / 200
  { j := j, p := p, lo := max (f32 (wd w 1)) (p - r), hi := min (f32 (wd w 2)) (p + r), w := f32 (wd w 4),
    b := (List.range 4).map (effOf w v), u := p, at_ := 0 }

/-- The output of an actuator out of work (R372): held, or moved to SAFE at RATE.
(Log: DEDUCED, entry 65.) -/
def Lane.failedOut (L : Lane) (j : Nat) : Rat :=
  let w := L.actD j
  let p := L.actU j
  let r := f32 (wd w 3) / 200
  if db w 0 8 then clampRat (p - r) (p + r) (f32 (wd w 5)) else p
where
  clampRat (lo hi x : Rat) : Rat := max lo (min hi x)

/-- The residuals are reported (R369). -/
def Lane.lkResiduals (L : Lane) (tk : Nat) (tau res : List Rat) : Lane :=
  let L := L.wrWords (lkReg 0xB0) (res.map toF32)
  let mask := (List.range 4).foldl (fun m i =>
    if absR (tau.getD i 0) / 10 + 1 / 100 < absR (res.getD i 0) then m + 2 ^ i else m) 0
  if mask = 0 then L
  else
    let L := L.setFlag lkStat 12 true
    let ok := match L.lkp.residAt with
      | some t => decide (t + 100000000 ≤ tk)
      | none => true
    if ok then (L.modLkp (fun k => { k with residAt := some tk })).raise 70 3 0 (BitVec.ofNat 32 mask) else L

/-- One output leaves (R371).
(Log: DEDUCED, entry 65.) -/
def Lane.issueOut (L : Lane) (tk j : Nat) (u : Rat) : Lane :=
  let w := L.actD j
  let word := toF32 u
  let L := L.wr (lkReg (0xC0 + 4 * j)) word
  let v := fMul word (wd w 14)
  if L.lkp.bad.contains j then L
  else if actKind w = 1 then L.putSp (actTarget w) (tk + 100000) v
  else if (L.queue (actTarget w)).length < 64 then
    (L.modLkp (fun k => { k with drops := Tab.set k.drops 0 j 0 })).queuePut (actTarget w) v
  else
    (L.modLkp (fun k => { k with drops := Tab.set k.drops 0 j (Tab.get k.drops 0 j + 1) })).bump (lkReg 0x110)

/-! ### Failures (R372) -/

/-- Failures and restorations that the cycle finds; they count from the next cycle. -/
def Lane.lkFailures (L : Lane) : Lane :=
  L.lkActs.foldl (fun L j =>
    let w := L.actD j
    let cond := (actKind w == 1 && (L.loop (actTarget w)).flag) || L.flag (lkReg 0x80) j ||
      (actKind w == 2 && decide (10 ≤ Tab.get L.lkp.drops 0 j))
    if L.lkp.bad.contains j then
      if !L.flag (lkReg 0x7C) j && !L.flag (lkReg 0x80) j then
        (L.modLkp (fun k => { k with bad := k.bad.filter (fun i => i != j), drops := Tab.set k.drops 0 j 0 })).raise 70 2 j 0
      else L
    else if cond then
      let M := ((L.modLkp (fun k => { k with bad := k.bad ++ [j] })).setFlag (lkReg 0x7C) j true).raise 70 1 j 0
      if M.lkUncovered then M.lkStop 4 else M
    else L) L

/-! ### The solve on the small-matrix unit (R369, R370) -/

/-- Every output leaves unchanged, and the cycle is counted as late (R357).
(Log: DESIGN CHOICE, entry 64.) -/
def Lane.lkLate (L : Lane) (tk : Nat) : Lane :=
  let L := L.lkActs.foldl (fun L j => L.issueOut tk j (L.actU j)) L
  ((L.bump (lkReg 0x114)).setFlag lkStat 15 true).raise 70 4 0 0

/-- The solve in progress ends with no result. -/
def Lane.lkGiveUp (L : Lane) (tk : Nat) : Lane := ((L.modLkp (fun k => { k with solve := none })).lkLate tk).lkFailures

/-- The solve has run its iterations (R369, R371): outputs are clamped, residuals reported and outputs issued; after the bound of
step 4 the cycle is late, and in OFF the outputs hold.
(Log: DESIGN CHOICE, entry 64.) -/
def Lane.lkFinish (L : Lane) (z : LkSolve) : Lane :=
  if z.tk + 76000 ≤ L.lt then L.lkGiveUp z.tk
  else
    let L := L.modLkp (fun k => { k with solve := none })
    if L.lkMode = 0 then L
    else
      let xs := z.xs.map (fun x => { x with u := max x.lo (min x.hi x.u) })
      let L := L.lkResiduals z.tk z.tau (residuals z.tau2 xs)
      let L := xs.foldl (fun L x => L.issueOut z.tk x.j x.u) L
      (z.outs.foldl (fun L e => L.issueOut z.tk e.1 e.2) L).lkFailures

/-- Iterations in which no actuator is free need no matrix command: they end with freeing one (R369). -/
def LkSolve.settle (z : LkSolve) (n : Nat) : LkSolve :=
  match n with
  | 0 => { z with n := 0 }
  | n + 1 => if z.xs.any (fun x => x.at_ == 0) then { z with n := n + 1 }
    else ({ z with xs := freeOne z.wt z.tau2 z.xs } : LkSolve).settle n

/-- The matrix command that the solve waits to issue enters the unit's queue once that has room (R370).
(Log: DESIGN CHOICE, entry 135.) -/
def Lane.lkQueue (L : Lane) : Lane :=
  match L.lkp.solve with
  | none => L
  | some z =>
    if z.tic.isSome ∨ 8 ≤ L.mat.queue.length then L
    else
      let w := L.rd (lkReg 0x78)
      let t := L.mat.last + 1
      let m : MatCmd := ⟨z.op, w, w, w, 128, t, 0, 0, []⟩
      let L := { L with mat := { L.mat with queue := L.mat.queue ++ [m], last := t } }
      L.modLkp (fun k => { k with solve := some { z with tic := some t } })

/-- The solve goes on with its next iteration, or ends.
(Log: DESIGN CHOICE, entry 64.) -/
def Lane.lkNext (L : Lane) (z : LkSolve) : Lane :=
  let z := z.settle z.n
  if z.n = 0 then L.lkFinish z
  else (L.modLkp (fun k => { k with solve := some { z with op := 21, tic := none } })).lkQueue

/-- A matrix command with this ticket has completed with status `st` (R369): an mchol is followed by its msolve, which ends an
iteration; a status other than 0 makes the cycle late.
(Log: DESIGN CHOICE, entry 64.) -/
def Lane.lkMatrixDone (L : Lane) (t : Word) (st : Nat) : Lane :=
  match L.lkp.solve with
  | none => L
  | some z =>
    if z.tic ≠ some t then L.lkQueue
    else if st ≠ 0 then L.lkGiveUp z.tk
    else if z.op = 21 then (L.modLkp (fun k => { k with solve := some { z with op := 22, tic := none } })).lkQueue
    else L.lkNext { z with
      n := z.n - 1
      xs := freeOne z.wt z.tau2 ((solveFree z.wt z.tau2 z.xs).map holdOut) }

/-- MATRIX_COMMAND_COMPLETE: the unit completes the command at the head of its queue, whether a context's or the LKP's.
(Log: DESIGN CHOICE, entry 10.) -/
def execMatrixCommandComplete (l : LaneId) (s : State) : Host.Outcome State Fault Refusal :=
  .next (if s.power = 0 then
    s.modLane l (fun L =>
      match L.mat.queue with
      | [] => L
      | m :: _ => L.matComplete.lkMatrixDone m.ticket ((L.matComplete.ticketStatus m.ticket).getD 0))
  else s)

/-- Step 4 of a cycle begins (R369).
(Log: DESIGN CHOICE, entry 64.) -/
def Lane.lkAllocate (L : Lane) (tk : Nat) (tau : List Rat) : Lane :=
  let v := L.veh.fwd
  let outs := (L.lkActs.filter (fun j => L.lkp.bad.contains j)).map (fun j => (j, L.failedOut j))
  let eff := fun (i : Nat) => outs.foldl (fun (a : Rat) e => a + effOf (L.actD e.1) v i * e.2) 0
  let nit := if L.fld (lkReg 8) 0 4 = 0 then 16 else L.fld (lkReg 8) 0 4
  L.lkNext
    { tk := tk, n := nit, op := 21, tic := none, tau := tau
      tau2 := (List.range 4).map (fun i => tau.getD i 0 - eff i)
      wt := (List.range 4).map (fun i => wTau L i)
      xs := L.lkWorking.map (L.allocOf v), outs := outs }

/-! ### The cycle (R356, R357, R366, R373) -/

/-- The implement samples that enter the cycle (R366, R201). -/
def Lane.takeImp (L : Lane) (tk : Nat) : Lane :=
  let now := L.lkp.impWait.filter (fun x => entersCycle tk x.1 x.2.1)
  match now.getLast? with
  | none => L
  | some x => L.modLkp (fun k => { k with
      impV := f32 x.2.2, impWait := k.impWait.filter (fun y => !(entersCycle tk y.1 y.2.1)) })

/-- The standby lane takes the active lane's outputs, offsets and integrator for the cycle (R373).
(Log: DEDUCED, entry 106.) -/
def Lane.lkMirror (L : Lane) (b : Nat × List Word × Rat × Rat × Rat) : Lane :=
  (L.wrWords (lkReg 0xC0) b.2.1).modLkp (fun k => { k with dA := b.2.2.1, dC := b.2.2.2.1, ie := b.2.2.2.2 })

/-- The values a cycle begins with. -/
def Lane.lkBase (L : Lane) (tk : Nat) : Nat × List Word × Rat × Rat × Rat :=
  if L.lkp.t0 = tk then L.lkp.base
  else (tk, (List.range 12).map (fun j => L.rd (lkReg (0xC0 + 4 * j))), L.lkp.dA, L.lkp.dC, L.lkp.ie)

/-- The beginning of a cycle: mirrored values, samples, the request and the path. -/
def Lane.lkBegin (L : Lane) (tk q : Nat) (mir : Option (Nat × List Word × Rat × Rat × Rat)) : Lane :=
  let L1 := match mir with
    | some b => L.lkMirror b
    | none => L
  let base := L1.lkBase tk
  let L2 := L1.modLkp (fun k => { k with t0 := tk, base := base })
  (((L2.wr64 (lkReg 0x100) tk).takeImp tk).lkRequest q).lkPathSel

/-- The integrator of the cross-track error.
(Log: DEDUCED, entry 63.) -/
def Lane.lkIntegrate (L : Lane) (c tau1 : Rat) : Lane :=
  if absR tau1 / 10 < absR (L.lkF 0xB4) then L else L.modLkp (fun k => { k with ie := k.ie + c / 200 })

/-- Demand of a cycle whose mode is not OFF, and the beginning of its solve; where that cannot end in time, the cycle counts
as late at once (R357).
(Log: DESIGN CHOICE, entry 64.) -/
def Lane.lkAct (L : Lane) (tk : Nat) (x : LkErr) (late : Bool) : Lane :=
  let tau := L.lkTau x
  let M := (L.wrWords (lkReg 0xA0) (tau.map toF32)).lkIntegrate x.c (tau.getD 1 0)
  if late then M.lkGiveUp tk else M.lkAllocate tk tau

/-- The errors of a cycle, reported. -/
def Lane.lkReport (L : Lane) (x : LkErr) : Lane :=
  L.wrWords (lkReg 0xF0) [toF32 x.a, toF32 x.c, toF32 x.h, toF32 x.i]

/-- The output's NC_Q, 0 where the nozzle class has none for the cycle. -/
def Lane.lkQ (L : Lane) (tk : Nat) : Nat := if L.rd64 0x40080084 = tk then fieldNat (L.nc 4) 0 2 else 0

/-- Errors, and what follows from them; a stop notes when the vehicle has become slow (R374). -/
def Lane.lkEnd (L : Lane) (tk : Nat) (late : Bool) : Lane :=
  let x := L.lkErrors
  let M := (L.lkReport x).modLkp (fun k => { k with slow := k.slow || decide (absR L.veh.fwd < 1 / 20) })
  if M.lkMode = 0 then M else M.lkAct tk x late

/-- One cycle; `late` where the solve has not completed in time. -/
def Lane.lkRun (L : Lane) (l : LaneId) (tk : Nat) (peer : Option (List Word))
    (mir : Option (Nat × List Word × Rat × Rat × Rat)) (late : Bool) : Lane :=
  let q := L.lkQ tk
  let L := match L.lkp.solve with
    | some z => L.lkGiveUp z.tk
    | none => L
  let M := L.lkBegin tk q mir
  ((((if q = 0 then M.lkStop 3 else M).lkVote l tk peer).followPath).pathEnd).lkEnd tk late

/-- The cycle of lane `l` whose instant is the latest whole multiple of 5 ms, once its nozzle-class output is
there. -/
def State.lkCycle (s : State) (l : LaneId) (late : Bool) : State :=
  let tk := (s.lane l).lt / 500000 * 500000
  let peer := if s.laneLink && (s.lane (other l)).alive then some (s.lane (other l)).solWords else none
  let mir := match s.control with
    | some x => if x != l && s.laneLink && (s.lane x).running && (s.lane x).lkMode != 0 then
        some ((s.lane x).lkBase tk) else none
    | none => none
  s.modLane l (fun L => L.lkRun l tk peer mir late)

/-- The cycle has not run, and it may. -/
def State.lkDue (s : State) (l : LaneId) : Bool :=
  let L := s.lane l
  let tk := L.lt / 500000 * 500000
  L.running && s.power == 0 && decide (L.lkp.t0 < tk) &&
    (decide (L.rd64 0x40080084 = tk) || !L.flag 0x40080000 0 || decide (tk + 30000 ≤ L.lt))

/-- The bound of step 4 has passed.
(Log: DESIGN CHOICE, entry 64.) -/
def State.lkOver (s : State) (l : LaneId) : Bool := decide (76000 ≤ (s.lane l).lt % 500000)

/-- LKP_CYCLE.
(Log: DESIGN CHOICE, entry 10.) -/
def execLkpCycle (l : LaneId) (s : State) : Host.Outcome State Fault Refusal :=
  .next (if s.lkDue l then s.lkCycle l (s.lkOver l) else s)
/-- The solve of the present cycle is still in progress when the bound of step 4 has passed. -/
def State.lkStuck (s : State) (l : LaneId) : Bool := (s.lane l).running && s.power == 0 && (s.lane l).lkp.solve.isSome

/-- LKP_SOLVE_LATE (R357). -/
def execLkpSolveLate (l : LaneId) (s : State) : Host.Outcome State Fault Refusal :=
  .next (if s.lkOver l then
    (if s.lkDue l then s.lkCycle l true
    else if s.lkStuck l then s.modLane l (fun L => L.lkGiveUp (L.lt / 500000 * 500000))
    else s)
  else s)

/-! ### CTRL, implement samples and time-outs -/

/-- Clear a stop (R374).
(Log: DEDUCED, entry 65.) -/
def Lane.lkStopClr (L : Lane) : Lane :=
  let gone := match L.lkp.cause with
    | 1 => L.fld lkStat 5 2 != 0 && L.fld lkStat 7 2 != 0
    | 2 => !L.flag lkStat 9
    | 3 => fieldNat (L.nc 4) 0 2 != 0
    | 4 => L.lkMode == 0 || !L.lkUncovered
    | _ => true
  if L.flag lkStat 10 && gone && decide (absR L.veh.fwd < 1 / 20) then
    let M := L.modLkp (fun k => { k with ie := 0, hold := none, req := none })
    ((M.setFld lkStat 0 2 0).setFlag lkStat 10 false).raise 71 2 0 0
  else L

/-- A write of LKP.CTRL (R363, R374, R376).
(Log: DEDUCED, entry 65.) -/
def Lane.lkCtrlWrite (L : Lane) (v : Word) : Lane :=
  let L := L.plainWrite lkCtrl v
  let m := fieldNat v 0 2
  let L := L.modLkp (fun k => { k with req := if m = L.lkMode then none else some m })
  let L := if bitOf v 4 then L.lkStop 5 else L
  if bitOf v 5 then L.lkStopClr else L

/-- LKP_MODE_REQUEST: the write's MODE. -/
def execLkpModeRequest (l : LaneId) (v : Word) (s : State) : Host.Outcome State Fault Refusal :=
  .next (s.modLane l (fun L => L.lkCtrlWrite v))
/-- STOP_REQ: a write with bit 4. -/
def execStopReq (l : LaneId) (v : Word) (s : State) : Host.Outcome State Fault Refusal :=
  .next (s.modLane l (fun L => L.lkCtrlWrite (setBit v 4 true)))
/-- STOP_CLR: a write with bit 5. -/
def execStopClr (l : LaneId) (v : Word) (s : State) : Host.Outcome State Fault Refusal :=
  .next (s.modLane l (fun L => L.lkCtrlWrite (setBit v 5 true)))

/-- IMP_SUB_GO under the admission rules of R201. -/
def Lane.impSub (L : Lane) : Lane :=
  let t := L.rd64 (lkReg 0x88)
  let dup := match L.lkp.imp with
    | some x => decide (t ≤ x.1)
    | none => false
  if dup then L
  else
    (L.modLkp (fun k => { k with
      imp := some (t, L.lt), impWait := k.impWait ++ [(t, L.lt, L.rd (lkReg 0x84))] })).setFlag lkStat 14 false
def execImpSubGo (l : LaneId) (_v : Word) (s : State) : Host.Outcome State Fault Refusal :=
  .next (s.modLane l Lane.impSub)

/-- IMP_STALE (R366). -/
def execImpStale (l : LaneId) (s : State) : Host.Outcome State Fault Refusal :=
  .next (s.modLane l (fun L =>
    let at_ := match L.lkp.imp with
      | some x => x.2
      | none => 0
    if L.running && decide (at_ + 10000000 ≤ L.lt) then L.setFlag lkStat 14 true else L))

/-- DR_TIMEOUT (R360): cause 2. -/
def execDrTimeout (l : LaneId) (s : State) : Host.Outcome State Fault Refusal :=
  .next (s.modLane l (fun L =>
    match L.lkp.drAt with
    | some t =>
      if L.running && decide (t + max 1 (L.fld (lkReg 8) 16 8) * 100000000 ≤ L.lt) then L.lkStop 2 else L
    | none => L))

/-- A write of ACT_U[j] counts only in OFF (R379). -/
def Lane.actUWrite (L : Lane) (a : Nat) (v : Word) : Lane := if L.lkMode = 0 then L.wr a v else L

end Sys2Proof.Machine
end

