-- ==== Sys2Proof/Machine/Bus.lean ====
section
/-!
DEFINITION. The register blocks of a lane as the cores reach them (R9, R117 to R119): every write does what its
register's own rules say beyond the plain access code, and every read returns what the register shows at that
moment.
-/

namespace Sys2Proof.Machine

/-! ### Writes -/

/-- A write with no effect of its own beyond the access codes. -/
def State.plainW (s : State) (l : LaneId) (a : Nat) (v : Word) : State := s.modLane l (fun L => L.plainWrite a v)

/-- A write that changes the lane's own image and travels to the switch die (R449). -/
def State.imageW (s : State) (l : LaneId) (a : Nat) (v : Word) : State :=
  s.modLane l (fun L => (L.plainWrite a v).send (.swReg a v))

/-- SYS: the software reset by context 0 (R73) and the watchdog (R124). -/
def State.busSys (s : State) (l : LaneId) (c a : Nat) (v : Word) : State :=
  if a = 0x40000010 then (if bitOf v 31 && c == 0 then s.laneReset l 1 6 else s)
  else if a = 0x4000001C then s.modLane l Lane.kick
  else s.plainW l a v

/-- LT (R84, R85, R88, R93, R98). -/
def Lane.busLt (L : Lane) (a : Nat) (v : Word) : Lane :=
  let o := a % 0x10000
  if o = 0x10 then L.writeRate v
  else if o = 0x08 ∨ o = 0x40 ∨ o = 0x44 then L.cableWrite a v
  else if o = 0x50 then L.tpCfgWrite 0 v
  else if o = 0x54 then L.tpCfgWrite 1 v
  else if o = 0x90 then L.xsubGo (fieldNat v 0 5)
  else if 0x100 ≤ o ∧ o < 0x500 ∧ o % 32 < 8 then L.xsrcWrite ((o - 0x100) / 32) (o % 32 == 4) v
  else L.plainWrite a v

/-- A write of SEC.CTRL (R194, R211, R231, R237).
(Log: DEDUCED, entry 50.) -/
def Lane.secCtrl (L : Lane) (v : Word) : Lane :=
  let was := L.rd 0x40070000
  let M := L.plainWrite 0x40070000 v
  let M := if bitOf v 1 then M.secLoad else M
  let M := if bitOf v 4 && !bitOf was 4 then M.pageEnable else M
  if bitOf v 0 && !bitOf was 0 then { M with sec := { M.sec with prs := none, prsWait := [], prsAt := M.lt, prsStale := false } } else M

/-- SEC. -/
def Lane.busSec (L : Lane) (a : Nat) (v : Word) : Lane :=
  let o := a % 0x10000
  if o = 0x00 then L.secCtrl v
  else if o = 0x0C then L.fieldWrite v
  else if o = 0x58 then L.rxCmd v
  else if o = 0x84 then L.binSub (fieldNat v 0 4)
  else if o = 0x110 then (L.plainWrite a v).send (.swReg a v)
  else if o = 0x12C then L.prsSub
  else if o = 0x164 then (if bitOf v 1 then (L.plainWrite a v).meterLoad else L.plainWrite a v)
  else L.plainWrite a v

/-- FUS. -/
def Lane.busFus (L : Lane) (a : Nat) (v : Word) : Lane :=
  let o := a % 0x10000
  if o = 0x00 then L.fusCtrl v
  else if o = 0x1C then L.orgGo
  else if o = 0x50 then L.fusSubmit (fieldNat v 0 5)
  else if 0x200 ≤ o ∧ o < 0x300 ∧ o % 8 = 0 then L.srcWrite ((o - 0x200) / 8) v
  else if o = 0x400 then L.calCtrl v
  else L.plainWrite a v

/-- GNS. -/
def Lane.busGns (L : Lane) (a : Nat) (v : Word) : Lane :=
  let o := a % 0x10000
  if o = 0x00 then L.gnsCtrl v
  else if 0x40 ≤ o ∧ o < 0xA0 then L.notchWrite ((o - 0x40) / 4) v
  else if o = 0xA8 then L.corrData v
  else if o = 0xAC then L.corrGo v
  else L.plainWrite a v

/-- LKP. -/
def Lane.busLkp (L : Lane) (a : Nat) (v : Word) : Lane :=
  let o := a % 0x10000
  if o = 0x00 then L.lkCtrlWrite v
  else if o = 0x90 then L.impSub
  else if 0xC0 ≤ o ∧ o < 0xF0 then L.actUWrite a v
  else L.plainWrite a v

/-- ENC. -/
def Lane.busEnc (L : Lane) (a : Nat) (v : Word) : Lane :=
  let o := a % 0x10000
  if 0x100 ≤ o ∧ o < 0x700 then
    (if o % 64 = 0x00 then L.encCfg ((o - 0x100) / 64) v
     else if o % 64 = 0x04 then L.encZcfg ((o - 0x100) / 64) v
     else if o % 64 = 0x14 then L.countWrite ((o - 0x100) / 64) v
     else L.plainWrite a v)
  else if 0x800 ≤ o ∧ o < 0x880 ∧ o % 32 = 0 then L.absCfg ((o - 0x800) / 32) v
  else L.plainWrite a v

/-- The CAN controllers. -/
def State.busCan (s : State) (l : LaneId) (a : Nat) (v : Word) : State :=
  let c := a % 0x10000 / 0x4000
  let o := a % 0x4000
  if o = 0x00 then s.canCtrl l c v
  else if o = 0x0C ∨ o = 0x10 ∨ o = 0x1C then s.canInitWrite l c a v
  else if o = 0x18 then s.canConfig l c 0 v
  else if o = 0x20 then s.canConfig l c 1 v
  else if o = 0x44 then s.canConfig l c 2 v
  else if o = 0x28 then s.modLane l (fun L => L.strRelease c 0 v)
  else if o = 0x30 then s.modLane l (fun L => L.strRelease c 1 v)
  else if o = 0x38 then s.canRequest l c v
  else if o = 0x3C then s.modLane l (fun L => L.canAbort c v)
  else if o = 0x48 then s.txrWrite l c v
  else if o = 0x50 then s.modLane l (fun L => L.canFlush c v)
  else s.plainW l a v

/-- The Ethernet ports. -/
def Lane.busEth (power : Nat) (L : Lane) (a : Nat) (v : Word) : Lane :=
  let n := a % 0x10000 / 0x100
  if 2 ≤ n then L
  else if a % 0x100 = 0x00 then L.ethCfg n v
  else if a % 0x100 = 0x28 then L.txKick n power
  else L.plainWrite a v

/-- PGC and PGB (R406): the lane's image changes and the write travels as an unstamped command; the block's
own counters and flags are the lane's. -/
def State.busPulse (s : State) (l : LaneId) (a : Nat) (v : Word) : State :=
  match unitOfAddr a with
  | some (u, _) => s.modLane l (fun L => (L.plainWrite a v).sendCmd u 0 (.reg a v) none)
  | none =>
    if a % 0x10000 = 0 ∨ (0x400E0020 ≤ a ∧ a < 0x400E0040) then s.imageW l a v else s.plainW l a v

/-- SWD (R27, R71, R449, R451). -/
def State.busSwd (s : State) (l : LaneId) (a : Nat) (v : Word) : State :=
  let o := a % 0x10000
  if 0x8000 ≤ o then s.rindWrite l (o - 0x8000) v
  else if 0x2100 ≤ o ∧ o < 0x2140 then (s.imageW l a v).directReq l ((o - 0x2100) / 4) (bitOf v 0)
  else if o = 0x84 ∨ (0x1000 ≤ o ∧ o < 0x1D00 ∧ o % 16 = 8) then s.modLane l (fun L => L.send (.swReg a v))
  else if o = 0x80 ∨ (0x1000 ≤ o ∧ o < 0x1D00 ∧ o % 16 < 8) ∨ (0x2000 ≤ o ∧ o < 0x2080 ∧ o % 16 = 4) then
    s.imageW l a v
  else s.plainW l a v

/-- LNK, VLT and NVM (R577, R589, R593, R608). -/
def State.busTrust (s : State) (l : LaneId) (a : Nat) (v : Word) : State :=
  if a = 0x40140000 then
    let t := s.plainW l a v
    if bitOf v 1 && t.isActive l then t.proofSwap.1 else t
  else if a = 0x40150000 then (if bitOf v 0 then s.commitFloor l else s)
  else if a = 0x40150040 then s.modLane l (fun L => L.enrGo v)
  else if a = 0x401500E8 then s.writeCfgFloor l v
  else if a = 0x40160000 then
    let t := if bitOf v 0 then s.cfgWr l else s
    if bitOf v 1 then t.modLane l Lane.pdWr else t
  else s.plainW l a v

/-- A write of a register-block word by context `c` of lane `l`.
(Log: DESIGN CHOICE, entry 95.) -/
def State.busWrite (s : State) (l : LaneId) (c a : Nat) (v : Word) : State :=
  match a / 0x10000 with
  | 0x4000 => s.busSys l c a v
  | 0x4002 => s.modLane l (fun L => L.busLt a v)
  | 0x4003 => s.modLane l (fun L => if a = 0x40030000 then L.ctxCmd v else L.plainWrite a v)
  | 0x4004 => s.modLane l (fun L =>
      if 0x40040100 ≤ a ∧ a < 0x40040160 then L.bankCfg ((a - 0x40040100) / 4) v else L.plainWrite a v)
  | 0x4007 => s.modLane l (fun L => L.busSec a v)
  | 0x4008 => s.modLane l (fun L => L.busFus a v)
  | 0x4009 => s.modLane l (fun L => if a = 0x40090000 then L.trkCtrl v else L.plainWrite a v)
  | 0x400A => s.modLane l (fun L => L.busGns a v)
  | 0x400B => s.modLane l (fun L => L.busLkp a v)
  | 0x400C => s.modLane l (fun L =>
      if 0x400C1000 ≤ a ∧ a < 0x400C2000 then L.tblWrite a v else L.plainWrite a v)
  | 0x400D => s.busPulse l a v
  | 0x400E => s.busPulse l a v
  | 0x400F => s.busSwd l a v
  | 0x4010 => s.modLane l (fun L => L.busEnc a v)
  | 0x4011 => s.busCan l a v
  | 0x4012 => s.modLane l (fun L => L.busEth s.power a v)
  | 0x4014 => s.busTrust l a v
  | 0x4015 => s.busTrust l a v
  | 0x4016 => s.busTrust l a v
  | _ => s.plainW l a v

/-! ### Reads -/

/-- A pulse unit's STAT (R426). -/
def State.unitStat (s : State) (u : Nat) : Word :=
  let p := s.die.unit u
  let o0 := if isBridge u then p.gh else p.line
  let o1 := if isBridge u then p.gl else p.run
  BitVec.ofNat 32 (b2n o0 + b2n o1 * 2 + b2n p.trip * 2 ^ 2 + b2n p.clrRej * 2 ^ 3 + b2n p.partialF * 2 ^ 4 +
    b2n p.dclamp * 2 ^ 5 + b2n (p.force != 0) * 2 ^ 6 + b2n p.frozen * 2 ^ 7 + b2n p.held * 2 ^ 8 +
    b2n p.bsSupp * 2 ^ 9 + (p.tripSrc % 1024) * 2 ^ 16)

/-- Some unit of a block meets a test. -/
def State.anyUnit (s : State) (bridge : Bool) (f : PUnit → Bool) : Bool :=
  (List.range 232).any (fun u => isBridge u == bridge && f (s.die.unit u))

/-- PGC.STAT and PGB.STAT (R424): the lane's own flags, and what the die reports of its units. -/
def State.pgStat (s : State) (l : LaneId) (a : Nat) : Word :=
  let br := a == 0x400E0004
  setBit (setBit ((s.lane l).plainRead a) 2 (s.anyUnit br PUnit.trip)) 3 (s.anyUnit br PUnit.frozen)

/-- PGC and PGB. -/
def State.readPulse (s : State) (l : LaneId) (a : Nat) : Word :=
  match unitOfAddr a with
  | some (u, o) => if o = (if isBridge u then 0x14 else 0x0C) then s.unitStat u else (s.lane l).plainRead a
  | none => if a % 0x10000 = 4 then s.pgStat l a else (s.lane l).plainRead a

/-- SWD. -/
def State.readSwd (s : State) (l : LaneId) (a : Nat) : Word :=
  let o := a % 0x10000
  let w := (s.lane l).plainRead a
  if 0x8000 ≤ o then s.rindRead (o - 0x8000)
  else if o = 0x40 then
    setBit (setBit w 1 ((List.range 232).any (fun u => s.steer u == laneNo l))) 4 (s.follows == l && s.counts l)
  else if 0x1000 ≤ o ∧ o < 0x1D00 ∧ o % 16 = 8 then s.chStat ((o - 0x1000) / 16)
  else if 0x1000 ≤ o ∧ o < 0x1D00 ∧ o % 16 = 12 then s.chMeas ((o - 0x1000) / 16)
  else if 0x2000 ≤ o ∧ o < 0x2080 ∧ o % 16 = 0 then
    setBit (s.bankStat ((o - 0x2000) / 16)) 26 (bitOf w 26)
  else if 0x2100 ≤ o ∧ o < 0x2140 then setBit w 1 (s.steer (192 + (o - 0x2100) / 4) == 2)
  else w

/-- A latched word of the reading context (R101). -/
def Lane.latched (L : Lane) (c a : Nat) : Word := Tab.get (L.ctx c).outLatch 0 a

/-- ENC: RATE_T, ZMIS and ZT are the reader's latches; ACTIVE of an absolute port (R471, R474). -/
def State.readEnc (s : State) (l : LaneId) (c a : Nat) : Word :=
  let L := s.lane l
  let o := a % 0x10000
  let r := o % 64
  if 0x100 ≤ o ∧ o < 0x700 then
    (if r = 0x1C ∨ r = 0x20 ∨ r = 0x30 ∨ r = 0x34 ∨ r = 0x38 then L.latched c a else L.plainRead a)
  else if 0x800 ≤ o ∧ o < 0x880 ∧ o % 32 = 4 then
    setBit (L.plainRead a) 5 (L.flag (a - 4) 0 && s.isActive l)
  else L.plainRead a

/-- FUS and GNS: the words of NC_OUT, PC_OUT and SOL after their first are the reader's latches. -/
def State.readNav (s : State) (l : LaneId) (c a : Nat) : Word :=
  let L := s.lane l
  if (0x40080084 ≤ a ∧ a < 0x400800E0) ∨ (0x400800E4 ≤ a ∧ a < 0x40080120) ∨ (0x400A0104 ≤ a ∧ a < 0x400A0160) then
    L.latched c a
  else if a = 0x400A0010 then s.antWord l 0
  else if a = 0x400A0014 then s.antWord l 1
  else L.plainRead a

/-- LT: the clock, the latches of the reading context (R93, R100), the applied rate, MASTER and PEER_OK (R80, R81)
and OUT of the time pulses (R97). -/
def State.readLt (s : State) (l : LaneId) (c a : Nat) : Word :=
  let L := s.lane l
  let lt := fun i => Tab.get (L.ctx c).ltLatch 0 i
  if a = 0x40020000 then (L.readNowLo c).1
  else if a = 0x40020004 then lt 0
  else if a = 0x40020020 then (L.readGtLo c).1
  else if a = 0x40020024 then lt 1
  else if a = 0x40020028 then lt 2
  else if a = 0x4002002C then lt 3
  else if a = 0x40020030 then L.gtUnc
  else if a = 0x40020010 then satInt (s.appliedRate l).floor
  else if a = 0x4002000C then setBit (setBit (L.plainRead a) 2 (s.isActive l)) 3 (s.peerOk l)
  else if a = 0x40020058 then setBit (L.plainRead a) 0 (s.tpOut l 0)
  else if a = 0x4002005C then setBit (L.plainRead a) 0 (s.tpOut l 1)
  else L.plainRead a

/-- SYS.ID (R632), CTX.STAT with the count of FREE contexts, EVT.QCNT, SPX.VIS, SEC.FLOW_TGT and
LKP.REF_CFG[r].ABS (R358). -/
def State.readSys (s : State) (l : LaneId) (a : Nat) : Word :=
  let L := s.lane l
  if a = 0x40000000 then
    BitVec.ofNat 32 (0x208 + 65536 * Config.grade.toNat + 16777216 * Config.step.toNat + 0x10000000 * laneNo l)
  else if a = 0x40030004 then
    setFieldNat (L.plainRead a) 16 8 ((List.range 128).countP (fun c => (L.ctx c).st == .free))
  else if a = 0x40050010 then BitVec.ofNat 32 L.ev.q.length
  else if 0x40060080 ≤ a ∧ a < 0x4006009C then L.visWord ((a - 0x40060080) / 4)
  else if a = 0x40070138 then L.flowTgt
  else if 0x400B0200 ≤ a ∧ a < 0x400B0240 ∧ a % 8 = 0 then
    setBit (L.plainRead a) 1 ([0, 1, 5, 6, 7].contains ((a - 0x400B0200) / 8))
  else L.plainRead a

/-- VLT: what the fuses and the rind hold (R603). -/
def State.readVault (s : State) (l : LaneId) (a : Nat) : Word :=
  let L := s.lane l
  if a = 0x401500E4 then s.imgFloor l
  else if a = 0x401500E8 then s.cfgFloor l
  else if 0x40150010 ≤ a ∧ a < 0x40150040 ∧ L.enrolled then
    bytesWord ((L.vault.hash.drop (a - 0x40150010)).take 4)
  else if 0x40150050 ≤ a ∧ a < 0x401500B0 then Config.devPub (l == .b) ((a - 0x40150050) / 4)
  else L.plainRead a

/-- What a read of a register-block word returns to context `c` of lane `l`.
(Log: DEDUCED, entry 55.) -/
def State.busWord (s : State) (l : LaneId) (c a : Nat) : Word :=
  match a / 0x10000 with
  | 0x4002 => s.readLt l c a
  | 0x4008 => s.readNav l c a
  | 0x400A => s.readNav l c a
  | 0x400D => s.readPulse l a
  | 0x400E => s.readPulse l a
  | 0x400F => s.readSwd l a
  | 0x4010 => s.readEnc l c a
  | 0x4011 => if a % 0x4000 = 4 then s.canStat l (a % 0x10000 / 0x4000) else (s.lane l).plainRead a
  | 0x4015 => s.readVault l a
  | _ => s.readSys l a

/-- What a read leaves: RC fields clear, and the words of R93, R101 and R600 latch or issue. -/
def Lane.busAfter (L : Lane) (l : LaneId) (c a : Nat) : Lane :=
  if a = 0x40020000 then (L.readNowLo c).2
  else if a = 0x40020020 then (L.readGtLo c).2
  else if a = 0x40080080 then L.ncRead c
  else if a = 0x400800E0 then L.pcRead c
  else if a = 0x400A0100 then L.solRead c
  else if 0x40100100 ≤ a ∧ a < 0x40100700 ∧ a % 64 = 0x18 then L.rateRead c ((a - 0x40100100) / 64)
  else if 0x40100100 ≤ a ∧ a < 0x40100700 ∧ a % 64 = 0x2C then L.zcapRead c ((a - 0x40100100) / 64)
  else if a = 0x401500B0 then L.issueChal l
  else L.plainAfter a

/-- MEM.CNT_CONF (R546) counts cycles of port conflict, which the model does not show: a read returns a free
value.
(Log: DESIGN CHOICE, entry 31.) -/
def isConflictCount (a : Nat) : Bool := decide (0x40040040 ≤ a) && decide (a < 0x40040078)

/-- A read of a register-block word by context `c`: a read of DBG_CHAL[0] returns the challenge it issues.
(Log: DESIGN CHOICE, entry 31.) -/
def State.busRead (s : State) (l : LaneId) (c a : Nat) : Word × State :=
  let t := s.modLane l (fun L => if isConflictCount a then L.useFree else L.busAfter l c a)
  (if isConflictCount a then (s.lane l).freeWord
   else if a = 0x401500B0 then (t.lane l).plainRead a else s.busWord l c a, t)

/-- The W1C bits of `same` that the hardware sets in the cycle of a write of the register at `a` (R12), in the lane's
blocks or in the rind's. -/
def State.setSame (s : State) (l : LaneId) (a : Nat) (same : Word) : State :=
  if same = 0 then s
  else if 0x400F8000 ≤ a ∧ a < 0x40100000 then
    s.modRind (fun r => r.wr (a - 0x400F8000) (hardSet (rindFlds (a - 0x400F8000)) same (r.rd (a - 0x400F8000))))
  else s.modLane l (fun L => L.wr a (hardSet (laneFlds a) same (L.rd a)))

/-- REGISTER_WRITE (R9, R12): a write by the supervisor context, and the W1C bits that the hardware sets in
the same cycle; an address outside the blocks, or no word's, does not exist.
(Log: DESIGN CHOICE, entries 4, 95.) -/
def execRegisterWrite (l : LaneId) (addr : Word) (v : SyncWord) (s : State) :
    Host.Outcome State Fault Refusal :=
  if inBlocks addr.toNat then .next ((s.busWrite l 0 addr.toNat v.value).setSame l addr.toNat v.set) else .fault .noAddress

/-- RC_READ (R9): a read by the supervisor context clears the RC fields.
(Log: DESIGN CHOICE, entries 4, 95.) -/
def execRcRead (l : LaneId) (addr : Word) (s : State) : Host.Outcome State Fault Refusal :=
  if inBlocks addr.toNat then .next (s.busRead l 0 addr.toNat).2 else .fault .noAddress

end Sys2Proof.Machine
end

