-- ==== Sys2Proof/Machine/FloatOps.lean ====
section
/-!
DEFINITION. Float instructions (R144, R145).
-/

namespace Sys2Proof.Machine

/-- A fused multiply-add with the product or the addend negated; a NaN operand keeps its kind. -/
def fmaNeg (rm : Nat) (np nc : Bool) (x y z : Word) : Word × Exc :=
  ffma rm (if np then fneg x else x) y (if nc then fneg z else z)

/-- FADD (R145). -/
def execFadd (l : LaneId) (c : CtxNo) (rd rs1 rs2 : RegNo) (s : State) :
    Host.Outcome State Fault Refusal :=
  .next (s.fop l c rd (fun rm x => fadd rm (x.rf rs1) (x.rf rs2)))

/-- FSUB (R145). -/
def execFsub (l : LaneId) (c : CtxNo) (rd rs1 rs2 : RegNo) (s : State) :
    Host.Outcome State Fault Refusal :=
  .next (s.fop l c rd (fun rm x => fsub rm (x.rf rs1) (x.rf rs2)))

/-- FMUL (R145). -/
def execFmul (l : LaneId) (c : CtxNo) (rd rs1 rs2 : RegNo) (s : State) :
    Host.Outcome State Fault Refusal :=
  .next (s.fop l c rd (fun rm x => fmul rm (x.rf rs1) (x.rf rs2)))

/-- FDIV (R145). -/
def execFdiv (l : LaneId) (c : CtxNo) (rd rs1 rs2 : RegNo) (s : State) :
    Host.Outcome State Fault Refusal :=
  .next (s.fop l c rd (fun rm x => fdiv rm (x.rf rs1) (x.rf rs2)))

/-- FMIN (R145). -/
def execFmin (l : LaneId) (c : CtxNo) (rd rs1 rs2 : RegNo) (s : State) :
    Host.Outcome State Fault Refusal :=
  .next (s.fop l c rd (fun _ x => fminmax false (x.rf rs1) (x.rf rs2)))

/-- FMAX (R145). -/
def execFmax (l : LaneId) (c : CtxNo) (rd rs1 rs2 : RegNo) (s : State) :
    Host.Outcome State Fault Refusal :=
  .next (s.fop l c rd (fun _ x => fminmax true (x.rf rs1) (x.rf rs2)))

/-- FEQ (R145). -/
def execFeq (l : LaneId) (c : CtxNo) (rd rs1 rs2 : RegNo) (s : State) :
    Host.Outcome State Fault Refusal :=
  .next (s.fopX l c rd (fun _ x =>
    let r := feq (x.rf rs1) (x.rf rs2)
    (wBool r.1, r.2)))

/-- FLT (R145). -/
def execFlt (l : LaneId) (c : CtxNo) (rd rs1 rs2 : RegNo) (s : State) :
    Host.Outcome State Fault Refusal :=
  .next (s.fopX l c rd (fun _ x =>
    let r := flt (x.rf rs1) (x.rf rs2)
    (wBool r.1, r.2)))

/-- FLE (R145). -/
def execFle (l : LaneId) (c : CtxNo) (rd rs1 rs2 : RegNo) (s : State) :
    Host.Outcome State Fault Refusal :=
  .next (s.fopX l c rd (fun _ x =>
    let r := fle (x.rf rs1) (x.rf rs2)
    (wBool r.1, r.2)))

/-- FSQRT (R145). -/
def execFsqrt (l : LaneId) (c : CtxNo) (rd rs1 : RegNo) (s : State) :
    Host.Outcome State Fault Refusal :=
  .next (s.fop l c rd (fun rm x => fsqrt rm (x.rf rs1)))

/-- FNEG (R145). -/
def execFneg (l : LaneId) (c : CtxNo) (rd rs1 : RegNo) (s : State) :
    Host.Outcome State Fault Refusal :=
  .next (s.fop l c rd (fun _ x => (fneg (x.rf rs1), 0)))

/-- FABS (R145). -/
def execFabs (l : LaneId) (c : CtxNo) (rd rs1 : RegNo) (s : State) :
    Host.Outcome State Fault Refusal :=
  .next (s.fop l c rd (fun _ x => (fabs (x.rf rs1), 0)))

/-- FTOI (R145). -/
def execFtoi (l : LaneId) (c : CtxNo) (rd rs1 : RegNo) (s : State) :
    Host.Outcome State Fault Refusal :=
  .next (s.fopX l c rd (fun rm x => ftoi rm (x.rf rs1)))

/-- FTOU (R145). -/
def execFtou (l : LaneId) (c : CtxNo) (rd rs1 : RegNo) (s : State) :
    Host.Outcome State Fault Refusal :=
  .next (s.fopX l c rd (fun rm x => ftou rm (x.rf rs1)))

/-- ITOF (R145). -/
def execItof (l : LaneId) (c : CtxNo) (rd rs1 : RegNo) (s : State) :
    Host.Outcome State Fault Refusal :=
  .next (s.fop l c rd (fun rm x => itof rm (x.rx rs1)))

/-- UTOF (R145). -/
def execUtof (l : LaneId) (c : CtxNo) (rd rs1 : RegNo) (s : State) :
    Host.Outcome State Fault Refusal :=
  .next (s.fop l c rd (fun rm x => utof rm (x.rx rs1)))

/-- FMVX (R145). -/
def execFmvx (l : LaneId) (c : CtxNo) (rd rs1 : RegNo) (s : State) :
    Host.Outcome State Fault Refusal :=
  .next (s.fopX l c rd (fun _ x => (x.rf rs1, 0)))

/-- FMVF (R145). -/
def execFmvf (l : LaneId) (c : CtxNo) (rd rs1 : RegNo) (s : State) :
    Host.Outcome State Fault Refusal :=
  .next (s.fop l c rd (fun _ x => (x.rx rs1, 0)))

/-- FMA (R145). -/
def execFma (l : LaneId) (c : CtxNo) (rd rs1 rs2 rs3 : RegNo) (s : State) :
    Host.Outcome State Fault Refusal :=
  .next (s.fop l c rd (fun rm x => ffma rm (x.rf rs1) (x.rf rs2) (x.rf rs3)))

/-- FMS (R145). -/
def execFms (l : LaneId) (c : CtxNo) (rd rs1 rs2 rs3 : RegNo) (s : State) :
    Host.Outcome State Fault Refusal :=
  .next (s.fop l c rd (fun rm x => fmaNeg rm false true (x.rf rs1) (x.rf rs2) (x.rf rs3)))

/-- FNMA (R145). -/
def execFnma (l : LaneId) (c : CtxNo) (rd rs1 rs2 rs3 : RegNo) (s : State) :
    Host.Outcome State Fault Refusal :=
  .next (s.fop l c rd (fun rm x => fmaNeg rm true true (x.rf rs1) (x.rf rs2) (x.rf rs3)))

/-- FNMS (R145). -/
def execFnms (l : LaneId) (c : CtxNo) (rd rs1 rs2 rs3 : RegNo) (s : State) :
    Host.Outcome State Fault Refusal :=
  .next (s.fop l c rd (fun rm x => fmaNeg rm true false (x.rf rs1) (x.rf rs2) (x.rf rs3)))

end Sys2Proof.Machine
end

