-- ==== Sys2Proof/Machine/Imm.lean ====
section
/-!
DEFINITION. Immediate instructions, jumps and branches (R148, R149, R153).
-/

namespace Sys2Proof.Machine

/-- rd = f rs1 imm. -/
def State.ri (s : State) (l : LaneId) (c : CtxNo) (rd rs1 : RegNo) (f : Word → Word) : State :=
  s.alu l c rd (fun x => f (x.rx rs1))

/-- A shift by an immediate: imm[13:5] must be 0 (R148, R137). -/
def State.shiftI (s : State) (l : LaneId) (c : CtxNo) (rd rs1 : RegNo) (imm : BitVec 14)
    (f : Word → Nat → Word) : State :=
  s.issue l c (decide (imm.toNat < 32)) false
    (s.onCtx l c (fun x => x.wx rd (f (x.rx rs1) imm.toNat)))

/-- Format B: PC + 4 times the offset when the condition holds (R153). -/
def State.branch (s : State) (l : LaneId) (c : CtxNo) (rs1 rs2 : RegNo) (off : BitVec 14)
    (p : Word → Word → Bool) : State :=
  s.issue l c true false (.ok (s.modLane l (fun L => L.modCtx c (fun x =>
    { x with pc := if p (x.rx rs1) (x.rx rs2) then x.pc + 4 * sext14 off else x.pc + 4 }))))

/-- LHI: imm19 in bits 31:13 (R148). -/
def execLhi (l : LaneId) (c : CtxNo) (rd : RegNo) (imm : BitVec 19) (s : State) :
    Host.Outcome State Fault Refusal :=
  .next (s.alu l c rd (fun _ => (imm.setWidth 32) <<< 13))

/-- JLR (R148, R149): the target from the old rs1; a target that is not a multiple of 4 faults
ALIGN with FADDR the target and changes nothing. -/
def execJlr (l : LaneId) (c : CtxNo) (rd rs1 : RegNo) (imm : BitVec 14) (s : State) :
    Host.Outcome State Fault Refusal :=
  let x := (s.lane l).ctx c
  let t := x.rx rs1 + sext14 imm
  .next (s.issue l c true false
    (if t.toNat % 4 ≠ 0 then .fault 3 (some t)
     else .ok (s.modLane l (fun L => L.modCtx c (fun x =>
       let y := x.wx rd (x.pc + 4)
       { y with pc := t })))))

/-- JAL (R153). -/
def execJal (l : LaneId) (c : CtxNo) (rd : RegNo) (off : BitVec 19) (s : State) :
    Host.Outcome State Fault Refusal :=
  .next (s.issue l c true false (.ok (s.modLane l (fun L => L.modCtx c (fun x =>
    let y := x.wx rd (x.pc + 4)
    { y with pc := x.pc + 4 * off.signExtend 32 })))))

/-- ADDI (R148). -/
def execAddi (l : LaneId) (c : CtxNo) (rd rs1 : RegNo) (imm : BitVec 14) (s : State) :
    Host.Outcome State Fault Refusal :=
  .next (s.ri l c rd rs1 (fun x => x + sext14 imm))

/-- ANDI (R148). -/
def execAndi (l : LaneId) (c : CtxNo) (rd rs1 : RegNo) (imm : BitVec 14) (s : State) :
    Host.Outcome State Fault Refusal :=
  .next (s.ri l c rd rs1 (fun x => x &&& zext14 imm))

/-- ORI (R148). -/
def execOri (l : LaneId) (c : CtxNo) (rd rs1 : RegNo) (imm : BitVec 14) (s : State) :
    Host.Outcome State Fault Refusal :=
  .next (s.ri l c rd rs1 (fun x => x ||| zext14 imm))

/-- XORI (R148). -/
def execXori (l : LaneId) (c : CtxNo) (rd rs1 : RegNo) (imm : BitVec 14) (s : State) :
    Host.Outcome State Fault Refusal :=
  .next (s.ri l c rd rs1 (fun x => x ^^^ zext14 imm))

/-- SLTI (R148). -/
def execSlti (l : LaneId) (c : CtxNo) (rd rs1 : RegNo) (imm : BitVec 14) (s : State) :
    Host.Outcome State Fault Refusal :=
  .next (s.ri l c rd rs1 (fun x => wBool (decide (x.toInt < (sext14 imm).toInt))))

/-- SLTIU (R148). -/
def execSltiu (l : LaneId) (c : CtxNo) (rd rs1 : RegNo) (imm : BitVec 14) (s : State) :
    Host.Outcome State Fault Refusal :=
  .next (s.ri l c rd rs1 (fun x => wBool (decide (x.toNat < (sext14 imm).toNat))))

/-- SLLI (R148). -/
def execSlli (l : LaneId) (c : CtxNo) (rd rs1 : RegNo) (imm : BitVec 14) (s : State) :
    Host.Outcome State Fault Refusal :=
  .next (s.shiftI l c rd rs1 imm (fun x n => x <<< n))

/-- SRLI (R148). -/
def execSrli (l : LaneId) (c : CtxNo) (rd rs1 : RegNo) (imm : BitVec 14) (s : State) :
    Host.Outcome State Fault Refusal :=
  .next (s.shiftI l c rd rs1 imm (fun x n => x >>> n))

/-- SRAI (R148). -/
def execSrai (l : LaneId) (c : CtxNo) (rd rs1 : RegNo) (imm : BitVec 14) (s : State) :
    Host.Outcome State Fault Refusal :=
  .next (s.shiftI l c rd rs1 imm (fun x n => x.sshiftRight n))

/-- BEQ (R153). -/
def execBeq (l : LaneId) (c : CtxNo) (rs1 rs2 : RegNo) (off : BitVec 14) (s : State) :
    Host.Outcome State Fault Refusal :=
  .next (s.branch l c rs1 rs2 off (fun x y => x == y))

/-- BNE (R153). -/
def execBne (l : LaneId) (c : CtxNo) (rs1 rs2 : RegNo) (off : BitVec 14) (s : State) :
    Host.Outcome State Fault Refusal :=
  .next (s.branch l c rs1 rs2 off (fun x y => x != y))

/-- BLT (R153). -/
def execBlt (l : LaneId) (c : CtxNo) (rs1 rs2 : RegNo) (off : BitVec 14) (s : State) :
    Host.Outcome State Fault Refusal :=
  .next (s.branch l c rs1 rs2 off (fun x y => decide (x.toInt < y.toInt)))

/-- BGE (R153). -/
def execBge (l : LaneId) (c : CtxNo) (rs1 rs2 : RegNo) (off : BitVec 14) (s : State) :
    Host.Outcome State Fault Refusal :=
  .next (s.branch l c rs1 rs2 off (fun x y => decide (y.toInt ≤ x.toInt)))

/-- BLTU (R153). -/
def execBltu (l : LaneId) (c : CtxNo) (rs1 rs2 : RegNo) (off : BitVec 14) (s : State) :
    Host.Outcome State Fault Refusal :=
  .next (s.branch l c rs1 rs2 off (fun x y => decide (x.toNat < y.toNat)))

/-- BGEU (R153). -/
def execBgeu (l : LaneId) (c : CtxNo) (rs1 rs2 : RegNo) (off : BitVec 14) (s : State) :
    Host.Outcome State Fault Refusal :=
  .next (s.branch l c rs1 rs2 off (fun x y => decide (y.toNat ≤ x.toNat)))

end Sys2Proof.Machine
end

