-- ==== Sys2Proof/Machine/LoadStore.lean ====
section
/-!
DEFINITION. The memory instructions of format M (R118 to R121, R126, R151, R152, R552), an illegal word (R137),
and the acceptance of a command by an engine that had no room for it (R133).
-/

namespace Sys2Proof.Machine

/-- The effective address (R151). -/
def Ctx.ea (x : Ctx) (rs1 : RegNo) (off : BitVec 14) : Nat := (x.rx rs1 + sext14 off).toNat

/-! ### Loads -/

/-- The context goes on with the next instruction, with what `put` makes of the loaded bytes. -/
def State.landed (s : State) (l : LaneId) (c : Nat) (put : List Byte → Ctx → Ctx) (bs : List Byte) : State :=
  s.modLane l (fun L => L.modCtx c (fun x => x.step (put bs)))

/-- A load of `n` bytes at `a` that no cause of R633 stops: an uncorrectable word is a lane fault (R554); the
register blocks are read as words. -/
def State.loadFrom (s : State) (l : LaneId) (c a n : Nat) (put : List Byte → Ctx → Ctx) : IRes :=
  let L := s.lane l
  match mapKind a with
  | .sram =>
    if L.bankWaits (bankOf a) then .hold
    else
      let e := L.eccAccess a n
      if e.2 then .ok ((s.setLane l e.1).laneFault l 5)
      else .ok ((s.setLane l e.1).landed l c put (L.bytes a n))
  | .flash => .ok (s.landed l c put (Flash.read L.flash (a - 0x10000000) n))
  | .ctxFile => .ok (s.landed l c put (L.ctxFileBytes (a - 0x20000000) n))
  | .block => .ok ((s.busRead l c a).2.landed l c put (wordBytes (s.busRead l c a).1))
  | .hole => .fault 5 (some (BitVec.ofNat 32 a))

/-- A load of `n` bytes; `wordOp` tells lw and flw from the others. -/
def State.load (s : State) (l : LaneId) (c a n : Nat) (wordOp : Bool) (put : List Byte → Ctx → Ctx) : IRes :=
  match (s.lane l).dataFault c a n false wordOp with
  | some cause => .fault cause (some (BitVec.ofNat 32 a))
  | none => s.loadFrom l c a n put

/-- Issue a load: the address is formed from the context as it stands.
(Log: DEDUCED, entry 28.) -/
def State.loadIns (s : State) (l : LaneId) (c : CtxNo) (wf : Bool) (rs1 : RegNo) (off : BitVec 14) (n : Nat)
    (wordOp : Bool) (put : List Byte → Ctx → Ctx) : State :=
  s.issue l c wf false (s.load l c (((s.lane l).ctx c).ea rs1 off) n wordOp put)

/-- LB. -/
def execLb (l : LaneId) (c : CtxNo) (rt rs1 : RegNo) (off : BitVec 14) (s : State) :
    Host.Outcome State Fault Refusal :=
  .next (s.loadIns l c true rs1 off 1 false (fun bs x =>
    x.wx rt ((BitVec.ofNat 8 (bytesNat bs)).signExtend 32)))
/-- LBU. -/
def execLbu (l : LaneId) (c : CtxNo) (rt rs1 : RegNo) (off : BitVec 14) (s : State) :
    Host.Outcome State Fault Refusal :=
  .next (s.loadIns l c true rs1 off 1 false (fun bs x => x.wx rt (BitVec.ofNat 32 (bytesNat bs))))
/-- LH. -/
def execLh (l : LaneId) (c : CtxNo) (rt rs1 : RegNo) (off : BitVec 14) (s : State) :
    Host.Outcome State Fault Refusal :=
  .next (s.loadIns l c true rs1 off 2 false (fun bs x =>
    x.wx rt ((BitVec.ofNat 16 (bytesNat bs)).signExtend 32)))
/-- LHU. -/
def execLhu (l : LaneId) (c : CtxNo) (rt rs1 : RegNo) (off : BitVec 14) (s : State) :
    Host.Outcome State Fault Refusal :=
  .next (s.loadIns l c true rs1 off 2 false (fun bs x => x.wx rt (BitVec.ofNat 32 (bytesNat bs))))
/-- LW. -/
def execLw (l : LaneId) (c : CtxNo) (rt rs1 : RegNo) (off : BitVec 14) (s : State) :
    Host.Outcome State Fault Refusal :=
  .next (s.loadIns l c true rs1 off 4 true (fun bs x => x.wx rt (BitVec.ofNat 32 (bytesNat bs))))
/-- LDP: one access of 8 bytes into a pair. -/
def execLdp (l : LaneId) (c : CtxNo) (rt rs1 : RegNo) (off : BitVec 14) (s : State) :
    Host.Outcome State Fault Refusal :=
  .next (s.loadIns l c (pairOk rt) rs1 off 8 false (fun bs x =>
    x.wPair rt (loWord (bytesNat bs)) (hiWord (bytesNat bs))))
/-- FLW. -/
def execFlw (l : LaneId) (c : CtxNo) (rt rs1 : RegNo) (off : BitVec 14) (s : State) :
    Host.Outcome State Fault Refusal :=
  .next (s.loadIns l c true rs1 off 4 true (fun bs x => x.wf rt (BitVec.ofNat 32 (bytesNat bs))))
/-- VLD: element e from address + 4e. -/
def execVld (l : LaneId) (c : CtxNo) (rt rs1 : RegNo) (off : BitVec 14) (s : State) :
    Host.Outcome State Fault Refusal :=
  .next (s.loadIns l c (vOk rt) rs1 off 16 false (fun bs x => x.wv rt (BitVec.ofNat 128 (bytesNat bs))))

/-! ### Stores -/

/-- Master `m` reaches a bank of owner `own` through the port that does not serve the cores (R544). -/
def acrossPorts (own m : Nat) : Bool :=
  match own with
  | 1 => m == 6 || m == 7 || m == 12 || m == 13
  | 2 => m == 10
  | 3 => m == 8
  | 4 => m == 9
  | 5 => m == 11
  | 6 => m == 12
  | 7 => m == 13
  | _ => false

/-- The store of core `core` to `n` bytes at `a` meets another master's write in one cycle (R552): the priority
port takes the bytes both touch.
(Log: DEDUCED, entry 37.) -/
def Lane.clashWith (L : Lane) (core a n : Nat) (k : Clash) : Lane :=
  let w := k.addr.toNat / 4 * 4
  let b := bankOf w
  if w + 4 ≤ a ∨ a + n ≤ w ∨ acrossPorts (L.owner b) k.master = false then L
  else
    let coreWins := (L.owner b == 1) != L.flag (0x40040100 + 4 * b) 6
    let bytes := (List.range 4).filter (fun i => k.mask.toNat.testBit i)
    let hit := bytes.filter (fun i => decide (a ≤ w + i) && decide (w + i < a + n))
    let put := if coreWins then bytes.filter (fun i => !hit.contains i) else bytes
    let M := put.foldl (fun (M : Lane) i => M.store (w + i) [(wordBytes k.val).getD i 0]) L
    if hit.isEmpty then M else M.collide w (if coreWins then k.master else core)

/-- A store to SRAM: the words it writes only in part are met with their check bits; all its bytes land in one
bank cycle (R152, R554).
(Log: DEDUCED, entry 37.) -/
def State.storeSram (s : State) (l : LaneId) (c a : Nat) (bs : List Byte) (clash : List Clash) : IRes :=
  let L := s.lane l
  if L.bankWaits (bankOf a) then .hold
  else
    let e := if bs.length < 4 then L.eccAccess a bs.length else (L, false)
    if e.2 then .ok ((s.setLane l e.1).laneFault l 5)
    else
      let M := (e.1.modCtx c (fun x => x.step id)).store a bs
      .ok (s.setLane l (clash.foldl (fun M k => M.clashWith (L.ctx c).core a bs.length k) M))

/-- A store that no cause of R633 stops. -/
def State.storeTo (s : State) (l : LaneId) (c a : Nat) (bs : List Byte) (clash : List Clash) : IRes :=
  let t := s.modLane l (fun L => L.modCtx c (fun x => x.step id))
  match mapKind a with
  | .sram => s.storeSram l c a bs clash
  | .ctxFile => .ok (t.modLane l (fun L => L.ctxFileStore (a - 0x20000000) bs))
  | .block => .ok (t.busWrite l c a (bytesWord bs))
  | .flash | .hole => .fault 5 (some (BitVec.ofNat 32 a))

/-- Issue a store of the bytes that `get` takes from the context; `wordOp` tells sw and fsw from the others.
(Log: DEDUCED, entry 28.) -/
def State.storeIns (s : State) (l : LaneId) (c : CtxNo) (wf : Bool) (rs1 : RegNo) (off : BitVec 14) (n : Nat)
    (wordOp : Bool) (get : Ctx → Nat) (clash : List Clash) : State :=
  let x := (s.lane l).ctx c
  let a := x.ea rs1 off
  s.issue l c wf false (match (s.lane l).dataFault c a n true wordOp with
    | some cause => .fault cause (some (BitVec.ofNat 32 a))
    | none => s.storeTo l c a (natBytes (get x) n) clash)

/-- SB. -/
def execSb (l : LaneId) (c : CtxNo) (rt rs1 : RegNo) (off : BitVec 14) (clash : List Clash) (s : State) :
    Host.Outcome State Fault Refusal :=
  .next (s.storeIns l c true rs1 off 1 false (fun x => (x.rx rt).toNat) clash)
/-- SH. -/
def execSh (l : LaneId) (c : CtxNo) (rt rs1 : RegNo) (off : BitVec 14) (clash : List Clash) (s : State) :
    Host.Outcome State Fault Refusal :=
  .next (s.storeIns l c true rs1 off 2 false (fun x => (x.rx rt).toNat) clash)
/-- SW. -/
def execSw (l : LaneId) (c : CtxNo) (rt rs1 : RegNo) (off : BitVec 14) (clash : List Clash) (s : State) :
    Host.Outcome State Fault Refusal :=
  .next (s.storeIns l c true rs1 off 4 true (fun x => (x.rx rt).toNat) clash)
/-- SDP: the pair in one bank cycle. -/
def execSdp (l : LaneId) (c : CtxNo) (rt rs1 : RegNo) (off : BitVec 14) (clash : List Clash) (s : State) :
    Host.Outcome State Fault Refusal :=
  .next (s.storeIns l c (pairOk rt) rs1 off 8 false (fun x => x.rPair rt) clash)
/-- FSW. -/
def execFsw (l : LaneId) (c : CtxNo) (rt rs1 : RegNo) (off : BitVec 14) (clash : List Clash) (s : State) :
    Host.Outcome State Fault Refusal :=
  .next (s.storeIns l c true rs1 off 4 true (fun x => (x.rf rt).toNat) clash)
/-- VST: four elements in one bank cycle. -/
def execVst (l : LaneId) (c : CtxNo) (rt rs1 : RegNo) (off : BitVec 14) (clash : List Clash) (s : State) :
    Host.Outcome State Fault Refusal :=
  .next (s.storeIns l c (vOk rt) rs1 off 16 false (fun x => (x.rv rt).toNat) clash)

/-! ### Words that spell no instruction -/

/-- ILLEGAL_ENCODING (R137): the fetched word is one that no row defines.  A word that spells an instruction is
that instruction's command, not this one, and changes nothing here. -/
def execIllegalEncoding (l : LaneId) (c : CtxNo) (w : Word) (s : State) :
    Host.Outcome State Fault Refusal :=
  .next (if (decodeKfx l c w).isNone then s.issue l c false false .hold else s)

/-! ### Acceptance by an engine -/

/-- What the engine makes of a waiting command now: whether its queue is still full, and its answer.
(Log: DEDUCED, entry 35.) -/
def State.xAnswer (s : State) (l : LaneId) (c : Nat) (i : Instr) : Option (Bool × XRes) :=
  let path := (s.lane l).pathFull
  let mat := (s.lane l).matFull
  let spx := (s.lane l).spxFull
  let lpe := (s.lane l).lpeFull
  match i with
  | .edge _ _ a b => some (path, s.xEdge l c a b)
  | .pair _ _ a b d => some (path, s.xPair l c a b d)
  | .curd _ _ _ a b d => some (spx, s.xCurd l c a b d)
  | .setEdge _ _ _ a => some (spx, s.xSet l c a)
  | .drain _ _ _ a => some (spx, s.xDrain l c a)
  | .crdst _ _ _ a => some (spx, s.xCrdst l c a)
  | .lpwr _ _ a b p => some (lpe, s.xLpwr l c a b p)
  | .lprd _ _ _ a p => some (lpe, s.xLprd l c a p)
  | .lphold _ _ a b => some (lpe, s.xLphold l c a b)
  | .mmul _ _ _ a b d => some (mat, s.xMat l c 16 a b d true)
  | .mmult _ _ _ a b d => some (mat, s.xMat l c 17 a b d true)
  | .madd _ _ _ a b d => some (mat, s.xMat l c 18 a b d true)
  | .msub _ _ _ a b d => some (mat, s.xMat l c 19 a b d true)
  | .mscal _ _ _ a b d => some (mat, s.xMat l c 20 a b d false)
  | .mchol _ _ _ a b => some (mat, s.xMat l c 21 a b 0 false)
  | .msolve _ _ _ a b d => some (mat, s.xMat l c 22 a b d true)
  | _ => none

/-- A refusal at acceptance: an ENGINE fault with PC at the command (R157), which in context 0 is a lane fault
(R123).
(Log: DEDUCED, entry 35.) -/
def State.xRefuse (s : State) (l : LaneId) (c : Nat) : State :=
  if c = 0 then s.laneFault l 5
  else s.modLane l (fun L => L.ctxFault c ((L.ctx c).pc - 4) 9 none)

/-- ENGINE_COMMAND_ACCEPT (R133, R157): the engine has room for the command that the context waits with; it
takes the command as it would at issue, and the context becomes READY with rd written.
(Log: DEDUCED, entry 35.) -/
def execEngineCommandAccept (l : LaneId) (c : CtxNo) (s : State) : Host.Outcome State Fault Refusal :=
  let x := (s.lane l).ctx c
  .next (match (if (s.lane l).running && !(s.lane l).halted && x.st == .waiting then x.wait.cmd else none) with
    | none => s
    | some i =>
      match s.xAnswer l c i with
      | none => s
      | some (true, _) => s
      | some (false, none) => s.xRefuse l c
      | some (false, some (v, t)) => t.modLane l (fun L => L.finishWait c v))

end Sys2Proof.Machine
end

