-- ==== Sys2Proof/Machine/SysOps.lean ====
section
/-!
DEFINITION. System instructions (R148, R150) and the reads and writes of FLG.
-/

namespace Sys2Proof.Machine

/-- YIELD (R150): READY at once, losing ties until next dispatched (R107). -/
def execYield (l : LaneId) (c : CtxNo) (s : State) : Host.Outcome State Fault Refusal :=
  .next (s.issue l c true false (s.onLane l c (fun L =>
    (L.moveTo c .ready).modCtx c (fun x => { x with yielded := true }))))

/-- EXIT (R150): FREE, its locks ABANDONED; ILLEGAL in context 0. -/
def execExit (l : LaneId) (c : CtxNo) (s : State) : Host.Outcome State Fault Refusal :=
  .next (s.issue l c (decide (c.val ≠ 0)) false (s.onLane l c (fun L =>
    (L.moveTo c .free).dropLocks c)))

/-- HALT_INSTRUCTION (R150): HALTED with PC at the next instruction, CAUSE 0, FAULT_PEND set; ILLEGAL
in context 0. -/
def execHaltInstruction (l : LaneId) (c : CtxNo) (s : State) : Host.Outcome State Fault Refusal :=
  .next (s.issue l c (decide (c.val ≠ 0)) false (s.onLane l c (fun L =>
    let L := (L.moveTo c .halted).modCtx c (fun x => { x with cause := 0 })
    L.setBitOf 0x40030020 c true)))

/-- BRK (R150): a debug halt with the PC at the brk while the debug port is open, else BREAK. -/
def execBrk (l : LaneId) (c : CtxNo) (s : State) : Host.Outcome State Fault Refusal :=
  .next (s.issue l c true false
    (if (s.lane l).debugOpen then
      .ok (s.modLane l (fun L => { L.debugHalt with brkCtx := some c }))
    else .fault 8 none))

/-- RELINQ (R150, R565): the lane gives up control with cause 3 and the reason in rs1[7:0]; RELINQ
fault where CSTAT.RLQ is 0. -/
def execRelinq (l : LaneId) (c : CtxNo) (rs1 : RegNo) (s : State) :
    Host.Outcome State Fault Refusal :=
  let x := (s.lane l).ctx c
  .next (s.issue l c true false
    (if c.val = 0 || x.rlq then
      .ok ((s.modLane l (fun L => L.modCtx c (fun x => x.step id))).giveUp l 3
        (fieldNat (x.rx rs1) 0 8))
    else .fault 10 none))

/-- RDFLG (R148). -/
def execRdflg (l : LaneId) (c : CtxNo) (rd : RegNo) (s : State) :
    Host.Outcome State Fault Refusal :=
  .next (s.issue l c true false (s.onCtx l c (fun x => x.wx rd x.flg)))

/-- WRFLG (R148): reserved bits stay 0 (R10). -/
def execWrflg (l : LaneId) (c : CtxNo) (rs1 : RegNo) (s : State) :
    Host.Outcome State Fault Refusal :=
  .next (s.issue l c true false (s.onCtx l c (fun x => { x with flg := x.rx rs1 &&& 0xFF })))

/-- CTXC (R150): a write of rs1[10:0] to CTX.CMD; rd tells whether it was ignored.  PRIV outside
context 0. -/
def execCtxc (l : LaneId) (c : CtxNo) (rd rs1 : RegNo) (s : State) :
    Host.Outcome State Fault Refusal :=
  .next (s.issue l c true true (.ok (s.modLane l (fun L =>
    let v := (L.ctx c).rx rs1 &&& 0x7FF
    (L.modCtx c (fun x => x.step (fun y => y.wx rd (wBool (L.ctxCmdIgnored v))))).ctxCmd v))))

end Sys2Proof.Machine
end

