-- ==== Sys2Proof/Machine/Tick.lean ====
section
/-!
DEFINITION. What a step on an empty queue does: time runs on, and with it what falls due by time alone.
-/

namespace Sys2Proof.Machine

/-- At each whole millisecond fusion reads its WHEEL slots with ENCSEL 1 (R266); `was` is lane time before.
(Log: DESIGN CHOICE, entry 2.) -/
def Lane.wheelTick (was : Nat) (L : Lane) : Lane :=
  if L.running && (L.flag 0x40080000 0 || L.flag 0x40080000 1) && decide (was / 100000 < L.lt / 100000) then L.readWheels
  else L

/-- One step on an empty queue: time runs on, a lane that has cause to wakes the module (R69, R135), and in RUN fusion reads
its wheels.
(Log: DESIGN CHOICE, entries 2, 9; DEDUCED, entry 116.) -/
def State.tick (s : State) : State :=
  if s.power = 0 ∧ s.rind.trans.isNone then
    ((s.runOn).modLane .a (Lane.wheelTick s.laneA.lt)).modLane .b (Lane.wheelTick s.laneB.lt)
  else (s.runOn).wakeBy 4096

end Sys2Proof.Machine
end

