-- ==== Sys2Proof/Machine/VecOps.lean ====
section
/-!
DEFINITION. Vector instructions (R146, R147).
-/

namespace Sys2Proof.Machine

/-- Element `e` of a vector. -/
def VWord.el (v : VWord) (e : Nat) : Word := (v >>> (32 * e)).setWidth 32

/-- A vector from its four elements. -/
def VWord.mk4 (a b c d : Word) : VWord := d ++ c ++ b ++ a

/-- A vector with one element replaced. -/
def VWord.ins (v : VWord) (e : Nat) (w : Word) : VWord :=
  VWord.mk4 (if e = 0 then w else VWord.el v 0) (if e = 1 then w else VWord.el v 1)
    (if e = 2 then w else VWord.el v 2) (if e = 3 then w else VWord.el v 3)

/-- Hold an exact Q16.16 result at the nearest extreme, with SAT (R146). -/
def satQ (i : Int) : Word × Exc :=
  if i < -0x80000000 then (0x80000000, Exc.sat)
  else if 0x7FFFFFFF < i then (0x7FFFFFFF, Exc.sat)
  else (BitVec.ofInt 32 i, 0)

/-- vmul of R146. -/
def qmul (a b : Word) : Word × Exc := satQ ((a.toInt * b.toInt + 0x8000) / 2 ^ 16)
/-- vmac of R146. -/
def qmac (d a b : Word) : Word × Exc :=
  satQ ((d.toInt * 2 ^ 16 + a.toInt * b.toInt + 0x8000) / 2 ^ 16)

/-- An element-wise operation: `f` from the destination's, the first and the second element. -/
def vmap3 (f : Word → Word → Word → Word × Exc) (d a b : VWord) : VWord × Exc :=
  let r := fun e => f (VWord.el d e) (VWord.el a e) (VWord.el b e)
  (VWord.mk4 (r 0).1 (r 1).1 (r 2).1 (r 3).1, (r 0).2 ||| (r 1).2 ||| (r 2).2 ||| (r 3).2)

/-- A vector instruction whose operands are v registers. -/
def State.vop (s : State) (l : LaneId) (c : CtxNo) (rd rs1 rs2 : RegNo)
    (f : Nat → Word → Word → Word → Word × Exc) : State :=
  s.issue l c (vOk rd && vOk rs1 && vOk rs2) false (s.onCtx l c (fun x =>
    let r := vmap3 (f x.rm) (x.rv rd) (x.rv rs1) (x.rv rs2)
    (x.stick r.2).wv rd r.1))

/-- Binary32 of a Q16.16 element. -/
def qToF (rm : Nat) (a : Word) : Word × Exc := roundRat rm false ((a.toInt : Rat) / 65536)
/-- Q16.16 of a binary32 element: out of range or NaN also sets SAT. -/
def fToQ (rm : Nat) (a : Word) : Word × Exc :=
  let r := toIntSat rm (-0x80000000) 0x7FFFFFFF 65536 a
  (BitVec.ofInt 32 r.1, if r.2 &&& Exc.nv = 0 then r.2 else r.2 ||| Exc.sat)

/-- (a0 + a1) + (a2 + a3), each sum rounded.
(Log: DESIGN CHOICE, entry 33.) -/
def sum4 (rm : Nat) (a b c d : Word) : Word × Exc :=
  let p := fadd rm a b
  let q := fadd rm c d
  let r := fadd rm p.1 q.1
  (r.1, p.2 ||| q.2 ||| r.2)

/-- VADD (R147). -/
def execVadd (l : LaneId) (c : CtxNo) (rd rs1 rs2 : RegNo) (s : State) :
    Host.Outcome State Fault Refusal :=
  .next (s.vop l c rd rs1 rs2 (fun _ _ a b => satQ (a.toInt + b.toInt)))

/-- VSUB (R147). -/
def execVsub (l : LaneId) (c : CtxNo) (rd rs1 rs2 : RegNo) (s : State) :
    Host.Outcome State Fault Refusal :=
  .next (s.vop l c rd rs1 rs2 (fun _ _ a b => satQ (a.toInt - b.toInt)))

/-- VMUL (R147). -/
def execVmul (l : LaneId) (c : CtxNo) (rd rs1 rs2 : RegNo) (s : State) :
    Host.Outcome State Fault Refusal :=
  .next (s.vop l c rd rs1 rs2 (fun _ _ a b => qmul a b))

/-- VMAC (R147). -/
def execVmac (l : LaneId) (c : CtxNo) (rd rs1 rs2 : RegNo) (s : State) :
    Host.Outcome State Fault Refusal :=
  .next (s.vop l c rd rs1 rs2 (fun _ d a b => qmac d a b))

/-- VMIN (R147). -/
def execVmin (l : LaneId) (c : CtxNo) (rd rs1 rs2 : RegNo) (s : State) :
    Host.Outcome State Fault Refusal :=
  .next (s.vop l c rd rs1 rs2 (fun _ _ a b => (minS a b, 0)))

/-- VMAX (R147). -/
def execVmax (l : LaneId) (c : CtxNo) (rd rs1 rs2 : RegNo) (s : State) :
    Host.Outcome State Fault Refusal :=
  .next (s.vop l c rd rs1 rs2 (fun _ _ a b => (maxS a b, 0)))

/-- VFADD (R147). -/
def execVfadd (l : LaneId) (c : CtxNo) (rd rs1 rs2 : RegNo) (s : State) :
    Host.Outcome State Fault Refusal :=
  .next (s.vop l c rd rs1 rs2 (fun rm _ a b => fadd rm a b))

/-- VFSUB (R147). -/
def execVfsub (l : LaneId) (c : CtxNo) (rd rs1 rs2 : RegNo) (s : State) :
    Host.Outcome State Fault Refusal :=
  .next (s.vop l c rd rs1 rs2 (fun rm _ a b => fsub rm a b))

/-- VFMUL (R147). -/
def execVfmul (l : LaneId) (c : CtxNo) (rd rs1 rs2 : RegNo) (s : State) :
    Host.Outcome State Fault Refusal :=
  .next (s.vop l c rd rs1 rs2 (fun rm _ a b => fmul rm a b))

/-- VFMA (R147). -/
def execVfma (l : LaneId) (c : CtxNo) (rd rs1 rs2 : RegNo) (s : State) :
    Host.Outcome State Fault Refusal :=
  .next (s.vop l c rd rs1 rs2 (fun rm d a b => ffma rm a b d))

/-- VFMIN (R147). -/
def execVfmin (l : LaneId) (c : CtxNo) (rd rs1 rs2 : RegNo) (s : State) :
    Host.Outcome State Fault Refusal :=
  .next (s.vop l c rd rs1 rs2 (fun _ _ a b => fminmax false a b))

/-- VFMAX (R147). -/
def execVfmax (l : LaneId) (c : CtxNo) (rd rs1 rs2 : RegNo) (s : State) :
    Host.Outcome State Fault Refusal :=
  .next (s.vop l c rd rs1 rs2 (fun _ _ a b => fminmax true a b))

/-- VABS (R147). -/
def execVabs (l : LaneId) (c : CtxNo) (rd rs1 : RegNo) (s : State) :
    Host.Outcome State Fault Refusal :=
  .next (s.vop l c rd rs1 0 (fun _ _ a _ => satQ (if a.toInt < 0 then -a.toInt else a.toInt)))

/-- VNEG (R147). -/
def execVneg (l : LaneId) (c : CtxNo) (rd rs1 : RegNo) (s : State) :
    Host.Outcome State Fault Refusal :=
  .next (s.vop l c rd rs1 0 (fun _ _ a _ => satQ (-a.toInt)))

/-- VTOF (R147). -/
def execVtof (l : LaneId) (c : CtxNo) (rd rs1 : RegNo) (s : State) :
    Host.Outcome State Fault Refusal :=
  .next (s.vop l c rd rs1 0 (fun rm _ a _ => qToF rm a))

/-- VTOQ (R147). -/
def execVtoq (l : LaneId) (c : CtxNo) (rd rs1 : RegNo) (s : State) :
    Host.Outcome State Fault Refusal :=
  .next (s.vop l c rd rs1 0 (fun rm _ a _ => fToQ rm a))

/-- VSPLT (R147). -/
def execVsplt (l : LaneId) (c : CtxNo) (rd rs1 : RegNo) (s : State) :
    Host.Outcome State Fault Refusal :=
  .next (s.issue l c (vOk rd) false (s.onCtx l c (fun x =>
    let w := x.rx rs1
    x.wv rd (VWord.mk4 w w w w))))

/-- VINS (R147): e is the value of the rs2 field, 0 to 3. -/
def execVins (l : LaneId) (c : CtxNo) (rd rs1 e : RegNo) (s : State) :
    Host.Outcome State Fault Refusal :=
  .next (s.issue l c (vOk rd && decide (e.val < 4)) false (s.onCtx l c (fun x =>
    x.wv rd (VWord.ins (x.rv rd) e (x.rx rs1)))))

/-- VEXT (R147). -/
def execVext (l : LaneId) (c : CtxNo) (rd rs1 e : RegNo) (s : State) :
    Host.Outcome State Fault Refusal :=
  .next (s.issue l c (vOk rs1 && decide (e.val < 4)) false (s.onCtx l c (fun x =>
    x.wx rd (VWord.el (x.rv rs1) e))))

/-- VSUM (R147): each sum rounded. -/
def execVsum (l : LaneId) (c : CtxNo) (rd rs1 : RegNo) (s : State) :
    Host.Outcome State Fault Refusal :=
  .next (s.issue l c (vOk rs1) false (s.onCtx l c (fun x =>
    let v := x.rv rs1
    let r := sum4 x.rm (VWord.el v 0) (VWord.el v 1) (VWord.el v 2) (VWord.el v 3)
    (x.stick r.2).wf rd r.1)))

/-- VDOT (R147): products and sums each rounded. -/
def execVdot (l : LaneId) (c : CtxNo) (rd rs1 rs2 : RegNo) (s : State) :
    Host.Outcome State Fault Refusal :=
  .next (s.issue l c (vOk rs1 && vOk rs2) false (s.onCtx l c (fun x =>
    let p := fun e => fmul x.rm (VWord.el (x.rv rs1) e) (VWord.el (x.rv rs2) e)
    let r := sum4 x.rm (p 0).1 (p 1).1 (p 2).1 (p 3).1
    (x.stick (r.2 ||| (p 0).2 ||| (p 1).2 ||| (p 2).2 ||| (p 3).2)).wf rd r.1)))

end Sys2Proof.Machine
end

