-- ==== Sys2Proof/Machine/All.lean ====
section
/-!
DEFINITION. Every family of commands, for the dispatch.
-/
end

