-- ==== Sys2Proof/Machine/Dispatch.lean ====
section
/-!
DEFINITION. One arm per command of the opcode table: each calls its own meaning.
-/

namespace Sys2Proof.Machine

/-- The effect of a command on everything but the queue of waiting commands. -/
def exec (i : Instr) (s : State) : Host.Outcome State Fault Refusal :=
  match i with
  -- Registers, links and the section cycle
  | .registerWrite l addr v => Sys2Proof.Machine.execRegisterWrite l addr v s
  | .rcRead l addr => Sys2Proof.Machine.execRcRead l addr s
  | .imuSample l gx gy gz ax ay az => Sys2Proof.Machine.execImuSample l gx gy gz ax ay az s
  | .switchLinkFrame l toDie crcOk => Sys2Proof.Machine.execSwitchLinkFrame l toDie crcOk s
  | .switchLinkTrained l => Sys2Proof.Machine.execSwitchLinkTrained l s
  | .switchLinkDown l => Sys2Proof.Machine.execSwitchLinkDown l s
  | .laneLinkMirror => Sys2Proof.Machine.execLaneLinkMirror s
  | .pulseCommandExecute l => Sys2Proof.Machine.execPulseCommandExecute l s
  | .sectionEngineCycle l => Sys2Proof.Machine.execSectionEngineCycle l s
  -- Supply and power
  | .resetNAssert => Sys2Proof.Machine.execResetNAssert s
  | .resetNRelease => Sys2Proof.Machine.execResetNRelease s
  | .bankForcedOff k => Sys2Proof.Machine.execBankForcedOff k s
  | .bankRestoreStart k => Sys2Proof.Machine.execBankRestoreStart k s
  | .bankRestoreStep k => Sys2Proof.Machine.execBankRestoreStep k s
  | .vlogLoss => Sys2Proof.Machine.execVlogLoss s
  | .holdStoreEmpty => Sys2Proof.Machine.execHoldStoreEmpty s
  | .vlogPowerUp strap => Sys2Proof.Machine.execVlogPowerUp strap s
  | .laneResetRelease l mode tests => Sys2Proof.Machine.execLaneResetRelease l mode tests s
  | .bootComplete l => Sys2Proof.Machine.execBootComplete l s
  | .xt32Fail => Sys2Proof.Machine.execXt32Fail s
  | .xt32Restore => Sys2Proof.Machine.execXt32Restore s
  | .pwrTargetWrite w v => Sys2Proof.Machine.execPwrTargetWrite w v s
  | .pwrTransitionComplete => Sys2Proof.Machine.execPwrTransitionComplete s
  | .wake src => Sys2Proof.Machine.execWake src s
  | .parkBurst => Sys2Proof.Machine.execParkBurst s
  | .parkBurstEnd sats => Sys2Proof.Machine.execParkBurstEnd sats s
  | .softwareReset l c => Sys2Proof.Machine.execSoftwareReset l c s
  | .wdogKick l v => Sys2Proof.Machine.execWdogKick l v s
  | .watchdogExpiry l => Sys2Proof.Machine.execWatchdogExpiry l s
  -- Lane time
  | .timingFixAcquired gt => Sys2Proof.Machine.execTimingFixAcquired gt s
  | .holdoverEntry sigmaA sigmaB => Sys2Proof.Machine.execHoldoverEntry sigmaA sigmaB s
  | .tpSuppress l n => Sys2Proof.Machine.execTpSuppress l n s
  | .timingFixReturn gt => Sys2Proof.Machine.execTimingFixReturn gt s
  | .slewEnd l => Sys2Proof.Machine.execSlewEnd l s
  | .tpLeadingEdge l n => Sys2Proof.Machine.execTpLeadingEdge l n s
  | .peerOffsetMeasure l up => Sys2Proof.Machine.execPeerOffsetMeasure l up s
  | .xsubGo l v => Sys2Proof.Machine.execXsubGo l v s
  | .xsrcCfgWrite l n tick v => Sys2Proof.Machine.execXsrcCfgWrite l n tick v s
  | .tpCfgWrite l n v => Sys2Proof.Machine.execTpCfgWrite l n v s
  | .nowLoRead l c => Sys2Proof.Machine.execNowLoRead l c s
  | .gtLoRead l c => Sys2Proof.Machine.execGtLoRead l c s
  -- Contexts and engines
  | .start l t => Sys2Proof.Machine.execStart l t s
  | .halt l t => Sys2Proof.Machine.execHalt l t s
  | .resume l t => Sys2Proof.Machine.execResume l t s
  | .kill l t => Sys2Proof.Machine.execKill l t s
  | .ctxCmdNoEffect l v => Sys2Proof.Machine.execCtxCmdNoEffect l v s
  | .schedulerDispatch l => Sys2Proof.Machine.execSchedulerDispatch l s
  | .deadlineMiss l c => Sys2Proof.Machine.execDeadlineMiss l c s
  | .waitComplete l c => Sys2Proof.Machine.execWaitComplete l c s
  | .waitTimeout l c => Sys2Proof.Machine.execWaitTimeout l c s
  | .debugHalt l => Sys2Proof.Machine.execDebugHalt l s
  | .debugResume g => Sys2Proof.Machine.execDebugResume g s
  | .contextFileWrite l ofs v => Sys2Proof.Machine.execContextFileWrite l ofs v s
  | .engineCommandAccept l c => Sys2Proof.Machine.execEngineCommandAccept l c s
  | .matrixCommandComplete l => Sys2Proof.Machine.execMatrixCommandComplete l s
  | .illegalEncoding l c w => Sys2Proof.Machine.execIllegalEncoding l c w s
  -- Integer arithmetic
  | .add l c rd rs1 rs2 => Sys2Proof.Machine.execAdd l c rd rs1 rs2 s
  | .sub l c rd rs1 rs2 => Sys2Proof.Machine.execSub l c rd rs1 rs2 s
  | .and l c rd rs1 rs2 => Sys2Proof.Machine.execAnd l c rd rs1 rs2 s
  | .or l c rd rs1 rs2 => Sys2Proof.Machine.execOr l c rd rs1 rs2 s
  | .xor l c rd rs1 rs2 => Sys2Proof.Machine.execXor l c rd rs1 rs2 s
  | .sll l c rd rs1 rs2 => Sys2Proof.Machine.execSll l c rd rs1 rs2 s
  | .srl l c rd rs1 rs2 => Sys2Proof.Machine.execSrl l c rd rs1 rs2 s
  | .sra l c rd rs1 rs2 => Sys2Proof.Machine.execSra l c rd rs1 rs2 s
  | .slt l c rd rs1 rs2 => Sys2Proof.Machine.execSlt l c rd rs1 rs2 s
  | .sltu l c rd rs1 rs2 => Sys2Proof.Machine.execSltu l c rd rs1 rs2 s
  | .min l c rd rs1 rs2 => Sys2Proof.Machine.execMin l c rd rs1 rs2 s
  | .max l c rd rs1 rs2 => Sys2Proof.Machine.execMax l c rd rs1 rs2 s
  | .minu l c rd rs1 rs2 => Sys2Proof.Machine.execMinu l c rd rs1 rs2 s
  | .maxu l c rd rs1 rs2 => Sys2Proof.Machine.execMaxu l c rd rs1 rs2 s
  | .clz l c rd rs1 => Sys2Proof.Machine.execClz l c rd rs1 s
  | .mul l c rd rs1 rs2 => Sys2Proof.Machine.execMul l c rd rs1 rs2 s
  | .mulh l c rd rs1 rs2 => Sys2Proof.Machine.execMulh l c rd rs1 rs2 s
  | .mulhu l c rd rs1 rs2 => Sys2Proof.Machine.execMulhu l c rd rs1 rs2 s
  | .div l c rd rs1 rs2 => Sys2Proof.Machine.execDiv l c rd rs1 rs2 s
  | .divu l c rd rs1 rs2 => Sys2Proof.Machine.execDivu l c rd rs1 rs2 s
  | .rem l c rd rs1 rs2 => Sys2Proof.Machine.execRem l c rd rs1 rs2 s
  | .remu l c rd rs1 rs2 => Sys2Proof.Machine.execRemu l c rd rs1 rs2 s
  -- Float
  | .fadd l c rd rs1 rs2 => Sys2Proof.Machine.execFadd l c rd rs1 rs2 s
  | .fsub l c rd rs1 rs2 => Sys2Proof.Machine.execFsub l c rd rs1 rs2 s
  | .fmul l c rd rs1 rs2 => Sys2Proof.Machine.execFmul l c rd rs1 rs2 s
  | .fdiv l c rd rs1 rs2 => Sys2Proof.Machine.execFdiv l c rd rs1 rs2 s
  | .fsqrt l c rd rs1 => Sys2Proof.Machine.execFsqrt l c rd rs1 s
  | .fmin l c rd rs1 rs2 => Sys2Proof.Machine.execFmin l c rd rs1 rs2 s
  | .fmax l c rd rs1 rs2 => Sys2Proof.Machine.execFmax l c rd rs1 rs2 s
  | .fneg l c rd rs1 => Sys2Proof.Machine.execFneg l c rd rs1 s
  | .fabs l c rd rs1 => Sys2Proof.Machine.execFabs l c rd rs1 s
  | .fma l c rd rs1 rs2 rs3 => Sys2Proof.Machine.execFma l c rd rs1 rs2 rs3 s
  | .fms l c rd rs1 rs2 rs3 => Sys2Proof.Machine.execFms l c rd rs1 rs2 rs3 s
  | .fnma l c rd rs1 rs2 rs3 => Sys2Proof.Machine.execFnma l c rd rs1 rs2 rs3 s
  | .fnms l c rd rs1 rs2 rs3 => Sys2Proof.Machine.execFnms l c rd rs1 rs2 rs3 s
  | .feq l c rd rs1 rs2 => Sys2Proof.Machine.execFeq l c rd rs1 rs2 s
  | .flt l c rd rs1 rs2 => Sys2Proof.Machine.execFlt l c rd rs1 rs2 s
  | .fle l c rd rs1 rs2 => Sys2Proof.Machine.execFle l c rd rs1 rs2 s
  | .ftoi l c rd rs1 => Sys2Proof.Machine.execFtoi l c rd rs1 s
  | .ftou l c rd rs1 => Sys2Proof.Machine.execFtou l c rd rs1 s
  | .itof l c rd rs1 => Sys2Proof.Machine.execItof l c rd rs1 s
  | .utof l c rd rs1 => Sys2Proof.Machine.execUtof l c rd rs1 s
  | .fmvx l c rd rs1 => Sys2Proof.Machine.execFmvx l c rd rs1 s
  | .fmvf l c rd rs1 => Sys2Proof.Machine.execFmvf l c rd rs1 s
  -- Vector
  | .vadd l c rd rs1 rs2 => Sys2Proof.Machine.execVadd l c rd rs1 rs2 s
  | .vsub l c rd rs1 rs2 => Sys2Proof.Machine.execVsub l c rd rs1 rs2 s
  | .vmul l c rd rs1 rs2 => Sys2Proof.Machine.execVmul l c rd rs1 rs2 s
  | .vmac l c rd rs1 rs2 => Sys2Proof.Machine.execVmac l c rd rs1 rs2 s
  | .vmin l c rd rs1 rs2 => Sys2Proof.Machine.execVmin l c rd rs1 rs2 s
  | .vmax l c rd rs1 rs2 => Sys2Proof.Machine.execVmax l c rd rs1 rs2 s
  | .vabs l c rd rs1 => Sys2Proof.Machine.execVabs l c rd rs1 s
  | .vneg l c rd rs1 => Sys2Proof.Machine.execVneg l c rd rs1 s
  | .vfadd l c rd rs1 rs2 => Sys2Proof.Machine.execVfadd l c rd rs1 rs2 s
  | .vfsub l c rd rs1 rs2 => Sys2Proof.Machine.execVfsub l c rd rs1 rs2 s
  | .vfmul l c rd rs1 rs2 => Sys2Proof.Machine.execVfmul l c rd rs1 rs2 s
  | .vfma l c rd rs1 rs2 => Sys2Proof.Machine.execVfma l c rd rs1 rs2 s
  | .vfmin l c rd rs1 rs2 => Sys2Proof.Machine.execVfmin l c rd rs1 rs2 s
  | .vfmax l c rd rs1 rs2 => Sys2Proof.Machine.execVfmax l c rd rs1 rs2 s
  | .vsplt l c rd rs1 => Sys2Proof.Machine.execVsplt l c rd rs1 s
  | .vins l c rd rs1 e => Sys2Proof.Machine.execVins l c rd rs1 e s
  | .vext l c rd rs1 e => Sys2Proof.Machine.execVext l c rd rs1 e s
  | .vsum l c rd rs1 => Sys2Proof.Machine.execVsum l c rd rs1 s
  | .vdot l c rd rs1 rs2 => Sys2Proof.Machine.execVdot l c rd rs1 rs2 s
  | .vtof l c rd rs1 => Sys2Proof.Machine.execVtof l c rd rs1 s
  | .vtoq l c rd rs1 => Sys2Proof.Machine.execVtoq l c rd rs1 s
  -- Immediate and system
  | .addi l c rd rs1 imm => Sys2Proof.Machine.execAddi l c rd rs1 imm s
  | .andi l c rd rs1 imm => Sys2Proof.Machine.execAndi l c rd rs1 imm s
  | .ori l c rd rs1 imm => Sys2Proof.Machine.execOri l c rd rs1 imm s
  | .xori l c rd rs1 imm => Sys2Proof.Machine.execXori l c rd rs1 imm s
  | .slli l c rd rs1 imm => Sys2Proof.Machine.execSlli l c rd rs1 imm s
  | .srli l c rd rs1 imm => Sys2Proof.Machine.execSrli l c rd rs1 imm s
  | .srai l c rd rs1 imm => Sys2Proof.Machine.execSrai l c rd rs1 imm s
  | .slti l c rd rs1 imm => Sys2Proof.Machine.execSlti l c rd rs1 imm s
  | .sltiu l c rd rs1 imm => Sys2Proof.Machine.execSltiu l c rd rs1 imm s
  | .lhi l c rd imm => Sys2Proof.Machine.execLhi l c rd imm s
  | .jlr l c rd rs1 imm => Sys2Proof.Machine.execJlr l c rd rs1 imm s
  | .yield l c => Sys2Proof.Machine.execYield l c s
  | .exit l c => Sys2Proof.Machine.execExit l c s
  | .haltInstruction l c => Sys2Proof.Machine.execHaltInstruction l c s
  | .brk l c => Sys2Proof.Machine.execBrk l c s
  | .relinq l c rs1 => Sys2Proof.Machine.execRelinq l c rs1 s
  | .rdflg l c rd => Sys2Proof.Machine.execRdflg l c rd s
  | .wrflg l c rs1 => Sys2Proof.Machine.execWrflg l c rs1 s
  | .ctxc l c rd rs1 => Sys2Proof.Machine.execCtxc l c rd rs1 s
  -- Memory
  | .lb l c rt rs1 off => Sys2Proof.Machine.execLb l c rt rs1 off s
  | .lbu l c rt rs1 off => Sys2Proof.Machine.execLbu l c rt rs1 off s
  | .lh l c rt rs1 off => Sys2Proof.Machine.execLh l c rt rs1 off s
  | .lhu l c rt rs1 off => Sys2Proof.Machine.execLhu l c rt rs1 off s
  | .lw l c rt rs1 off => Sys2Proof.Machine.execLw l c rt rs1 off s
  | .ldp l c rt rs1 off => Sys2Proof.Machine.execLdp l c rt rs1 off s
  | .flw l c rt rs1 off => Sys2Proof.Machine.execFlw l c rt rs1 off s
  | .vld l c rt rs1 off => Sys2Proof.Machine.execVld l c rt rs1 off s
  | .sb l c rt rs1 off clash => Sys2Proof.Machine.execSb l c rt rs1 off clash s
  | .sh l c rt rs1 off clash => Sys2Proof.Machine.execSh l c rt rs1 off clash s
  | .sw l c rt rs1 off clash => Sys2Proof.Machine.execSw l c rt rs1 off clash s
  | .sdp l c rt rs1 off clash => Sys2Proof.Machine.execSdp l c rt rs1 off clash s
  | .fsw l c rt rs1 off clash => Sys2Proof.Machine.execFsw l c rt rs1 off clash s
  | .vst l c rt rs1 off clash => Sys2Proof.Machine.execVst l c rt rs1 off clash s
  -- Branches
  | .beq l c rs1 rs2 off => Sys2Proof.Machine.execBeq l c rs1 rs2 off s
  | .bne l c rs1 rs2 off => Sys2Proof.Machine.execBne l c rs1 rs2 off s
  | .blt l c rs1 rs2 off => Sys2Proof.Machine.execBlt l c rs1 rs2 off s
  | .bge l c rs1 rs2 off => Sys2Proof.Machine.execBge l c rs1 rs2 off s
  | .bltu l c rs1 rs2 off => Sys2Proof.Machine.execBltu l c rs1 rs2 off s
  | .bgeu l c rs1 rs2 off => Sys2Proof.Machine.execBgeu l c rs1 rs2 off s
  | .jal l c rd off => Sys2Proof.Machine.execJal l c rd off s
  -- Time, events, queues and locks
  | .ltrd l c rd rs1 => Sys2Proof.Machine.execLtrd l c rd rs1 s
  | .wtlt l c rd rs1 => Sys2Proof.Machine.execWtlt l c rd rs1 s
  | .wtev l c rd tm rs2 n => Sys2Proof.Machine.execWtev l c rd tm rs2 n s
  | .evpost l c n => Sys2Proof.Machine.execEvpost l c n s
  | .qput l c rd rs1 tm rs2 n => Sys2Proof.Machine.execQput l c rd rs1 tm rs2 n s
  | .qget l c rd rs1 tm rs2 n => Sys2Proof.Machine.execQget l c rd rs1 tm rs2 n s
  | .lkacq l c rd tm rs2 n => Sys2Proof.Machine.execLkacq l c rd tm rs2 n s
  | .lkrel l c n => Sys2Proof.Machine.execLkrel l c n s
  | .wtflt l c rd tm rs2 => Sys2Proof.Machine.execWtflt l c rd tm rs2 s
  -- Engine commands
  | .edge l c rs1 rs2 => Sys2Proof.Machine.execEdge l c rs1 rs2 s
  | .pair l c rs1 rs2 rs3 => Sys2Proof.Machine.execPair l c rs1 rs2 rs3 s
  | .curd l c rd rs1 rs2 rs3 => Sys2Proof.Machine.execCurd l c rd rs1 rs2 rs3 s
  | .setEdge l c rd rs1 => Sys2Proof.Machine.execSetEdge l c rd rs1 s
  | .drain l c rd rs1 => Sys2Proof.Machine.execDrain l c rd rs1 s
  | .crdst l c rd rs1 => Sys2Proof.Machine.execCrdst l c rd rs1 s
  | .lpwr l c rs1 rs2 p => Sys2Proof.Machine.execLpwr l c rs1 rs2 p s
  | .lprd l c rd rs1 p => Sys2Proof.Machine.execLprd l c rd rs1 p s
  | .lphold l c rs1 rs2 => Sys2Proof.Machine.execLphold l c rs1 rs2 s
  | .mmul l c rd rs1 rs2 rs3 => Sys2Proof.Machine.execMmul l c rd rs1 rs2 rs3 s
  | .mmult l c rd rs1 rs2 rs3 => Sys2Proof.Machine.execMmult l c rd rs1 rs2 rs3 s
  | .madd l c rd rs1 rs2 rs3 => Sys2Proof.Machine.execMadd l c rd rs1 rs2 rs3 s
  | .msub l c rd rs1 rs2 rs3 => Sys2Proof.Machine.execMsub l c rd rs1 rs2 rs3 s
  | .mscal l c rd rs1 rs2 rs3 => Sys2Proof.Machine.execMscal l c rd rs1 rs2 rs3 s
  | .mchol l c rd rs1 rs2 => Sys2Proof.Machine.execMchol l c rd rs1 rs2 s
  | .msolve l c rd rs1 rs2 rs3 => Sys2Proof.Machine.execMsolve l c rd rs1 rs2 rs3 s
  | .mwait l c rd rs1 => Sys2Proof.Machine.execMwait l c rd rs1 s
  -- Curd edges and the ledger
  | .curdFire l e => Sys2Proof.Machine.execCurdFire l e s
  | .confirmDeadline l e => Sys2Proof.Machine.execConfirmDeadline l e s
  | .cancelArrival l h => Sys2Proof.Machine.execCancelArrival l h s
  | .drainLateCancel l h => Sys2Proof.Machine.execDrainLateCancel l h s
  | .ledgerBlockSeal l => Sys2Proof.Machine.execLedgerBlockSeal l s
  -- Section engine
  | .secLoad l v => Sys2Proof.Machine.execSecLoad l v s
  | .binSubGo l v => Sys2Proof.Machine.execBinSubGo l v s
  | .boomInputStale l n => Sys2Proof.Machine.execBoomInputStale l n s
  | .pageEnable l => Sys2Proof.Machine.execPageEnable l s
  | .pageTimeout l k => Sys2Proof.Machine.execPageTimeout l k s
  | .rxActivate l v => Sys2Proof.Machine.execRxActivate l v s
  | .rxDeactivate l v => Sys2Proof.Machine.execRxDeactivate l v s
  | .rxVerifyComplete l layer => Sys2Proof.Machine.execRxVerifyComplete l layer s
  | .fieldWrite l v => Sys2Proof.Machine.execFieldWrite l v s
  -- Learning and metering
  | .signatureWindowEnd n i0 xs => Sys2Proof.Machine.execSignatureWindowEnd n i0 xs s
  | .prsSubGo l v => Sys2Proof.Machine.execPrsSubGo l v s
  | .pressureStale l => Sys2Proof.Machine.execPressureStale l s
  | .meterLoad l v => Sys2Proof.Machine.execMeterLoad l v s
  | .flowToleranceExpiry l sect => Sys2Proof.Machine.execFlowToleranceExpiry l sect s
  | .meterToleranceExpiry l m => Sys2Proof.Machine.execMeterToleranceExpiry l m s
  -- Fusion
  | .orgGo l v => Sys2Proof.Machine.execOrgGo l v s
  | .fusionSubmit l v => Sys2Proof.Machine.execFusionSubmit l v s
  | .fusionSourceStale l n => Sys2Proof.Machine.execFusionSourceStale l n s
  | .fusionNcCycle l => Sys2Proof.Machine.execFusionNcCycle l s
  | .fusionPcCycle l => Sys2Proof.Machine.execFusionPcCycle l s
  -- Tracks and calibration
  | .trackUpdate l => Sys2Proof.Machine.execTrackUpdate l s
  | .trackClear l v => Sys2Proof.Machine.execTrackClear l v s
  | .calLoad l v => Sys2Proof.Machine.execCalLoad l v s
  | .calSnap l v => Sys2Proof.Machine.execCalSnap l v s
  -- GNSS
  | .gnssStart l v => Sys2Proof.Machine.execGnssStart l v s
  | .gnssEpoch l e => Sys2Proof.Machine.execGnssEpoch l e s
  | .antennaShort a => Sys2Proof.Machine.execAntennaShort a s
  | .antennaBiasRetry a gone => Sys2Proof.Machine.execAntennaBiasRetry a gone s
  | .antennaOpen a ma => Sys2Proof.Machine.execAntennaOpen a ma s
  | .jamMeasure l a b excess => Sys2Proof.Machine.execJamMeasure l a b excess s
  | .notchWrite l m v => Sys2Proof.Machine.execNotchWrite l m v s
  | .corrPData l v => Sys2Proof.Machine.execCorrPData l v s
  | .corrPGo l v => Sys2Proof.Machine.execCorrPGo l v s
  | .correctionFrame l => Sys2Proof.Machine.execCorrectionFrame l s
  | .stnReset l v => Sys2Proof.Machine.execStnReset l v s
  | .aidClr l v => Sys2Proof.Machine.execAidClr l v s
  -- Line keeping
  | .lkpCycle l => Sys2Proof.Machine.execLkpCycle l s
  | .lkpSolveLate l => Sys2Proof.Machine.execLkpSolveLate l s
  | .lkpModeRequest l v => Sys2Proof.Machine.execLkpModeRequest l v s
  | .stopReq l v => Sys2Proof.Machine.execStopReq l v s
  | .stopClr l v => Sys2Proof.Machine.execStopClr l v s
  | .impSubGo l v => Sys2Proof.Machine.execImpSubGo l v s
  | .impStale l => Sys2Proof.Machine.execImpStale l s
  | .drTimeout l => Sys2Proof.Machine.execDrTimeout l s
  -- Loop engine
  | .loopBoundary l k sense => Sys2Proof.Machine.execLoopBoundary l k sense s
  | .loopEvaluation l k => Sys2Proof.Machine.execLoopEvaluation l k s
  | .loopOverrun l k => Sys2Proof.Machine.execLoopOverrun l k s
  | .loopMirror => Sys2Proof.Machine.execLoopMirror s
  -- Pulse units
  | .pulseRegisterApply l => Sys2Proof.Machine.execPulseRegisterApply l s
  | .channelPeriodStart n => Sys2Proof.Machine.execChannelPeriodStart n s
  | .channelDutyEnd n => Sys2Proof.Machine.execChannelDutyEnd n s
  | .bridgePeriodStart n => Sys2Proof.Machine.execBridgePeriodStart n s
  | .bridgeMidPeriod n => Sys2Proof.Machine.execBridgeMidPeriod n s
  | .bridgeDutyEnd n => Sys2Proof.Machine.execBridgeDutyEnd n s
  | .deadTimeExpiry n => Sys2Proof.Machine.execDeadTimeExpiry n s
  | .commit l u => Sys2Proof.Machine.execCommit l u s
  | .forceWrite l u v => Sys2Proof.Machine.execForceWrite l u v s
  | .trip u src => Sys2Proof.Machine.execTrip u src s
  | .tclr l u active => Sys2Proof.Machine.execTclr l u active s
  | .shutdownComplete u => Sys2Proof.Machine.execShutdownComplete u s
  | .unitFreeze l => Sys2Proof.Machine.execUnitFreeze l s
  | .unitRelease l => Sys2Proof.Machine.execUnitRelease l s
  -- Load switches
  | .turnOn n => Sys2Proof.Machine.execTurnOn n s
  | .turnOff n => Sys2Proof.Machine.execTurnOff n s
  | .inrushWindowEnd n => Sys2Proof.Machine.execInrushWindowEnd n s
  | .fastCut n => Sys2Proof.Machine.execFastCut n s
  | .heatUpdate n cur vout => Sys2Proof.Machine.execHeatUpdate n cur vout s
  | .energyCut n => Sys2Proof.Machine.execEnergyCut n s
  | .retry n => Sys2Proof.Machine.execRetry n s
  | .backoffReset n => Sys2Proof.Machine.execBackoffReset n s
  | .cutsAgeOut n => Sys2Proof.Machine.execCutsAgeOut n s
  | .reAgeOut n => Sys2Proof.Machine.execReAgeOut n s
  | .lclr l n => Sys2Proof.Machine.execLclr l n s
  | .thermalClear l n => Sys2Proof.Machine.execThermalClear l n s
  | .thermalSample n tj caseT => Sys2Proof.Machine.execThermalSample n tj caseT s
  | .bankBudgetSample k => Sys2Proof.Machine.execBankBudgetSample k s
  | .deferredTurnOnStep k => Sys2Proof.Machine.execDeferredTurnOnStep k s
  | .currentSenseSample n cur => Sys2Proof.Machine.execCurrentSenseSample n cur s
  -- DIRECT and feedback inputs
  | .directRequest l j on => Sys2Proof.Machine.execDirectRequest l j on s
  | .directApply j agree => Sys2Proof.Machine.execDirectApply j agree s
  | .dirinChange j level => Sys2Proof.Machine.execDirinChange j level s
  | .encoderEvent l n a b stamp => Sys2Proof.Machine.execEncoderEvent l n a b stamp s
  | .encoderIndex l n z stamp => Sys2Proof.Machine.execEncoderIndex l n z stamp s
  | .rateTimeout l n => Sys2Proof.Machine.execRateTimeout l n s
  | .countWrite l n v => Sys2Proof.Machine.execCountWrite l n v s
  | .rateRead l c n => Sys2Proof.Machine.execRateRead l c n s
  | .zcapRead l c n => Sys2Proof.Machine.execZcapRead l c n s
  | .absFrameStart p => Sys2Proof.Machine.execAbsFrameStart p s
  | .absFrameEnd p started low data err warn crc stamp => Sys2Proof.Machine.execAbsFrameEnd p started low data err warn crc stamp s
  -- CAN
  | .canModeRequest l c v => Sys2Proof.Machine.execCanModeRequest l c v s
  | .canTxenChange b => Sys2Proof.Machine.execCanTxenChange b s
  | .canFrameRx l c f => Sys2Proof.Machine.execCanFrameRx l c f s
  | .canConfigWrite l c which v => Sys2Proof.Machine.execCanConfigWrite l c which v s
  | .txuReq l c v => Sys2Proof.Machine.execTxuReq l c v s
  | .txrWr l c v => Sys2Proof.Machine.execTxrWr l c v s
  | .txuAbort l c v => Sys2Proof.Machine.execTxuAbort l c v s
  | .flush l c v => Sys2Proof.Machine.execFlush l c v s
  | .canTxComplete l c src sent att ts => Sys2Proof.Machine.execCanTxComplete l c src sent att ts s
  | .busOffRecovery l c => Sys2Proof.Machine.execBusOffRecovery l c s
  | .canDominantTimeout l c bus => Sys2Proof.Machine.execCanDominantTimeout l c bus s
  | .canDetectDwell l c => Sys2Proof.Machine.execCanDetectDwell l c s
  | .canDetectTimeout l c => Sys2Proof.Machine.execCanDetectTimeout l c s
  | .canWakeDominant b => Sys2Proof.Machine.execCanWakeDominant b s
  | .canWakeFrame b ok f dlc => Sys2Proof.Machine.execCanWakeFrame b ok f dlc s
  -- Ethernet
  | .ethLinkChange l n up sqi => Sys2Proof.Machine.execEthLinkChange l n up sqi s
  | .ethFrameRx l n f => Sys2Proof.Machine.execEthFrameRx l n f s
  | .txKick l n v => Sys2Proof.Machine.execTxKick l n v s
  | .ethTxComplete l n ts => Sys2Proof.Machine.execEthTxComplete l n ts s
  -- Host port
  | .statusFrame l => Sys2Proof.Machine.execStatusFrame l s
  | .fetch l complete => Sys2Proof.Machine.execFetch l complete s
  | .sessInit l f => Sys2Proof.Machine.execSessInit l f s
  | .sessFin l f => Sys2Proof.Machine.execSessFin l f s
  | .evRead l stamp f => Sys2Proof.Machine.execEvRead l stamp f s
  | .ownRead l f => Sys2Proof.Machine.execOwnRead l f s
  | .visRead l f => Sys2Proof.Machine.execVisRead l f s
  | .msgWrite l f => Sys2Proof.Machine.execMsgWrite l f s
  | .msgRead l f => Sys2Proof.Machine.execMsgRead l f s
  | .corrFrame l f => Sys2Proof.Machine.execCorrFrame l f s
  | .tileTake l f => Sys2Proof.Machine.execTileTake l f s
  | .tileReq l f => Sys2Proof.Machine.execTileReq l f s
  | .tileAns l f => Sys2Proof.Machine.execTileAns l f s
  | .ldgRead l f => Sys2Proof.Machine.execLdgRead l f s
  | .updBegin l f vlog vbat => Sys2Proof.Machine.execUpdBegin l f vlog vbat s
  | .updData l f vlog vbat => Sys2Proof.Machine.execUpdData l f vlog vbat s
  | .updEnd l f => Sys2Proof.Machine.execUpdEnd l f s
  | .updQuery l f => Sys2Proof.Machine.execUpdQuery l f s
  | .loaderRestart l => Sys2Proof.Machine.execLoaderRestart l s
  | .responseReady l => Sys2Proof.Machine.execResponseReady l s
  | .attentionPulse l => Sys2Proof.Machine.execAttentionPulse l s
  | .attentionPulseEnd l => Sys2Proof.Machine.execAttentionPulseEnd l s
  | .sessionTimeout l n => Sys2Proof.Machine.execSessionTimeout l n s
  -- Management port and ownership
  | .mgmtWrite addr data => Sys2Proof.Machine.execMgmtWrite addr data s
  | .mgmtRead addr n => Sys2Proof.Machine.execMgmtRead addr n s
  | .mgGo => Sys2Proof.Machine.execMgGo s
  | .mgLockExpiry => Sys2Proof.Machine.execMgLockExpiry s
  | .ownershipViewAdopt l => Sys2Proof.Machine.execOwnershipViewAdopt l s
  | .ownershipDisagree l => Sys2Proof.Machine.execOwnershipDisagree l s
  -- SRAM banks
  | .bankOwnerWrite l c k own => Sys2Proof.Machine.execBankOwnerWrite l c k own s
  | .handoverComplete l k => Sys2Proof.Machine.execHandoverComplete l k s
  | .bankPowerWrite l c k p => Sys2Proof.Machine.execBankPowerWrite l c k p s
  | .fillComplete l k => Sys2Proof.Machine.execFillComplete l k s
  | .scrub l a err => Sys2Proof.Machine.execScrub l a err s
  -- Lanes and redundancy
  | .heartbeat l => Sys2Proof.Machine.execHeartbeat l s
  | .heartbeatMissed l => Sys2Proof.Machine.execHeartbeatMissed l s
  | .arbiterProposal agree => Sys2Proof.Machine.execArbiterProposal agree s
  | .arbiterDisagreement => Sys2Proof.Machine.execArbiterDisagreement s
  | .noneTimeout => Sys2Proof.Machine.execNoneTimeout s
  | .homeReadyTimeout => Sys2Proof.Machine.execHomeReadyTimeout s
  | .plannedHandover => Sys2Proof.Machine.execPlannedHandover s
  | .proofRequest l => Sys2Proof.Machine.execProofRequest l s
  | .proofSwapEnd confirmed => Sys2Proof.Machine.execProofSwapEnd confirmed s
  | .proofAgeHour => Sys2Proof.Machine.execProofAgeHour s
  -- Security and configuration
  | .enrGo l v => Sys2Proof.Machine.execEnrGo l v s
  | .enrolmentComplete l ok => Sys2Proof.Machine.execEnrolmentComplete l ok s
  | .commitImageFloor l => Sys2Proof.Machine.execCommitImageFloor l s
  | .cfgFloorWrite l v => Sys2Proof.Machine.execCfgFloorWrite l v s
  | .dbgChalRead l => Sys2Proof.Machine.execDbgChalRead l s
  | .debugResponse l pub sig => Sys2Proof.Machine.execDebugResponse l pub sig s
  | .debugLockExpiry l => Sys2Proof.Machine.execDebugLockExpiry l s
  | .cfgWr l => Sys2Proof.Machine.execCfgWr l s
  | .cfgWriteComplete l ok => Sys2Proof.Machine.execCfgWriteComplete l ok s
  | .pdWr l => Sys2Proof.Machine.execPdWr l s
  | .pdWriteComplete l => Sys2Proof.Machine.execPdWriteComplete l s
  -- Later rows
  | .laneLinkDown => Sys2Proof.Machine.execLaneLinkDown s
  | .laneLinkUp => Sys2Proof.Machine.execLaneLinkUp s
  | .laneMonitorFire l => Sys2Proof.Machine.execLaneMonitorFire l s
  | .canBusError l c tec rec_ brs => Sys2Proof.Machine.execCanBusError l c tec rec_ brs s
  | .dominantFaultClear l c => Sys2Proof.Machine.execDominantFaultClear l c s
  | .tpTrailingEdge l n => Sys2Proof.Machine.execTpTrailingEdge l n s
  | .bootstrapRefreshEnd n => Sys2Proof.Machine.execBootstrapRefreshEnd n s
  | .compensationSlot l => Sys2Proof.Machine.execCompensationSlot l s
  | .unknownOpcode l op f => Sys2Proof.Machine.execUnknownOpcode l op f s

end Sys2Proof.Machine
end

