-- ==== Sys2Proof/WellFormed.lean ====
section
/-!
DEFINITION. Well-formed commands: what the types of the operands do not already say of an instruction's fields
(R137, R138, R148, R154).
-/

namespace Sys2Proof

open Sys2Proof.Machine

/-- The fields of an instruction are ones that its row allows; a command that is no instruction has no field
beyond its types. -/
def Instr.wf (i : Instr) : Bool :=
  match i with
  | .vadd _ _ rd a b | .vsub _ _ rd a b | .vmul _ _ rd a b | .vmac _ _ rd a b | .vmin _ _ rd a b
  | .vmax _ _ rd a b | .vfadd _ _ rd a b | .vfsub _ _ rd a b | .vfmul _ _ rd a b | .vfma _ _ rd a b
  | .vfmin _ _ rd a b | .vfmax _ _ rd a b => vOk rd && vOk a && vOk b
  | .vabs _ _ rd a | .vneg _ _ rd a | .vtof _ _ rd a | .vtoq _ _ rd a => vOk rd && vOk a
  | .vsplt _ _ rd _ => vOk rd
  | .vins _ _ rd _ e => vOk rd && decide (e.val < 4)
  | .vext _ _ _ a e => vOk a && decide (e.val < 4)
  | .vsum _ _ _ a => vOk a
  | .vdot _ _ _ a b => vOk a && vOk b
  | .slli _ _ _ _ imm | .srli _ _ _ _ imm | .srai _ _ _ _ imm => shOk imm
  | .ldp _ _ rt _ _ | .sdp _ _ rt _ _ _ => pairOk rt
  | .vld _ _ rt _ _ | .vst _ _ rt _ _ _ => vOk rt
  | .wtlt _ _ _ a => pairOk a
  | .wtev _ _ _ tm b n => tmOk tm b && decide (n.toNat < 160)
  | .evpost _ _ n | .lkrel _ _ n => decide (n.toNat < 64)
  | .qput _ _ _ _ tm b n | .qget _ _ _ _ tm b n => tmOk tm b && decide (n.toNat < 32)
  | .lkacq _ _ _ tm b n => tmOk tm b && decide (n.toNat < 64)
  | .wtflt _ _ _ tm b => tmOk tm b
  | .edge _ _ _ b | .curd _ _ _ _ b _ => pairOk b
  | _ => true

end Sys2Proof
end

