-- ==== Sys2Proof/Safety.lean ====
section
/-!
DEFINITION. What claims say of a step: that it answers a next state, when an instruction can issue, what has not
changed, and the shapes of an instruction's result.
-/

namespace Sys2Proof.Machine

/-- A step answers a next state. -/
def Goes (o : Host.Outcome State Fault Refusal) : Prop := ∃ t, o = .next t

/-- `n` steps from `s` reach a state. -/
def runFor (n : Nat) (s : State) : Option State :=
  match n with
  | 0 => some s
  | k + 1 =>
    match step s with
    | .next t => runFor k t
    | .fault _ => none
    | .refused _ => none

/-- A context of a lane, and a register of it. -/
def State.ctxOf (s : State) (l : LaneId) (c : Nat) : Ctx := (s.lane l).ctx c
/-- A register of a lane, as the hardware holds it. -/
def State.reg (s : State) (l : LaneId) (a : Nat) : Word := (s.lane l).rd a
/-- A byte of a lane's SRAM. -/
def State.byte (s : State) (l : LaneId) (a : Nat) : Byte := Memory.get (s.lane l).sram a

/-- An instruction of context `c` can execute: the lane runs in RUN and is not in debug halt, the context is
RUNNING (R103, R125, R135), and the fetch of its word neither faults nor waits (R120 to R122, R140). -/
def Ready (s : State) (l : LaneId) (c : CtxNo) : Prop :=
  s.canIssue l c = true ∧ (s.lane l).fetchFault c (s.ctxOf l c).pc.toNat = none ∧
    (s.lane l).fetchWaits c = false

/-- Context `c` may load (`bit` 0) or store (`bit` 1) `n` bytes at `a` in SRAM, and nothing delays the access: it is
aligned (R118), granted (R120), in a bank that the cores reach and that serves (R545, R548, R551), and no word of
the lane holds a bit error (R554). -/
def SramAccess (s : State) (l : LaneId) (c : CtxNo) (bit a n : Nat) : Prop :=
  a < 0x600000 ∧ a % n = 0 ∧ (s.ctxOf l c).granted c bit a = true ∧
    (s.lane l).coreReaches (bankOf a) = true ∧ (s.lane l).bankWaits (bankOf a) = false ∧
    ∀ w, Tab.get (s.lane l).ecc 0 w = 0

/-- The word at `a` in a lane's SRAM, least significant byte first (R15). -/
def State.word32 (s : State) (l : LaneId) (a : Nat) : Word :=
  s.byte l (a + 3) ++ s.byte l (a + 2) ++ s.byte l (a + 1) ++ s.byte l a

/-- What `GivesX` says of a context's x registers alone: `rd` holds `v` and the others stay. -/
def WroteX (l : LaneId) (c : CtxNo) (rd : RegNo) (v : Word) (s t : State) : Prop :=
  (t.ctxOf l c).pc = (s.ctxOf l c).pc + 4 ∧
    ∀ r, (t.ctxOf l c).rx r = if r = rd ∧ r ≠ 0 then v else (s.ctxOf l c).rx r

/-! ### What has not changed -/

/-- Nothing outside lane `l`. -/
def OnlyLane (l : LaneId) (s t : State) : Prop :=
  t.lane (other l) = s.lane (other l) ∧ t.die = s.die ∧ t.rind = s.rind ∧ t.laneLink = s.laneLink ∧
    t.absClk = s.absClk ∧ t.ant = s.ant ∧ t.pending = s.pending

/-- Nothing outside context `c` of lane `l`: no register of a block, no byte of SRAM or flash, no engine. -/
def OnlyCtx (l : LaneId) (c : Nat) (s t : State) : Prop :=
  OnlyLane l s t ∧ { t.lane l with ctxs := [] } = { s.lane l with ctxs := [] } ∧
    (∀ d, d ≠ c → t.ctxOf l d = s.ctxOf l d) ∧ ∀ a, t.byte l a = s.byte l a

/-- Of a lane's SRAM and flash, nothing. -/
def SameMemory (l : LaneId) (s t : State) : Prop :=
  (∀ a, t.byte l a = s.byte l a) ∧ (t.lane l).flash = (s.lane l).flash

/-- Of the lane's registers, at most those at the listed addresses. -/
def OnlyRegs (l : LaneId) (as : List Nat) (s t : State) : Prop :=
  ∀ a, a ∉ as → t.reg l a = s.reg l a

/-- Of the rind's registers, at most those at the listed management addresses. -/
def OnlyRindRegs (as : List Nat) (s t : State) : Prop := ∀ a, a ∉ as → t.rind.rd a = s.rind.rd a

/-- Nothing outside the rind. -/
def OnlyRind (s t : State) : Prop :=
  t.laneA = s.laneA ∧ t.laneB = s.laneB ∧ t.die = s.die ∧ t.laneLink = s.laneLink ∧ t.absClk = s.absClk ∧
    t.ant = s.ant ∧ t.pending = s.pending

/-- Nothing outside the switch die. -/
def OnlyDie (s t : State) : Prop :=
  t.laneA = s.laneA ∧ t.laneB = s.laneB ∧ t.rind = s.rind ∧ t.laneLink = s.laneLink ∧ t.absClk = s.absClk ∧
    t.ant = s.ant ∧ t.pending = s.pending

/-- Lane `l`, out of reset, raises event `n` with its data (R113, R524): the bit of CTX.EPEND is set where no context
waits on it, and where the host's mask lets the event through and the queue has room, the queue takes the event,
stamped with LT, behind the entries of earlier ticks and in the ascending event number of its own tick. -/
def Raises (l : LaneId) (n d0 d1 : Nat) (d2 : Word) (s t : State) : Prop :=
  (s.lane l).alive = true →
    ((s.lane l).halted = true ∨ (s.lane l).waiting 2 n = [] → (t.lane l).bitAt 0x40030040 n = true) ∧
    (bitOf ((s.lane l).rd (0x40050000 + 4 * (n / 32))) (n % 32) = true → (s.lane l).ev.q.length < 256 →
      (t.lane l).ev.q = putEntry (s.lane l).ev.q
        ⟨n, (s.lane l).ev.lost, d0 % 256, d1 % 65536, d2, (s.lane l).lt⟩)

/-- Event `n` of lane `l` pends where no context waits on it (R113). -/
def Pends (l : LaneId) (n : Nat) (s t : State) : Prop :=
  (s.lane l).alive = true → (s.lane l).halted = true ∨ (s.lane l).waiting 2 n = [] →
    (t.lane l).bitAt 0x40030040 n = true

/-- Of a lane, nothing but registers, contexts and the event queue: SRAM, flash and every engine stay. -/
def SameBulk (l : LaneId) (s t : State) : Prop :=
  { t.lane l with regs := [], ctxs := [], saved := [], ev := EvQueue.reset } =
    { s.lane l with regs := [], ctxs := [], saved := [], ev := EvQueue.reset }

/-- The registers that raising an event may change: CTX.EPEND and EVT.CNT_LOST. -/
def evRegs : List Nat := [0x40030040, 0x40030044, 0x40030048, 0x4003004C, 0x40030050, 0x40050014]

/-- Nothing but the listed registers of lane `l`: no context, no engine, no memory. -/
def OnlyLaneRegs (l : LaneId) (as : List Nat) (s t : State) : Prop :=
  OnlyLane l s t ∧ OnlyRegs l as s t ∧ { t.lane l with regs := [] } = { s.lane l with regs := [] }

/-- Lane `l` raises an event, and beside it at most the listed registers of the lane change. -/
def RaisesOnly (l : LaneId) (n d0 d1 : Nat) (d2 : Word) (as : List Nat) (s t : State) : Prop :=
  OnlyLane l s t ∧ SameBulk l s t ∧ OnlyRegs l (as ++ evRegs) s t ∧ Raises l n d0 d1 d2 s t

/-- Of both lanes, nothing but the listed registers, and what events change. -/
def LanesOnlyRegs (as : List Nat) (s t : State) : Prop :=
  ∀ l, SameBulk l s t ∧ OnlyRegs l (as ++ evRegs) s t

/-- Both lanes raise an event. -/
def BothRaise (n d0 d1 : Nat) (d2 : Word) (s t : State) : Prop := ∀ l, Raises l n d0 d1 d2 s t

/-- Outside the lanes, nothing but the load switches of the listed channels. -/
def OnlySw (ns : List Nat) (s t : State) : Prop :=
  t.rind = s.rind ∧ t.laneLink = s.laneLink ∧ t.absClk = s.absClk ∧ t.ant = s.ant ∧ t.pending = s.pending ∧
    { t.die with sw := [] } = { s.die with sw := [] } ∧ ∀ m, m ∉ ns → t.die.swt m = s.die.swt m

/-- Outside the lanes, nothing but the pulse units of the listed numbers. -/
def OnlyUnits (ns : List Nat) (s t : State) : Prop :=
  t.rind = s.rind ∧ t.laneLink = s.laneLink ∧ t.absClk = s.absClk ∧ t.ant = s.ant ∧ t.pending = s.pending ∧
    { t.die with units := [], sh := ⟨[], []⟩ } = { s.die with units := [], sh := ⟨[], []⟩ } ∧
    ∀ u, u ∉ ns → t.die.unit u = s.die.unit u ∧ ∀ l, t.die.shadow l u = s.die.shadow l u

/-- Nothing outside the rind's registers at the listed addresses. -/
def OnlyRindWords (as : List Nat) (s t : State) : Prop :=
  OnlyRind s t ∧ OnlyRindRegs as s t ∧ { t.rind with regs := [] } = { s.rind with regs := [] }

/-! ### The host port -/

/-- The host port of lane `l` takes the frame and its checks pass (R516, R517). -/
def HostTakes (s : State) (l : LaneId) (op : Nat) (f : List Byte) : Prop :=
  s.hostServed l = true ∧ (s.lane l).host.busy = false ∧ (s.lane l).frameResult (mkFrame op f) = 0

/-- The response that lane `l` now keeps: its opcode, RESULT, and what a complete FETCH will do. -/
def Replies (l : LaneId) (op r act : Nat) (t : State) : Prop :=
  (t.lane l).host.busy = true ∧ ∃ q, (t.lane l).host.resp = some q ∧ q.op = op ∧ q.act = act ∧
    q.bytes.getD 5 0 = BitVec.ofNat 8 r

/-! ### Instructions among the commands -/

/-- The lane and context whose instruction a command is; none for a command that is no KFX instruction. -/
def issuerOf (i : Instr) : Option (LaneId × CtxNo) :=
  match i with
  | .add l c _ _ _ | .sub l c _ _ _ | .and l c _ _ _ | .or l c _ _ _ | .xor l c _ _ _ | .sll l c _ _ _
  | .srl l c _ _ _ | .sra l c _ _ _ | .slt l c _ _ _ | .sltu l c _ _ _ | .min l c _ _ _ | .max l c _ _ _
  | .minu l c _ _ _ | .maxu l c _ _ _ | .clz l c _ _ | .mul l c _ _ _ | .mulh l c _ _ _ | .mulhu l c _ _ _
  | .div l c _ _ _ | .divu l c _ _ _ | .rem l c _ _ _ | .remu l c _ _ _ | .fadd l c _ _ _ | .fsub l c _ _ _
  | .fmul l c _ _ _ | .fdiv l c _ _ _ | .fsqrt l c _ _ | .fmin l c _ _ _ | .fmax l c _ _ _ | .fneg l c _ _
  | .fabs l c _ _ | .feq l c _ _ _ | .flt l c _ _ _ | .fle l c _ _ _ | .ftoi l c _ _ | .ftou l c _ _
  | .itof l c _ _ | .utof l c _ _ | .fmvx l c _ _ | .fmvf l c _ _ | .vadd l c _ _ _ | .vsub l c _ _ _
  | .vmul l c _ _ _ | .vmac l c _ _ _ | .vmin l c _ _ _ | .vmax l c _ _ _ | .vabs l c _ _ | .vneg l c _ _
  | .vfadd l c _ _ _ | .vfsub l c _ _ _ | .vfmul l c _ _ _ | .vfma l c _ _ _ | .vfmin l c _ _ _
  | .vfmax l c _ _ _ | .vsplt l c _ _ | .vins l c _ _ _ | .vext l c _ _ _ | .vsum l c _ _ | .vdot l c _ _ _
  | .vtof l c _ _ | .vtoq l c _ _ | .fma l c _ _ _ _ | .fms l c _ _ _ _ | .fnma l c _ _ _ _
  | .fnms l c _ _ _ _ | .addi l c _ _ _ | .andi l c _ _ _ | .ori l c _ _ _ | .xori l c _ _ _
  | .slli l c _ _ _ | .srli l c _ _ _ | .srai l c _ _ _ | .slti l c _ _ _ | .sltiu l c _ _ _ | .lhi l c _ _
  | .jlr l c _ _ _ | .yield l c | .exit l c | .haltInstruction l c | .brk l c | .relinq l c _ | .rdflg l c _
  | .wrflg l c _ | .ctxc l c _ _ | .lb l c _ _ _ | .lbu l c _ _ _ | .lh l c _ _ _ | .lhu l c _ _ _
  | .lw l c _ _ _ | .ldp l c _ _ _ | .flw l c _ _ _ | .vld l c _ _ _ | .sb l c _ _ _ _ | .sh l c _ _ _ _
  | .sw l c _ _ _ _ | .sdp l c _ _ _ _ | .fsw l c _ _ _ _ | .vst l c _ _ _ _ | .beq l c _ _ _
  | .bne l c _ _ _ | .blt l c _ _ _ | .bge l c _ _ _ | .bltu l c _ _ _ | .bgeu l c _ _ _ | .ltrd l c _ _
  | .wtlt l c _ _ | .wtev l c _ _ _ _ | .evpost l c _ | .qput l c _ _ _ _ _ | .qget l c _ _ _ _ _
  | .lkacq l c _ _ _ _ | .lkrel l c _ | .wtflt l c _ _ _ | .edge l c _ _ | .pair l c _ _ _
  | .curd l c _ _ _ _ | .setEdge l c _ _ | .drain l c _ _ | .crdst l c _ _ | .lpwr l c _ _ _
  | .lprd l c _ _ _ | .lphold l c _ _ | .mmul l c _ _ _ _ | .mmult l c _ _ _ _ | .madd l c _ _ _ _
  | .msub l c _ _ _ _ | .mscal l c _ _ _ _ | .mchol l c _ _ _ | .msolve l c _ _ _ _ | .mwait l c _ _
  | .jal l c _ _ => some (l, c)
  | _ => none

/-! ### The shapes of an instruction's result -/

/-- The instruction executes: it writes `v` of the context's old registers to x register `rd` (x0 stays 0),
moves on to the next word and changes nothing else. -/
def GivesX (i : Instr) (l : LaneId) (c : CtxNo) (rd : RegNo) (v : Ctx → Word) (s : State) : Prop :=
  ∃ t, exec i s = .next t ∧ OnlyCtx l c s t ∧
    (t.ctxOf l c).pc = (s.ctxOf l c).pc + 4 ∧
    (∀ r, (t.ctxOf l c).rx r = if r = rd ∧ r ≠ 0 then v (s.ctxOf l c) else (s.ctxOf l c).rx r) ∧
    { t.ctxOf l c with x := [], pc := 0 } = { s.ctxOf l c with x := [], pc := 0 }

/-- A command of 6 core cycles that the speculation engine takes (R157): it writes `v` to x register `rd`, moves on to
the next word and changes nothing else but the engine's queue. -/
def GivesSpx (i : Instr) (l : LaneId) (c : CtxNo) (rd : RegNo) (v : Word) (s : State) : Prop :=
  ∃ t, exec i s = .next t ∧ OnlyLane l s t ∧ WroteX l c rd v s t ∧ SameMemory l s t ∧
    { t.lane l with ctxs := [], spxQ := [] } = { s.lane l with ctxs := [], spxQ := [] } ∧
    (t.lane l).spxQ = (s.lane l).spxQ ++ [6] ∧ (∀ d, d ≠ c.val → t.ctxOf l d = s.ctxOf l d) ∧
    { t.ctxOf l c with x := [], pc := 0 } = { s.ctxOf l c with x := [], pc := 0 }

/-- As `GivesX`, and the instruction sets the sticky bits of FLG that its exceptions name. -/
def GivesXF (i : Instr) (l : LaneId) (c : CtxNo) (rd : RegNo) (v : Ctx → Word × Exc) (s : State) : Prop :=
  ∃ t, exec i s = .next t ∧ OnlyCtx l c s t ∧
    (t.ctxOf l c).pc = (s.ctxOf l c).pc + 4 ∧
    (t.ctxOf l c).flg = (s.ctxOf l c).flg ||| BitVec.ofNat 32 ((v (s.ctxOf l c)).2 % 64) ∧
    (∀ r, (t.ctxOf l c).rx r =
      if r = rd ∧ r ≠ 0 then (v (s.ctxOf l c)).1 else (s.ctxOf l c).rx r) ∧
    { t.ctxOf l c with x := [], pc := 0, flg := 0 } = { s.ctxOf l c with x := [], pc := 0, flg := 0 }

/-- The instruction writes f register `rd`, sets the sticky bits its exceptions name, moves on to the next word
and changes nothing else. -/
def GivesF (i : Instr) (l : LaneId) (c : CtxNo) (rd : RegNo) (v : Ctx → Word × Exc) (s : State) : Prop :=
  ∃ t, exec i s = .next t ∧ OnlyCtx l c s t ∧
    (t.ctxOf l c).pc = (s.ctxOf l c).pc + 4 ∧
    (t.ctxOf l c).flg = (s.ctxOf l c).flg ||| BitVec.ofNat 32 ((v (s.ctxOf l c)).2 % 64) ∧
    (∀ r, (t.ctxOf l c).rf r = if r = rd then (v (s.ctxOf l c)).1 else (s.ctxOf l c).rf r) ∧
    { t.ctxOf l c with f := [], pc := 0, flg := 0 } = { s.ctxOf l c with f := [], pc := 0, flg := 0 }

/-- The instruction writes v register `rd`: element `e` is `v` of the old elements `e` of the destination and of
the operands `ra` and `rb`, and the sticky bits that any element's exceptions name are set; it moves on to the
next word and changes nothing else. -/
def GivesV (i : Instr) (l : LaneId) (c : CtxNo) (rd ra rb : RegNo)
    (v : Nat → Word → Word → Word → Word × Exc) (s : State) : Prop :=
  ∃ t, exec i s = .next t ∧ OnlyCtx l c s t ∧
    (t.ctxOf l c).pc = (s.ctxOf l c).pc + 4 ∧
    (let x := s.ctxOf l c
     let r := fun e => v x.rm (VWord.el (x.rv rd) e) (VWord.el (x.rv ra) e) (VWord.el (x.rv rb) e)
     (∀ e, e < 4 → VWord.el ((t.ctxOf l c).rv rd) e = (r e).1) ∧
     (t.ctxOf l c).flg = x.flg |||
       BitVec.ofNat 32 (((r 0).2 ||| (r 1).2 ||| (r 2).2 ||| (r 3).2) % 64)) ∧
    (∀ k, k ≠ rd.val → (t.ctxOf l c).rv k = (s.ctxOf l c).rv k) ∧
    { t.ctxOf l c with v := [], pc := 0, flg := 0 } = { s.ctxOf l c with v := [], pc := 0, flg := 0 }

/-- The instruction stores the `n` low bytes of `v`, least significant first, in SRAM at `a` and moves on to the
next word; every other byte, register and context stays (the check bits of words written whole apart). -/
def Stores (i : Instr) (l : LaneId) (c : CtxNo) (a n v : Nat) (s : State) : Prop :=
  ∃ t, exec i s = .next t ∧ OnlyLane l s t ∧ (∀ d, d ≠ c.val → t.ctxOf l d = s.ctxOf l d) ∧
    t.ctxOf l c = { s.ctxOf l c with pc := (s.ctxOf l c).pc + 4 } ∧
    (∀ k, t.byte l k =
      if a ≤ k ∧ k < a + n then BitVec.ofNat 8 (v / 256 ^ (k - a)) else s.byte l k) ∧
    { t.lane l with ctxs := [], sram := [], ecc := [] } = { s.lane l with ctxs := [], sram := [], ecc := [] }

/-- A conditional branch: PC is `taken` or the next word as `p` of the two registers says, and nothing else
changes. -/
def Branches (i : Instr) (l : LaneId) (c : CtxNo) (ra rb : RegNo) (off : Word) (p : Word → Word → Prop)
    (s : State) : Prop :=
  ∃ t, exec i s = .next t ∧ OnlyCtx l c s t ∧
    (p ((s.ctxOf l c).rx ra) ((s.ctxOf l c).rx rb) →
      (t.ctxOf l c).pc = (s.ctxOf l c).pc + 4 * off) ∧
    (¬p ((s.ctxOf l c).rx ra) ((s.ctxOf l c).rx rb) → (t.ctxOf l c).pc = (s.ctxOf l c).pc + 4) ∧
    { t.ctxOf l c with pc := 0 } = { s.ctxOf l c with pc := 0 }

/-- The context begins a wait of a kind (R111), its PC at the next instruction; its x, f and v registers, the other
contexts, memory and the module beyond the lane stay. -/
def Waits (i : Instr) (l : LaneId) (c : CtxNo) (kind arg : Nat) (s : State) : Prop :=
  ∃ t, exec i s = .next t ∧ OnlyLane l s t ∧ SameMemory l s t ∧
    (∀ d, d ≠ c.val → t.ctxOf l d = s.ctxOf l d) ∧
    (t.ctxOf l c).st = .waiting ∧ (t.ctxOf l c).wait.kind = kind ∧ (t.ctxOf l c).wait.arg = arg ∧
    (t.ctxOf l c).pc = (s.ctxOf l c).pc + 4 ∧
    (t.ctxOf l c).x = (s.ctxOf l c).x ∧ (t.ctxOf l c).f = (s.ctxOf l c).f ∧ (t.ctxOf l c).v = (s.ctxOf l c).v ∧
    OnlyRegs l ((List.range 6).map (fun k => 0x40030080 + 4 * k)) s t

/-- A fault of R122 in a context other than 0: HALTED at the faulting instruction with the cause, the data
address where one is given, and the bit of CTX.FAULT_PEND; no register, no memory word and no other context is
touched. -/
def Faults (i : Instr) (l : LaneId) (c : CtxNo) (cause : Nat) (addr : Option Word) (s : State) : Prop :=
  ∃ t, exec i s = .next t ∧ OnlyLane l s t ∧ SameMemory l s t ∧
    (∀ d, d ≠ c.val → t.ctxOf l d = s.ctxOf l d) ∧
    (t.ctxOf l c).st = .halted ∧ (t.ctxOf l c).cause = cause ∧ (t.ctxOf l c).pc = (s.ctxOf l c).pc ∧
    (t.ctxOf l c).faddr = addr.getD (s.ctxOf l c).faddr ∧
    (t.ctxOf l c).x = (s.ctxOf l c).x ∧ (t.ctxOf l c).f = (s.ctxOf l c).f ∧
    (t.ctxOf l c).v = (s.ctxOf l c).v ∧ (t.ctxOf l c).flg = (s.ctxOf l c).flg ∧
    (t.lane l).bitAt 0x40030020 c = true ∧
    OnlyRegs l ((List.range 4).map (fun k => 0x40030020 + 4 * k) ++
      (List.range 6).map (fun k => 0x40030080 + 4 * k)) s t

end Sys2Proof.Machine
end

