-- ==== Sys2Proof/Certificates/Slice0/Obligations.lean ====
section
/-!
DEFINITION. The statements for the provers.  A title or docstring that names a log entry says which clauses rest on
a choice of the model.
-/

open Sys2Proof
open Sys2Proof.Machine

/-! ### KFX instructions (R99 to R169) -/

/-- R142, R143: every format A integer instruction executes in any context that is ready, and writes its result
to rd (x0 reads 0 and discards writes, R99); nothing else changes. -/
def Sys2Proof.Claims.IntegerInstructionsWriteTheirResult : Prop :=
  ∀ (s : State) (l : LaneId) (c : CtxNo) (rd a b : RegNo), Ready s l c →
    GivesX (.add l c rd a b) l c rd (fun x => x.rx a + x.rx b) s ∧
    GivesX (.sub l c rd a b) l c rd (fun x => x.rx a - x.rx b) s ∧
    GivesX (.and l c rd a b) l c rd (fun x => x.rx a &&& x.rx b) s ∧
    GivesX (.or l c rd a b) l c rd (fun x => x.rx a ||| x.rx b) s ∧
    GivesX (.xor l c rd a b) l c rd (fun x => x.rx a ^^^ x.rx b) s ∧
    GivesX (.sll l c rd a b) l c rd (fun x => x.rx a <<< ((x.rx b).extractLsb' 0 5)) s ∧
    GivesX (.srl l c rd a b) l c rd (fun x => x.rx a >>> ((x.rx b).extractLsb' 0 5)) s ∧
    GivesX (.sra l c rd a b) l c rd
      (fun x => (x.rx a).sshiftRight ((x.rx b).extractLsb' 0 5).toNat) s ∧
    GivesX (.slt l c rd a b) l c rd (fun x => if (x.rx a).slt (x.rx b) then 1 else 0) s ∧
    GivesX (.sltu l c rd a b) l c rd (fun x => if x.rx a < x.rx b then 1 else 0) s ∧
    GivesX (.min l c rd a b) l c rd
      (fun x => BitVec.ofInt 32 (Min.min (x.rx a).toInt (x.rx b).toInt)) s ∧
    GivesX (.max l c rd a b) l c rd
      (fun x => BitVec.ofInt 32 (Max.max (x.rx a).toInt (x.rx b).toInt)) s ∧
    GivesX (.minu l c rd a b) l c rd
      (fun x => BitVec.ofNat 32 (Min.min (x.rx a).toNat (x.rx b).toNat)) s ∧
    GivesX (.maxu l c rd a b) l c rd
      (fun x => BitVec.ofNat 32 (Max.max (x.rx a).toNat (x.rx b).toNat)) s ∧
    GivesX (.clz l c rd a) l c rd (fun x => (x.rx a).clz) s

/-- R142, R143: products and quotients; a divisor of 0 gives 0xFFFF_FFFF and the dividend, and the one signed
overflow gives 0x8000_0000 and 0. -/
def Sys2Proof.Claims.ProductsAndQuotients : Prop :=
  ∀ (s : State) (l : LaneId) (c : CtxNo) (rd a b : RegNo), Ready s l c →
    GivesX (.mul l c rd a b) l c rd (fun x => x.rx a * x.rx b) s ∧
    GivesX (.mulh l c rd a b) l c rd
      (fun x => ((x.rx a).signExtend 64 * (x.rx b).signExtend 64).extractLsb' 32 32) s ∧
    GivesX (.mulhu l c rd a b) l c rd
      (fun x => ((x.rx a).setWidth 64 * (x.rx b).setWidth 64).extractLsb' 32 32) s ∧
    GivesX (.div l c rd a b) l c rd
      (fun x => if x.rx b = 0 then 0xFFFFFFFF else (x.rx a).sdiv (x.rx b)) s ∧
    GivesX (.divu l c rd a b) l c rd
      (fun x => if x.rx b = 0 then 0xFFFFFFFF else x.rx a / x.rx b) s ∧
    GivesX (.rem l c rd a b) l c rd (fun x => if x.rx b = 0 then x.rx a else (x.rx a).srem (x.rx b)) s ∧
    GivesX (.remu l c rd a b) l c rd (fun x => if x.rx b = 0 then x.rx a else x.rx a % x.rx b) s ∧
    ((s.ctxOf l c).rx a = 0x80000000 → (s.ctxOf l c).rx b = 0xFFFFFFFF →
      GivesX (.div l c rd a b) l c rd (fun _ => 0x80000000) s ∧
      GivesX (.rem l c rd a b) l c rd (fun _ => 0) s)

/-- R145 under R144: every format A float instruction that writes an f register executes in any context that is
ready: rd receives the result of the operation under FLG.RM, the sticky bits of its exceptions are set, and nothing
else changes.  A negated operand changes only its sign bit. -/
def Sys2Proof.Claims.FloatInstructionsWriteTheirResult : Prop :=
  ∀ (s : State) (l : LaneId) (c : CtxNo) (rd a b d : RegNo), Ready s l c →
    GivesF (.fadd l c rd a b) l c rd (fun x => fadd x.rm (x.rf a) (x.rf b)) s ∧
    GivesF (.fsub l c rd a b) l c rd (fun x => fsub x.rm (x.rf a) (x.rf b)) s ∧
    GivesF (.fmul l c rd a b) l c rd (fun x => fmul x.rm (x.rf a) (x.rf b)) s ∧
    GivesF (.fdiv l c rd a b) l c rd (fun x => fdiv x.rm (x.rf a) (x.rf b)) s ∧
    GivesF (.fsqrt l c rd a) l c rd (fun x => fsqrt x.rm (x.rf a)) s ∧
    GivesF (.fmin l c rd a b) l c rd (fun x => fminmax false (x.rf a) (x.rf b)) s ∧
    GivesF (.fmax l c rd a b) l c rd (fun x => fminmax true (x.rf a) (x.rf b)) s ∧
    GivesF (.fneg l c rd a) l c rd (fun x => (x.rf a ^^^ 0x80000000, 0)) s ∧
    GivesF (.fabs l c rd a) l c rd (fun x => (x.rf a &&& 0x7FFFFFFF, 0)) s ∧
    GivesF (.fma l c rd a b d) l c rd (fun x => ffma x.rm (x.rf a) (x.rf b) (x.rf d)) s ∧
    GivesF (.fms l c rd a b d) l c rd
      (fun x => ffma x.rm (x.rf a) (x.rf b) (x.rf d ^^^ 0x80000000)) s ∧
    GivesF (.fnma l c rd a b d) l c rd
      (fun x => ffma x.rm (x.rf a ^^^ 0x80000000) (x.rf b) (x.rf d ^^^ 0x80000000)) s ∧
    GivesF (.fnms l c rd a b d) l c rd
      (fun x => ffma x.rm (x.rf a ^^^ 0x80000000) (x.rf b) (x.rf d)) s ∧
    GivesF (.itof l c rd a) l c rd (fun x => roundRat x.rm false ((x.rx a).toInt : Rat)) s ∧
    GivesF (.utof l c rd a) l c rd (fun x => roundRat x.rm false ((x.rx a).toNat : Rat)) s ∧
    GivesF (.fmvf l c rd a) l c rd (fun x => (x.rx a, 0)) s

/-- R145 under R144: the float instructions that write an x register.  A comparison gives 1 or 0 with NV for the
NaNs its row names; a conversion out of range or of a NaN gives the extreme and NV. -/
def Sys2Proof.Claims.FloatComparisonsAndConversions : Prop :=
  ∀ (s : State) (l : LaneId) (c : CtxNo) (rd a b : RegNo), Ready s l c →
    GivesXF (.feq l c rd a b) l c rd (fun x =>
      let p := FVal.ofWord (x.rf a); let q := FVal.ofWord (x.rf b)
      (if fvEq p q then 1 else 0, if p.isSNaN ∨ q.isSNaN then 16 else 0)) s ∧
    GivesXF (.flt l c rd a b) l c rd (fun x =>
      let p := FVal.ofWord (x.rf a); let q := FVal.ofWord (x.rf b)
      (if fvLt p q then 1 else 0, if p.isNaN ∨ q.isNaN then 16 else 0)) s ∧
    GivesXF (.fle l c rd a b) l c rd (fun x =>
      let p := FVal.ofWord (x.rf a); let q := FVal.ofWord (x.rf b)
      (if fvLt p q ∨ fvEq p q then 1 else 0, if p.isNaN ∨ q.isNaN then 16 else 0)) s ∧
    GivesXF (.ftoi l c rd a) l c rd (fun x => ftoi x.rm (x.rf a)) s ∧
    GivesXF (.ftou l c rd a) l c rd (fun x => ftou x.rm (x.rf a)) s ∧
    GivesXF (.fmvx l c rd a) l c rd (fun x => (x.rf a, 0)) s ∧
    (∀ rm w, (FVal.ofWord w).isNaN = true →
      ftoi rm w = (0x7FFFFFFF, 16) ∧ ftou rm w = (0xFFFFFFFF, 16)) ∧
    (∀ rm, ftoi rm 0x7F800000 = (0x7FFFFFFF, 16) ∧ ftoi rm 0xFF800000 = (0x80000000, 16) ∧
      ftou rm 0x7F800000 = (0xFFFFFFFF, 16) ∧ ftou rm 0xFF800000 = (0, 16)) ∧
    (∀ rm w, f32 w ≤ -2147483649 → f32Finite w = true → ftoi rm w = (0x80000000, 16)) ∧
    (∀ rm w, 4294967296 ≤ f32 w → f32Finite w = true → ftou rm w = (0xFFFFFFFF, 16))

/-- R144: every arithmetic result that is a NaN is the canonical one, whatever the rounding mode; an operand that
is a NaN makes the result that NaN, with NV exactly for a signalling one, but in a minimum or maximum of one NaN,
which is the other operand. -/
def Sys2Proof.Claims.NaNResultsAreCanonical : Prop :=
  (∀ rm x y, FVal.isNaN (FVal.ofWord (fadd rm x y).1) = true → (fadd rm x y).1 = 0x7FC00000) ∧
  (∀ rm x y, FVal.isNaN (FVal.ofWord (fsub rm x y).1) = true → (fsub rm x y).1 = 0x7FC00000) ∧
  (∀ rm x y, FVal.isNaN (FVal.ofWord (fmul rm x y).1) = true → (fmul rm x y).1 = 0x7FC00000) ∧
  (∀ rm x y, FVal.isNaN (FVal.ofWord (fdiv rm x y).1) = true → (fdiv rm x y).1 = 0x7FC00000) ∧
  (∀ rm x y, (FVal.ofWord x).isNaN = true ∨ (FVal.ofWord y).isNaN = true →
    let e := if (FVal.ofWord x).isSNaN ∨ (FVal.ofWord y).isSNaN then 16 else 0
    fadd rm x y = (0x7FC00000, e) ∧ fsub rm x y = (0x7FC00000, e) ∧
      fmul rm x y = (0x7FC00000, e) ∧ fdiv rm x y = (0x7FC00000, e)) ∧
  (∀ m x y, (FVal.ofWord x).isNaN = true → (FVal.ofWord y).isNaN = false →
    let e := if (FVal.ofWord x).isSNaN then 16 else 0
    fminmax m x y = (y, e) ∧ fminmax m y x = (y, e)) ∧
  (∀ m x y, (FVal.ofWord x).isNaN = true → (FVal.ofWord y).isNaN = true → (fminmax m x y).1 = 0x7FC00000)

/-- R144: a sum, difference, product or quotient of finite operands that a binary32 number holds exactly is that
number, in every rounding mode, and raises no exception. -/
def Sys2Proof.Claims.ExactFloatResultsAreExact : Prop :=
  ∀ (rm : Nat) (x y z : Word), f32Finite x = true → f32Finite y = true → f32Finite z = true → f32 z ≠ 0 →
    (f32 x + f32 y = f32 z → fadd rm x y = (z, 0)) ∧
    (f32 x - f32 y = f32 z → fsub rm x y = (z, 0)) ∧
    (f32 x * f32 y = f32 z → fmul rm x y = (z, 0)) ∧
    (f32 y ≠ 0 → f32 x / f32 y = f32 z → fdiv rm x y = (z, 0))

/-- R147: every element-wise vector instruction executes in any context that is ready, for v registers 0 to 7, on
elements 0 to 3; a Q16.16 result beyond the range is held at the nearest extreme with SAT (R146). -/
def Sys2Proof.Claims.VectorInstructionsActOnEveryElement : Prop :=
  ∀ (s : State) (l : LaneId) (c : CtxNo) (rd a b : RegNo), Ready s l c → rd.val < 8 → a.val < 8 → b.val < 8 →
    GivesV (.vadd l c rd a b) l c rd a b (fun _ _ p q => satQ (p.toInt + q.toInt)) s ∧
    GivesV (.vsub l c rd a b) l c rd a b (fun _ _ p q => satQ (p.toInt - q.toInt)) s ∧
    GivesV (.vmul l c rd a b) l c rd a b
      (fun _ _ p q => satQ ((p.toInt * q.toInt + 0x8000) >>> 16)) s ∧
    GivesV (.vmac l c rd a b) l c rd a b
      (fun _ d p q => satQ ((d.toInt * 0x10000 + p.toInt * q.toInt + 0x8000) >>> 16)) s ∧
    GivesV (.vmin l c rd a b) l c rd a b
      (fun _ _ p q => (BitVec.ofInt 32 (Min.min p.toInt q.toInt), 0)) s ∧
    GivesV (.vmax l c rd a b) l c rd a b
      (fun _ _ p q => (BitVec.ofInt 32 (Max.max p.toInt q.toInt), 0)) s ∧
    GivesV (.vabs l c rd a) l c rd a 0
      (fun _ _ p _ => if p = 0x80000000 then (0x7FFFFFFF, 32) else (if p.toInt < 0 then -p else p, 0)) s ∧
    GivesV (.vneg l c rd a) l c rd a 0
      (fun _ _ p _ => if p = 0x80000000 then (0x7FFFFFFF, 32) else (-p, 0)) s ∧
    GivesV (.vfadd l c rd a b) l c rd a b (fun rm _ p q => fadd rm p q) s ∧
    GivesV (.vfsub l c rd a b) l c rd a b (fun rm _ p q => fsub rm p q) s ∧
    GivesV (.vfmul l c rd a b) l c rd a b (fun rm _ p q => fmul rm p q) s ∧
    GivesV (.vfma l c rd a b) l c rd a b (fun rm d p q => ffma rm p q d) s ∧
    GivesV (.vfmin l c rd a b) l c rd a b (fun _ _ p q => fminmax false p q) s ∧
    GivesV (.vfmax l c rd a b) l c rd a b (fun _ _ p q => fminmax true p q) s ∧
    GivesV (.vtof l c rd a) l c rd a 0 (fun rm _ p _ => roundRat rm false ((p.toInt : Rat) / 65536)) s ∧
    GivesV (.vtoq l c rd a) l c rd a 0 (fun rm _ p _ => fToQ rm p) s ∧
    (∀ i : Int, (i < -0x80000000 → satQ i = (0x80000000, 32)) ∧ (0x7FFFFFFF < i → satQ i = (0x7FFFFFFF, 32)) ∧
      (-0x80000000 ≤ i → i ≤ 0x7FFFFFFF → satQ i = (BitVec.ofInt 32 i, 0)))

/-- R147: the vector instructions that move or combine elements: vsplt, vins, vext, vsum and vdot. -/
def Sys2Proof.Claims.VectorElementsMoveAndCombine : Prop :=
  ∀ (s : State) (l : LaneId) (c : CtxNo) (rd a b e : RegNo), Ready s l c → b.val < 8 → e.val < 4 →
    (rd.val < 8 → ∃ t, exec (.vsplt l c rd a) s = .next t ∧ OnlyCtx l c s t ∧
      (t.ctxOf l c).pc = (s.ctxOf l c).pc + 4 ∧
      (∀ k, k < 4 → VWord.el ((t.ctxOf l c).rv rd) k = (s.ctxOf l c).rx a) ∧
      (∀ k, k ≠ rd.val → (t.ctxOf l c).rv k = (s.ctxOf l c).rv k) ∧
      { t.ctxOf l c with v := [], pc := 0 } = { s.ctxOf l c with v := [], pc := 0 }) ∧
    (rd.val < 8 → ∃ t, exec (.vins l c rd a e) s = .next t ∧ OnlyCtx l c s t ∧
      (t.ctxOf l c).pc = (s.ctxOf l c).pc + 4 ∧
      (∀ k, k < 4 → VWord.el ((t.ctxOf l c).rv rd) k =
        if k = e.val then (s.ctxOf l c).rx a else VWord.el ((s.ctxOf l c).rv rd) k) ∧
      (∀ k, k ≠ rd.val → (t.ctxOf l c).rv k = (s.ctxOf l c).rv k) ∧
      { t.ctxOf l c with v := [], pc := 0 } = { s.ctxOf l c with v := [], pc := 0 }) ∧
    GivesX (.vext l c rd b e) l c rd (fun x => VWord.el (x.rv b) e) s ∧
    GivesF (.vsum l c rd b) l c rd (fun x =>
      let v := VWord.el (x.rv b)
      let p := fadd x.rm (v 0) (v 1)
      let q := fadd x.rm (v 2) (v 3)
      let r := fadd x.rm p.1 q.1
      (r.1, p.2 ||| q.2 ||| r.2)) s ∧
    (a.val < 8 → GivesF (.vdot l c rd a b) l c rd (fun x =>
      let m := fun k => fmul x.rm (VWord.el (x.rv a) k) (VWord.el (x.rv b) k)
      let p := fadd x.rm (m 0).1 (m 1).1
      let q := fadd x.rm (m 2).1 (m 3).1
      let r := fadd x.rm p.1 q.1
      (r.1, p.2 ||| q.2 ||| r.2 ||| (m 0).2 ||| (m 1).2 ||| (m 2).2 ||| (m 3).2)) s)

/-- R148: the immediate instructions; a shift takes imm[4:0] and asks imm[13:5] to be 0. -/
def Sys2Proof.Claims.ImmediateInstructionsWriteTheirResult : Prop :=
  ∀ (s : State) (l : LaneId) (c : CtxNo) (rd a : RegNo) (imm : BitVec 14) (hi : BitVec 19), Ready s l c →
    GivesX (.addi l c rd a imm) l c rd (fun x => x.rx a + imm.signExtend 32) s ∧
    GivesX (.andi l c rd a imm) l c rd (fun x => x.rx a &&& imm.setWidth 32) s ∧
    GivesX (.ori l c rd a imm) l c rd (fun x => x.rx a ||| imm.setWidth 32) s ∧
    GivesX (.xori l c rd a imm) l c rd (fun x => x.rx a ^^^ imm.setWidth 32) s ∧
    GivesX (.slti l c rd a imm) l c rd (fun x => if (x.rx a).toInt < imm.toInt then 1 else 0) s ∧
    GivesX (.sltiu l c rd a imm) l c rd (fun x => if x.rx a < imm.signExtend 32 then 1 else 0) s ∧
    GivesX (.lhi l c rd hi) l c rd (fun _ => hi ++ (0 : BitVec 13)) s ∧
    (imm.toNat < 32 →
      GivesX (.slli l c rd a imm) l c rd (fun x => x.rx a <<< imm.toNat) s ∧
      GivesX (.srli l c rd a imm) l c rd (fun x => x.rx a >>> imm.toNat) s ∧
      GivesX (.srai l c rd a imm) l c rd (fun x => (x.rx a).sshiftRight imm.toNat) s)

/-- R153 and R148: the six conditional branches, and the two jumps, which write the address of the next word to
rd and, for jlr, take a target from the old rs1 that must be a multiple of 4. -/
def Obligations.BranchesAndJumps : Prop :=
  ∀ (s : State) (l : LaneId) (c : CtxNo) (rd a b : RegNo) (off imm : BitVec 14) (jo : BitVec 19), Ready s l c →
    Branches (.beq l c a b off) l c a b (off.signExtend 32) (fun p q => p = q) s ∧
    Branches (.bne l c a b off) l c a b (off.signExtend 32) (fun p q => p ≠ q) s ∧
    Branches (.blt l c a b off) l c a b (off.signExtend 32) (fun p q => p.toInt < q.toInt) s ∧
    Branches (.bge l c a b off) l c a b (off.signExtend 32) (fun p q => q.toInt ≤ p.toInt) s ∧
    Branches (.bltu l c a b off) l c a b (off.signExtend 32) (fun p q => p < q) s ∧
    Branches (.bgeu l c a b off) l c a b (off.signExtend 32) (fun p q => q ≤ p) s ∧
    (∃ t, exec (.jal l c rd jo) s = .next t ∧ OnlyCtx l c s t ∧
      (t.ctxOf l c).pc = (s.ctxOf l c).pc + 4 * jo.signExtend 32 ∧
      (∀ r, (t.ctxOf l c).rx r =
        if r = rd ∧ r ≠ 0 then (s.ctxOf l c).pc + 4 else (s.ctxOf l c).rx r) ∧
      { t.ctxOf l c with x := [], pc := 0 } = { s.ctxOf l c with x := [], pc := 0 }) ∧
    ((((s.ctxOf l c).rx a + imm.signExtend 32).toNat % 4 = 0) →
      ∃ t, exec (.jlr l c rd a imm) s = .next t ∧ OnlyCtx l c s t ∧
      (t.ctxOf l c).pc = (s.ctxOf l c).rx a + imm.signExtend 32 ∧
      (∀ r, (t.ctxOf l c).rx r =
        if r = rd ∧ r ≠ 0 then (s.ctxOf l c).pc + 4 else (s.ctxOf l c).rx r) ∧
      { t.ctxOf l c with x := [], pc := 0 } = { s.ctxOf l c with x := [], pc := 0 })

/-- R151: every load from SRAM that meets no cause of R122 executes in a ready context: the destination takes the
bytes at rs1 + sext(off14), extended as the row says, and nothing else changes. -/
def Sys2Proof.Claims.LoadsTakeTheBytesAtTheirAddress : Prop :=
  ∀ (s : State) (l : LaneId) (c : CtxNo) (rt rs1 : RegNo) (off : BitVec 14), Ready s l c →
    let a := (s.ctxOf l c).ea rs1 off
    (SramAccess s l c 0 a 1 →
      GivesX (.lb l c rt rs1 off) l c rt (fun _ => (s.byte l a).signExtend 32) s ∧
      GivesX (.lbu l c rt rs1 off) l c rt (fun _ => (s.byte l a).setWidth 32) s) ∧
    (SramAccess s l c 0 a 2 →
      GivesX (.lh l c rt rs1 off) l c rt (fun _ => (s.byte l (a + 1) ++ s.byte l a).signExtend 32) s ∧
      GivesX (.lhu l c rt rs1 off) l c rt (fun _ => (s.byte l (a + 1) ++ s.byte l a).setWidth 32) s) ∧
    (SramAccess s l c 0 a 4 →
      GivesX (.lw l c rt rs1 off) l c rt (fun _ => s.word32 l a) s ∧
      ∃ t, exec (.flw l c rt rs1 off) s = .next t ∧ OnlyCtx l c s t ∧
        (t.ctxOf l c).pc = (s.ctxOf l c).pc + 4 ∧
        (∀ r, (t.ctxOf l c).rf r = if r = rt.val then s.word32 l a else (s.ctxOf l c).rf r) ∧
        { t.ctxOf l c with f := [], pc := 0 } = { s.ctxOf l c with f := [], pc := 0 }) ∧
    (SramAccess s l c 0 a 8 → rt.val % 2 = 0 →
      ∃ t, exec (.ldp l c rt rs1 off) s = .next t ∧ OnlyCtx l c s t ∧
        (t.ctxOf l c).pc = (s.ctxOf l c).pc + 4 ∧
        (∀ r, (t.ctxOf l c).rx r =
          if r = rt.val ∧ r ≠ 0 then s.word32 l a
          else if r = rt.val + 1 then s.word32 l (a + 4) else (s.ctxOf l c).rx r) ∧
        { t.ctxOf l c with x := [], pc := 0 } = { s.ctxOf l c with x := [], pc := 0 }) ∧
    (SramAccess s l c 0 a 16 → rt.val < 8 →
      ∃ t, exec (.vld l c rt rs1 off) s = .next t ∧ OnlyCtx l c s t ∧
        (t.ctxOf l c).pc = (s.ctxOf l c).pc + 4 ∧
        (∀ e, e < 4 → VWord.el ((t.ctxOf l c).rv rt) e = s.word32 l (a + 4 * e)) ∧
        (∀ r, r ≠ rt.val → (t.ctxOf l c).rv r = (s.ctxOf l c).rv r) ∧
        { t.ctxOf l c with v := [], pc := 0 } = { s.ctxOf l c with v := [], pc := 0 })

/-- R116, R118, R126: a load from the flash window takes the bytes of the lane's flash die; context 0 loads words and
bytes of the context file; neither changes anything else.  R118, R152: lw of a register-block word returns
what the register shows and leaves what its read leaves. -/
def Sys2Proof.Claims.LoadsBeyondSram : Prop :=
  ∀ (s : State) (l : LaneId) (c : CtxNo) (rt rs1 : RegNo) (off : BitVec 14), Ready s l c →
    let a := (s.ctxOf l c).ea rs1 off
    (0x10000000 ≤ a → a < 0x14000000 → a % 4 = 0 → (s.ctxOf l c).granted c 0 a = true →
      GivesX (.lw l c rt rs1 off) l c rt (fun _ =>
        Flash.get (s.lane l).flash (a - 0x10000000 + 3) ++ Flash.get (s.lane l).flash (a - 0x10000000 + 2) ++
          Flash.get (s.lane l).flash (a - 0x10000000 + 1) ++ Flash.get (s.lane l).flash (a - 0x10000000)) s) ∧
    (c = 0 → 0x20000000 ≤ a → a < 0x20010000 →
      (a % 4 = 0 → GivesX (.lw l c rt rs1 off) l c rt (fun _ => (s.lane l).ctxFileRead (a - 0x20000000)) s) ∧
      GivesX (.lbu l c rt rs1 off) l c rt (fun _ =>
        ((s.lane l).ctxFileRead ((a - 0x20000000) / 4 * 4) >>> (8 * (a % 4))) &&& 0xFF) s) ∧
    (0x40000000 ≤ a → a < 0x40180000 → a % 4 = 0 → (c ≠ 0 → supervisorOnly a = false) →
      (s.ctxOf l c).granted c 0 a = true →
      ∃ t, exec (.lw l c rt rs1 off) s = .next t ∧ OnlyLane l s t ∧
        (t.ctxOf l c).rx rt = (if rt = 0 then 0 else (s.busRead l c a).1) ∧
        (t.ctxOf l c).pc = ((s.busRead l c a).2.ctxOf l c).pc + 4 ∧
        { t.lane l with ctxs := [] } = { (s.busRead l c a).2.lane l with ctxs := [] })

/-- R151, R152: every store to SRAM that meets no cause of R122 and no other master's write executes in a ready
context: the bytes from rs1 + sext(off14) on hold the data register's, least significant first, and nothing else
changes. -/
def Sys2Proof.Claims.StoresWriteTheirBytesAndNoOthers : Prop :=
  ∀ (s : State) (l : LaneId) (c : CtxNo) (rt rs1 : RegNo) (off : BitVec 14), Ready s l c →
    let x := s.ctxOf l c
    let a := x.ea rs1 off
    (SramAccess s l c 1 a 1 → Stores (.sb l c rt rs1 off []) l c a 1 (x.rx rt).toNat s) ∧
    (SramAccess s l c 1 a 2 → Stores (.sh l c rt rs1 off []) l c a 2 (x.rx rt).toNat s) ∧
    (SramAccess s l c 1 a 4 → Stores (.sw l c rt rs1 off []) l c a 4 (x.rx rt).toNat s) ∧
    (SramAccess s l c 1 a 4 → Stores (.fsw l c rt rs1 off []) l c a 4 (x.rf rt).toNat s) ∧
    (SramAccess s l c 1 a 8 → rt.val % 2 = 0 →
      Stores (.sdp l c rt rs1 off []) l c a 8 ((x.rx rt).toNat + 2 ^ 32 * (x.rx (rt.val + 1)).toNat) s) ∧
    (SramAccess s l c 1 a 16 → rt.val < 8 →
      Stores (.vst l c rt rs1 off []) l c a 16 (x.rv rt).toNat s)

/-- R552: a word store that meets another master's write of the whole word on the other port in one cycle: the
write on the priority port (port 0 while PRIO is 0, port 1 while it is 1; port 0 serves the cores of a CORE bank)
stands, MEM.STAT.COLL is set and COLL_ADDR names the word and the losing master; no byte of another word
changes. -/
def Sys2Proof.Claims.CollidingStoresKeepThePriorityPort : Prop :=
  ∀ (s : State) (l : LaneId) (c : CtxNo) (rt rs1 : RegNo) (off : BitVec 14) (v : Word) (m : Fin 14),
    Ready s l c → SramAccess s l c 1 ((s.ctxOf l c).ea rs1 off) 4 →
    (s.lane l).owner (bankOf ((s.ctxOf l c).ea rs1 off)) = 1 → m.val ∈ [6, 7, 12, 13] →
    let a := (s.ctxOf l c).ea rs1 off
    let prio := (s.lane l).flag (0x40040100 + 4 * bankOf a) 6
    ∃ t, exec (.sw l c rt rs1 off [⟨BitVec.ofNat 32 a, 0xF, v, m⟩]) s = .next t ∧ OnlyLane l s t ∧
      t.word32 l a = (if prio then v else (s.ctxOf l c).rx rt) ∧
      (∀ k, k < a ∨ a + 4 ≤ k → t.byte l k = s.byte l k) ∧
      (t.lane l).flag 0x40040000 2 = true ∧
      (t.lane l).fld 0x40040008 0 23 = a ∧
      (t.lane l).fld 0x40040008 24 4 = (if prio then (s.ctxOf l c).core % 16 else m.val)

/-- R633, R122: the first cause that a data access meets, in the rule's order, for loads and stores of every size. -/
def Sys2Proof.Claims.DataAccessCausesInOrder : Prop :=
  ∀ (L : Lane) (c : CtxNo) (a n : Nat) (store wordOp : Bool),
    let hole := ¬(a < 0x600000 ∨ (0x10000000 ≤ a ∧ a < 0x14000000) ∨ (0x20000000 ≤ a ∧ a < 0x20010000) ∨
      (0x40000000 ≤ a ∧ a < 0x40180000))
    let priv := c ≠ 0 ∧ ((0x40030000 ≤ a ∧ a < 0x40050000) ∨ (0x40150000 ≤ a ∧ a < 0x40170000) ∨
      (0x20000000 ≤ a ∧ a < 0x20010000) ∨ a = 0x40000018 ∨ a = 0x4000001C)
    let prot := (L.ctx c).granted c (if store then 1 else 0) a = false
    let kind := (0x40000000 ≤ a ∧ wordOp = false) ∨
      (0x10000000 ≤ a ∧ a < 0x14000000 ∧ store = true)
    (hole → L.dataFault c a n store wordOp = some 5) ∧
    (¬hole → a % n ≠ 0 → L.dataFault c a n store wordOp = some 3) ∧
    (¬hole → a % n = 0 → priv → L.dataFault c a n store wordOp = some 2) ∧
    (¬hole → a % n = 0 → ¬priv → prot → L.dataFault c a n store wordOp = some 4) ∧
    (¬hole → a % n = 0 → ¬priv → ¬prot → kind → L.dataFault c a n store wordOp = some 5) ∧
    (¬hole → a % n = 0 → ¬priv → ¬prot → ¬kind → a < 0x600000 → L.coreReaches (a / 0x40000) = false →
      L.dataFault c a n store wordOp = some 6) ∧
    (¬hole → a % n = 0 → ¬priv → ¬prot → ¬kind → (a < 0x600000 → L.coreReaches (a / 0x40000) = true) →
      L.dataFault c a n store wordOp = none)

/-- R120, R121, R104: what the protection regions grant: context 0 everything; any other context an address that
an enabled region covers and grants, and never execution from a register block or the context file. -/
def Sys2Proof.Claims.RegionsGrantAccess : Prop :=
  ∀ (x : Ctx) (c : CtxNo) (bit a : Nat), bit < 3 →
    (c = 0 → x.granted c bit a = true) ∧
    (c ≠ 0 → (x.granted c bit a = true ↔
      ¬(bit = 2 ∧ ((0x40000000 ≤ a ∧ a < 0x40180000) ∨ (0x20000000 ≤ a ∧ a < 0x20010000))) ∧
      ∃ r, r < 8 ∧ (Tab.get x.rgnBase 0 r).getLsbD 3 = true ∧ (Tab.get x.rgnBase 0 r).getLsbD bit = true ∧
        64 * ((Tab.get x.rgnBase 0 r).toNat / 64) ≤ a ∧ a < 64 * ((Tab.get x.rgnLim 0 r).toNat / 64)))

/-- R122: a load or store that meets a cause of R633 leaves every register and byte as it was and records the
fault with its data address; an instruction whose word no row defines faults ILLEGAL; all in a context other than
0. -/
def Sys2Proof.Claims.MemoryFaultsArePrecise : Prop :=
  ∀ (s : State) (l : LaneId) (c : CtxNo) (rt rs1 : RegNo) (off : BitVec 14) (ks : List Clash) (w : Word) (k : Nat),
    Ready s l c → c ≠ 0 →
    let a := (s.ctxOf l c).ea rs1 off
    let d := some (BitVec.ofNat 32 a)
    ((s.lane l).dataFault c a 1 false false = some k →
      Faults (.lb l c rt rs1 off) l c k d s ∧ Faults (.lbu l c rt rs1 off) l c k d s) ∧
    ((s.lane l).dataFault c a 2 false false = some k →
      Faults (.lh l c rt rs1 off) l c k d s ∧ Faults (.lhu l c rt rs1 off) l c k d s) ∧
    ((s.lane l).dataFault c a 4 false true = some k →
      Faults (.lw l c rt rs1 off) l c k d s ∧ Faults (.flw l c rt rs1 off) l c k d s) ∧
    ((s.lane l).dataFault c a 8 false false = some k → rt.val % 2 = 0 → Faults (.ldp l c rt rs1 off) l c k d s) ∧
    ((s.lane l).dataFault c a 16 false false = some k → rt.val < 8 → Faults (.vld l c rt rs1 off) l c k d s) ∧
    ((s.lane l).dataFault c a 1 true false = some k → Faults (.sb l c rt rs1 off ks) l c k d s) ∧
    ((s.lane l).dataFault c a 2 true false = some k → Faults (.sh l c rt rs1 off ks) l c k d s) ∧
    ((s.lane l).dataFault c a 4 true true = some k →
      Faults (.sw l c rt rs1 off ks) l c k d s ∧ Faults (.fsw l c rt rs1 off ks) l c k d s) ∧
    ((s.lane l).dataFault c a 8 true false = some k → rt.val % 2 = 0 →
      Faults (.sdp l c rt rs1 off ks) l c k d s) ∧
    ((s.lane l).dataFault c a 16 true false = some k → rt.val < 8 →
      Faults (.vst l c rt rs1 off ks) l c k d s) ∧
    (decodeKfx l c w = none → Faults (.illegalEncoding l c w) l c 1 none s)

/-- R122, R633: an instruction whose fetch meets a cause takes that fault, whatever the instruction is, and a context
that cannot issue (R103, R125, R135) executes nothing. -/
def Sys2Proof.Claims.FetchFaultsComeFirst : Prop :=
  ∀ (i : Instr) (s : State) (l : LaneId) (c : CtxNo), issuerOf i = some (l, c) →
    (s.canIssue l c = false → exec i s = .next s) ∧
    (s.canIssue l c = true → c ≠ 0 → ∀ k, (s.lane l).fetchFault c (s.ctxOf l c).pc.toNat = some k →
      Faults i l c k none s)

/-- R137, R138, R148: a field outside the range that its row allows is an ILLEGAL fault, in every context but 0; the
words of R136 are the commands' operands here. -/
def Sys2Proof.Claims.IllegalFieldsFault : Prop :=
  ∀ (i : Instr) (s : State) (l : LaneId) (c : CtxNo), issuerOf i = some (l, c) → Ready s l c → c ≠ 0 →
    Instr.wf i = false → Faults i l c 1 none s

/-- R123: a fault in context 0 is no context fault but a lane fault: the lane is held in reset with cause 5, its
contexts all FREE, its registers at reset, and it has given up control. -/
def Sys2Proof.Claims.FaultsOfContextZeroResetTheLane : Prop :=
  ∀ (s : State) (l : LaneId) (w : Word), Ready s l 0 → decodeKfx l 0 w = none →
    ∃ t, exec (.illegalEncoding l 0 w) s = .next t ∧
      (t.lane l).phase = .off ∧ (∀ c, (t.ctxOf l c).st = .free) ∧
      (t.lane l).fld 0x40000010 8 4 = 5 ∧ (t.lane l).lt = (s.lane l).lt ∧
      (t.lane l).flash = (s.lane l).flash ∧
      ((s.lane l).flag 0x40140004 5 = false →
        (t.rind.beat.get l).hold = false ∧ t.rind.flag 0x204 (4 + laneNo l) = true) ∧
      t.die.units = s.die.units ∧ t.pending = s.pending

/-- R103, R109, R101, R130: START, HALT, RESUME and KILL of contexts other than 0 make the transitions of the table;
a command that the table does not permit, or to context 0, changes no context and sets CTX.STAT.CMD_ERR; OP 0, 5, 6
and 7 do nothing. -/
def Sys2Proof.Claims.ContextCommandsFollowTheTable : Prop :=
  ∀ (s : State) (l : LaneId) (n : CtxNo) (v : Word),
    let x := s.ctxOf l n
    let ignored := fun (i : Instr) => ∃ t, exec i s = .next t ∧ OnlyLane l s t ∧
      (∀ d, t.ctxOf l d = s.ctxOf l d) ∧ (t.lane l).flag 0x40030004 0 = true ∧ OnlyRegs l [0x40030004] s t ∧
      SameMemory l s t
    (n ≠ 0 → x.st = .free → ∃ t, exec (.start l n) s = .next t ∧ OnlyCtx l n s t ∧
      (t.ctxOf l n).st = .ready ∧ (t.ctxOf l n).cause = 0 ∧ (t.ctxOf l n).outLatch = [] ∧
      (t.ctxOf l n).deadline =
        (if x.dlRel = 0 then 0xFFFFFFFFFFFFFFFF else ((s.lane l).lt + x.dlRel.toNat) % 2 ^ 64) ∧
      (t.ctxOf l n).x = x.x ∧ (t.ctxOf l n).pc = x.pc ∧ (t.ctxOf l n).prio = x.prio) ∧
    (n ≠ 0 → x.st = .ready ∨ x.st = .running → ∃ t, exec (.halt l n) s = .next t ∧ OnlyLane l s t ∧
      (t.ctxOf l n).st = .halted ∧ (t.ctxOf l n).x = x.x ∧ (t.ctxOf l n).pc = x.pc ∧
      (∀ d, d ≠ n.val → t.ctxOf l d = s.ctxOf l d) ∧ SameMemory l s t) ∧
    (n ≠ 0 → x.st = .waiting → (s.lane l).condMet n = false → (s.lane l).timedOut n = false →
      ∃ t, exec (.halt l n) s = .next t ∧ OnlyCtx l n s t ∧
        (t.ctxOf l n).st = .halted ∧ (t.ctxOf l n).wait.abandoned = true ∧ (t.ctxOf l n).x = x.x) ∧
    (n ≠ 0 → x.st = .halted → ∃ t, exec (.resume l n) s = .next t ∧ OnlyCtx l n s t ∧
      (t.ctxOf l n).st = .ready ∧ (t.ctxOf l n).cause = 0 ∧ (t.ctxOf l n).pc = x.pc ∧
      (x.wait.abandoned = false → (t.ctxOf l n).x = x.x) ∧
      (x.wait.abandoned = true → x.wait.rd ≠ 0 →
        (t.ctxOf l n).rx x.wait.rd = if x.wait.kind = 5 then 3 else 2)) ∧
    (n ≠ 0 → x.st ≠ .free → ∃ t, exec (.kill l n) s = .next t ∧ OnlyLane l s t ∧ SameMemory l s t ∧
      (t.ctxOf l n).st = .free ∧ (t.ctxOf l n).wait = Wait.none ∧ (t.ctxOf l n).outLatch = [] ∧
      (t.lane l).spx = (s.lane l).spx) ∧
    (n = 0 ∨ x.st ≠ .free → ignored (.start l n)) ∧
    (n = 0 ∨ x.st = .free ∨ x.st = .halted → ignored (.halt l n)) ∧
    (n = 0 ∨ x.st ≠ .halted → ignored (.resume l n)) ∧
    (n = 0 ∨ x.st = .free → ignored (.kill l n)) ∧
    exec (.ctxCmdNoEffect l v) s = .next s

/-- R106, R115, R150: a context that exits or is killed releases the locks it holds: with no context waiting, each is
free and ABANDONED, and the next lkacq of it receives 2 and clears ABANDONED. -/
def Sys2Proof.Claims.LocksOfALeavingContextAreAbandoned : Prop :=
  ∀ (s : State) (l : LaneId) (c : CtxNo), c ≠ 0 → (∀ n, (s.lane l).waiting 5 n = []) →
    (Ready s l c → ∃ t, exec (.exit l c) s = .next t ∧ OnlyLane l s t ∧ SameMemory l s t ∧
      (t.ctxOf l c).st = .free ∧ (t.ctxOf l c).pc = (s.ctxOf l c).pc + 4 ∧
      ∀ n, n < 64 → ((s.lane l).lock n).held = true → ((s.lane l).lock n).holder = c.val →
        (t.lane l).lock n = ⟨false, 0, true⟩) ∧
    ((s.ctxOf l c).st ≠ .free → ∃ t, exec (.kill l c) s = .next t ∧
      ∀ n, n < 64 → ((s.lane l).lock n).held = true → ((s.lane l).lock n).holder = c.val →
        (t.lane l).lock n = ⟨false, 0, true⟩)

/-- R148, R150, R122: yield, halt, brk, relinq, the two FLG instructions and ctxc. -/
def Sys2Proof.Claims.SystemInstructionsAct : Prop :=
  ∀ (s : State) (l : LaneId) (c : CtxNo) (rd a : RegNo), Ready s l c →
    let x := s.ctxOf l c
    (∃ t, exec (.yield l c) s = .next t ∧ OnlyLane l s t ∧ SameMemory l s t ∧
      (t.ctxOf l c).st = .ready ∧ (t.ctxOf l c).yielded = true ∧ (t.ctxOf l c).pc = x.pc + 4 ∧
      (t.ctxOf l c).deadline = x.deadline ∧ (t.ctxOf l c).x = x.x ∧
      ∀ d, d ≠ c.val → t.ctxOf l d = s.ctxOf l d) ∧
    (c ≠ 0 → ∃ t, exec (.haltInstruction l c) s = .next t ∧ OnlyLane l s t ∧ SameMemory l s t ∧
      (t.ctxOf l c).st = .halted ∧ (t.ctxOf l c).pc = x.pc + 4 ∧ (t.ctxOf l c).cause = 0 ∧
      (t.lane l).bitAt 0x40030020 c = true ∧ ∀ d, d ≠ c.val → t.ctxOf l d = s.ctxOf l d) ∧
    ((s.lane l).debugOpen = true → ∃ t, exec (.brk l c) s = .next t ∧ OnlyLane l s t ∧ SameMemory l s t ∧
      (t.lane l).halted = true ∧ (∀ d, t.ctxOf l d = s.ctxOf l d) ∧ (t.lane l).regs = (s.lane l).regs) ∧
    (c ≠ 0 → (s.lane l).debugOpen = false → Faults (.brk l c) l c 8 none s) ∧
    (c = 0 ∨ x.rlq = true → ∃ t, exec (.relinq l c a) s = .next t ∧
      (t.lane l).reason = (x.rx a).toNat % 256 ∧ (t.lane l).flag 0x40140004 5 = true ∧
      t.die = s.die ∧ (t.ctxOf l c).pc = x.pc + 4 ∧ (t.lane l).sram = (s.lane l).sram) ∧
    (c ≠ 0 → x.rlq = false → Faults (.relinq l c a) l c 10 none s) ∧
    GivesX (.rdflg l c rd) l c rd (fun y => y.flg) s ∧
    (∃ t, exec (.wrflg l c a) s = .next t ∧ OnlyCtx l c s t ∧
      t.ctxOf l c = { x with pc := x.pc + 4, flg := x.rx a &&& 0xFF }) ∧
    (c ≠ 0 → Faults (.ctxc l c rd a) l c 2 none s)

/-- R150, R130: ctxc in context 0 applies the command in rs1[10:0] and writes 1 to rd when R130 ignores it, 0
otherwise. -/
def Sys2Proof.Claims.CtxcTellsWhetherTheCommandWasIgnored : Prop :=
  ∀ (s : State) (l : LaneId) (rd a : RegNo) (n : CtxNo) (op : Fin 8), Ready s l 0 → rd ≠ 0 →
    (s.ctxOf l 0).rx a = BitVec.ofNat 32 (n.val + 256 * op.val) →
    let st := (s.ctxOf l n).st
    let permitted := n ≠ 0 ∧ ((op = 1 ∧ st = .free) ∨ (op = 2 ∧ (st = .ready ∨ st = .running)) ∨
      (op = 3 ∧ st = .halted) ∨ (op = 4 ∧ st ≠ .free))
    (permitted → ∃ t, exec (.ctxc l 0 rd a) s = .next t ∧ OnlyLane l s t ∧ SameMemory l s t ∧
      (t.ctxOf l 0).rx rd = 0 ∧ (t.ctxOf l 0).pc = (s.ctxOf l 0).pc + 4 ∧
      (t.ctxOf l n).st = (if op = 1 ∨ op = 3 then .ready else if op = 2 then .halted else .free)) ∧
    ((1 ≤ op.val ∧ op.val ≤ 4) → n = 0 ∨ (op ≠ 2 ∧ ¬permitted) ∨ (op = 2 ∧ (st = .free ∨ st = .halted)) →
      ∃ t, exec (.ctxc l 0 rd a) s = .next t ∧ OnlyLane l s t ∧ SameMemory l s t ∧ (t.ctxOf l 0).rx rd = 1 ∧
        (t.lane l).flag 0x40030004 0 = true ∧ ∀ d, d ≠ 0 → t.ctxOf l d = s.ctxOf l d) ∧
    (op = 0 ∨ 5 ≤ op.val → GivesX (.ctxc l 0 rd a) l 0 rd (fun _ => 0) s)

/-- R154, R111 to R115: a wait whose condition is already met completes at once with result 0 and the context goes
on; ltrd reads both words of one tick; evpost, lkrel and a put into a queue nobody waits on do what they say.  The
cases with waiters have statements of their own. -/
def Sys2Proof.Claims.MetWaitsGoOn : Prop :=
  ∀ (s : State) (l : LaneId) (c : CtxNo) (rd a b : RegNo) (tm : Bool) (n : BitVec 8), Ready s l c →
    let L := s.lane l
    let x := s.ctxOf l c
    (∃ t, exec (.ltrd l c rd a) s = .next t ∧ OnlyCtx l c s t ∧ (t.ctxOf l c).pc = x.pc + 4 ∧
      ∀ r, (t.ctxOf l c).rx r = if r = a ∧ r ≠ 0 then BitVec.ofNat 32 (L.lt / 2 ^ 32)
        else if r = rd ∧ r ≠ 0 then BitVec.ofNat 32 L.lt else x.rx r) ∧
    (a.val % 2 = 0 → (x.rx a).toNat + 2 ^ 32 * (x.rx (a.val + 1)).toNat ≤ L.lt →
      GivesX (.wtlt l c rd a) l c rd (fun _ => 0) s) ∧
    (tm = true ∧ b.val % 2 = 0 ∨ tm = false ∧ b = 0 →
      (n.toNat < 160 → L.bitAt 0x40030040 n.toNat = true →
        ∃ t, exec (.wtev l c rd tm b n) s = .next t ∧ OnlyLane l s t ∧ SameMemory l s t ∧ WroteX l c rd 0 s t ∧
          (t.lane l).bitAt 0x40030040 n.toNat = false ∧
          OnlyRegs l [0x40030040 + 4 * (n.toNat / 32)] s t ∧ (t.ctxOf l c).st = x.st) ∧
      (n.toNat < 32 → L.waiting 4 n.toNat = [] → ∀ w ws, L.queue n.toNat = w :: ws →
        ∃ t, exec (.qget l c rd a tm b n) s = .next t ∧ OnlyLane l s t ∧ SameMemory l s t ∧
          (t.lane l).queue n.toNat = ws ∧ (t.ctxOf l c).pc = x.pc + 4 ∧
          (∀ r, (t.ctxOf l c).rx r = if r = a ∧ r ≠ 0 then w else if r = rd ∧ r ≠ 0 then 0 else x.rx r) ∧
          (t.lane l).rd (0x40030100 + 4 * n.toNat) = BitVec.ofNat 32 ws.length) ∧
      (n.toNat < 32 → L.waiting 3 n.toNat = [] → (L.queue n.toNat).length < 64 →
        ∃ t, exec (.qput l c rd a tm b n) s = .next t ∧ OnlyLane l s t ∧ SameMemory l s t ∧ WroteX l c rd 0 s t ∧
          (t.lane l).queue n.toNat = L.queue n.toNat ++ [x.rx a]) ∧
      (n.toNat < 64 → (L.lock n.toNat).held = false →
        ∃ t, exec (.lkacq l c rd tm b n) s = .next t ∧ OnlyLane l s t ∧ SameMemory l s t ∧
          WroteX l c rd (if (L.lock n.toNat).abandoned then 2 else 0) s t ∧
          (t.lane l).lock n.toNat = ⟨true, c, false⟩ ∧
          ∀ m, m ≠ n.toNat → (t.lane l).lock m = L.lock m) ∧
      (c = 0 → (∃ k, k < 4 ∧ L.rd (0x40030020 + 4 * k) ≠ 0) → GivesX (.wtflt l c rd tm b) l c rd (fun _ => 0) s)) ∧
    (n.toNat < 64 → (L.lock n.toNat).held = true → (L.lock n.toNat).holder = c.val → L.waiting 5 n.toNat = [] →
      ∃ t, exec (.lkrel l c n) s = .next t ∧ OnlyLane l s t ∧ SameMemory l s t ∧
        ((t.lane l).lock n.toNat).held = false ∧ (t.ctxOf l c).pc = x.pc + 4 ∧ (t.ctxOf l c).x = x.x) ∧
    (n.toNat < 64 → L.waiting 2 (96 + n.toNat) = [] →
      ∃ t, exec (.evpost l c n) s = .next t ∧ OnlyLane l s t ∧ SameMemory l s t ∧
        (t.lane l).bitAt 0x40030040 (96 + n.toNat) = true ∧ (t.ctxOf l c).pc = x.pc + 4 ∧
        OnlyRegs l [0x40030040 + 4 * ((96 + n.toNat) / 32)] s t)

/-- R111 to R115, R122: a wait whose condition is not met, with no timeout that has passed, puts the context into
WAITING with its KIND; a timeout that has passed gives 1 at once; a misuse of a lock is a LOCK fault, wtflt outside
context 0 a PRIV fault. -/
def Sys2Proof.Claims.UnmetWaitsWait : Prop :=
  ∀ (s : State) (l : LaneId) (c : CtxNo) (rd a b : RegNo) (tm : Bool) (n : BitVec 8), Ready s l c →
    let L := s.lane l
    let x := s.ctxOf l c
    let limit := (x.rx b).toNat + 2 ^ 32 * (x.rx (b.val + 1)).toNat
    (a.val % 2 = 0 → L.lt < (x.rx a).toNat + 2 ^ 32 * (x.rx (a.val + 1)).toNat →
      Waits (.wtlt l c rd a) l c 1 0 s) ∧
    ((tm = true ∧ b.val % 2 = 0 ∧ L.lt < limit) ∨ (tm = false ∧ b = 0) →
      (n.toNat < 160 → L.bitAt 0x40030040 n.toNat = false → Waits (.wtev l c rd tm b n) l c 2 n.toNat s) ∧
      (n.toNat < 32 → L.queue n.toNat = [] → Waits (.qget l c rd a tm b n) l c 3 n.toNat s) ∧
      (n.toNat < 32 → 64 ≤ (L.queue n.toNat).length → Waits (.qput l c rd a tm b n) l c 4 n.toNat s) ∧
      (n.toNat < 64 → (L.lock n.toNat).held = true → (L.lock n.toNat).holder ≠ c.val →
        Waits (.lkacq l c rd tm b n) l c 5 n.toNat s) ∧
      (c = 0 → (∀ k, k < 4 → L.rd (0x40030020 + 4 * k) = 0) → Waits (.wtflt l c rd tm b) l c 7 0 s) ∧
      (c ≠ 0 → Faults (.wtflt l c rd tm b) l c 2 none s)) ∧
    (tm = true → b.val % 2 = 0 → limit ≤ L.lt →
      (n.toNat < 160 → L.bitAt 0x40030040 n.toNat = false →
        GivesX (.wtev l c rd tm b n) l c rd (fun _ => 1) s) ∧
      (n.toNat < 32 → L.queue n.toNat = [] → GivesX (.qget l c rd a tm b n) l c rd (fun _ => 1) s)) ∧
    (c ≠ 0 → n.toNat < 64 → (L.lock n.toNat).held = true → (L.lock n.toNat).holder = c.val →
      (tm = true ∧ b.val % 2 = 0) ∨ (tm = false ∧ b = 0) → Faults (.lkacq l c rd tm b n) l c 7 none s) ∧
    (c ≠ 0 → n.toNat < 64 → ((L.lock n.toNat).held = false ∨ (L.lock n.toNat).holder ≠ c.val) →
      Faults (.lkrel l c n) l c 7 none s)

/-- R112 to R115: what ends a wait: a met condition gives 0 (WAIT_COMPLETE), an expired timeout alone gives 1
(WAIT_TIMEOUT); a signal, a word put or a lock released goes to the one context that waits for it. -/
def Sys2Proof.Claims.WaitersReceiveWhatTheyWaitFor : Prop :=
  ∀ (s : State) (l : LaneId) (c d : CtxNo) (rd a : RegNo) (n : BitVec 8),
    let L := s.lane l
    let y := s.ctxOf l d
    (L.phase = .run → L.halted = false → y.st = .waiting → y.wait.kind = 1 → y.wait.time ≤ L.lt →
      ∃ t, exec (.waitComplete l d) s = .next t ∧ OnlyCtx l d s t ∧ (t.ctxOf l d).st = .ready ∧
        (t.ctxOf l d).wait = Wait.none ∧ (t.ctxOf l d).pc = y.pc ∧
        ∀ r, (t.ctxOf l d).rx r = if r = y.wait.rd ∧ r ≠ 0 then 0 else y.rx r) ∧
    (L.phase = .run → L.halted = false → y.st = .waiting → L.timedOut d = true → L.condMet d = false →
      ∃ t, exec (.waitTimeout l d) s = .next t ∧ OnlyCtx l d s t ∧ (t.ctxOf l d).st = .ready ∧
        (t.ctxOf l d).wait = Wait.none ∧ (t.ctxOf l d).pc = y.pc ∧
        ∀ r, (t.ctxOf l d).rx r = if r = y.wait.rd ∧ r ≠ 0 then 1 else y.rx r) ∧
    (Ready s l c → c ≠ d → n.toNat < 64 → L.waiting 2 (96 + n.toNat) = [d.val] →
      ∃ t, exec (.evpost l c n) s = .next t ∧ OnlyLane l s t ∧ (t.ctxOf l d).st = .ready ∧
        (∀ r, (t.ctxOf l d).rx r = if r = y.wait.rd ∧ r ≠ 0 then 0 else y.rx r) ∧
        (t.lane l).regs = L.regs) ∧
    (Ready s l c → c ≠ d → n.toNat < 32 → L.waiting 3 n.toNat = [d.val] → (L.queue n.toNat).length < 64 →
      ∃ t, exec (.qput l c rd a false 0 n) s = .next t ∧ OnlyLane l s t ∧ (t.ctxOf l d).st = .ready ∧
        (∀ r, (t.ctxOf l d).rx r = if r = y.wait.rd2 ∧ r ≠ 0 then (s.ctxOf l c).rx a
          else if r = y.wait.rd ∧ r ≠ 0 then 0 else y.rx r) ∧
        (t.lane l).queue n.toNat = L.queue n.toNat) ∧
    (Ready s l c → c ≠ d → n.toNat < 64 → L.waiting 5 n.toNat = [d.val] →
      (L.lock n.toNat).held = true → (L.lock n.toNat).holder = c.val →
      ∃ t, exec (.lkrel l c n) s = .next t ∧ OnlyLane l s t ∧ (t.ctxOf l d).st = .ready ∧
        (t.lane l).lock n.toNat = ⟨true, d, false⟩)

/-- R107, R108, R110, R125, R126: the scheduler gives an idle core to the only READY context whose affinity admits
it, and does nothing when no context is READY; a missed deadline is counted once; a debug halt stops the cores and a
resume lets them go on, a context halted by brk at the next instruction or at the PC that the debug port wrote (R150); the context file takes writes only of FREE and HALTED contexts. -/
def Obligations.SchedulerDeadlinesAndDebug : Prop :=
  ∀ (s : State) (l : LaneId) (c : CtxNo) (k : Fin 6) (ofs : Fin 0x10000) (v : Word),
    let L := s.lane l
    let x := s.ctxOf l c
    (s.coresRun l = true → L.inState .ready = [] → exec (.schedulerDispatch l) s = .next s) ∧
    (s.coresRun l = true → L.inState .ready = [c.val] → (L.affinity c).testBit k.val = true →
      L.flag (0x40030080 + 4 * k.val) 7 = true →
      (∀ j, j < k.val → L.flag (0x40030080 + 4 * j) 7 = false) →
      ∃ t, exec (.schedulerDispatch l) s = .next t ∧ OnlyLane l s t ∧ SameMemory l s t ∧
        (t.ctxOf l c).st = .running ∧ (t.ctxOf l c).core = k.val ∧
        (t.lane l).rd (0x40030080 + 4 * k.val) = BitVec.ofNat 32 c ∧
        (t.ctxOf l c).deadline = x.deadline ∧ (∀ d, d ≠ c.val → t.ctxOf l d = s.ctxOf l d) ∧
        OnlyRegs l [0x40030080 + 4 * k.val] s t) ∧
    (L.phase = .run → x.st = .ready ∨ x.st = .running → x.missed = false → x.deadline ≤ L.lt →
      ∃ t, exec (.deadlineMiss l c) s = .next t ∧ OnlyLane l s t ∧ SameMemory l s t ∧
        (t.ctxOf l c).dlmiss = true ∧ (t.ctxOf l c).st = x.st ∧ (t.lane l).bitAt 0x40030030 c = true ∧
        (t.lane l).rd 0x40030060 = satAdd (L.rd 0x40030060) 1 ∧ exec (.deadlineMiss l c) t = .next t) ∧
    (L.phase = .run → L.debugOpen = true →
      ∃ t, exec (.debugHalt l) s = .next t ∧ (t.lane l).halted = true ∧ OnlyLane l s t ∧
        { t.lane l with halted := false } = { L with halted := false }) ∧
    (L.halted = true → L.inState .waiting = [] → L.brkCtx = some c.val →
      ∀ go : Option Word, ∃ t, exec (.debugResume ⟨l, go⟩) s = .next t ∧ (t.lane l).halted = false ∧
        OnlyLane l s t ∧
        t.ctxOf l c = { x with pc := match go with | none => x.pc + 4 | some pc => pc &&& 0xFFFFFFFC } ∧
        (∀ d, d ≠ c.val → t.ctxOf l d = s.ctxOf l d) ∧ (t.lane l).wdogDue = L.lt + L.wdogPer * 100000) ∧
    (ofs.val / 0x200 = c.val → x.st = .free ∨ x.st = .halted → ofs.val % 0x200 = 0x180 →
      ∃ t, exec (.contextFileWrite l ofs v) s = .next t ∧ OnlyCtx l c s t ∧
        t.ctxOf l c = { x with pc := v &&& 0xFFFFFFFC }) ∧
    (ofs.val / 0x200 = c.val → x.st = .ready ∨ x.st = .running ∨ x.st = .waiting →
      ∃ t, exec (.contextFileWrite l ofs v) s = .next t ∧ (∀ d, t.ctxOf l d = s.ctxOf l d) ∧
        (t.lane l).flag 0x40030004 1 = true ∧ OnlyRegs l [0x40030004] s t)

/-- R157 to R161, R133: edge and pair put a command on the lane's switch link, stamped with the rounded time or
unstamped, and never touch the curd queue; a full path makes the context wait with KIND ENGINE; a descriptor or
value outside its range is an ENGINE fault. -/
def Sys2Proof.Claims.EdgeAndPairSendCommands : Prop :=
  ∀ (s : State) (l : LaneId) (c : CtxNo) (a b d : RegNo) (ch : ChNo) (br : BrNo) (lv : Bool), Ready s l c →
    let L := s.lane l
    let x := s.ctxOf l c
    let time := (x.rx b).toNat + 2 ^ 32 * (x.rx (b.val + 1)).toNat
    (L.flag 0x400F0040 0 = true → L.link.countP LinkMsg.onPath < 64 →
      (b.val % 2 = 0 → x.rx a = BitVec.ofNat 32 (ch.val + (if lv then 256 else 0)) →
        ∃ t, exec (.edge l c a b) s = .next t ∧ OnlyLane l s t ∧
          (t.lane l).link = L.link ++ [.cmd ⟨ch, (time + 50) / 100 * 100, L.seq, .level lv, none, none⟩] ∧
          (t.lane l).seq = L.seq + 1 ∧ (t.lane l).spx.ents = L.spx.ents ∧
          (t.ctxOf l c).pc = x.pc + 4 ∧ (t.ctxOf l c).x = x.x) ∧
      (x.rx a = BitVec.ofNat 32 ch → 20 ≤ (x.rx b).toNat → (x.rx b).toNat ≤ 1048575 →
        (x.rx d).toNat ≤ 1048575 →
        ∃ t, exec (.pair l c a b d) s = .next t ∧ OnlyLane l s t ∧ SameMemory l s t ∧
          (t.lane l).link = L.link ++
            [.cmd ⟨ch, 0, L.seq, .pair (x.rx b).toNat (x.rx d).toNat, none, none⟩] ∧
          (t.lane l).regs = L.regs ∧ (t.ctxOf l c).pc = x.pc + 4 ∧ (t.ctxOf l c).x = x.x) ∧
      (x.rx a = BitVec.ofNat 32 (br.val + 256) → 100 ≤ (x.rx b).toNat → (x.rx b).toNat ≤ 65535 →
        (x.rx d).toNat ≤ 65535 →
        ∃ t, exec (.pair l c a b d) s = .next t ∧
          (t.lane l).link = L.link ++
            [.cmd ⟨208 + br, 0, L.seq, .pair (x.rx b).toNat (x.rx d).toNat, none, none⟩])) ∧
    (64 ≤ L.link.countP LinkMsg.onPath →
      (b.val % 2 = 0 → Waits (.edge l c a b) l c 6 0 s) ∧ Waits (.pair l c a b d) l c 6 0 s) ∧
    (c ≠ 0 → L.link.countP LinkMsg.onPath < 64 → 512 ≤ (x.rx a).toNat ∨ 208 ≤ (x.rx a).toNat % 256 →
      (b.val % 2 = 0 → Faults (.edge l c a b) l c 9 none s) ∧ Faults (.pair l c a b d) l c 9 none s)

/-- R157, R162, R163, R170, R171: curd: a full command queue of the engine makes the context wait; a full curd queue, a
channel with four outstanding edges and an issue time less than
20 us away are refused with their codes, in that order, and counted; otherwise the edge is entered PENDING under a
handle with bits 31:22 clear, in an entry that was free, and its command goes out stamped with the issue time. -/
def Sys2Proof.Claims.CurdEntersAnEdgeOrSaysWhyNot : Prop :=
  ∀ (s : State) (l : LaneId) (c : CtxNo) (rd a b d : RegNo) (ch : ChNo) (lv : Bool), Ready s l c →
    let L := s.lane l
    let x := s.ctxOf l c
    let time := ((x.rx b).toNat + 2 ^ 32 * (x.rx (b.val + 1)).toNat + 50) / 100 * 100
    let busy := (L.spx.ents.filter (fun e => e.2.st != 0 && e.2.ch == ch.val)).length
    b.val % 2 = 0 → x.rx a = BitVec.ofNat 32 (ch.val + (if lv then 256 else 0)) →
    1 ≤ (x.rx d).toNat → (x.rx d).toNat ≤ 500000 →
    (16 ≤ L.spxQ.length → Waits (.curd l c rd a b d) l c 6 0 s) ∧
    (L.spxQ.length < 16 →
    let refused := fun (v : Word) => ∃ t, exec (.curd l c rd a b d) s = .next t ∧ OnlyLane l s t ∧
      SameMemory l s t ∧ WroteX l c rd v s t ∧ (t.lane l).spx = L.spx ∧ (t.lane l).link = L.link ∧
      (t.lane l).rd 0x40060020 = satAdd (L.rd 0x40060020) 1
    (1024 ≤ L.occ → refused 0x80000001) ∧
    (L.occ < 1024 → 4 ≤ busy → refused 0x80000002) ∧
    (L.occ < 1024 → busy < 4 → time < L.lt + 2000 → refused 0x80000003) ∧
    (L.occ < 1024 → busy < 4 → L.lt + 2000 ≤ time → L.flag 0x400F0040 0 = true →
      ∃ t h, exec (.curd l c rd a b d) s = .next t ∧ OnlyLane l s t ∧ WroteX l c rd (BitVec.ofNat 32 h) s t ∧
        h < 2 ^ 22 ∧ (L.ent (h % 1024)).st = 0 ∧
        (let e := (t.lane l).ent (h % 1024)
         e.st = 1 ∧ e.used = true ∧ e.gen = h / 1024 ∧ e.ch = ch.val ∧ e.level = lv ∧ e.at_ = time ∧
           e.dl = (x.rx d).toNat ∧ e.src = 1 ∧ e.drainAt = none) ∧
        (t.lane l).link = L.link ++ [.cmd ⟨ch, time, L.seq, .level lv, some h, none⟩]))

/-- R157, R164, R165: with room in the engine's command queue, set, drain and crdst on every value that can be a handle
complete: each writes a code to its destination and moves on to the next word, whatever the entry that the handle names. -/
def Sys2Proof.Claims.HandleCommandsComplete : Prop :=
  ∀ (s : State) (l : LaneId) (c : CtxNo) (rd a : RegNo), Ready s l c → ((s.ctxOf l c).rx a).toNat < 2 ^ 22 →
    (s.lane l).spxQ.length < 16 →
    (∃ t v, exec (.setEdge l c rd a) s = .next t ∧ OnlyLane l s t ∧ WroteX l c rd v s t) ∧
    (∃ t v, exec (.drain l c rd a) s = .next t ∧ OnlyLane l s t ∧ WroteX l c rd v s t) ∧
    (∃ t v, exec (.crdst l c rd a) s = .next t ∧ OnlyLane l s t ∧ WroteX l c rd v s t)

/-- R157, R164, R165, R171, R172, R178: set, drain and crdst on a handle complete for every entry that the handle may
name.  A full command queue of the engine makes the context wait.  A stale handle gives 7, a resolved one its code, an edge that
a drain let fire 3; crdst tells whether the edge has fired, and an edge whose issue time or deadline has come fires or
resolves first; a set before the issue time gives 0 and one after it 1, and both resolve the entry as set; a drain 20 us
or more ahead gives 0, cancels the command and leaves no record, a later one before the firing gives 1 and leaves the
entry PENDING, and one after it gives 1 and resolves the entry as drained, with its count and E60. -/
def Sys2Proof.Claims.HandlesResolveEdges : Prop :=
  ∀ (s : State) (l : LaneId) (c : CtxNo) (rd a : RegNo) (h : Nat), Ready s l c →
    (s.ctxOf l c).rx a = BitVec.ofNat 32 h → h < 2 ^ 22 →
    let L := s.lane l
    let e := L.ent (h % 1024)
    let own := e.used = true ∧ e.gen = h / 1024
    let fired := e.st = 2 ∧ L.lt < e.at_ + 100 * e.dl
    let all := fun (v : Word) => GivesSpx (.setEdge l c rd a) l c rd v s ∧ GivesSpx (.drain l c rd a) l c rd v s ∧
      GivesSpx (.crdst l c rd a) l c rd v s
    (16 ≤ L.spxQ.length → Waits (.setEdge l c rd a) l c 6 0 s ∧ Waits (.drain l c rd a) l c 6 0 s ∧
      Waits (.crdst l c rd a) l c 6 0 s) ∧
    (L.spxQ.length < 16 →
      (¬own → all 7) ∧
      (own → e.st = 0 → all (BitVec.ofNat 32 e.res)) ∧
      (own → e.st = 1 → L.lt < e.at_ → e.drainAt ≠ none → all 3) ∧
      (own → (e.st = 1 ∧ L.lt < e.at_) ∨ fired → e.drainAt = none →
        GivesSpx (.crdst l c rd a) l c rd (if L.lt < e.at_ then 0 else 1) s ∧
        (∃ t, exec (.setEdge l c rd a) s = .next t ∧ OnlyLane l s t ∧
          WroteX l c rd (if L.lt < e.at_ then 0 else 1) s t ∧ ((t.lane l).ent (h % 1024)).st = 0 ∧
          ((t.lane l).ent (h % 1024)).res = 2 ∧ (t.lane l).link = L.link ∧
          (t.lane l).spx.unsent.length = L.spx.unsent.length + 1)) ∧
      (own → e.st = 1 → L.lt + 2000 ≤ e.at_ → e.drainAt = none → L.flag 0x400F0040 0 = true →
        ∃ t, exec (.drain l c rd a) s = .next t ∧ OnlyLane l s t ∧ SameMemory l s t ∧ WroteX l c rd 0 s t ∧
          ((t.lane l).ent (h % 1024)).st = 0 ∧ ((t.lane l).ent (h % 1024)).res = 3 ∧
          (t.lane l).link = L.link ++ [.cancel h L.lt] ∧ (t.lane l).spx.held = L.spx.held) ∧
      (own → e.st = 1 → L.lt < e.at_ → e.at_ < L.lt + 2000 → e.drainAt = none →
        ∃ t, exec (.drain l c rd a) s = .next t ∧ OnlyLane l s t ∧ SameMemory l s t ∧ WroteX l c rd 1 s t ∧
          (t.lane l).ent (h % 1024) = { e with drainAt := some L.lt } ∧ (t.lane l).link = L.link) ∧
      (own → fired → e.at_ ≤ L.lt → e.drainAt = none →
        ∃ t, exec (.drain l c rd a) s = .next t ∧ OnlyLane l s t ∧ WroteX l c rd 1 s t ∧
          ((t.lane l).ent (h % 1024)).st = 0 ∧ ((t.lane l).ent (h % 1024)).res = 3 ∧
          (t.lane l).rd 0x40060014 = satAdd (L.rd 0x40060014) 1 ∧ Pends l 60 s t) ∧
      (own → e.st = 1 → e.at_ ≤ L.lt → L.lt < e.at_ + 100 * e.dl → e.drainAt = none →
        ∃ t, exec (.crdst l c rd a) s = .next t ∧ OnlyLane l s t ∧ WroteX l c rd 1 s t ∧
          ((t.lane l).ent (h % 1024)).st = 2) ∧
      (own → e.st = 2 → e.at_ + 100 * e.dl ≤ L.lt →
        ∃ t, exec (.crdst l c rd a) s = .next t ∧ OnlyLane l s t ∧
          WroteX l c rd (if e.level then 3 else 2) s t ∧ ((t.lane l).ent (h % 1024)).st = 0))

/-- R164, R162, R158: a value in xh whose bits 31:22 are not 0, a curd descriptor with a reserved bit or a channel
above 207, and a deadline offset of 0 or above 500,000 are refused where the engine has room for the command: an ENGINE
fault with nothing done. -/
def Sys2Proof.Claims.SpeculationRefusesBadOperands : Prop :=
  ∀ (s : State) (l : LaneId) (c : CtxNo) (rd a b d : RegNo), Ready s l c → c ≠ 0 →
    (s.lane l).spxQ.length < 16 →
    let x := s.ctxOf l c
    (2 ^ 22 ≤ (x.rx a).toNat → Faults (.setEdge l c rd a) l c 9 none s ∧ Faults (.drain l c rd a) l c 9 none s ∧
      Faults (.crdst l c rd a) l c 9 none s) ∧
    (b.val % 2 = 0 → 512 ≤ (x.rx a).toNat ∨ 208 ≤ (x.rx a).toNat % 256 ∨ x.rx d = 0 ∨ 500000 < (x.rx d).toNat →
      Faults (.curd l c rd a b d) l c 9 none s)

/-- R157, R166, R383, R393, R395: lpwr, lprd and lphold: a full command queue of the engine makes the context wait; an
accepted parameter is held under its mask, CTL with EN 0 or of an enabled loop as any other and with EN 1 of a stopped
loop as the first refused condition of R395 allows; lprd returns the parameter as the loop's last boundary left it,
lphold sets HOLD of a loop that does not run at once; a loop number above 63 or a parameter that does not exist is an
ENGINE fault. -/
def Obligations.LoopParameterInstructions : Prop :=
  ∀ (s : State) (l : LaneId) (c : CtxNo) (rd a b : RegNo) (k : Fin 64) (p : Fin 32), Ready s l c →
    let L := s.lane l
    let x := s.ctxOf l c
    (16 ≤ L.lpeQ.length → Waits (.lpwr l c a b p) l c 6 0 s ∧ Waits (.lprd l c rd a p) l c 6 0 s ∧
      Waits (.lphold l c a b) l c 6 0 s) ∧
    (L.lpeQ.length < 16 → x.rx a = BitVec.ofNat 32 k →
      (1 ≤ p.val → p.val ≤ 20 → (p.val ≤ 4 → L.loopOn k = false) →
        ∃ t, exec (.lpwr l c a b p) s = .next t ∧ OnlyLane l s t ∧ SameMemory l s t ∧
          (t.lane l).loopAcc k p = x.rx b &&& loopMask p ∧
          (∀ j q, (j ≠ k.val ∨ q ≠ p.val) → (t.lane l).loopAcc j q = L.loopAcc j q) ∧
          (t.lane l).regs = L.regs ∧ (t.ctxOf l c).x = x.x ∧ (t.ctxOf l c).pc = x.pc + 4) ∧
      (bitOf (x.rx b) 0 = false ∨ L.loopOn k = true → bitOf (x.rx b) 4 = false →
        ∃ t, exec (.lpwr l c a b 0) s = .next t ∧ OnlyLane l s t ∧ SameMemory l s t ∧
          (t.lane l).loopAcc k 0 = x.rx b &&& 0xD ∧ (t.ctxOf l c).x = x.x ∧ (t.ctxOf l c).pc = x.pc + 4) ∧
      (bitOf (x.rx b) 0 = true → L.loopOn k = false → bitOf (x.rx b) 4 = false →
        ∃ t, exec (.lpwr l c a b 0) s = .next t ∧ OnlyLane l s t ∧ SameMemory l s t ∧
          (t.ctxOf l c).x = x.x ∧ (t.ctxOf l c).pc = x.pc + 4 ∧
          (s.enableErr l k = 0 → ((t.lane l).loop k).run = true ∧ (t.lane l).loopAcc k 0 = x.rx b &&& 0xD) ∧
          (s.enableErr l k ≠ 0 → (t.lane l).loopOn k = false ∧ ((t.lane l).loop k).run = (L.loop k).run ∧
            (t.lane l).fld 0x400C0000 20 3 = s.enableErr l k)) ∧
      (p.val ≤ 25 → ∃ t, exec (.lprd l c rd a p) s = .next t ∧ OnlyLane l s t ∧
        WroteX l c rd ((L.loop k).param p) s t ∧ (t.lane l).lpeQ = L.lpeQ ++ [6] ∧
        { t.lane l with ctxs := [], lpeQ := [] } = { L with ctxs := [], lpeQ := [] }) ∧
      ((L.loop k).run = false →
        ∃ t, exec (.lphold l c a b) s = .next t ∧ OnlyLane l s t ∧ SameMemory l s t ∧
          loopHold ((t.lane l).loop k).p = (x.rx b).getLsbD 0 ∧ (t.ctxOf l c).x = x.x ∧
          (t.ctxOf l c).pc = x.pc + 4) ∧
      ((L.loop k).run = true →
        ∃ t, exec (.lphold l c a b) s = .next t ∧ OnlyLane l s t ∧ SameMemory l s t ∧
          (t.lane l).lpe.wq = L.lpe.wq ++ [⟨L.lt, 0, k, 32, x.rx b &&& 1⟩] ∧ (t.lane l).loop k = L.loop k ∧
          (t.ctxOf l c).x = x.x ∧ (t.ctxOf l c).pc = x.pc + 4)) ∧
    (c ≠ 0 → L.lpeQ.length < 16 → 64 ≤ (x.rx a).toNat → Faults (.lpwr l c a b p) l c 9 none s ∧
      Faults (.lprd l c rd a p) l c 9 none s ∧ Faults (.lphold l c a b) l c 9 none s) ∧
    (c ≠ 0 → L.lpeQ.length < 16 → x.rx a = BitVec.ofNat 32 k →
      (21 ≤ p.val → Faults (.lpwr l c a b p) l c 9 none s) ∧ (26 ≤ p.val → Faults (.lprd l c rd a p) l c 9 none s))

/-- R133, R134, R168, R169: a matrix command with aligned blocks is accepted into a queue with room and writes its
ticket, the unit's count of accepted commands; a full queue makes the context wait, a misaligned address is an
ENGINE fault; mwait returns the status of a command that has completed and waits for one that has not. -/
def Sys2Proof.Claims.MatrixCommandsAreQueuedUnderTickets : Prop :=
  ∀ (s : State) (l : LaneId) (c : CtxNo) (rd a b d : RegNo), Ready s l c →
    let L := s.lane l
    let x := s.ctxOf l c
    let queued := fun (i : Instr) (op : Nat) => ∃ t, exec i s = .next t ∧ OnlyLane l s t ∧ SameMemory l s t ∧
      WroteX l c rd (L.mat.last + 1) s t ∧ (t.lane l).mat.last = L.mat.last + 1 ∧
      (t.lane l).mat.done = L.mat.done ∧ (t.lane l).regs = L.regs ∧
      ∃ m, (t.lane l).mat.queue = L.mat.queue ++ [m] ∧ m.op = op ∧ m.c = x.rx a ∧ m.a = x.rx b ∧
        m.ctx = c.val ∧ m.ticket = L.mat.last + 1 ∧ m.rm = fieldNat x.flg 6 2
    (L.mat.queue.length < 8 → (x.rx a).toNat % 16 = 0 → (x.rx b).toNat % 16 = 0 →
      queued (.mscal l c rd a b d) 20 ∧ queued (.mchol l c rd a b) 21 ∧
      ((x.rx d).toNat % 16 = 0 → queued (.mmul l c rd a b d) 16 ∧ queued (.mmult l c rd a b d) 17 ∧
        queued (.madd l c rd a b d) 18 ∧ queued (.msub l c rd a b d) 19 ∧ queued (.msolve l c rd a b d) 22)) ∧
    (8 ≤ L.mat.queue.length → Waits (.mmul l c rd a b d) l c 6 0 s ∧ Waits (.mmult l c rd a b d) l c 6 0 s ∧
      Waits (.madd l c rd a b d) l c 6 0 s ∧ Waits (.msub l c rd a b d) l c 6 0 s ∧
      Waits (.mscal l c rd a b d) l c 6 0 s ∧ Waits (.mchol l c rd a b) l c 6 0 s ∧
      Waits (.msolve l c rd a b d) l c 6 0 s) ∧
    (c ≠ 0 → L.mat.queue.length < 8 → (x.rx a).toNat % 16 ≠ 0 →
      Faults (.mmul l c rd a b d) l c 9 none s ∧ Faults (.mmult l c rd a b d) l c 9 none s ∧
      Faults (.madd l c rd a b d) l c 9 none s ∧ Faults (.msub l c rd a b d) l c 9 none s ∧
      Faults (.mscal l c rd a b d) l c 9 none s ∧ Faults (.mchol l c rd a b) l c 9 none s ∧
      Faults (.msolve l c rd a b d) l c 9 none s) ∧
    (∀ st, L.ticketStatus (x.rx a) = some st → GivesX (.mwait l c rd a) l c rd (fun _ => BitVec.ofNat 32 st) s) ∧
    (L.ticketStatus (x.rx a) = none → Waits (.mwait l c rd a) l c 6 0 s) ∧
    (0 < (x.rx a - L.mat.last).toInt → L.ticketStatus (x.rx a) = some 6)

/-- R134, R167 to R169: the unit completes the command at the head of its queue: a status of 1, 3 or 4 leaves all of
memory as it was; a sum, difference or scaling that passes the checks writes each element of C as the float operation
gives it under the rounding mode of issue, with the dimensions in C's header.  The operands are the words of the
operand blocks as `Lane.matWord` gives them (R134: old or new where a program wrote meanwhile).  The mchol of the LKP is
followed by its msolve in the same queue (R369, R370). -/
def Sys2Proof.Claims.MatrixCommandsComplete : Prop :=
  ∀ (s : State) (l : LaneId) (m : MatCmd) (ms : List MatCmd), s.power = 0 → (s.lane l).mat.queue = m :: ms →
    let L := s.lane l
    let a := L.mBlk m m.a.toNat
    let b := L.mBlk m m.b.toNat
    let k := L.mBlk m m.c.toNat
    let own := m.ctx < 128 ∧ ∀ z, L.lkp.solve = some z → z.tic.isSome = true ∧ z.tic ≠ some m.ticket
    (∀ st, own → L.matCheck m = some st → ∃ t, exec (.matrixCommandComplete l) s = .next t ∧ OnlyLane l s t ∧
      SameMemory l s t ∧ (t.lane l).mat.queue.length = ms.length ∧
      (t.lane l).mat.done.head? = some (m.ticket.toNat, st) ∧ (st ≠ 3 → (t.lane l).regs = L.regs) ∧
      (st = 3 → OnlyRegs l [0x40040080] s t)) ∧
    (∀ z, L.lkp.solve = some z → z.tic = some m.ticket → z.op = 21 → m.ctx = 128 → ms.length < 8 →
      (∀ k, k ∈ ms → k.ticket ≠ m.ticket) → (m.ticket - L.mat.last).toInt ≤ 0 →
      L.servesAll .dma0 m.c.toNat 4096 = true →
      ∃ t, exec (.matrixCommandComplete l) s = .next t ∧ OnlyLane l s t ∧
        (t.lane l).mat.done.head? = some (m.ticket.toNat, 0) ∧ (t.lane l).mat.queue.length = ms.length + 1 ∧
        (t.lane l).mat.last = L.mat.last + 1 ∧
        (∃ n, (t.lane l).mat.queue.getLast? = some n ∧ n.op = 22 ∧ n.ctx = 128 ∧ n.ticket = L.mat.last + 1) ∧
        ∀ x, x < m.c.toNat ∨ m.c.toNat + 4096 ≤ x → t.byte l x = s.byte l x) ∧
    (own → L.matCheck m = none → m.op = 18 ∨ m.op = 19 ∨ m.op = 20 →
      ∃ t, exec (.matrixCommandComplete l) s = .next t ∧ OnlyLane l s t ∧
        (t.lane l).mat.done.head? = some (m.ticket.toNat, 0) ∧ (t.lane l).flash = L.flash ∧
        t.byte l m.c.toNat = BitVec.ofNat 8 a.rows ∧ t.byte l (m.c.toNat + 1) = BitVec.ofNat 8 a.cols ∧
        (∀ i j, i < a.rows → j < a.cols →
          t.word32 l (m.c.toNat + 16 + 4 * (i * k.stride + j)) =
            (let p := L.matWord m (a.at_ i j)
             let q := L.matWord m (b.at_ i j)
             if m.op = 18 then (fadd m.rm p q).1 else if m.op = 19 then (fsub m.rm p q).1
             else (fmul m.rm m.scale p).1)) ∧
        (∀ x, x < m.c.toNat ∨ k.stop a.rows a.cols ≤ x → t.byte l x = s.byte l x))

/-- R133, R157: the engine accepts the command a context waits with as soon as it has room: the context becomes
READY with rd written; while there is no room nothing changes. -/
def Sys2Proof.Claims.WaitingEngineCommandsAreAccepted : Prop :=
  ∀ (s : State) (l : LaneId) (c : CtxNo) (rd a b d : RegNo),
    let L := s.lane l
    let x := s.ctxOf l c
    L.phase = .run → L.halted = false → x.st = .waiting →
    (x.wait.cmd = some (.madd l c rd a b d) → x.wait.rd = rd.val → L.mat.queue.length < 8 →
      (x.rx a).toNat % 16 = 0 → (x.rx b).toNat % 16 = 0 → (x.rx d).toNat % 16 = 0 →
      ∃ t, exec (.engineCommandAccept l c) s = .next t ∧ OnlyLane l s t ∧ SameMemory l s t ∧
        (t.ctxOf l c).st = .ready ∧ (t.ctxOf l c).pc = x.pc ∧ (t.lane l).mat.last = L.mat.last + 1 ∧
        (∀ r, (t.ctxOf l c).rx r = if r = rd ∧ r ≠ 0 then L.mat.last + 1 else x.rx r) ∧
        (t.lane l).mat.queue.length = L.mat.queue.length + 1) ∧
    (x.wait.cmd = some (.madd l c rd a b d) → 8 ≤ L.mat.queue.length →
      exec (.engineCommandAccept l c) s = .next s) ∧
    (x.wait.cmd = some (.edge l c a b) → 64 ≤ L.link.countP LinkMsg.onPath →
      exec (.engineCommandAccept l c) s = .next s) ∧
    (x.wait.cmd = some (.lprd l c rd a 6) → 16 ≤ L.lpeQ.length → exec (.engineCommandAccept l c) s = .next s) ∧
    (∀ h, x.wait.cmd = some (.crdst l c rd a) → x.rx a = BitVec.ofNat 32 h → h < 2 ^ 22 → x.wait.rd = rd.val →
      ((L.ent (h % 1024)).used = false ∨ (L.ent (h % 1024)).gen ≠ h / 1024) →
      (16 ≤ L.spxQ.length → exec (.engineCommandAccept l c) s = .next s) ∧
      (L.spxQ.length < 16 → ∃ t, exec (.engineCommandAccept l c) s = .next t ∧ OnlyLane l s t ∧ SameMemory l s t ∧
        (t.ctxOf l c).st = .ready ∧ (t.ctxOf l c).pc = x.pc ∧ (t.lane l).spxQ.length = L.spxQ.length + 1 ∧
        ∀ r, (t.ctxOf l c).rx r = if r = rd ∧ r ≠ 0 then 7 else x.rx r))

/-- R9, R10, R12: a write of a register follows the access code of each field, a W1C bit that the hardware sets in the
same cycle ends set, a clamped field takes the nearest value
of its range, and nothing else of the module changes (the blocks EVT, SPX, TRK and HST, whose other registers have
no write action of their own); a read clears the RC fields alone. -/
def Sys2Proof.Claims.RegistersFollowTheirAccessCodes : Prop :=
  ∀ (s : State) (l : LaneId) (a v h : Word) (f : Fld),
    let n := a.toNat
    let old := fieldNat (s.reg l n) f.lo f.w
    let new := fieldNat v f.lo f.w
    (n % 4 = 0 → n / 0x10000 ∈ [0x4005, 0x4006, 0x4009, 0x4013] → n ≠ 0x40090000 →
      ∃ t, exec (.registerWrite l a ⟨v, h⟩) s = .next t ∧ OnlyLaneRegs l [n] s t ∧
        (f ∈ laneFlds n → fieldNat (t.reg l n) f.lo f.w =
          match f.acc, f.lim with
          | .rw, some (lo, hi) => max lo (min hi new)
          | .rw, none => new
          | .w1c, _ => (old &&& (2 ^ f.w - 1 - new)) ||| fieldNat h f.lo f.w
          | .w1s, _ => old ||| new
          | .rwl, _ => if (s.lane l).enrolled then old else new
          | .ro, _ | .wo, _ | .rc, _ => old)) ∧
    (n % 4 = 0 → n / 0x10000 ∈ [0x4005, 0x4006, 0x4007, 0x4009, 0x4013] →
      ∃ t, exec (.rcRead l a) s = .next t ∧ OnlyLaneRegs l [n] s t ∧
        (f ∈ laneFlds n → fieldNat (t.reg l n) f.lo f.w = if f.acc = .rc then 0 else old))

/-- R116, R118: a register command at an address where the map holds no register word stops with a fault of its own
(log entry 4). -/
def Sys2Proof.Claims.RegisterCommandsOutsideTheBlocksStop : Prop :=
  ∀ (s : State) (l : LaneId) (a : Word) (v : SyncWord),
    (a.toNat % 4 ≠ 0 ∨ a.toNat < 0x40000000 ∨ 0x40180000 ≤ a.toNat) →
      exec (.registerWrite l a v) s = .fault .noAddress ∧ exec (.rcRead l a) s = .fault .noAddress

/-- R93, R78: a read of NOW_LO returns the low word of LT and latches the high word for the reading context; a read
of GT_LO returns GNSS time of the same tick and latches the rest of it and that tick. -/
def Sys2Proof.Claims.TimeReadsLatchOneInstant : Prop :=
  ∀ (s : State) (l : LaneId) (c : CtxNo),
    let L := s.lane l
    (∃ t, exec (.nowLoRead l c) s = .next t ∧ OnlyCtx l c s t ∧
      t.busWord l c 0x40020004 = BitVec.ofNat 32 (L.lt / 2 ^ 32) ∧
      (s.busRead l c 0x40020000).1 = BitVec.ofNat 32 L.lt ∧
      { t.ctxOf l c with ltLatch := [] } = { s.ctxOf l c with ltLatch := [] } ∧
      ∀ i, 0 < i → Tab.get (t.ctxOf l c).ltLatch 0 i = Tab.get (s.ctxOf l c).ltLatch 0 i) ∧
    (∃ t, exec (.gtLoRead l c) s = .next t ∧ OnlyCtx l c s t ∧
      { t.ctxOf l c with ltLatch := [] } = { s.ctxOf l c with ltLatch := [] } ∧
      t.busWord l c 0x40020004 = s.busWord l c 0x40020004 ∧
      (∀ g : Nat, L.gnssTime = some (g : Int) → g < 2 ^ 64 →
        (s.busRead l c 0x40020020).1 = BitVec.ofNat 32 g ∧
        t.busWord l c 0x40020024 = BitVec.ofNat 32 (g / 2 ^ 32) ∧
        t.busWord l c 0x40020028 = BitVec.ofNat 32 L.lt ∧
        t.busWord l c 0x4002002C = BitVec.ofNat 32 (L.lt / 2 ^ 32)) ∧
      (L.gnssTime = none → (s.busRead l c 0x40020020).1 = 0 ∧ t.busWord l c 0x40020024 = 0 ∧
        t.busWord l c 0x40020028 = 0 ∧ t.busWord l c 0x4002002C = 0))

/-- R548, R549: only context 0 changes the owner of a bank; a write during a hand-over, or of an owner other than
NONE to a bank that is OFF, filling or failed, sets OWN_BUSY alone; a write of the present owner starts nothing;
any other write starts a hand-over, after which the new owner is in effect and E82 is raised. -/
def Sys2Proof.Claims.BanksChangeTheirOwner : Prop :=
  ∀ (s : State) (l : LaneId) (c : CtxNo) (k : SramNo) (own : Fin 8),
    let L := s.lane l
    let st := 0x40040200 + 4 * k.val
    let cfg := 0x40040100 + 4 * k.val
    let closed := own ≠ 0 ∧ (L.bankPower k = 2 ∨ L.flag st 6 = true ∨ L.flag st 7 = true)
    (c ≠ 0 → exec (.bankOwnerWrite l c k own) s = .next s) ∧
    (L.flag st 3 = true ∨ closed → ∃ t, exec (.bankOwnerWrite l 0 k own) s = .next t ∧
      OnlyLaneRegs l [0x40040000] s t ∧ (t.lane l).flag 0x40040000 0 = true) ∧
    (L.flag st 3 = false → ¬closed → own.val = L.owner k → ∃ t, exec (.bankOwnerWrite l 0 k own) s = .next t ∧
      OnlyLaneRegs l [cfg] s t ∧ (t.lane l).fld cfg 0 3 = own.val) ∧
    (L.flag st 3 = false → ¬closed → own.val ≠ L.owner k →
      ∃ t u, exec (.bankOwnerWrite l 0 k own) s = .next t ∧ OnlyLane l s t ∧ OnlyRegs l [cfg, st] s t ∧
        (t.lane l).fld cfg 0 3 = own.val ∧ (t.lane l).bankWaits k = true ∧ (t.lane l).owner k = L.owner k ∧
        exec (.handoverComplete l k) t = .next u ∧ OnlyRegs l ([cfg, st] ++ evRegs) s u ∧ SameMemory l s u ∧
        (u.lane l).owner k = own.val ∧ (u.lane l).flag st 3 = false ∧ (u.lane l).bankPower k = L.bankPower k ∧
        Raises l 82 0 k (BitVec.ofNat 32 own) t u) ∧
    ((Tab.get L.banks ⟨none⟩ k).toOwner = none → exec (.handoverComplete l k) s = .next s)

/-- R550, R551, R9: only context 0 changes a bank's power mode, a write of 3 acts as 0, and bank 23's field is
read-only; OFF of an owned bank and any write while the bank hands over or fills set PWR_REF alone; a bank that
leaves OFF is zero-filled and serves when the fill ends. -/
def Sys2Proof.Claims.BanksChangeTheirPowerMode : Prop :=
  ∀ (s : State) (l : LaneId) (c : CtxNo) (k : SramNo) (p : Fin 4),
    let L := s.lane l
    let st := 0x40040200 + 4 * k.val
    let cfg := 0x40040100 + 4 * k.val
    let act := if p = 3 then 0 else p.val
    let refused := L.bankWaits k = true ∨ (p = 2 ∧ L.owner k ≠ 0)
    (c ≠ 0 ∨ k.val = 23 → exec (.bankPowerWrite l c k p) s = .next s) ∧
    (k.val ≠ 23 → refused → ∃ t, exec (.bankPowerWrite l 0 k p) s = .next t ∧
      OnlyLaneRegs l [0x40040000] s t ∧ (t.lane l).flag 0x40040000 1 = true) ∧
    (k.val ≠ 23 → ¬refused → ¬(L.bankPower k = 2 ∧ act ≠ 2) → ∃ t, exec (.bankPowerWrite l 0 k p) s = .next t ∧
      OnlyLaneRegs l [cfg, st] s t ∧ (t.lane l).bankPower k = act ∧ (t.lane l).owner k = L.owner k ∧
      (t.lane l).bankWaits k = false) ∧
    (k.val ≠ 23 → ¬refused → L.bankPower k = 2 → act ≠ 2 → ∃ t, exec (.bankPowerWrite l 0 k p) s = .next t ∧
      OnlyLane l s t ∧ OnlyRegs l [cfg, st] s t ∧ (t.lane l).bankPower k = act ∧
      (t.lane l).owner k = L.owner k ∧ (t.lane l).bankWaits k = true ∧
      (∀ a, t.byte l a = if a / 0x40000 = k.val then 0 else s.byte l a) ∧
      (t.lane l).flash = L.flash ∧
      ∃ u, exec (.fillComplete l k) t = .next u ∧ OnlyLaneRegs l [st] t u ∧ (u.lane l).bankWaits k = false)

/-- R554, R555, R560, R123: the scrubber changes nothing in a sound word; it corrects and reports a single-bit
error; a double-bit error records its address, marks a bank without owner as failed, and is a lane fault in an owned
one. -/
def Sys2Proof.Claims.TheScrubberCorrectsAndReports : Prop :=
  ∀ (s : State) (l : LaneId) (a : SramWord) (err : Fin 3),
    let L := s.lane l
    let k := a.val / 0x10000
    let st := 0x40040200 + 4 * k
    L.alive = true → L.fld 0x40040004 0 8 ≠ 0 → L.bankPower k ≠ 2 → s.power ≤ 1 →
      let worst := max (Tab.get L.ecc 0 a.val) err.val
      (worst = 0 → exec (.scrub l a err) s = .next s) ∧
      (worst = 1 → ∃ t, exec (.scrub l a err) s = .next t ∧ OnlyLane l s t ∧ SameMemory l s t ∧
        OnlyRegs l ([st, 0x40040000, 0x4004000C] ++ evRegs) s t ∧
        (t.lane l).rd 0x4004000C = BitVec.ofNat 32 (4 * a.val) ∧ (t.lane l).flag 0x40040000 3 = true ∧
        (t.lane l).fld st 16 8 = min 255 (L.fld st 16 8 + 1) ∧ (t.lane l).owner k = L.owner k ∧
        (∀ w, Tab.get (t.lane l).ecc 0 w = if w = a.val then 0 else Tab.get L.ecc 0 w) ∧
        Raises l 80 0 k (BitVec.ofNat 32 (4 * a.val)) s t) ∧
      (2 ≤ worst → L.owner k = 0 → ∃ t, exec (.scrub l a err) s = .next t ∧ OnlyLane l s t ∧ SameMemory l s t ∧
        OnlyRegs l [st, 0x40040010] s t ∧ (t.lane l).flag st 7 = true ∧
        (t.lane l).rd 0x40040010 = BitVec.ofNat 32 (4 * a.val + 0x80000000)) ∧
      (2 ≤ worst → L.owner k ≠ 0 → ∃ t, exec (.scrub l a err) s = .next t ∧ (t.lane l).phase = .off ∧
        (t.lane l).rd 0x40040010 = BitVec.ofNat 32 (4 * a.val + 0x80000000) ∧
        (t.lane l).fld 0x40000010 8 4 = 5 ∧ (t.lane l).flash = L.flash ∧ t.die.units = s.die.units)

/-- R49, R72, R573: RESET_N low holds both lanes in reset with cause 1 and every output off, discards every stored
command, steers every unit that is not DIRECT to the home port and leaves no lane in control; its release lets the
outputs follow again. -/
def Sys2Proof.Claims.ResetNHoldsTheModule : Prop :=
  ∀ s : State,
    (s.rind.resetLow = false → ∃ t, exec .resetNAssert s = .next t ∧
      (∀ l, (t.lane l).phase = .off ∧ (t.lane l).fld 0x40000010 8 4 = 1 ∧ (t.lane l).lt = (s.lane l).lt ∧
        (t.lane l).flash = (s.lane l).flash ∧ (t.lane l).link = []) ∧
      t.die.cmds = ⟨[], []⟩ ∧ t.die.due = ⟨[], []⟩ ∧ t.die.units = [] ∧ t.die.forcedOff = true ∧
      (∀ n, n < 208 → (t.die.swt n).inp = false ∧ (t.die.swt n).ph ≠ 1 ∧ (t.die.swt n).ph ≠ 2) ∧
      (∀ u, u < 232 → t.steer u = if s.steer u = 2 then 2 else s.rind.fld 0x200 0 1) ∧ t.control = none ∧
      t.rind.fld 0x10 16 16 = (s.rind.fld 0x10 16 16 + 1) % 65536 ∧ t.rind.resetLow = true) ∧
    (s.rind.resetLow = true → exec .resetNAssert s = .next s ∧
      ∃ t, exec .resetNRelease s = .next t ∧ t.rind = { s.rind with resetLow := false } ∧
        t.laneA = s.laneA ∧ t.laneB = s.laneB ∧
        { t.die with sw := [], forcedOff := false } = { s.die with sw := [], forcedOff := false } ∧
        t.die.forcedOff = !s.rind.vlogOk ∧ (∀ n, n < 192 → t.die.swt n = s.die.swt n) ∧
        ∀ n, 192 ≤ n → n < 208 → s.steer n = 2 → (s.die.swt n).ph = 0 → (s.die.swt n).tlatch = false →
          (s.die.swt n).locked = false → (s.die.swt n).backoff = none → (s.die.swt n).defer = false →
          (t.die.swt n).inp = false)

/-- R59, R11, R69, R72, R573: a loss of VLOG resets the lanes with cause 0, turns the outputs off and ends a transition; the rind loses its
state only when the hold store is empty too, and keeps its monotonic counters and UPD_CFG; on the next power-up it
takes its address from the straps and steers every unit that is not DIRECT. -/
def Sys2Proof.Claims.SuppliesFailAndReturn : Prop :=
  ∀ (s : State) (strap : Fin 4),
    (s.rind.vlogOk = true → ∃ t, exec .vlogLoss s = .next t ∧
      (∀ l, (t.lane l).phase = .off ∧ (t.lane l).fld 0x40000010 8 4 = 0 ∧ (t.lane l).flash = (s.lane l).flash ∧
        (t.lane l).lt = (s.lane l).lt ∧ t.rind.vlogRec.get l = true) ∧
      t.rind.flag 0x110 16 = true ∧ t.rind.vlogOk = false ∧ t.rind.trans = none ∧ t.rind.flag 0x104 4 = false ∧
      t.die.units = [] ∧ t.die.cmds = ⟨[], []⟩ ∧
      t.die.forcedOff = true ∧ t.control = none ∧ t.rind.mcnt = s.rind.mcnt) ∧
    (s.rind.vlogOk = false → ∃ t, exec .holdStoreEmpty s = .next t ∧ t.die = Die.reset ∧
      t.rind.mcnt = s.rind.mcnt ∧ t.rind.rd 0x220 = s.rind.rd 0x220 ∧
      (∀ a, a ≠ 0x220 → t.rind.rd a = Rind.reset.rd a) ∧ t.rind.holdEmpty = true ∧ t.control = none ∧
      ∀ l, (t.lane l).lt = 0 ∧ (t.lane l).time = TimeSt.reset ∧ (t.lane l).flash = (s.lane l).flash ∧
        (t.lane l).regs = (s.lane l).regs) ∧
    (s.rind.vlogOk = false → ∃ t, exec (.vlogPowerUp strap) s = .next t ∧
      t.rind.vlogOk = true ∧ t.rind.holdEmpty = false ∧
      (∀ l, (s.lane l).alive = false → t.lane l = s.lane l) ∧
      (s.power ≠ 0 → t.rind.trans = some 0 ∧ t.rind.flag 0x104 4 = true ∧
        (s.rind.flag 0x108 11 = true → t.rind.flag 0x10C 11 = true ∧ t.rind.wakeOwed = ⟨true, true⟩)) ∧
      { t.die with sw := [], forcedOff := false } = { s.die with sw := [], forcedOff := false } ∧
      t.die.forcedOff = s.rind.resetLow ∧ (∀ n, n < 192 → t.die.swt n = s.die.swt n) ∧
      (s.rind.holdEmpty = true → t.rind.mgmt.busAddr = 0x58 + strap.val ∧ t.rind.flag 0x110 18 = true) ∧
      (∀ u, u < 232 → t.steer u = if s.rind.holdEmpty = true then 0
        else if s.steer u = 2 then 2 else s.rind.fld 0x200 0 1)) ∧
    (s.rind.vlogOk = true → exec (.vlogPowerUp strap) s = .next s ∧ exec .holdStoreEmpty s = .next s) ∧
    (s.rind.vlogOk = false → exec .vlogLoss s = .next s)

/-- R64: when the crystal fails the module runs on its RC oscillator and each lane out of reset raises E95 with data 3;
the flag falls when the crystal returns. -/
def Sys2Proof.Claims.TheCrystalFailsAndReturns : Prop :=
  ∀ (s : State) (l : LaneId),
    (s.rind.flag 0x110 18 = false → ∃ t, exec .xt32Fail s = .next t ∧ t.rind.flag 0x110 18 = true ∧
      OnlyRindRegs [0x110] s t ∧ t.die = s.die ∧ SameMemory l s t ∧ OnlyRegs l evRegs s t ∧
      Raises l 95 3 0 0 s t ∧
      ((s.lane l).alive = false → t.lane l = s.lane l)) ∧
    (∃ t, exec .xt32Restore s = .next t ∧ t.rind.flag 0x110 18 = false ∧ OnlyRindWords [0x110] s t)

/-- R65, R66, R67, R68, R72: a write of the power target by the active lane or the host is refused with the lowest reason
that holds (the order is the model's choice, log entry 114), which is recorded and raised as E95 with data 2 while
nothing else changes, or it starts a transition, in place of one in progress (log entry 115): an entry to CAVE turns the
DIRECT channels off softly, an exit from CAVE steers to the home port, and where the TCXO starts the lanes take the
replica's time; a write of the standby lane is ignored. -/
def Sys2Proof.Claims.PowerTargetsAreRefusedOrTaken : Prop :=
  ∀ (s : State) (w : PwrWriter) (v : Word),
    let x := fieldNat v 0 3
    let allowed := w = .host ∨ ∃ l, w = .lane l ∧ s.control = some l
    let on := (∃ n, n < 208 ∧ s.steer n ≠ 2 ∧ ((s.die.swt n).ph = 1 ∨ (s.die.swt n).ph = 2)) ∨
      ∃ n, n < 24 ∧ ((s.die.unit (208 + n)).gh = true ∨ (s.die.unit (208 + n)).gl = true)
    let loops := (∃ n, n < 24 ∧ (s.die.unit (208 + n)).run = true) ∨
      ∃ l, s.reg l 0x400C0008 ≠ 0 ∨ s.reg l 0x400C000C ≠ 0
    let curd := ∃ l, (s.lane l).fld 0x40060004 0 11 ≠ 0
    let refusedWith := fun (code : Nat) => ∃ t, exec (.pwrTargetWrite w v) s = .next t ∧
      t.rind.fld 0x104 8 3 = code ∧ t.power = s.power ∧ { t.rind with regs := [] } = { s.rind with regs := [] } ∧
      OnlyRindRegs [0x104] s t ∧ t.die = s.die ∧
      LanesOnlyRegs [] s t ∧ BothRaise 95 2 0 (BitVec.ofNat 32 code) s t
    (¬allowed → exec (.pwrTargetWrite w v) s = .next s) ∧
    (allowed → 3 ≤ x → x ≤ 5 → on → refusedWith 1) ∧
    (allowed → 2 ≤ x → x ≤ 5 → (3 ≤ x → ¬on) → loops → refusedWith 2) ∧
    (allowed → 1 ≤ x → x ≤ 5 → (3 ≤ x → ¬on) → (2 ≤ x → ¬loops) → curd → refusedWith 3) ∧
    (allowed → 1 ≤ x → x ≤ 5 → (3 ≤ x → ¬on) → (2 ≤ x → ¬loops) → ¬curd → s.rind.rd 0x10C ≠ 0 →
      refusedWith 4) ∧
    (allowed → 6 ≤ x → refusedWith 5) ∧
    (allowed → x ≤ 5 → (3 ≤ x → ¬on) → (2 ≤ x → ¬loops) → (1 ≤ x → ¬curd ∧ s.rind.rd 0x10C = 0) →
      let moves := x ≠ s.power ∨ s.rind.trans ≠ none
      ∃ t, exec (.pwrTargetWrite w v) s = .next t ∧ OnlyRindRegs [0x100, 0x104] s t ∧
        (∀ l, SameMemory l s t) ∧ t.die.units = s.die.units ∧
        (¬moves → OnlyRindWords [0x100] s t) ∧
        (moves → t.tcxo = s.tcxo → ∀ l, t.lane l =
          { s.lane l with ev := { (s.lane l).ev with woken := false } }) ∧
        (moves → s.tcxo = false → x ≤ 2 → s.rind.vlogOk = true → ∀ l, (s.lane l).alive = true →
          (t.lane l).lt = s.die.replica) ∧
        (x ≠ 5 → s.rind.trans ≠ some 5 → s.power ≠ 5 → t.die = s.die ∧ t.rind.steer = s.rind.steer) ∧
        (x = 5 → s.caving = false → ∀ n, 192 ≤ n → n < 208 → s.steer n = 2 →
          (s.die.swt n).ph = 1 ∨ (s.die.swt n).ph = 2 → (t.die.swt n).ph = 3) ∧
        (s.power = 5 → s.caving = true → x < 5 → ∀ u, u < 232 →
          t.steer u = if s.steer u = 2 then 2 else s.rind.fld 0x200 0 1) ∧
        t.rind.fld 0x100 0 3 = x ∧ t.power = s.power ∧ t.rind.flag 0x100 3 = bitOf v 3 ∧
        (moves → t.rind.trans = some x ∧ t.rind.flag 0x104 4 = true) ∧
        (x = s.power → s.rind.trans = none → t.rind.trans = none))

/-- R66, R68, R69, R70, R72, R550, R551: a transition that completes enters its state, counts it and is over; a wake by an
enabled source, or by a lane that has a cause, ends a state below RUN or abandons an entry, and sets its bit; a source in
RUN does nothing; SLEEP and CAVE hold the lanes in reset with their causes, and bank 23 alone keeps its contents through
SLEEP; banks in ON lose theirs in DOZE and NAP and are filled on the way out; a wake that starts the TCXO gives the lanes
the replica's time, and one from CAVE steers to the home port; a park burst begins in DOZE with PARK set and nowhere
else. -/
def Sys2Proof.Claims.PowerTransitionsAndWakes : Prop :=
  ∀ (s : State) (src : BitVec 13),
    let ok := ((src.toNat &&& ((s.rind.rd 0x108).toNat &&& 4095)) |||
      (if src.getLsbD 12 = true ∧ (s.laneWakes .a = true ∨ s.laneWakes .b = true) then 4096 else 0))
    let bits := s.rind.rd 0x10C ||| BitVec.ofNat 32 ok
    (s.rind.trans = none → exec .pwrTransitionComplete s = .next s) ∧
    (∀ x, s.rind.trans = some x → x ≤ 5 → ∃ t, exec .pwrTransitionComplete s = .next t ∧ t.power = x ∧
      t.rind.trans = none ∧ t.rind.flag 0x104 4 = false ∧
      t.rind.fld 0x104 16 16 = min 65535 (s.rind.fld 0x104 16 16 + 1) ∧ t.die.units = s.die.units ∧
      (x ≤ 3 → t.die = s.die) ∧
      (x = 4 → s.power < 4 → ∀ l, (t.lane l).phase = .off ∧ (t.lane l).fld 0x40000010 8 4 = 2 ∧
        ∀ a, t.byte l a = if 0x5C0000 ≤ a then s.byte l a else 0) ∧
      (x = 5 → ∀ l, (t.lane l).phase = .off ∧ (t.lane l).fld 0x40000010 8 4 = 3 ∧ ∀ a, t.byte l a = 0) ∧
      (x = 1 → ∀ l a, t.byte l a = s.byte l a) ∧
      (x ≤ 1 → ∀ l, ((s.lane l).alive = true → s.power = 2 ∨ s.power = 3 → ∀ k, k < 24 → (s.lane l).bankPower k = 0 →
          (t.lane l).flag (0x40040200 + 4 * k) 6 = true)) ∧
      (x = 2 ∨ x = 3 → ∀ l a, t.byte l a =
        if (s.lane l).bankPower (bankOf a) = 1 then s.byte l a else 0)) ∧
    (ok ≠ 0 → s.power ≠ 0 → ∃ t, exec (.wake src) s = .next t ∧ t.die.units = s.die.units ∧
      t.rind.trans = some 0 ∧ t.rind.flag 0x104 4 = true ∧ t.power = s.power ∧ t.rind.rd 0x10C = bits ∧
      t.rind.wakeOwed = ⟨true, true⟩ ∧
      (s.power ≠ 5 → s.rind.trans ≠ some 5 → t.die = s.die ∧ t.rind.steer = s.rind.steer) ∧
      (s.power = 5 → s.caving = true → ∀ u, u < 232 →
        t.steer u = if s.steer u = 2 then 2 else s.rind.fld 0x200 0 1) ∧
      ∀ l, SameMemory l s t ∧ ((s.lane l).alive = false → t.lane l = s.lane l) ∧
        ((s.lane l).alive = true → s.tcxo = false → s.rind.vlogOk = true → (t.lane l).lt = s.die.replica)) ∧
    (ok ≠ 0 → s.power = 0 → (∃ x, s.rind.trans = some x ∧ x ≠ 0) → ∃ t, exec (.wake src) s = .next t ∧
      t.rind.trans = none ∧ t.rind.flag 0x104 4 = false ∧ t.power = 0 ∧ t.die.units = s.die.units ∧
      (s.rind.trans ≠ some 5 → t.die = s.die) ∧ t.rind.rd 0x10C = bits ∧
      ∀ l, (s.lane l).running = true → Raises l 95 1 0 bits s t) ∧
    (ok = 0 ∨ (s.power = 0 ∧ (s.rind.trans = none ∨ s.rind.trans = some 0)) →
      exec (.wake src) s = .next s) ∧
    (s.power = 2 → s.rind.flag 0x100 3 = true → ∃ t, exec .parkBurst s = .next t ∧
      OnlyRindWords [0x104] s t ∧ t.rind.flag 0x104 3 = true ∧ t.power = 2) ∧
    (s.power ≠ 2 ∨ s.rind.flag 0x100 3 = false → exec .parkBurst s = .next s)

/-- R73, R124, R565: a software reset by context 0 and a watchdog that has expired give up control and reset the
lane with causes 6 and 4; the other lane raises E84; another context's write does nothing; a kick restarts the
watchdog with the written period, at least 10 ms. -/
def Sys2Proof.Claims.LanesResetThemselves : Prop :=
  ∀ (s : State) (l : LaneId) (c : CtxNo) (v : Word),
    let L := s.lane l
    let resetWith := fun (i : Instr) (cause : Nat) => ∃ t, exec i s = .next t ∧ (t.lane l).phase = .off ∧
      (t.lane l).fld 0x40000010 8 4 = cause ∧ (t.lane l).flash = L.flash ∧ (t.lane l).lt = L.lt ∧
      (∀ d, t.ctxOf l d = Ctx.reset) ∧ t.die.units = s.die.units ∧ t.die.sw = s.die.sw ∧
      t.rind.steer = s.rind.steer ∧
      (L.gaveUp = false → t.rind.flag 0x204 (4 + laneNo l) = true ∧
        Raises (other l) 84 1 (laneNo l) 0 s t ∧ SameMemory (other l) s t)
    (L.alive = true → resetWith (.softwareReset l 0) 6) ∧
    (c ≠ 0 → exec (.softwareReset l c) s = .next s) ∧
    (s.coresRun l = true → L.wdogDue ≤ L.lt → resetWith (.watchdogExpiry l) 4 ∧
      ∀ t, exec (.watchdogExpiry l) s = .next t → (t.lane l).flag 0x40000018 31 = true) ∧
    (s.coresRun l = false ∨ L.lt < L.wdogDue → exec (.watchdogExpiry l) s = .next s) ∧
    (∃ t, exec (.wdogKick l v) s = .next t ∧ OnlyLane l s t ∧ OnlyRegs l [0x40000018] s t ∧
      (t.lane l).flag 0x40000018 31 = false ∧ (t.lane l).fld 0x40000018 0 16 = L.fld 0x40000018 0 16 ∧
      (t.lane l).wdogDue = L.lt + max 10 (L.fld 0x40000018 0 16) * 100000 ∧
      (∀ d, t.ctxOf l d = s.ctxOf l d) ∧ SameMemory l s t) ∧
    (L.alive = true → resetWith (.laneMonitorFire l) 5)

/-- R48, R59, R72, R75, R104, R556: while the TCXO runs a lane leaves reset into its boot ROM with LT of its partner or of
the replica, and a failed bank loses its owner and power and is reported; at the end of the boot the image that passes every check runs
with context 0 at its entry point; the first boot after a loss of VLOG raises E92; the loader and factory entry as MODE asks. -/
def Sys2Proof.Claims.LanesLeaveResetAndBoot : Prop :=
  ∀ (s : State) (l : LaneId) (mode : Fin 8) (k : SramNo) (r : BitVec 9),
    let L := s.lane l
    let st := 0x40040200 + 4 * k.val
    let may := L.phase = .off ∧ s.rind.vlogOk = true ∧ s.rind.resetLow = false ∧ s.laneOff l = false ∧ s.tcxo = true
    (may → ∃ t, exec (.laneResetRelease l mode []) s = .next t ∧ (t.lane l).phase = .boot ∧
      (t.lane l).lt = (if s.counts (other l) = true then (s.lane (other l)).lt else s.die.replica) ∧
      (t.lane l).fld 0x40000010 0 3 = mode.val ∧ t.die = s.die ∧
      t.rind.flag 0x204 (4 + laneNo l) = false ∧ t.lane (other l) = s.lane (other l) ∧
      (L.fld 0x40000010 8 4 ≠ 2 → ∀ a, t.byte l a = 0) ∧
      (L.fld 0x40000010 8 4 = 2 → (t.lane l).flag 0x40000010 12 = true ∧
        ∀ a, t.byte l a = if 0x5C0000 ≤ a then s.byte l a else 0)) ∧
    (may → L.fld 0x40000010 8 4 ≠ 2 → r.getLsbD 0 = true →
      ∃ t, exec (.laneResetRelease l mode [(k, r)]) s = .next t ∧ (t.lane l).flag st 7 = true ∧
        (t.lane l).owner k = 0 ∧ (t.lane l).bankPower k = 2 ∧
        ((s.lane l).waiting 2 83 = [] → (t.lane l).bitAt 0x40030040 83 = true)) ∧
    (¬may → exec (.laneResetRelease l mode []) s = .next s) ∧
    (L.phase = .boot → L.fld 0x40000010 0 3 = 2 → L.enrolled = false →
      ∃ t, exec (.bootComplete l) s = .next t ∧ (t.lane l).phase = .factory ∧ SameMemory l s t ∧
        (s.rind.vlogRec.get l = false → OnlyLane l s t ∧ (t.lane l).regs = L.regs)) ∧
    (L.phase = .boot → s.rind.vlogRec.get l = true → ∃ t, exec (.bootComplete l) s = .next t ∧
      t.rind.vlogRec.get l = false ∧ (L.waiting 2 92 = [] → (t.lane l).bitAt 0x40030040 92 = true)) ∧
    (L.phase = .boot → L.fld 0x40000010 0 3 = 1 → ∃ t, exec (.bootComplete l) s = .next t ∧
      (t.lane l).phase = .loader ∧ SameMemory l s t ∧ t.die = s.die) ∧
    (L.phase = .boot → L.fld 0x40000010 0 3 ≠ 1 → ¬(L.fld 0x40000010 0 3 = 2 ∧ L.enrolled = false) →
      L.vault.loader = false → s.imageCheck l ≠ 0 → ∃ t, exec (.bootComplete l) s = .next t ∧
      (t.lane l).phase = .loader ∧ (L.waiting 2 89 = [] → (t.lane l).bitAt 0x40030040 89 = true)) ∧
    (L.phase = .boot → L.fld 0x40000010 0 3 ≠ 1 → ¬(L.fld 0x40000010 0 3 = 2 ∧ L.enrolled = false) →
      L.vault.loader = false → s.imageCheck l = 0 → ∃ t, exec (.bootComplete l) s = .next t ∧
      (t.lane l).phase = .run ∧ (t.ctxOf l 0).st = .running ∧ (t.ctxOf l 0).core = 0 ∧
      (t.ctxOf l 0).pc = bytesWord (Flash.read L.flash 0x100014 4) ∧ (t.ctxOf l 0).x = [] ∧
      (t.lane l).rd 0x40030080 = 0 ∧ (t.lane l).flash = L.flash) ∧
    (L.phase ≠ .boot → exec (.bootComplete l) s = .next s)

/-- R589, R590: an enrolment of a lane that is enrolled already, with another value, or after a failed attempt is
refused with ENR_REF; else the hash is burnt, and a burn that verifies closes the debug port and raises E91 with data
2, while one that does not leaves ENR_FAIL and the lane as it was. -/
def Sys2Proof.Claims.EnrolmentHappensOnce : Prop :=
  ∀ (s : State) (l : LaneId) (v : Word) (h : List Byte),
    let L := s.lane l
    (L.running = true → L.enrolled = true ∨ v ≠ 0x454E524C ∨ L.flag 0x40150004 3 = true →
      ∃ t, exec (.enrGo l v) s = .next t ∧ OnlyLaneRegs l [0x40150004] s t ∧
        (t.lane l).flag 0x40150004 2 = true ∧ (t.lane l).enrolled = L.enrolled) ∧
    (L.running = true → L.enrolled = false → L.flag 0x40150004 3 = false → L.vault.burn = none →
      ∃ t, exec (.enrGo l 0x454E524C) s = .next t ∧ OnlyLane l s t ∧ OnlyRegs l [0x40150004] s t ∧
        (t.lane l).flag 0x40150004 1 = true ∧ (t.lane l).enrolled = false ∧
        (t.lane l).vault = { L.vault with
          burn := some ((List.range 12).flatMap (fun w => wordBytes (L.rd (0x40150010 + 4 * w)))) }) ∧
    (L.running = false → exec (.enrGo l v) s = .next s) ∧
    (L.vault.burn = some h → ∃ t, exec (.enrolmentComplete l true) s = .next t ∧ OnlyLane l s t ∧ SameMemory l s t ∧
      OnlyRegs l ([0x40150004] ++ evRegs) s t ∧ (t.lane l).enrolled = true ∧ (t.lane l).debugOpen = false ∧
      (t.lane l).flag 0x40150004 1 = false ∧ (t.lane l).vault = { L.vault with burn := none, hash := h } ∧
      Raises l 91 2 0 0 s t) ∧
    (L.vault.burn = some h → ∃ t, exec (.enrolmentComplete l false) s = .next t ∧ OnlyLane l s t ∧
      OnlyRegs l [0x40150004] s t ∧ (t.lane l).flag 0x40150004 3 = true ∧ (t.lane l).enrolled = L.enrolled ∧
      (t.lane l).vault = { L.vault with burn := none }) ∧
    (L.vault.burn = none → exec (.enrolmentComplete l true) s = .next s)

/-- R593: the counters only grow: COMMIT moves the image floor to the SVN of the running image, a write of CFG_FLOOR
moves it to a later value; a value that is lower, or not later, changes no counter and sets CNT_REF. -/
def Sys2Proof.Claims.MonotonicCountersNeverFall : Prop :=
  ∀ (s : State) (l : LaneId) (v : Word), (s.lane l).running = true →
    let svn := s.reg l 0x401500E0
    let d := (v - s.cfgFloor l).toInt
    (s.imgFloor l ≤ svn → ∃ t, exec (.commitImageFloor l) s = .next t ∧ t.imgFloor l = svn ∧ OnlyRind s t ∧
      t.rind.regs = s.rind.regs ∧ t.imgFloor (other l) = s.imgFloor (other l) ∧ (∀ m, t.cfgFloor m = s.cfgFloor m)) ∧
    (svn < s.imgFloor l → ∃ t, exec (.commitImageFloor l) s = .next t ∧ OnlyLaneRegs l [0x40150004] s t ∧
      (t.lane l).flag 0x40150004 5 = true) ∧
    (0 < d → ∃ t, exec (.cfgFloorWrite l v) s = .next t ∧ t.cfgFloor l = v ∧ OnlyRind s t ∧
      t.rind.regs = s.rind.regs ∧ t.cfgFloor (other l) = s.cfgFloor (other l) ∧ (∀ m, t.imgFloor m = s.imgFloor m)) ∧
    (d ≤ 0 → ∃ t, exec (.cfgFloorWrite l v) s = .next t ∧ OnlyLaneRegs l [0x40150004] s t ∧
      (t.lane l).flag 0x40150004 5 = true)

/-- R600: a read of DBG_CHAL[0] issues a challenge with the count of challenges, and none while a refusal runs; a
response by the enrolled root that verifies opens the debug port with E91; one that does not withdraws the challenge
with E89, and the third in a row refuses challenges for 60 s. -/
def Sys2Proof.Claims.DebugUnlocksByTheEnrolledRoot : Prop :=
  ∀ (s : State) (l : LaneId) (pub sig ch : List Byte),
    let L := s.lane l
    let good := Config.sha384 pub = L.vault.hash ∧ Config.ecdsaVerify pub (Config.sha384 ch) sig = true
    (L.alive = true → L.vault.lockTill = none → ∃ t, exec (.dbgChalRead l) s = .next t ∧ OnlyLane l s t ∧
      SameMemory l s t ∧ OnlyRegs l ((List.range 12).map (fun w => 0x401500B0 + 4 * w)) s t ∧
      (t.lane l).vault.chals = L.vault.chals + 1 ∧ (t.lane l).vault.fails = L.vault.fails ∧
      ∃ bs, (t.lane l).vault.chal = some bs ∧ bs.length = 48 ∧
        bs.take 16 = natBytes (Config.laneSerial (l == .b)).toNat 8 ++ natBytes (L.vault.chals + 1) 8 ∧
        (t.lane l).rd 0x401500B0 = bytesWord (bs.take 4)) ∧
    (L.vault.lockTill ≠ none → exec (.dbgChalRead l) s = .next s) ∧
    (L.alive = true → L.enrolled = true → L.vault.chal = some ch → good →
      ∃ t, exec (.debugResponse l pub sig) s = .next t ∧ OnlyLane l s t ∧ SameMemory l s t ∧
        OnlyRegs l ([0x40150004] ++ evRegs) s t ∧ (t.lane l).debugOpen = true ∧ (t.lane l).vault.fails = 0 ∧
        Raises l 91 1 0 0 s t) ∧
    (L.alive = true → L.enrolled = true → L.vault.chal = some ch → ¬good →
      ∃ t, exec (.debugResponse l pub sig) s = .next t ∧ OnlyLane l s t ∧ SameMemory l s t ∧
        (t.lane l).debugOpen = L.debugOpen ∧ (t.lane l).vault.chal = none ∧
        (L.vault.fails < 2 → (t.lane l).vault.fails = L.vault.fails + 1 ∧
          (t.lane l).vault.lockTill = L.vault.lockTill) ∧
        (2 ≤ L.vault.fails → (t.lane l).vault.fails = 0 ∧
          (t.lane l).vault.lockTill = some (L.lt + 6000000000)) ∧
        Raises l 89 3 0 0 s t) ∧
    (∀ x, L.vault.lockTill = some x → ∃ t, exec (.debugLockExpiry l) s = .next t ∧ OnlyLane l s t ∧
      (t.lane l).regs = L.regs ∧
      (t.lane l).vault = { L.vault with lockTill := if x ≤ L.lt then none else some x })

/-- R608, R609, R604: a configuration write that breaks a rule of R608 sets WR_REF alone; else the older slot is erased, BUSY
stands and the sealed copy has the new SEQ and this lane's IDX; when it ends BUSY clears and WR_DONE or WR_FAIL is
set.  A program-data write erases its sector, takes `LEN` bytes and ends with them there; outside the program-data
region it is refused. -/
def Sys2Proof.Claims.FlashWritesEraseAndProgram : Prop :=
  ∀ (s : State) (l : LaneId), (s.lane l).running = true →
    let L := s.lane l
    let n := L.fld 0x40160038 0 13
    let dst := (L.rd 0x40160034).toNat
    let src := (L.rd 0x40160030).toNat
    let pdOk := 4 ≤ n ∧ n ≤ 4096 ∧ 0x3000000 ≤ dst ∧ dst < 0x4000000 ∧ dst % 4096 = 0 ∧ L.ownedBy 1 src n = true
    let refused := fun (i : Instr) => ∃ t, exec i s = .next t ∧ OnlyLaneRegs l [0x40160004] s t ∧
      (t.lane l).flag 0x40160004 7 = true
    (L.flag 0x40160004 0 = true → refused (.cfgWr l) ∧ refused (.pdWr l)) ∧
    (L.cfgSrcOk = false ∨ s.nseqOk l = false → refused (.cfgWr l)) ∧
    (L.flag 0x40160004 0 = false → L.cfgSrcOk = true → s.nseqOk l = true →
      let i := if s.newestCopy l = some 0 ∨ s.newestCopy l = none then 1 else 0
      ∃ t, exec (.cfgWr l) s = .next t ∧ OnlyLane l s t ∧ OnlyRegs l [0x40160004] s t ∧
        (t.lane l).flag 0x40160004 0 = true ∧ (t.lane l).sram = L.sram ∧
        (∀ a, Flash.get (t.lane l).flash a =
          if 0x40000 + 0x20000 * i ≤ a ∧ a < 0x60000 + 0x20000 * i then 0xFF else Flash.get L.flash a) ∧
        ∃ w, (t.lane l).vault.wr = some w ∧ w.cfg = true ∧ w.ofs = 0x40000 + 0x20000 * i ∧
          w.bytes.length = L.fld 0x4016000C 0 17 + 32 ∧ bytesWord (w.bytes.take 4) = L.rd 0x40160010 ∧
          w.bytes.getD 4 0 = BitVec.ofNat 8 (i + 2 * laneNo l)) ∧
    (∀ w ok, L.vault.wr = some w → w.cfg = true → ∃ t, exec (.cfgWriteComplete l ok) s = .next t ∧
      OnlyLane l s t ∧ OnlyRegs l [0x40160004] s t ∧ (t.lane l).sram = L.sram ∧ (t.lane l).vault.wr = none ∧
      (t.lane l).flag 0x40160004 0 = false ∧
      (ok = false → (t.lane l).flag 0x40160004 9 = true) ∧
      (ok = true → ((t.lane l).flag 0x40160004 8 = true ∨ (t.lane l).flag 0x40160004 9 = true) ∧
        ∀ k, Flash.get (t.lane l).flash k =
          if w.ofs ≤ k ∧ k < w.ofs + w.bytes.length then w.bytes.getD (k - w.ofs) 0 else Flash.get L.flash k)) ∧
    (¬pdOk → refused (.pdWr l)) ∧
    (L.flag 0x40160004 0 = false → pdOk → ∃ t, exec (.pdWr l) s = .next t ∧ OnlyLane l s t ∧
      OnlyRegs l [0x40160004] s t ∧ (t.lane l).flag 0x40160004 0 = true ∧ (t.lane l).sram = L.sram ∧
      (∀ a, Flash.get (t.lane l).flash a = if dst ≤ a ∧ a < dst + 4096 then 0xFF else Flash.get L.flash a) ∧
      ∃ u, exec (.pdWriteComplete l) t = .next u ∧ (u.lane l).flag 0x40160004 0 = false ∧
        (u.lane l).sram = L.sram ∧ ∀ a, Flash.get (u.lane l).flash a =
          if dst ≤ a ∧ a < dst + n then s.byte l (src + (a - dst))
          else if dst ≤ a ∧ a < dst + 4096 then 0xFF else Flash.get L.flash a)

/-- R187, R598, R599: a block is sealed when 120 records stand or the oldest has waited 250 ms, never over a block that
has not been delivered; it takes the next INDEX, its bytes go to the block's sector, PREV becomes its digest, and the
records leave the staging ring, where the GAP record of lost ones follows; with too few and too young records nothing
happens. -/
def Sys2Proof.Claims.LedgerBlocksAreSealedInOrder : Prop :=
  ∀ (s : State) (l : LaneId), (s.lane l).running = true →
    let L := s.lane l
    let n := min 120 L.spx.held
    let o := 0x2000000 + 4096 * (L.vault.idx % 4096)
    let old := ∃ x xs, L.spx.wrote = x :: xs ∧ x + 25000000 ≤ L.lt
    (L.vault.idx < L.vault.taken + 4096 → 120 ≤ L.spx.held ∨ old → L.spx.lost ≠ 0 → L.spx.held ≤ 4096 →
      ∃ t, exec (.ledgerBlockSeal l) s = .next t ∧ OnlyLane l s t ∧ (t.lane l).vault.idx = L.vault.idx + 1 ∧
      (t.lane l).spx.held = L.spx.held - n + 1 ∧ (t.lane l).spx.lost = 0 ∧ (t.lane l).spx.ovf = false) ∧
    (L.vault.idx < L.vault.taken + 4096 → 120 ≤ L.spx.held ∨ old → L.spx.lost = 0 →
      ∃ t, exec (.ledgerBlockSeal l) s = .next t ∧
      OnlyLane l s t ∧ (t.lane l).sram = L.sram ∧ OnlyRegs l [0x40060048] s t ∧
      (t.lane l).vault.idx = L.vault.idx + 1 ∧ (t.lane l).spx.held = L.spx.held - n ∧
      (t.lane l).fld 0x40060048 0 12 = (L.fld 0x40060048 0 12 + n) % 4096 ∧
      Flash.read (t.lane l).flash (o + 8) 8 = natBytes L.vault.idx 8 ∧
      (L.vault.prev.length = 48 → Flash.read (t.lane l).flash (o + 16) 48 = L.vault.prev ∧
        (t.lane l).vault.prev = Config.sha384 (Flash.read (t.lane l).flash o 4096) ∧
        ∀ k, k < o ∨ o + 4096 ≤ k → Flash.get (t.lane l).flash k = Flash.get L.flash k)) ∧
    (L.vault.taken + 4096 ≤ L.vault.idx ∨ (L.spx.held < 120 ∧ ¬old) → exec (.ledgerBlockSeal l) s = .next s)

/-- R78, R79, R89, R91, R87: with a timing fix of either lane's antenna, the first one gives both lanes one mapping offset and
LOCKED; losing it is HOLDOVER with E47, u(t) starting from GT_UNC; on its return GNSS time steps to the fix with E94, an
error of at most 1 ms is slewed and a larger one moves the offset and sets REBASED; the slew ends below 10 ns. -/
def Sys2Proof.Claims.GnssTimeFollowsItsFix : Prop :=
  ∀ (s : State) (l x : LaneId) (gt : Nat) (sa sb : Rat),
    let L := s.lane l
    let X := s.lane x
    (s.control = some x → X.alive = true → X.time.map = none → s.hasFix x = true →
      ∃ t, exec (.timingFixAcquired gt) s = .next t ∧
      (t.lane l).time.map = some ((gt : Int) - 10 * (X.lt : Int)) ∧ (t.lane x).gnssTime = some ((gt : Int)) ∧
      (t.lane x).fld 0x4002000C 0 2 = 1 ∧ t.die = s.die ∧ t.rind = s.rind ∧
      OnlyRegs l [0x4002000C, 0x40020030] s t ∧ SameMemory l s t) ∧
    (s.control = none ∨ (s.control = some x ∧ (X.time.map ≠ none ∨ s.hasFix x = false)) →
      exec (.timingFixAcquired gt) s = .next s) ∧
    (s.hasFix .a = false → s.hasFix .b = false → ∃ t, exec (.holdoverEntry sa sb) s = .next t ∧
      t.die = s.die ∧ t.rind = s.rind ∧ SameMemory l s t ∧ (t.lane l).time.map = L.time.map ∧
      (L.alive = true → L.time.map ≠ none → L.fld 0x4002000C 0 2 ≠ 2 →
        (t.lane l).fld 0x4002000C 0 2 = 2 ∧ (t.lane l).flag 0x40020058 1 = true ∧
        (t.lane l).flag 0x4002005C 1 = true ∧ (t.lane l).holdU = (((L.rd 0x40020030).toNat : Nat) : Rat) ∧
        (t.lane l).time.sigma = (if l = .a then sa else sb) ∧ Raises l 47 1 0 0 s t) ∧
      (L.alive = false ∨ L.time.map = none ∨ L.fld 0x4002000C 0 2 = 2 → t.lane l = L)) ∧
    (s.hasFix .a = true ∨ s.hasFix .b = true → exec (.holdoverEntry sa sb) s = .next s) ∧
    (∀ old : Int, s.control = some x → X.gnssTime = some old → X.fld 0x4002000C 0 2 = 2 → s.hasFix x = true →
      L.alive = true →
      let err : Rat := (((gt : Int) - old : Int) : Rat) + X.time.slew
      let small := -1000000 ≤ err ∧ err ≤ 1000000
      let step := BitVec.ofInt 32 (max (-0x7FFFFFFF) (min 0x7FFFFFFF ((gt : Int) - old)))
      ∃ t, exec (.timingFixReturn gt) s = .next t ∧ t.die = s.die ∧ t.rind = s.rind ∧ SameMemory l s t ∧
        (t.lane l).rd 0x40020034 = step ∧
        (small → (t.lane l).fld 0x4002000C 0 2 = 3 ∧ (t.lane l).time.map = L.time.map ∧
          (t.lane l).time.slew = err) ∧
        (¬small → (t.lane l).fld 0x4002000C 0 2 = 1 ∧ (t.lane l).flag 0x4002000C 5 = true ∧
          (t.lane l).time.slew = 0 ∧ (t.lane l).time.map = L.time.map.map (fun m => m + err.floor)) ∧
        Raises l 94 0 0 step s t) ∧
    (L.fld 0x4002000C 0 2 = 3 → -10 < L.time.slew → L.time.slew < 10 → ∃ t, exec (.slewEnd l) s = .next t ∧
      OnlyLaneRegs l [0x4002000C] s t ∧ (t.lane l).fld 0x4002000C 0 2 = 1)

/-- R87, R88, R90, R96, R97: new settings of a pulse generator wait for its next leading edge, or act at once where none is
to come; a leading edge is due in the tick in which GNSS time less the cable delay, as the generator's phase has it,
reaches a whole multiple of the period, once for each, and at no other time; it raises the pulse, which the active lane
alone drives to the pad, with the polarity of POL; a holdover uncertainty above TP_LIMIT suppresses the generator with E47
and data 2; a pulse ends when it has lasted its WIDTH, and not before. -/
def Sys2Proof.Claims.TimePulsesAreGenerated : Prop :=
  ∀ (s : State) (l : LaneId) (n : Fin 2) (v : Word),
    let L := s.lane l
    let st := 0x40020058 + 4 * n.val
    let cfg := 0x40020050 + 4 * n.val
    (bitOf (L.gen n).cur 0 = true → L.time.map ≠ none → ∃ t, exec (.tpCfgWrite l n v) s = .next t ∧
      OnlyLane l s t ∧ OnlyRegs l [cfg] s t ∧ (t.lane l).fld cfg 8 20 = fieldNat v 8 20 ∧
      ((t.lane l).gen n).cur = (L.gen n).cur ∧ ((t.lane l).gen n).pending = some ((t.lane l).rd cfg) ∧
      (t.lane l).gen (1 - n) = L.gen (1 - n)) ∧
    (bitOf (L.gen n).cur 0 = false ∨ L.time.map = none → ∃ t, exec (.tpCfgWrite l n v) s = .next t ∧
      OnlyLane l s t ∧ OnlyRegs l [cfg, st] s t ∧ ((t.lane l).gen n).pending = none ∧
      (let w := fieldNat v 8 20
       let per := 1000 * tpPeriod (fieldNat v 2 4)
       fieldNat ((t.lane l).gen n).cur 8 20 = (if w = 0 then 1 else if per ≤ w then per - 1 else w) ∧
       (per ≤ w → (t.lane l).flag st 4 = true)) ∧
      (t.lane l).gen (1 - n) = L.gen (1 - n)) ∧
    (∀ k, L.tpDue n = some k → bitOf (L.gen n).cur 0 = true ∧ (L.gen n).idx ≠ some k ∧
      ∃ g : Int, L.gnssTime = some g ∧
        let per : Rat := ((1000000 * tpPeriod (fieldNat (L.gen n).cur 2 4) : Nat) : Rat)
        let x : Rat := (g : Rat) - L.timingCable - (L.gen n).phase
        (k : Rat) * per ≤ x ∧ x < (k : Rat) * per + ((10 * (L.lt - L.time.last) + 1 : Nat) : Rat)) ∧
    (s.counts l = false ∨ L.tpDue n = none → exec (.tpLeadingEdge l n) s = .next s) ∧
    (∀ k, s.counts l = true → L.tpDue n = some k → (L.gen n).phase = 0 → (L.gen n).pending = none →
      (L.beyondLimit = false → L.flag st 2 = false → ∃ t, exec (.tpLeadingEdge l n) s = .next t ∧
        OnlyLane l s t ∧ (t.lane l).regs = L.regs ∧ ((t.lane l).gen n).high = true ∧
        ((t.lane l).gen n).idx = some k ∧ ((t.lane l).gen n).start = L.lt ∧
        (s.control = some l → t.tpPad n = !bitOf (L.gen n).cur 1) ∧
        (s.control = some (other l) → t.tpPad n = s.tpPad n) ∧
        (t.lane l).gen (1 - n) = L.gen (1 - n) ∧ SameMemory l s t) ∧
      (L.beyondLimit = false → L.flag st 2 = true → ∃ t, exec (.tpLeadingEdge l n) s = .next t ∧ OnlyLane l s t ∧
        OnlyRegs l ([st] ++ evRegs) s t ∧ (t.lane l).flag st 2 = false ∧ ((t.lane l).gen n).high = true ∧
        ((t.lane l).gen n).driven = true ∧ Raises l 47 3 n 0 s t) ∧
      (L.beyondLimit = true → L.flag st 2 = false → ∃ t, exec (.tpLeadingEdge l n) s = .next t ∧ OnlyLane l s t ∧
        OnlyRegs l ([st] ++ evRegs) s t ∧ (t.lane l).flag st 2 = true ∧ ((t.lane l).gen n).driven = false ∧
        Raises l 47 2 n 0 s t)) ∧
    (L.fld 0x4002000C 0 2 = 2 → L.flag st 2 = false → bitOf (L.gen n).cur 0 = true →
      (((L.rd 0x40020048).toNat : Nat) : Rat) < L.holdU → ∃ t, exec (.tpSuppress l n) s = .next t ∧
      RaisesOnly l 47 2 n 0 [st] s t ∧ (t.lane l).flag st 2 = true ∧ t.tpOut l n = false) ∧
    (L.holdU ≤ (((L.rd 0x40020048).toNat : Nat) : Rat) → exec (.tpSuppress l n) s = .next s) ∧
    ((L.gen n).high = true → (L.gen n).start + 100 * fieldNat (L.gen n).cur 8 20 ≤ L.lt →
      ∃ t, exec (.tpTrailingEdge l n) s = .next t ∧ OnlyLane l s t ∧ (t.lane l).regs = L.regs ∧
      ((t.lane l).gen n).high = false ∧ ((t.lane l).gen n).driven = false ∧
      ((t.lane l).gen n).cur = (L.gen n).cur ∧ (t.lane l).gen (1 - n) = L.gen (1 - n)) ∧
    ((L.gen n).high = false ∨ L.lt < (L.gen n).start + 100 * fieldNat (L.gen n).cur 8 20 →
      exec (.tpTrailingEdge l n) s = .next s)

/-- R80, R81: the difference of the two lanes' times stands in PEER_OFS in 0.25 ns (rounded either way) and PEER_OK is 1
within 20 ns; without the link, or a partner that counts, PEER_OK is 0 and PEER_OFS holds.  R98, R85: an external-clock slot takes pairs only while enabled, and loses them at a write of its tick
and at a change of its window. -/
def Obligations.PeersAndExternalClocksAreCompared : Prop :=
  ∀ (s : State) (l : LaneId) (up : Bool) (v : Word) (i : Fin 32),
    let L := s.lane l
    let a := 0x40020100 + 32 * i.val
    (s.counts l = true → s.laneLink = true → s.counts (other l) = true →
      let ofs := if up then (s.peerDiff l * 40).ceil else (s.peerDiff l * 40).floor
      ∃ t, exec (.peerOffsetMeasure l up) s = .next t ∧ OnlyLane l s t ∧ SameMemory l s t ∧
        (t.lane l).rd 0x40020018 = satInt ofs ∧ t.peerOk l = (decide (-80 ≤ ofs) && decide (ofs ≤ 80)) ∧
        (t.lane l).time.peerGood = (if -80 ≤ ofs ∧ ofs ≤ 80 then min 10 (L.time.peerGood + 1) else 0) ∧
        OnlyRegs l ([0x40020018, 0x40140004] ++ evRegs) s t) ∧
    (s.counts l = true → s.laneLink = false → ∃ t, exec (.peerOffsetMeasure l up) s = .next t ∧
      t.peerOk l = false ∧ (t.lane l).rd 0x40020018 = L.rd 0x40020018 ∧ (t.lane l).time.peerGood = 0) ∧
    (s.counts (other l) = false → s.peerOk l = false) ∧
    (s.counts l = false → exec (.peerOffsetMeasure l up) s = .next s) ∧
    (fieldNat v 0 5 = i.val → L.flag a 0 = false → exec (.xsubGo l v) s = .next s) ∧
    (fieldNat v 0 5 = i.val → L.flag a 0 = true →
      ((Tab.get L.time.pairs [] i.val).length + 1 < L.xsrcN i.val) → ∃ t, exec (.xsubGo l v) s = .next t ∧
        OnlyLane l s t ∧ (t.lane l).regs = L.regs ∧ SameMemory l s t ∧
        Tab.get (t.lane l).time.pairs [] i.val =
          (L.rd64 0x40020080, L.rd64 0x40020088) :: Tab.get L.time.pairs [] i.val) ∧
    (fieldNat v 0 5 = i.val → L.flag a 0 = true →
      (L.xsrcN i.val ≤ (Tab.get L.time.pairs [] i.val).length + 1) → ∃ t, exec (.xsubGo l v) s = .next t ∧
        (t.lane l).flag a 1 = true ∧ (t.lane l).rd (a + 16) = L.rd 0x40020080 ∧
        (t.lane l).rd (a + 20) = L.rd 0x40020084 ∧
        OnlyRegs l (a :: (List.range 6).map (fun k => a + 8 + 4 * k)) s t) ∧
    (∃ t, exec (.xsrcCfgWrite l i true v) s = .next t ∧ OnlyLane l s t ∧ OnlyRegs l [a, a + 4] s t ∧
      (t.lane l).rd (a + 4) = v ∧ (t.lane l).flag a 1 = false ∧
      Tab.get (t.lane l).time.pairs [] i.val = [] ∧ (t.lane l).flag a 0 = L.flag a 0) ∧
    (∃ t, exec (.xsrcCfgWrite l i false v) s = .next t ∧ OnlyLane l s t ∧ OnlyRegs l [a] s t ∧
      (t.lane l).fld a 8 5 = fieldNat v 8 5 ∧ (t.lane l).flag a 0 = bitOf v 0 ∧
      (fieldNat v 8 5 ≠ L.fld a 8 5 → (t.lane l).flag a 1 = false ∧
        Tab.get (t.lane l).time.pairs [] i.val = []) ∧
      (fieldNat v 8 5 = L.fld a 8 5 → (t.lane l).time = L.time))

/-- R562, R564, R565: a heartbeat carries READY, which is 1 when no condition of R562 holds and whose first condition
stands in NRDY, and HOLD, which only the lane in control sets; a change of readiness raises E85; a lane silent for
40 us gives up control with E84 and data 2. -/
def Sys2Proof.Claims.HeartbeatsCarryReadiness : Prop :=
  ∀ (s : State) (l : LaneId),
    let L := s.lane l
    let b := s.rind.beat.get l
    let partner := (s.rind.beat.get (other l)).live
    let n := if L.flag 0x40140004 5 = true then 1
      else if L.phase ≠ .run then 2
      else if L.flag 0x400F0040 0 = false then 3
      else if partner = true ∧ s.laneLink = false then 4
      else if partner = true ∧ L.time.peerGood < 10 then 5
      else if L.flag 0x40140000 0 = false then 6
      else if s.rind.flag 0x200 2 = true ∧ L.flag 0x40140004 4 = false then 7
      else if s.rind.flag 0x204 (6 + laneNo l) = true then 8
      else if L.halted = true ∨ s.rind.flag 0x90 (laneNo l) = true then 9
      else 0
    (L.alive = true → L.flag 0x400F0040 0 = true → L.phase ≠ .factory → ∃ t, exec (.heartbeat l) s = .next t ∧
      t.die = s.die ∧ t.rind.steer = s.rind.steer ∧ t.control = s.control ∧
      t.lane (other l) = s.lane (other l) ∧ SameBulk l s t ∧ OnlyRegs l (0x40140004 :: evRegs) s t ∧
      (t.lane l).fld 0x40140004 8 4 = n ∧ (t.lane l).flag 0x40140004 1 = (n == 0) ∧
      t.rind.flag 0x204 (laneNo l) = (n == 0) ∧
      t.rind.flag 0x204 (2 + laneNo l) = (decide (s.control = some l) && !L.flag 0x40140004 5) ∧
      t.rind.beat.get l = ⟨decide (s.control = some l) && !L.flag 0x40140004 5, n == 0, s.die.replica, true⟩ ∧
      (L.flag 0x40140004 1 ≠ (n == 0) → Raises l 85 (if n = 0 then 2 else 1) 0 0 s t)) ∧
    (L.alive = false → exec (.heartbeat l) s = .next s) ∧
    (b.live = true → b.at_ + 4000 ≤ s.die.replica → L.gaveUp = false → L.alive = true →
      ∃ t, exec (.heartbeatMissed l) s = .next t ∧ t.die = s.die ∧ t.rind.steer = s.rind.steer ∧
        t.gu l = true ∧ (t.lane l).gaveUp = true ∧ (t.rind.beat.get l).ready = false ∧
        t.rind.flag 0x204 (laneNo l) = false ∧ t.rind.flag 0x204 (2 + laneNo l) = false ∧
        BothRaise 84 2 (laneNo l) 0 s t) ∧
    (b.live = true → b.at_ + 4000 ≤ s.die.replica → L.alive = false →
      ∃ t, exec (.heartbeatMissed l) s = .next t ∧ t.die = s.die ∧ t.rind.steer = s.rind.steer ∧ t.gu l = true ∧
        (t.rind.beat.get l).live = false ∧ (s.gu l = false → BothRaise 84 2 (laneNo l) 0 s t) ∧
        (s.gu l = true → t.laneA = s.laneA ∧ t.laneB = s.laneB)) ∧
    (b.live = false ∨ s.die.replica < b.at_ + 4000 → exec (.heartbeatMissed l) s = .next s)

/-- R566, R567, R568, R572, R573, R20, R538: control moves only in a cycle in which both arbiters agree.  A lane that
is in control and gave up hands it to a ready partner: every unit on the old port moves, DIRECT units stay, OWN_SEQ
advances, the roles change, E87 follows and the takeover is counted; without a ready partner no lane is in control and
the steering stays.  With none in control, the home lane is first, then the other.  Arbiters that differ move nothing, and
are reported after 10 us. -/
def Sys2Proof.Claims.ArbitersMoveControl : Prop :=
  ∀ (s : State) (l : LaneId),
    let takesOver := fun (i : Instr) (x : LaneId) => ∃ t, exec i s = .next t ∧ t.control = some x ∧
      (∀ u, u < 232 → t.steer u = if s.steer u = laneNo (other x) then laneNo x else s.steer u) ∧
      t.rind.fld 0x10 16 16 = (s.rind.fld 0x10 16 16 + 1) % 65536 ∧
      t.rind.fld 0x208 0 16 = min 65535 (s.rind.fld 0x208 0 16 + 1) ∧
      (t.lane x).flag 0x40140004 0 = true ∧ (t.lane (other x)).flag 0x40140004 0 = false ∧
      t.die.cmds = s.die.cmds ∧ ∀ m, Pends m 87 s t
    let idle := s.rind.plan = none ∧ s.rind.proving = none
    (idle → s.control = some l → s.gu l = true → s.readyBeat (other l) = true →
      takesOver (.arbiterProposal true) (other l)) ∧
    (idle → s.control = some l → s.gu l = true → s.readyBeat (other l) = false →
      ∃ t, exec (.arbiterProposal true) s = .next t ∧ t.control = none ∧ OnlyRind s t ∧
        t.rind.steer = s.rind.steer ∧ t.rind.regs = s.rind.regs ∧ t.rind.noneAt = s.die.replica) ∧
    (idle → s.control = some l → s.gu l = false → s.returnDue = false →
      ∃ t, exec (.arbiterProposal true) s = .next t ∧ t.control = some l ∧ OnlyRind s t ∧
        t.rind.steer = s.rind.steer ∧ t.rind.regs = s.rind.regs ∧ t.rind.plan = none) ∧
    (idle → s.control = some l → s.gu l = false → s.returnDue = true →
      ∃ t q, exec (.arbiterProposal true) s = .next t ∧ t.control = some l ∧ OnlyRind s t ∧
        t.rind.steer = s.rind.steer ∧ t.rind.flag 0x204 13 = true ∧ t.rind.plan = some q ∧ q.toLane = s.home ∧
        q.kind = 0 ∧ q.at_ % 100000 = 0 ∧ s.die.replica + 200000 ≤ q.at_ ∧ q.at_ < s.die.replica + 300000) ∧
    (idle → s.control = none → s.readyBeat s.home = true → takesOver (.arbiterProposal true) s.home) ∧
    (idle → s.control = none → s.rind.everHeld = true → s.readyBeat s.home = false →
      s.readyBeat (other s.home) = true → takesOver (.arbiterProposal true) (other s.home)) ∧
    (∀ x, s.control = none → s.rind.everHeld = false → s.readyBeat s.home = false →
      s.readyBeat (other s.home) = true → s.rind.readyAt.get (other s.home) = some x →
      (x + 100000000 ≤ s.die.replica → takesOver .homeReadyTimeout (other s.home)) ∧
      (s.die.replica < x + 100000000 → exec .homeReadyTimeout s = .next s)) ∧
    (∃ t, exec (.arbiterProposal false) s = .next t ∧ OnlyRind s t ∧ t.control = s.control ∧
      t.rind.steer = s.rind.steer ∧ t.rind.regs = s.rind.regs ∧
      t.rind.diffAt = some (s.rind.diffAt.getD s.die.replica)) ∧
    (∀ x, s.rind.diffAt = some x → x + 1000 < s.die.replica → s.rind.diffSaid = false →
      ∃ t, exec .arbiterDisagreement s = .next t ∧ OnlyRind s t ∧ OnlyRindRegs [0x204, 0x20C] s t ∧
        { t.rind with regs := [], diffSaid := false } = { s.rind with regs := [], diffSaid := false } ∧
        t.rind.flag 0x204 11 = true ∧ t.rind.fld 0x20C 16 16 = min 65535 (s.rind.fld 0x20C 16 16 + 1) ∧
        exec .arbiterDisagreement t = .next t)

/-- R572, R49: when no lane has held control for NONE_TMO after one had, every channel that is not DIRECT goes off with
its soft-off, every gate output off, RED_STAT.SAFE is set, and the stored commands stay. -/
def Sys2Proof.Claims.WithoutControlTheOutputsGoOff : Prop :=
  ∀ s : State,
    let due := s.rind.noneAt + s.rind.fld 0x200 16 8 * 1000000 ≤ s.die.replica
    (s.rind.none_ = true → s.rind.everHeld = true → s.die.safeOff = false → due →
      ∃ t, exec .noneTimeout s = .next t ∧ t.laneA = s.laneA ∧ t.laneB = s.laneB ∧
        t.rind.flag 0x204 12 = true ∧ t.rind.steer = s.rind.steer ∧ t.die.safeOff = true ∧
        t.die.cmds = s.die.cmds ∧ t.die.due = s.die.due ∧ t.die.img = s.die.img ∧
        (∀ n, n < 208 → t.die.swt n = if s.steer n ≠ 2 ∧ ((s.die.swt n).ph = 1 ∨ (s.die.swt n).ph = 2) then
          { s.die.swt n with
            ph := 3
            softEnd := s.die.replica + s.softTicks n
            fastSince := none
            retrying := false }
          else s.die.swt n) ∧
        (∀ n, n < 24 → (t.die.unit (208 + n)).gh = false ∧ (t.die.unit (208 + n)).gl = false ∧
          (t.die.unit (208 + n)).run = (s.die.unit (208 + n)).run)) ∧
    (s.rind.none_ = false ∨ s.rind.everHeld = false ∨ ¬due → exec .noneTimeout s = .next s)

/-- R574, R577, R578, R579: at its instant a planned handover moves the steering and is counted; a proof swap starts
only from the active lane, with a ready standby lane, nothing else planned and the module in RUN, and is else refused
with E87 and data 5; at its end the result, the age and UNFIT follow from the port checks that the moved units executed
and from their confirmations. -/
def Sys2Proof.Claims.HandoversAndProofSwaps : Prop :=
  ∀ (s : State) (l : LaneId) (p : Plan),
    let calm := s.gu .a = false ∧ s.gu .b = false
    let moves := fun (t : State) => t.control = some p.toLane ∧
      (∀ u, u < 232 → t.steer u =
        if s.steer u = laneNo (other p.toLane) then laneNo p.toLane else s.steer u) ∧
      t.rind.fld 0x10 16 16 = (s.rind.fld 0x10 16 16 + 1) % 65536 ∧ t.die.cmds = s.die.cmds
    (s.rind.plan = some p → calm → p.at_ ≤ s.die.replica → p.kind = 0 →
      ∃ t, exec .plannedHandover s = .next t ∧ moves t ∧ t.rind.plan = none ∧ t.rind.flag 0x204 13 = false ∧
        t.rind.fld 0x208 16 16 = min 65535 (s.rind.fld 0x208 16 16 + 1) ∧ ∀ m, Pends m 87 s t) ∧
    (s.rind.plan = some p → calm → p.at_ ≤ s.die.replica → p.kind = 1 →
      ∃ t q, exec .plannedHandover s = .next t ∧ moves t ∧ t.rind.plan = some q ∧ q.kind = 2 ∧
        q.toLane = other p.toLane ∧ q.at_ % 100000 = 0 ∧
        s.die.replica + s.rind.fld 0x200 24 8 * 10000000 ≤ q.at_ ∧
        q.at_ < s.die.replica + s.rind.fld 0x200 24 8 * 10000000 + 100000) ∧
    (s.rind.plan = none ∨ (s.rind.plan = some p ∧ calm ∧ s.die.replica < p.at_) →
      exec .plannedHandover s = .next s) ∧
    (s.control = some l → s.readyBeat (other l) = true → s.rind.proving = none → s.rind.plan = none →
      s.power = 0 → ∃ t q, exec (.proofRequest l) s = .next t ∧ t.rind.plan = some q ∧ q.kind = 1 ∧
        q.toLane = other l ∧ q.at_ % 100000 = 0 ∧ s.die.replica + 200000 ≤ q.at_ ∧
        q.at_ < s.die.replica + 300000 ∧ t.rind.proving = some (other l) ∧ t.rind.flag 0x204 8 = true ∧
        t.rind.flag 0x204 13 = true ∧ t.rind.steer = s.rind.steer ∧ t.control = s.control ∧ t.die = s.die ∧
        LanesOnlyRegs [] s t ∧ BothRaise 87 3 (laneNo l) 0 s t) ∧
    (s.control = some l → s.readyBeat (other l) = false ∨ s.rind.proving ≠ none ∨ s.rind.plan ≠ none ∨
      s.power ≠ 0 → ∃ t, exec (.proofRequest l) s = .next t ∧ t.rind = s.rind ∧ t.die = s.die ∧
        LanesOnlyRegs [] s t ∧ BothRaise 87 5 (laneNo l) 0 s t) ∧
    (s.control ≠ some l → exec (.proofRequest l) s = .next s) ∧
    (∀ v said, s.rind.plan = some p → p.kind = 2 → p.at_ ≤ s.die.replica → calm → s.rind.proving = some v →
      let ok := said && s.rind.toCheck.all (fun u => s.die.checked.contains u)
      ∃ t, exec (.proofSwapEnd said) s = .next t ∧ moves t ∧ t.rind.proving = none ∧ t.rind.flag 0x204 8 = false ∧
        t.rind.fld 0x204 9 2 = (if ok = true then 1 else 2) ∧
        (ok = true → t.rind.fld 0x210 (16 * laneNo v) 16 = 0) ∧
        (ok = false → t.rind.flag 0x204 (6 + laneNo v) = true ∧ t.rind.rd 0x210 = s.rind.rd 0x210) ∧
        ∀ m, Pends m 87 s t) ∧
    (s.power = 0 → ∃ t, exec .proofAgeHour s = .next t ∧ OnlyRindWords [0x210] s t ∧
      (∀ k, k < 2 → t.rind.fld 0x210 (16 * k) 16 = min 65535 (s.rind.fld 0x210 (16 * k) 16 + 1))) ∧
    (s.power ≠ 0 → exec .proofAgeHour s = .next s)

/-- R24, R81, R180, R563: the lane link carries the active lane's set edges to the standby lane's mirror and tells
whether the two configurations match; its loss clears PEER_OK at once.  R539: a lane adopts the register's
record as its view, and reports a role or unit that differs with E86. -/
def Obligations.LanesShareTheirViews : Prop :=
  ∀ (s : State) (l : LaneId),
    let L := s.lane l
    (∃ t, exec .laneLinkDown s = .next t ∧ t.laneLink = false ∧ t.die = s.die ∧ t.rind = s.rind ∧
      t.peerOk l = false ∧ (t.lane l).flag 0x40140004 3 = false ∧
      (t.lane l).time.peerGood = 0 ∧ OnlyRegs l [0x40140004] s t ∧ SameMemory l s t) ∧
    (∃ t, exec .laneLinkUp s = .next t ∧ t.laneLink = (s.laneA.alive && s.laneB.alive) ∧ t.die = s.die ∧
      t.rind = s.rind ∧ (t.lane l).flag 0x40140004 3 = (s.laneA.alive && s.laneB.alive) ∧
      OnlyRegs l [0x40140004] s t ∧ SameMemory l s t) ∧
    (s.laneLink = true → s.laneA.alive = true → s.laneB.alive = true → s.control = some l →
      ∃ t, exec .laneLinkMirror s = .next t ∧ t.die = s.die ∧ t.rind = s.rind ∧
        (∀ m, (t.lane m).spx.unsent = [] ∧ (t.lane m).flag 0x40140004 4 = s.same ∧
          OnlyRegs m [0x40140004] s t ∧ SameMemory m s t) ∧
        (t.lane l).spx.mirror = L.spx.mirror ∧
        ((t.lane (other l)).spx.mirror.map (fun h => (h.ch, h.at_, h.level))) =
          ((s.lane (other l)).spx.mirror ++ L.spx.unsent).map (fun h => (h.ch, h.at_, h.level)) ∧
        (s.lane (other l)).time.map.or L.time.map = (t.lane (other l)).time.map) ∧
    (s.laneLink = false → exec .laneLinkMirror s = .next s) ∧
    (L.alive = true → ∃ t, exec (.ownershipViewAdopt l) s = .next t ∧ OnlyLane l s t ∧ (t.lane l).regs = L.regs ∧
      SameMemory l s t ∧ (t.lane l).host.view = ⟨s.rind.act, s.rind.none_, s.rind.fld 0x10 16 16, s.rind.steer⟩ ∧
      exec (.ownershipDisagree l) t = .next t) ∧
    (let v := L.host.view
     let seq := BitVec.ofNat 32 (s.rind.fld 0x10 16 16)
     let mine := v.none_ = false ∧ v.act = l
     ((mine ∧ s.control ≠ some l) ∨ (¬mine ∧ s.control = some l) →
       ∃ t, exec (.ownershipDisagree l) s = .next t ∧ RaisesOnly l 86 1 0 seq [] s t) ∧
     (∀ u, (mine ↔ s.control = some l) → u < 232 → Tab.get v.steer 0 u ≠ s.steer u →
       (∀ k, k < u → Tab.get v.steer 0 k = s.steer k) →
       ∃ t, exec (.ownershipDisagree l) s = .next t ∧ RaisesOnly l 86 2 u seq [] s t))

/-- R25, R406, R20, R409, R421: the earliest due command of a port leaves its queue; it becomes the port's latest due
command of its unit, and acts where the lane in control steers the unit by that port, a level command putting the
channel into LEVEL mode, the images of the port and of the lane with it; a late one that acts is counted with E06; a port whose
unit is frozen discards it; none of a unit that the power state stops runs (R66); of two that set one unit and name one instant the earlier issued is dropped (R160).  A register
write of PER changes the port's image and its pending or staged shadow, and not the active period. -/
def Sys2Proof.Claims.DueCommandsExecute : Prop :=
  ∀ (s : State) (l : LaneId) (c : PulseCmd) (rest : List PulseCmd),
    let u := c.unit
    let p := s.die.unit u
    let mine := s.rind.none_ = false ∧ s.steer u = laneNo l
    let x := s.die.shadow l u
    let first := s.die.cmds.get l = c :: rest ∧ c.at_ ≤ s.die.replica ∧ s.ladderIdle u = false ∧
      ∀ d, d ∈ rest → d.isReg = c.isReg → d.at_ ≤ s.die.replica → c.at_ ≤ d.at_
    (∀ on, first → c.act = .level on → (∀ d, d ∈ rest → d.unit = u → d.at_ = c.at_ → d.late ≠ c.late) → u < 208 →
      p.frozen = false →
      ∃ t, exec (.pulseCommandExecute l) s = .next t ∧ t.rind = s.rind ∧
        t.die.cmds.get l = rest ∧ t.die.cmds.get (other l) = s.die.cmds.get (other l) ∧
        Tab.get (t.die.due.get l) ⟨0, 0, 0, .check, none, none⟩ u = c ∧
        (∀ w, w ≠ u → t.die.unit w = s.die.unit w) ∧ t.die.sw = s.die.sw ∧
        (mine → (t.die.unit u).run = false ∧ (t.die.unit u).level = on ∧
          (p.trip = false → p.force = 0 → p.shut = none → p.held = false → (t.die.unit u).line = on)) ∧
        (¬mine → t.die.unit u = p) ∧
        (c.late ≠ none → mine → (t.lane l).flag 0x400F0040 3 = true ∧ Pends l 6 s t ∧
          (t.lane l).fld 0x400F0040 16 16 = min 65535 ((s.lane l).fld 0x400F0040 16 16 + 1)) ∧
        (c.late = none ∨ ¬mine → (t.lane l).rd 0x400F0040 = (s.lane l).rd 0x400F0040) ∧
        bitOf (t.die.image l (cfgAddr u)) 0 = false ∧ bitOf (t.die.image l (cfgAddr u)) 1 = on ∧
        t.die.sh = s.die.sh ∧
        (c.late = none → p.shut = none → p.held = false → t.lane (other l) = s.lane (other l) ∧
          OnlyRegs l [cfgAddr u] s t ∧
          ((∀ k, k ∈ (s.lane l).spx.cancels → c.curd ≠ some k.handle) → SameBulk l s t))) ∧
    (∀ on d, first → c.act = .level on → d ∈ rest → d.act = .level (!on) → d.unit = u → d.at_ = c.at_ →
      d.late = c.late →
      ∃ t, exec (.pulseCommandExecute l) s = .next t ∧ t.die.cmds.get l = rest ∧ t.die.units = s.die.units ∧
        t.die.due = s.die.due ∧ t.laneA = s.laneA ∧ t.laneB = s.laneB) ∧
    (first → c.isReg = false → p.frozen = true → mine → ∃ t, exec (.pulseCommandExecute l) s = .next t ∧
      t.die.cmds.get l = rest ∧ t.die.units = s.die.units ∧ t.die.due = s.die.due ∧ t.die.img = s.die.img) ∧
    ((∀ d, d ∈ s.die.cmds.get l → d.isReg = true ∨ s.die.replica < d.at_ ∨ s.ladderIdle d.unit = true) →
      exec (.pulseCommandExecute l) s = .next s) ∧
    (∀ v, first → u < 208 → c.act = .reg (perAddr u) v → p.frozen = false →
      ∃ t, exec (.pulseRegisterApply l) s = .next t ∧ t.rind = s.rind ∧ t.die.cmds.get l = rest ∧
        fieldNat (t.die.image l (perAddr u)) 0 20 = fieldNat v 0 20 ∧
        (∀ w, w ≠ u → t.die.unit w = s.die.unit w) ∧
        (s.governs u ≠ l ∨ s.rind.none_ = true → t.die.unit u = p) ∧
        (t.die.unit u).per = p.per ∧ t.die.shadow (other l) u = s.die.shadow (other l) u ∧
        (bitOf (s.die.image l (cfgAddr u)) 4 = false → t.die.shadow l u = { x with
          per := max 20 (t.die.image l (perAddr u)).toNat
          pPer := true
          wPer := some s.die.replica }) ∧
        (bitOf (s.die.image l (cfgAddr u)) 4 = true → t.die.shadow l u = { x with
          stPer := some (max 20 (t.die.image l (perAddr u)).toNat) })) ∧
    ((∀ d, d ∈ s.die.cmds.get l → d.isReg = false ∨ s.die.replica < d.at_ ∨ s.ladderIdle d.unit = true) →
      exec (.pulseRegisterApply l) s = .next s)

/-- R66, R407, R408, R411, R412, R413, R572: a channel's period begins with the pending group's PER and DUTY of the port it
obeys, and its line on for DUTY; a lone shadow transfers alone; with no lane in control nothing transfers; the line
falls when DUTY has passed and DUTY is below PER. -/
def Sys2Proof.Claims.ChannelsRunTheirWaveform : Prop :=
  ∀ (s : State) (n : ChNo),
    let p := s.die.unit n
    let x := s.shadow n
    let free := p.trip = false ∧ p.force = 0 ∧ p.held = false ∧ p.shut = none
    let runs := p.run = true ∧ p.frozen = false ∧ s.ladderIdle n = false
    let due := runs ∧ p.start + p.per * 100 ≤ s.die.replica
    let begins := fun (t : State) => OnlyUnits [n.val] s t ∧ t.laneA = s.laneA ∧ t.laneB = s.laneB ∧
      (t.die.unit n).start = s.die.replica ∧ (t.die.unit n).run = true ∧ (t.die.unit n).h = decide (0 < (t.die.unit n).dut) ∧
      (t.die.unit n).line = decide (0 < (t.die.unit n).dut)
    (due → free → s.rind.none_ = false → x.group = true → ∃ t, exec (.channelPeriodStart n) s = .next t ∧ begins t ∧
      (t.die.unit n).per = x.per ∧ (t.die.unit n).dut = x.dut ∧
      t.shadow n = { x with
        pPer := false
        pDut := false
        group := false }) ∧
    (due → free → s.rind.none_ = true ∨ (x.group = false ∧ x.pPer = false ∧ x.pDut = false) →
      ∃ t, exec (.channelPeriodStart n) s = .next t ∧ begins t ∧ (t.die.unit n).per = p.per ∧
        (t.die.unit n).dut = p.dut ∧ t.die.sh = s.die.sh) ∧
    (∀ w, due → s.rind.none_ = false → x.group = false → x.pPer = true → x.pDut = false → x.wDut = some w →
      w < s.die.replica → s.die.replica ≤ w + s.guardTicks n → ∃ t, exec (.channelPeriodStart n) s = .next t ∧
        (t.die.unit n).per = x.per ∧ (t.shadow n).pPer = false ∧ (t.die.unit n).dut = p.dut ∧ (t.die.unit n).partialF = true ∧
        ∀ l, Pends l 18 s t ∧ ((s.lane l).alive = true → (t.lane l).flag 0x400D0004 0 = true)) ∧
    (¬due → exec (.channelPeriodStart n) s = .next s) ∧
    (runs → p.h = true → p.dut < p.per → p.start + p.dut * 100 ≤ s.die.replica →
      p.trip = false → p.force = 0 → ∃ t, exec (.channelDutyEnd n) s = .next t ∧ OnlyUnits [n.val] s t ∧
        t.laneA = s.laneA ∧ t.laneB = s.laneB ∧ (t.die.unit n).h = false ∧ (t.die.unit n).line = false ∧
        (t.die.unit n).per = p.per ∧ (t.die.unit n).dut = p.dut ∧
        (p.line = true → (t.die.unit n).shut = some (s.die.replica + s.softTicks n))) ∧
    (¬runs ∨ p.h = false ∨ p.per ≤ p.dut → exec (.channelDutyEnd n) s = .next s)

/-- R66, R410, R411, R414, R572: a bridge's period begins with the pending group, its reference on as alignment says; the
reference falls at the end of its duty, and the other gate turns on only after the dead time, and not at all where its
reference ends by then or in a turn-off of R572; a new DUTY transfers at
M while UPD is 1; a bootstrap refresh ends with GL off and GH a dead time later. -/
def Sys2Proof.Claims.BridgesRunTheirWaveform : Prop :=
  ∀ (s : State) (n : BrNo),
    let u := 208 + n.val
    let p := s.die.unit u
    let x := s.shadow u
    let now := s.die.replica
    let idle := s.ladderIdle u
    let due := p.run = true ∧ p.frozen = false ∧ idle = false ∧ p.start + p.per ≤ now
    let free := p.trip = false ∧ p.force = 0 ∧ p.resume = false ∧ p.refresh = false ∧ p.frozen = false ∧
      s.die.safeOff = false ∧ idle = false
    let gate := p.frozen = false ∧ p.waitAt ≤ now ∧ p.noPulse = false ∧ s.die.safeOff = false ∧ idle = false
    (due → s.rind.none_ = false → x.group = true → ∃ t, exec (.bridgePeriodStart n) s = .next t ∧ t.rind = s.rind ∧
      (∀ w, w ≠ u → t.die.unit w = s.die.unit w) ∧ (t.die.unit u).per = x.per ∧
      (t.die.unit u).dut = x.dut ∧ (t.die.unit u).start = now ∧ (t.die.unit u).mid = false ∧
      (t.shadow u).group = false ∧ (t.die.unit u).dt = fieldNat (s.unitCfg u) 16 8 ∧
      (t.die.unit u).align = bitOf (s.unitCfg u) 1 ∧
      (t.die.unit u).h = if bitOf (s.unitCfg u) 1 then decide (x.per ≤ x.dut) else decide (0 < x.dut)) ∧
    (¬due → exec (.bridgePeriodStart n) s = .next s) ∧
    (free → p.run = true → p.align = false → p.h = true → p.dut < p.per → p.start + p.dut ≤ now → 0 < p.dt →
      ∃ t, exec (.bridgeDutyEnd n) s = .next t ∧ OnlyUnits [u] s t ∧ t.laneA = s.laneA ∧ t.laneB = s.laneB ∧
        (t.die.unit u).h = false ∧ (t.die.unit u).gh = false ∧ (t.die.unit u).gl = p.gl ∧
        (t.die.unit u).wait = 2 ∧ (t.die.unit u).waitAt = now + p.dt) ∧
    (p.h = false → exec (.bridgeDutyEnd n) s = .next s) ∧
    (gate → p.wait = 1 → ∃ t, exec (.deadTimeExpiry n) s = .next t ∧
      OnlyUnits [u] s t ∧ t.laneA = s.laneA ∧ t.laneB = s.laneB ∧ (t.die.unit u).wait = 0 ∧
      (t.die.unit u).gl = p.gl ∧ (p.h = true → (t.die.unit u).gh = true) ∧ (t.die.unit u).h = p.h) ∧
    (gate → p.wait = 2 → ∃ t, exec (.deadTimeExpiry n) s = .next t ∧
      OnlyUnits [u] s t ∧ t.laneA = s.laneA ∧ t.laneB = s.laneB ∧ (t.die.unit u).wait = 0 ∧
      (t.die.unit u).gl = true ∧ (t.die.unit u).gh = p.gh) ∧
    (p.wait = 0 ∨ now < p.waitAt ∨ (p.frozen = true ∧ p.trip = false) ∨ p.noPulse = true ∨ s.die.safeOff = true ∨
      idle = true → exec (.deadTimeExpiry n) s = .next s) ∧
    (free → p.run = true → p.align = true → p.h = false → p.mid = false → 0 < p.dut →
      p.midAt - p.dut / 2 ≤ now → now < p.midAt → 0 < p.dt → ∃ t, exec (.bridgeMidPeriod n) s = .next t ∧
        OnlyUnits [u] s t ∧ (t.die.unit u).h = true ∧ (t.die.unit u).gl = false ∧ (t.die.unit u).wait = 1 ∧
        (t.die.unit u).waitAt = now + p.dt ∧ (t.die.unit u).mid = false) ∧
    (p.run = true → p.frozen = false → idle = false → p.align = false → p.mid = false → p.midAt ≤ now → p.upd = true →
      s.rind.none_ = false → x.group = false → x.pDut = true → ∃ t, exec (.bridgeMidPeriod n) s = .next t ∧
        (t.die.unit u).mid = true ∧ (t.die.unit u).dut = x.dut ∧ (t.shadow u).pDut = false ∧
        (t.die.unit u).per = p.per ∧ ∀ w, w ≠ u → t.die.unit w = s.die.unit w) ∧
    (p.run = false ∨ p.frozen = true ∨ idle = true → exec (.bridgeMidPeriod n) s = .next s) ∧
    (p.refresh = true → p.gl = true → p.frozen = false → idle = false → p.start + p.dt + s.bsw u ≤ now → p.h = true → 0 < p.dt →
      ∃ t, exec (.bootstrapRefreshEnd n) s = .next t ∧ OnlyUnits [u] s t ∧ t.laneA = s.laneA ∧
        t.laneB = s.laneB ∧ (t.die.unit u).gl = false ∧ (t.die.unit u).wait = 1 ∧
        (t.die.unit u).waitAt = now + p.dt ∧ (t.die.unit u).gh = p.gh) ∧
    (p.refresh = false → exec (.bootstrapRefreshEnd n) s = .next s)

/-- R412, R407, R415, R420: COMMIT makes both staged values of the lane's port one pending group; FORCE changes the port's image and, where the
port governs the unit, the unit; a shutdown that has ended lets a held enable act. -/
def Sys2Proof.Claims.CommitsForcesAndShutdowns : Prop :=
  ∀ (s : State) (l : LaneId) (u : UnitNo) (v : Fin 4),
    let p := s.die.unit u
    let x := s.die.shadow l u
    let governs := s.governs u = l ∧ s.rind.none_ = false ∧ s.ladderIdle u = false
    let lo := if u.val < 208 then 2 else 4
    (∃ t, exec (.commit l u) s = .next t ∧ OnlyUnits [u.val] s t ∧ t.laneA = s.laneA ∧ t.laneB = s.laneB ∧
      t.die.units = s.die.units ∧ t.die.shadow (other l) u = s.die.shadow (other l) u ∧
      t.die.shadow l u = { x with
        per := x.stPer.getD x.per
        dut := x.stDut.getD x.dut
        pPer := true
        pDut := true
        group := true
        stPer := none
        stDut := none }) ∧
    (∃ t, exec (.forceWrite l u v) s = .next t ∧ t.rind = s.rind ∧
      fieldNat (t.die.image l (cfgAddr u)) lo 2 = v.val ∧
      (∀ a, a ≠ cfgAddr u → t.die.image l a = s.die.image l a) ∧
      (∀ a, t.die.image (other l) a = s.die.image (other l) a) ∧
      (∀ w, w ≠ u.val → t.die.unit w = s.die.unit w) ∧
      (governs → (t.die.unit u).force = if u.val < 208 ∧ v = 3 then 0 else v.val) ∧
      (governs → p.trip = false → p.frozen = false → v = 1 →
        (u.val < 208 → (t.die.unit u).line = false) ∧
        (208 ≤ u.val → (t.die.unit u).gh = false ∧ (t.die.unit u).gl = false)) ∧
      (¬governs → t.die.units = s.die.units)) ∧
    (p.shut = none → exec (.shutdownComplete u) s = .next s) ∧
    (∀ x, p.shut = some x → s.die.replica < x → exec (.shutdownComplete u) s = .next s) ∧
    (∀ x, p.shut = some x → x ≤ s.die.replica → 208 ≤ u.val → p.enHeld = true →
      ∃ t, exec (.shutdownComplete u) s = .next t ∧ t.rind = s.rind ∧ (t.die.unit u).run = true ∧
        (t.die.unit u).start = s.die.replica ∧ (t.die.unit u).shut = none ∧ (t.die.unit u).enHeld = false ∧
        ∀ w, w ≠ u.val → t.die.unit w = s.die.unit w) ∧
    (∀ x, p.shut = some x → x ≤ s.die.replica → 208 ≤ u.val → p.held = false → p.enHeld = false → p.run = false →
      p.force = 0 → p.gh = false → p.gl = false → p.wait = 0 → p.refresh = false →
      ∃ t, exec (.shutdownComplete u) s = .next t ∧ OnlyUnits [u.val] s t ∧ t.laneA = s.laneA ∧
        t.laneB = s.laneB ∧ t.die.unit u = { p with shut := none }) ∧
    (∀ x, p.shut = some x → x ≤ s.die.replica → u.val < 208 → p.trip = false → p.frozen = false → p.force = 0 →
      p.run = false → p.line = false → ∃ t, exec (.shutdownComplete u) s = .next t ∧ OnlyUnits [u.val] s t ∧
        t.laneA = s.laneA ∧ t.laneB = s.laneB ∧ (t.die.unit u).line = p.level ∧ (t.die.unit u).shut = none)

/-- R83, R417, R418, R419, R421, R422: a selected source trips a unit with E16 and its action, and the stamps of the pads
that changed go to the lanes; a trip clears only when no
selected source is active, and a refused clear raises E17; a debug halt freezes the units on the lane's port with E21,
and its end releases them. -/
def Obligations.TripsAndFreezes : Prop :=
  ∀ (s : State) (l : LaneId) (u : UnitNo) (src : BitVec 10) (at_ : Nat),
    let p := s.die.unit u
    let hit := s.selected u &&& src.toNat
    let still := s.selected u &&& (src.toNat ||| 256)
    let us := (List.range 232).filter (fun w => s.steer w == laneNo l)
    let others := fun (t : State) => t.rind = s.rind ∧ ∀ w, w ≠ u.val → t.die.unit w = s.die.unit w
    (hit ≠ 0 → p.trip = false → ∃ t, exec (.trip u ⟨src, at_⟩) s = .next t ∧ others t ∧ (t.die.unit u).trip = true ∧
      (t.die.unit u).tripSrc = hit ∧ (∀ m, Pends m 16 s t) ∧
      (s.tripAct u = 0 → (u.val < 208 → (t.die.unit u).line = false) ∧
        (208 ≤ u.val → (t.die.unit u).gh = false ∧ (t.die.unit u).gl = false))) ∧
    (hit = 0 → ∃ t, exec (.trip u ⟨src, at_⟩) s = .next t ∧ others t ∧ t.die.unit u = p ∧
      ∀ k, k < 8 → Tab.get t.die.tripIn false k = src.getLsbD k ∧
        (Tab.get s.die.tripIn false k ≠ src.getLsbD k → ∀ m, (s.lane m).alive = true →
          (s.lane m).flag 0x400F0040 0 = true → Tab.get (t.lane m).pads 0 k = min at_ s.die.replica)) ∧
    (s.governs u = l → s.rind.none_ = false → p.trip = true → still ≠ 0 →
      ∃ t, exec (.tclr l u src) s = .next t ∧ others t ∧ t.die.unit u = { p with clrRej := true } ∧
        ∀ m, Pends m 17 s t) ∧
    (s.governs u = l → s.rind.none_ = false → p.trip = true → still = 0 →
      ∃ t, exec (.tclr l u src) s = .next t ∧ others t ∧ (t.die.unit u).trip = false ∧
        (t.die.unit u).tripSrc = 0 ∧
        (208 ≤ u.val → (t.die.unit u).resume = p.run ∧
          (p.run = true ∨ p.force < 2 → (t.die.unit u).gh = false ∧ (t.die.unit u).gl = false))) ∧
    ((s.lane l).halted = true → (s.lane l).flag 0x400F0040 0 = true → s.die.freezing.get l = false →
      ∃ t, exec (.unitFreeze l) s = .next t ∧ t.rind = s.rind ∧ t.die.freezing.get l = true ∧
        (∀ w, w < 232 → s.steer w = laneNo l → (t.die.unit w).frozen = true ∧
          (t.die.unit w).line = (s.die.unit w).line ∧
          ((s.die.unit w).wait ≠ 0 → s.tripped w (s.die.unit w) = false → (t.die.unit w).gh = false ∧ (t.die.unit w).gl = false) ∧
          ((s.die.unit w).wait = 0 → (t.die.unit w).gh = (s.die.unit w).gh ∧
            (t.die.unit w).gl = (s.die.unit w).gl)) ∧
        (∀ w, s.steer w ≠ laneNo l → t.die.unit w = s.die.unit w) ∧
        (us ≠ [] → BothRaise 21 1 0 (BitVec.ofNat 32 us.length) s t)) ∧
    ((s.lane l).halted = false ∨ s.die.freezing.get l = true → exec (.unitFreeze l) s = .next s) ∧
    (s.die.freezing.get l = true → (s.lane l).halted = false ∨ (s.lane l).flag 0x400F0040 0 = false →
      ∃ t, exec (.unitRelease l) s = .next t ∧
      t.rind = s.rind ∧ t.die.freezing.get l = false ∧ (∀ w, w < 232 → w ∈ s.die.froze.get l → (t.die.unit w).frozen = false) ∧
      (∀ w, w ∉ s.die.froze.get l ∨ (s.die.unit w).frozen = false → t.die.unit w = s.die.unit w) ∧
      ((∃ w, w < 232 ∧ w ∈ s.die.froze.get l ∧ (s.die.unit w).frozen = true) → ∀ m, Pends m 21 s t)) ∧
    (s.die.freezing.get l = false ∨ ((s.lane l).halted = true ∧ (s.lane l).flag 0x400F0040 0 = true) →
      exec (.unitRelease l) s = .next s)

/-- R429, R431, R432, R440, R444: a rise of the input line of a unit that runs (R66) turns the pad on unless something
holds it off, with an inrush window when one is set; a fall turns it off with its soft-off.  After the window, a current at or above FAST for 5 us
cuts the channel. -/
def Sys2Proof.Claims.SwitchesFollowTheirInput : Prop :=
  ∀ (s : State) (n : ChNo),
    let w := s.die.swt n
    let b := s.die.bank (bankOfCh n)
    let now := s.die.replica
    let cfg := s.chCfg n
    let inr := fieldNat cfg 16 8
    let quiet := fun (t : State) => t.rind = s.rind ∧ t.laneA = s.laneA ∧ t.laneB = s.laneB ∧
      t.die.units = s.die.units ∧ ∀ m, m ≠ n.val → t.die.swt m = s.die.swt m
    (s.inputLine n = true → w.inp = false → s.ladderIdle n = false → s.padFree n = true → b.restoring = false →
      b.above = false → ∃ t, exec (.turnOn n) s = .next t ∧ quiet t ∧ (t.die.swt n).inp = true ∧
        (t.die.swt n).ph = (if inr = 0 then 2 else 1) ∧ (t.die.swt n).winEnd = now + inr * 100000 ∧
        (t.die.swt n).wire = fieldNat cfg 0 3 ∧ (t.die.swt n).fast = fieldNat (s.chLim n) 0 8) ∧
    (s.inputLine n = true → w.inp = false → s.ladderIdle n = false → s.padFree n = false → b.restoring = false →
      ∃ t, exec (.turnOn n) s = .next t ∧ quiet t ∧ t.die.swt n = { w with inp := true }) ∧
    (s.inputLine n = true → w.inp = false → s.ladderIdle n = false → s.padFree n = true → b.restoring = false →
      b.above = true → s.newTurnOn n = true → ∃ t, exec (.turnOn n) s = .next t ∧ t.die.units = s.die.units ∧
        t.die.swt n = { w with inp := true, defer := true } ∧
        ∀ l, (s.lane l).alive = true → (t.lane l).rd 0x400F008C = satAdd (s.reg l 0x400F008C) 1) ∧
    (s.inputLine n = w.inp → exec (.turnOn n) s = .next s ∧ exec (.turnOff n) s = .next s) ∧
    (s.ladderIdle n = true → exec (.turnOn n) s = .next s) ∧
    (s.inputLine n = false → w.inp = true → ∃ t, exec (.turnOff n) s = .next t ∧ quiet t ∧
      (t.die.swt n).inp = false ∧ (t.die.swt n).defer = false ∧ (t.die.swt n).retrying = false ∧
      (t.die.swt n).re = w.re ∧ (w.backoff = none → (t.die.swt n).backoff = none) ∧
      (∀ x, w.backoff = some x → (t.die.swt n).backoff = if now < x then some x else none) ∧
      (w.ph = 1 ∨ w.ph = 2 → (t.die.swt n).ph = 3 ∧ (t.die.swt n).softEnd = now + s.softTicks n)) ∧
    (w.ph = 1 → w.winEnd ≤ now → ∃ t, exec (.inrushWindowEnd n) s = .next t ∧ OnlySw [n.val] s t ∧ quiet t ∧
      (t.die.swt n).ph = 2 ∧
      (amps n w.fast ≤ w.cur → (t.die.swt n).fastSince = some w.winEnd) ∧
      (w.cur < amps n w.fast → (t.die.swt n).retrying = false ∧
        (t.die.swt n).re = if w.retrying then w.re.drop 1 else w.re)) ∧
    (w.ph ≠ 1 ∨ now < w.winEnd → exec (.inrushWindowEnd n) s = .next s) ∧
    (∀ x, w.fastSince = some x → w.ph = 2 ∨ w.latchedNow now = true → x + 500 ≤ now →
      ∃ t, exec (.fastCut n) s = .next t ∧
      t.rind = s.rind ∧ t.die.units = s.die.units ∧ (t.die.swt n).ph = 0 ∧ (t.die.swt n).k = min 8 (w.k + 1) ∧
      (t.die.swt n).retrying = false ∧ (t.die.swt n).inp = w.inp ∧ (∀ l, Pends l 0 s t) ∧
      ∀ m, m ≠ n.val → t.die.swt m = s.die.swt m) ∧
    (w.fastSince = none ∨ (w.ph ≠ 2 ∧ w.latchedNow now = false) → exec (.fastCut n) s = .next s)

/-- R433, R435, R436, R437: the heat model cuts at its trip level; a cut that AUTO and the counts allow starts the
backoff, which doubles with K; a retry opens a window and its account; too many cuts, AUTO 0, or too much energy lead to
LOCKOUT, which LCLR of the governing lane alone clears, and only while the energy account allows. -/
def Sys2Proof.Claims.CutsRetriesAndLockouts : Prop :=
  ∀ (s : State) (l : LaneId) (n : ChNo) (cur vout : Rat),
    let w := s.die.swt n
    let now := s.die.replica
    let b := s.die.bank (bankOfCh n)
    let wire := w.wire
    let heat := w.heat * (1 - 1 / 100000 / wireTau wire) + cur * cur * (1 / 100000)
    let recent := w.cuts.filter (fun t => decide (now < t + 60000000000))
    let cutDone := fun (t : State) => t.rind = s.rind ∧ t.die.units = s.die.units ∧ (t.die.swt n).ph = 0 ∧
      (t.die.swt n).k = min 8 (w.k + 1) ∧ (t.die.swt n).cuts = now :: recent ∧ (∀ m, Pends m 0 s t) ∧
      ∀ m, m ≠ n.val → t.die.swt m = s.die.swt m
    (heat < tripLevel wire ∨ (w.ph ≠ 1 ∧ w.ph ≠ 2 ∧ w.latchedNow now = false) → ∃ t, exec (.heatUpdate n cur vout) s = .next t ∧
      OnlySw [n.val] s t ∧ t.laneA = s.laneA ∧ t.laneB = s.laneB ∧ (t.die.swt n).heat = heat ∧
      (t.die.swt n).cur = cur ∧ (t.die.swt n).ph = w.ph) ∧
    (w.ph = 1 ∨ w.ph = 2 ∨ w.latchedNow now = true → tripLevel wire ≤ heat → bitOf (s.chCfg n) 30 = true →
      recent.length < 8 →
      ∃ t, exec (.heatUpdate n cur vout) s = .next t ∧ cutDone t ∧ (t.die.swt n).cutFlags.testBit 1 = true ∧
        (t.die.swt n).backoff = some (now + s.retryT0 * 1000000 * 2 ^ (min 8 (w.k + 1) - 1)) ∧
        (t.die.swt n).lockCnt = w.lockCnt) ∧
    (w.ph = 1 ∨ w.ph = 2 ∨ w.latchedNow now = true → tripLevel wire ≤ heat →
      bitOf (s.chCfg n) 30 = false ∨ 8 ≤ recent.length →
      ∃ t, exec (.heatUpdate n cur vout) s = .next t ∧ cutDone t ∧ (t.die.swt n).lockCnt = true ∧
        (t.die.swt n).backoff = none ∧ ∀ m, Pends m 2 s t) ∧
    (w.retrying = true → (w.ph = 1 ∨ w.ph = 2) → 2 - eMax n ≤ w.energy → bitOf (s.chCfg n) 30 = true →
      recent.length < 8 → ∃ t, exec (.energyCut n) s = .next t ∧ cutDone t ∧ (t.die.swt n).lockE = true ∧
        (t.die.swt n).cutFlags.testBit 2 = true ∧ ∀ m, Pends m 2 s t) ∧
    (w.retrying = false ∨ w.energy < 2 - eMax n → exec (.energyCut n) s = .next s) ∧
    (∀ x, w.backoff = some x → x ≤ now → w.tlatch = false → s.ladderIdle n = false → w.inp = true →
      w.heat ≤ tripLevel wire / 2 → s.order1 n = false → b.off = false →
      b.restoring = false → b.above = false → w.energy + eMax n < 2 →
      ∃ t, exec (.retry n) s = .next t ∧ OnlySw [n.val] s t ∧ (t.die.swt n).retrying = true ∧
        (t.die.swt n).re = (now, 0) :: w.re ∧ (t.die.swt n).backoff = none ∧ BothRaise 1 w.k n 0 s t ∧
        (t.die.swt n).ph = (if fieldNat (s.chCfg n) 16 8 = 0 then 2 else 1)) ∧
    (∀ x, w.backoff = some x → x ≤ now → w.tlatch = false → s.ladderIdle n = false → w.inp = false →
      ∃ t, exec (.retry n) s = .next t ∧ OnlySw [n.val] s t ∧ t.die.swt n = { w with backoff := none } ∧
        t.laneA = s.laneA ∧ t.laneB = s.laneB) ∧
    (w.backoff = none ∨ s.ladderIdle n = true ∨ w.tlatch = true → exec (.retry n) s = .next s) ∧
    (∀ x, w.backoff = some x → x ≤ now → w.tlatch = false → s.ladderIdle n = false → w.inp = true →
      w.heat ≤ tripLevel wire / 2 → s.order1 n = false → b.off = false → b.restoring = false →
      2 ≤ w.energy + eMax n → ∃ t, exec (.retry n) s = .next t ∧ OnlySw [n.val] s t ∧
        (t.die.swt n).lockE = true ∧ (t.die.swt n).backoff = none ∧ BothRaise 2 2 n 0 s t) ∧
    (∀ x, w.backoff = some x → now < x ∨ (w.inp = true ∧ tripLevel wire / 2 < w.heat) →
      exec (.retry n) s = .next s) ∧
    ((w.ph = 1 ∨ w.ph = 2) → w.onSince + 6000000000 ≤ now → ∃ t, exec (.backoffReset n) s = .next t ∧
      OnlySw [n.val] s t ∧ t.die.swt n = { w with k := 0 } ∧ t.laneA = s.laneA ∧ t.laneB = s.laneB) ∧
    (now < w.onSince + 6000000000 → exec (.backoffReset n) s = .next s) ∧
    (∃ t, exec (.cutsAgeOut n) s = .next t ∧ OnlySw [n.val] s t ∧ t.die.swt n = { w with cuts := recent } ∧
      t.laneA = s.laneA ∧ t.laneB = s.laneB) ∧
    (∃ t, exec (.reAgeOut n) s = .next t ∧ OnlySw [n.val] s t ∧ t.laneA = s.laneA ∧ t.laneB = s.laneB ∧
      t.die.swt n = { w with re := w.re.filter (fun e => decide (now < e.1 + 360000000000)) }) ∧
    (s.governs n ≠ l ∨ (w.lockCnt = false ∧ w.lockE = false) → exec (.lclr l n) s = .next s) ∧
    (s.governs n = l → w.lockCnt = true ∨ w.lockE = true → w.energy + eMax n < 2 →
      ∃ t, exec (.lclr l n) s = .next t ∧ OnlySw [n.val] s t ∧ BothRaise 2 3 n 0 s t ∧
        t.die.swt n = { w with
          lockCnt := false
          lockE := false
          cuts := []
          k := 0
          backoff := none
          inp := false }) ∧
    (s.governs n = l → w.lockCnt = true ∨ w.lockE = true → 2 ≤ w.energy + eMax n →
      ∃ t, exec (.lclr l n) s = .next t ∧ t.die = s.die ∧ t.rind = s.rind ∧ BothRaise 2 4 n 0 s t)

/-- R438, R439, R441, R446: a junction at 175 degrees turns its pad off at once and a temperature difference at the
limit turns it off softly, each with E03; the governing lane's clear works once both have fallen by the hysteresis, and
is else rejected with E04; a case sensor out of range raises E08; a current sample is a 12-bit code. -/
def Sys2Proof.Claims.TemperaturesAndCurrents : Prop :=
  ∀ (s : State) (l : LaneId) (n : ChNo) (tj caseT : Int) (cur : Rat),
    let w := s.die.swt n
    let k := bankOfCh n
    let b := s.die.bank k
    let dtl : Int := fieldNat (s.chLim n) 8 7
    let hys : Int := s.dtHys
    let cool := (∀ d, s.deltaT n = some d → d < dtl - hys) ∧ w.tj < 175 - hys
    (175 ≤ tj → w.tjmax = false → ∃ t, exec (.thermalSample n tj caseT) s = .next t ∧ t.rind = s.rind ∧
      (t.die.swt n).tlatch = true ∧ (t.die.swt n).tjmax = true ∧ (t.die.swt n).ph = 0 ∧
      (t.die.swt n).tj = tj ∧ (t.die.bank k).caseT = caseT ∧ (∀ m, Pends m 3 s t) ∧
      ∀ m, m ≠ n.val → t.die.swt m = s.die.swt m) ∧
    (tj < 175 → b.caseFail = false → -50 ≤ caseT → caseT ≤ 150 → dtl ≤ tj - caseT → w.tlatch = false →
      ∃ t, exec (.thermalSample n tj caseT) s = .next t ∧ t.rind = s.rind ∧ (t.die.swt n).tlatch = true ∧
        (w.ph = 1 ∨ w.ph = 2 → (t.die.swt n).ph = 3) ∧ BothRaise 3 1 n 0 s t) ∧
    (tj < 175 → b.caseFail = false → -50 ≤ caseT → caseT ≤ 150 → tj - caseT < dtl →
      ∃ t, exec (.thermalSample n tj caseT) s = .next t ∧ t.laneA = s.laneA ∧ t.laneB = s.laneB ∧
        t.die.swt n = { w with tj := tj } ∧ t.die.bank k = { b with caseT := caseT }) ∧
    (tj < 175 → b.caseFail = false → 150 < caseT → w.tlatch = true →
      ∃ t, exec (.thermalSample n tj caseT) s = .next t ∧ (t.die.bank k).caseFail = true ∧
        BothRaise 8 0 (k + 1) 0 s t) ∧
    (s.governs n ≠ l ∨ w.tlatch = false → exec (.thermalClear l n) s = .next s) ∧
    (s.governs n = l → w.tlatch = true → cool → ∃ t, exec (.thermalClear l n) s = .next t ∧
      OnlySw [n.val] s t ∧ t.die.swt n = { w with
        tlatch := false
        tjmax := false
        inp := w.inp && w.backoff.isSome } ∧
      BothRaise 4 1 n 0 s t) ∧
    (s.governs n = l → w.tlatch = true → ¬cool → ∃ t, exec (.thermalClear l n) s = .next t ∧
      OnlySw [n.val] s t ∧ t.die.swt n = { w with thcRej := true } ∧ BothRaise 4 2 n 0 s t) ∧
    (∃ t, exec (.currentSenseSample n cur) s = .next t ∧ OnlySw [n.val] s t ∧ t.laneA = s.laneA ∧
      t.laneB = s.laneB ∧ (t.die.swt n).code = min 4095 (cur * 4096 / (if n.val < 192 then 12 else 60)).floor.toNat ∧
      (t.die.swt n).ph = w.ph ∧ (t.die.swt n).heat = w.heat)

/-- R442, R443, R55 to R58: a bank over its budget for 1 ms sets OVER with E05 data 1, and one at or below nine tenths
for 10 ms clears it with data 2; deferred channels then turn on one a millisecond, the lowest first; a forced-off bank turns
every channel off with E93, and is restored one channel a millisecond. -/
def Sys2Proof.Claims.BanksKeepTheirBudget : Prop :=
  ∀ (s : State) (k : BankNo),
    let b := s.die.bank k
    let now := s.die.replica
    let sum := (channelsOf k).foldl (fun a n => a + (s.die.swt n).cur) 0
    let bud := s.budget k
    (∀ x, bud < sum → b.above = false → b.overSince = some x → x + 100000 ≤ now →
      ∃ t, exec (.bankBudgetSample k) s = .next t ∧ t.rind = s.rind ∧ t.die.sw = s.die.sw ∧
        (t.die.bank k).above = true ∧ BothRaise 5 1 (k.val + 1) 0 s t ∧
        (∀ l, (s.lane l).alive = true → (t.lane l).flag (0x400F2000 + 16 * k.val) 26 = true ∧
          (t.lane l).rd (0x400F2008 + 16 * k.val) = satAdd (s.reg l (0x400F2008 + 16 * k.val)) 1)) ∧
    (∀ x, sum ≤ bud * 9 / 10 → b.above = true → b.recSince = some x → x + 1000000 ≤ now →
      ∃ t, exec (.bankBudgetSample k) s = .next t ∧ t.rind = s.rind ∧ t.die.sw = s.die.sw ∧
        (t.die.bank k).above = false ∧ BothRaise 5 2 (k.val + 1) 0 s t ∧ LanesOnlyRegs [] s t) ∧
    (bud * 9 / 10 < sum → sum ≤ bud → ∃ t, exec (.bankBudgetSample k) s = .next t ∧ t.laneA = s.laneA ∧
      t.laneB = s.laneB ∧ t.die.sw = s.die.sw ∧ (t.die.bank k).above = b.above ∧
      (t.die.bank k).overSince = none ∧ (t.die.bank k).recSince = none ∧ (t.die.bank k).sum = sum) ∧
    (b.above = true ∨ now < b.nextDefer → exec (.deferredTurnOnStep k) s = .next s) ∧
    (∀ n, n ∈ channelsOf k → b.above = false → b.nextDefer ≤ now → (s.die.swt n).defer = true →
      (s.die.swt n).inp = true → s.order1 n = false → (s.die.swt n).backoff = none →
      (∀ m, m ∈ channelsOf k → m < n →
        (s.die.swt m).defer = false ∨ (s.die.swt m).inp = false ∨ s.order1 m = true) →
      ∃ t, exec (.deferredTurnOnStep k) s = .next t ∧ t.laneA = s.laneA ∧ t.laneB = s.laneB ∧
        (t.die.swt n).defer = false ∧ (t.die.swt n).onSince = now ∧
        ((t.die.swt n).ph = 1 ∨ (t.die.swt n).ph = 2) ∧ (t.die.bank k).nextDefer = now + 100000 ∧
        ∀ m, m ≠ n → t.die.swt m = s.die.swt m) ∧
    (∀ n x, n ∈ channelsOf k → b.above = false → b.nextDefer ≤ now → (s.die.swt n).defer = true →
      (s.die.swt n).inp = true → s.order1 n = false → (s.die.swt n).backoff = some x →
      (s.die.swt n).heat ≤ tripLevel (s.die.swt n).wire / 2 → (s.die.swt n).energy + eMax n < 2 →
      (∀ m, m ∈ channelsOf k → m < n →
        (s.die.swt m).defer = false ∨ (s.die.swt m).inp = false ∨ s.order1 m = true) →
      ∃ t, exec (.deferredTurnOnStep k) s = .next t ∧ (t.die.swt n).defer = false ∧
        (t.die.swt n).backoff = none ∧ (t.die.swt n).retrying = true ∧
        (t.die.swt n).re = (now, 0) :: (s.die.swt n).re ∧ BothRaise 1 (s.die.swt n).k n 0 s t) ∧
    (∃ t, exec (.bankForcedOff k) s = .next t ∧ t.rind.flag 0x110 k = true ∧ t.rind.flag 0x110 (8 + k.val) = true ∧
      OnlyRindRegs [0x110] s t ∧ (t.die.bank k).off = true ∧ (t.die.bank k).restoring = false ∧
      (∀ n, n ∈ channelsOf k → (t.die.swt n).ph ≠ 1 ∧ (t.die.swt n).ph ≠ 2 ∧ (t.die.swt n).defer = false ∧
        ((s.die.swt n).ph = 1 ∨ (s.die.swt n).ph = 2 → (t.die.swt n).ph = 3 ∧ (t.die.swt n).retrying = false) ∧
        (t.die.swt n).re = (s.die.swt n).re ∧ (t.die.swt n).cuts = (s.die.swt n).cuts ∧
        (t.die.swt n).tlatch = (s.die.swt n).tlatch ∧ (t.die.swt n).backoff = (s.die.swt n).backoff) ∧
      (∀ n, n ∉ channelsOf k → t.die.swt n = s.die.swt n) ∧ LanesOnlyRegs [] s t ∧
      BothRaise 93 0 (k.val + 1) 0 s t) ∧
    (b.off = true → b.restoring = false → ∃ t, exec (.bankRestoreStart k) s = .next t ∧ t.rind = s.rind ∧
      t.laneA = s.laneA ∧ t.laneB = s.laneB ∧ (t.die.bank k).off = false ∧ (t.die.bank k).restoring = true ∧
      (t.die.bank k).waiting = (channelsOf k).filter (fun n => s.inputLine n) ∧
      (t.die.bank k).nextStep = now) ∧
    (b.off = false → exec (.bankRestoreStart k) s = .next s) ∧
    (b.restoring = false ∨ now < b.nextStep → exec (.bankRestoreStep k) s = .next s) ∧
    (b.restoring = true → b.nextStep ≤ now → b.waiting = [] → ∃ t, exec (.bankRestoreStep k) s = .next t ∧
      (t.die.bank k).restoring = false ∧ t.rind.flag 0x110 k = false ∧ OnlyRindRegs [0x110] s t ∧
      t.die.sw = s.die.sw ∧ t.laneA = s.laneA ∧ t.laneB = s.laneB) ∧
    (∀ n m ns, b.restoring = true → b.nextStep ≤ now → b.waiting = n :: m :: ns → s.restorable n = true →
      s.restorable m = true → b.above = false → ∃ t, exec (.bankRestoreStep k) s = .next t ∧ t.rind = s.rind ∧
        ((t.die.swt n).ph = 1 ∨ (t.die.swt n).ph = 2) ∧ (t.die.bank k).nextStep = now + 100000 ∧
        (t.die.bank k).restoring = true ∧ n ∈ (t.die.bank k).restored ∧ m ∈ (t.die.bank k).waiting ∧
        t.laneA = s.laneA ∧ t.laneB = s.laneB)

/-- R450, R451, R538: a DIRECT request of the standby lane stays in its register; the active lane's is refused with E07
data 3 for a channel in use and is else sent to the arbiters; they apply it when they agree, as one change of the
steering with E07, and a channel steered DIRECT follows its pad. -/
def Obligations.DirectChannels : Prop :=
  ∀ (s : State) (l : LaneId) (j : DirNo) (on agree : Bool) (level : PadLevel),
    let a := 0x400F2100 + 4 * j.val
    let n := 192 + j.val
    let req := Tab.get s.rind.dirReq 0 j.val
    (s.control ≠ some l → ∃ t, exec (.directRequest l j on) s = .next t ∧ OnlyLaneRegs l [a] s t ∧
      (t.lane l).flag a 0 = on) ∧
    (s.control = some l → (s.lane l).chInUse n = true → ∃ t, exec (.directRequest l j true) s = .next t ∧
      RaisesOnly l 7 3 n 0 [a] s t ∧ (t.lane l).flag a 0 = true ∧ (t.lane l).flag a 3 = true) ∧
    (s.control = some l → on = false ∨ (s.lane l).chInUse n = false →
      ∃ t, exec (.directRequest l j on) s = .next t ∧ OnlyLane l s t ∧ OnlyRegs l [a] s t ∧
        (t.lane l).flag a 0 = on ∧ SameMemory l s t ∧
        ((s.lane l).flag 0x400F0040 0 = true → (t.lane l).link = (s.lane l).link ++ [.direct j on])) ∧
    (req = 0 → exec (.directApply j agree) s = .next s) ∧
    (req ≠ 0 → ∃ t, exec (.directApply j false) s = .next t ∧ OnlyRind s t ∧ t.rind.steer = s.rind.steer ∧
      t.rind.regs = s.rind.regs ∧ Tab.get t.rind.dirReq 0 j.val = 0) ∧
    (req = 1 → s.steer n ≠ 2 → ∃ t, exec (.directApply j true) s = .next t ∧ t.steer n = 2 ∧
      (∀ u, u ≠ n → t.steer u = s.steer u) ∧ t.die = s.die ∧
      t.rind.fld 0x10 16 16 = (s.rind.fld 0x10 16 16 + 1) % 65536 ∧ LanesOnlyRegs [] s t ∧
      BothRaise 7 1 n 0 s t) ∧
    (req = 2 → s.steer n = 2 → ∃ t, exec (.directApply j true) s = .next t ∧
      t.steer n = laneNo s.rind.act ∧ (∀ u, u ≠ n → t.steer u = s.steer u) ∧
      t.rind.fld 0x10 16 16 = (s.rind.fld 0x10 16 16 + 1) % 65536 ∧ ∀ m, Pends m 7 s t) ∧
    (∃ t, exec (.dirinChange j level) s = .next t ∧ t.rind = s.rind ∧
      Tab.get t.die.dirIn false j.val = level.level ∧
      t.dirActive j = (level.level != bitOf (s.die.image s.follows a) 2) ∧
      (∀ m, { t.lane m with pads := [] } = { s.lane m with pads := [] } ∧
        ((s.lane m).alive = true → (s.lane m).flag 0x400F0040 0 = true →
          Tab.get (t.lane m).pads 0 (8 + j.val) = min level.stamp s.die.replica)) ∧
      (∀ i, i ≠ j.val → Tab.get t.die.dirIn false i = Tab.get s.die.dirIn false i) ∧
      t.die.units = s.die.units ∧ t.die.sw = s.die.sw)

/-- R171, R172, R173, R178, R182: a pending edge fires at its issue time and is recorded; one with an accepted drain is
then compensated with E60; at its deadline an on-edge is drained and an off-edge is set; a cancel that reaches the die in
time removes the command, else its report drains the edge late; compensations show from their slot. -/
def Obligations.CurdEdgesFireAndResolve : Prop :=
  ∀ (s : State) (l : LaneId) (e : Fin 1024) (h : BitVec 22),
    let L := s.lane l
    let x := L.ent e
    let room := L.spx.gap = false ∧ L.spx.lost = 0 ∧ L.spx.held < 4096
    let counts := fun (t : State) (a : Nat) => (t.lane l).rd a = satAdd (L.rd a) 1
    (x.st = 1 → x.at_ ≤ L.lt → x.drainAt = none → ∃ t, exec (.curdFire l e) s = .next t ∧ OnlyLane l s t ∧
      ((t.lane l).ent e).st = 2 ∧ ((t.lane l).ent e).at_ = x.at_ ∧
      ((t.lane l).ent e).steered = decide (s.steer x.ch = laneNo l) ∧ (t.lane l).link = L.link ∧
      (∀ d, d ≠ e.val → (t.lane l).ent d = L.ent d) ∧
      (room → (t.lane l).spx.held = L.spx.held + 1 ∧
        (t.lane l).fld 0x40060044 0 12 = (L.fld 0x40060044 0 12 + 1) % 4096)) ∧
    (∀ d, x.st = 1 → x.at_ ≤ L.lt → x.drainAt = some d → ∃ t, exec (.curdFire l e) s = .next t ∧ OnlyLane l s t ∧
      ((t.lane l).ent e).st = 0 ∧ ((t.lane l).ent e).res = 3 ∧ counts t 0x40060014 ∧ Pends l 60 s t ∧
      (room → L.spx.held + 2 ≤ 4096 → (t.lane l).spx.held = L.spx.held + 2)) ∧
    (x.st ≠ 1 ∨ L.lt < x.at_ → exec (.curdFire l e) s = .next s) ∧
    (x.st = 2 → x.at_ + 100 * x.dl ≤ L.lt → x.level = true → ∃ t, exec (.confirmDeadline l e) s = .next t ∧
      OnlyLane l s t ∧ ((t.lane l).ent e).st = 0 ∧ ((t.lane l).ent e).res = 3 ∧ counts t 0x40060018 ∧
      Pends l 60 s t) ∧
    (x.st = 2 → x.at_ + 100 * x.dl ≤ L.lt → x.level = false → ∃ t, exec (.confirmDeadline l e) s = .next t ∧
      OnlyLane l s t ∧ ((t.lane l).ent e).st = 0 ∧ ((t.lane l).ent e).res = 2 ∧ counts t 0x4006001C ∧
      (t.lane l).link = L.link) ∧
    (x.st ≠ 2 ∨ L.lt < x.at_ + 100 * x.dl → exec (.confirmDeadline l e) s = .next s) ∧
    (∀ c w rest, L.link = LinkMsg.cancel h.toNat w :: rest →
      L.spx.cancels.find? (fun k => k.handle == h.toNat && !k.done) = some c →
      ∃ t, exec (.cancelArrival l h) s = .next t ∧ t.rind = s.rind ∧ t.die.units = s.die.units ∧
        (t.lane l).link = rest ∧
        (s.die.replica ≤ c.ent.at_ → counts t 0x40060010 ∧
          (∀ m, m ∈ t.die.cmds.get l ↔ m ∈ s.die.cmds.get l ∧ m.curd ≠ some h.toNat) ∧
          ∀ k, k ∈ (t.lane l).spx.cancels → k.handle ≠ h.toNat) ∧
        (c.ent.at_ < s.die.replica → t.die = s.die ∧ (t.lane l).regs = L.regs ∧
          ∀ k, k ∈ (t.lane l).spx.cancels → k.handle = h.toNat → k.done = true)) ∧
    ((∀ w rest, L.link ≠ LinkMsg.cancel h.toNat w :: rest) → exec (.cancelArrival l h) s = .next s) ∧
    (∀ c, L.spx.cancels.find? (fun k => k.handle == h.toNat && k.done) = some c →
      ∃ t, exec (.drainLateCancel l h) s = .next t ∧ OnlyLane l s t ∧ (t.lane l).flag 0x40060004 18 = true ∧
        counts t 0x40060014 ∧ Pends l 60 s t ∧ ∀ k, k ∈ (t.lane l).spx.cancels → k.handle ≠ h.toNat) ∧
    ((∀ k, k ∈ L.spx.cancels → k.done = false) → exec (.drainLateCancel l h) s = .next s) ∧
    (∃ t, exec (.compensationSlot l) s = .next t ∧ OnlyLane l s t ∧ (t.lane l).regs = L.regs ∧ SameMemory l s t ∧
      (t.lane l).spx.ents = L.spx.ents ∧ (t.lane l).spx.hist = L.spx.hist.map (fun g =>
        if g.at_ ≤ L.lt ∧ g.st = 4 then { g with st := 6 }
        else if g.at_ ≤ L.lt ∧ g.st = 5 then { g with st := 8 } else g))

/-- R459, R460, R462, R463, R466, R471: in quadrature a change of one line counts in the direction of the two levels
and DIR; a change of both is illegal, counts nothing and raises E24 once a millisecond; the rate of a single interval is its
inverse in counts per second, and 0 after PTMO without an event; an event's stamp is not later than LT less its
filter's delay (R83); a write of COUNT takes effect at once; a read of RATE or
ZCAP latches what belongs to it. -/
def Sys2Proof.Claims.FeedbackChannelsCount : Prop :=
  ∀ (s : State) (l : LaneId) (c : CtxNo) (n : FbNo) (a b : Bool) (stamp : Nat) (v : Word),
    let L := s.lane l
    let r := fun (o : Nat) => 0x40100100 + 64 * n.val + o
    let st := r 0x10
    let mode := L.fld (r 0) 0 3
    let a0 := L.flag st 0
    let b0 := L.flag st 1
    let dir := L.flag (r 0) 3
    let at_ := s.filterStamp l n stamp
    let counted := fun (up : Bool) => ∃ t, exec (.encoderEvent l n a b stamp) s = .next t ∧ OnlyLane l s t ∧
      (t.lane l).rd (r 0x14) = (if up then L.rd (r 0x14) + 1 else L.rd (r 0x14) - 1) ∧
      (t.lane l).flag st 0 = a ∧ (t.lane l).flag st 1 = b ∧ (t.lane l).flag st 3 = !up
    (s.counts l = true → mode = 3 → a ≠ a0 → b = b0 → counted ((a != b) != dir)) ∧
    (s.counts l = true → mode = 3 → a = a0 → b ≠ b0 → counted ((a == b) != dir)) ∧
    (s.counts l = true → mode = 6 → a0 = false → a = true → counted (!dir)) ∧
    (s.counts l = true → mode = 3 → a = a0 → b = b0 → ∃ t, exec (.encoderEvent l n a b stamp) s = .next t ∧
      OnlyLaneRegs l [st] s t ∧ (t.lane l).rd (r 0x14) = L.rd (r 0x14)) ∧
    (s.counts l = true → (mode = 1 ∨ mode = 2 ∨ mode = 3) → a ≠ a0 → b ≠ b0 →
      ∃ t, exec (.encoderEvent l n a b stamp) s = .next t ∧ OnlyLane l s t ∧ SameMemory l s t ∧
        (t.lane l).rd (r 0x14) = L.rd (r 0x14) ∧ (t.lane l).flag st 4 = true ∧
        (t.lane l).fld (r 0x3C) 0 16 = min 65535 (L.fld (r 0x3C) 0 16 + 1) ∧
        ((∀ w, (L.encSt n).illAt = some w → w + 100000 ≤ L.lt) → Raises l 24 n 0 0 s t) ∧
        (∀ w, (L.encSt n).illAt = some w → L.lt < w + 100000 → OnlyRegs l [st, r 0x3C] s t)) ∧
    (s.counts l = false → exec (.encoderEvent l n a b stamp) s = .next s) ∧
    (∀ w, s.counts l = true → mode = 6 → L.fld (r 0) 16 4 = 1 → dir = false → a0 = false → a = true →
      (L.encSt n).last = some w → w < at_ → (L.encSt n).sign ≠ some false → L.flag st 10 = false →
      L.rd64 (r 0x24) + 50 ≤ at_ →
      ∃ t, exec (.encoderEvent l n a b stamp) s = .next t ∧
        (t.lane l).rd (r 0x18) = toF32 (100000000 / ((at_ - w : Nat) : Rat)) ∧
        (t.lane l).rd64 (r 0x1C) = at_ % 2 ^ 64 ∧ (t.lane l).flag st 9 = false) ∧
    (at_ ≤ L.lt ∧ at_ ≤ L.lt - L.fld (r 0) 8 8) ∧
    (mode = 6 → L.flag st 9 = false → (L.encSt n).since + max 1 (L.fld (r 0) 20 8) * 1000000 ≤ L.lt →
      ∃ t, exec (.rateTimeout l n) s = .next t ∧ OnlyLane l s t ∧ OnlyRegs l [r 0x18, r 0x1C, r 0x20, st] s t ∧
        (t.lane l).rd (r 0x18) = 0 ∧ (t.lane l).flag st 9 = true ∧ SameMemory l s t) ∧
    (L.lt < (L.encSt n).since + 1000000 → exec (.rateTimeout l n) s = .next s) ∧
    (∃ t, exec (.countWrite l n v) s = .next t ∧ OnlyLane l s t ∧ OnlyRegs l [r 0x14] s t ∧
      (t.lane l).rd (r 0x14) = v ∧ SameMemory l s t) ∧
    (∃ t, exec (.rateRead l c n) s = .next t ∧ OnlyCtx l c s t ∧
      t.busWord l c (r 0x1C) = L.rd (r 0x1C) ∧ t.busWord l c (r 0x20) = L.rd (r 0x20) ∧
      { t.ctxOf l c with outLatch := [] } = { s.ctxOf l c with outLatch := [] }) ∧
    (∃ t, exec (.zcapRead l c n) s = .next t ∧ OnlyCtx l c s t ∧
      t.busWord l c (r 0x30) = L.rd (r 0x30) ∧ t.busWord l c (r 0x34) = L.rd (r 0x34) ∧
      t.busWord l c (r 0x38) = L.rd (r 0x38) ∧
      { t.ctxOf l c with outLatch := [] } = { s.ctxOf l c with outLatch := [] })

/-- R464, R465: an enabled index edge captures the count and its time; with a period set, a mismatch above the
tolerance is flagged, counted and raised as E25; without a period nothing is checked.  R468, R469: at a whole multiple of
its period the active lane clocks a frame for every lane with the port enabled; a good BiSS frame gives the position and its
flags, a missing start bit or a bad CRC is counted, and the first of them raises E28. -/
def Sys2Proof.Claims.IndexesAndAbsolutePorts : Prop :=
  ∀ (s : State) (l d : LaneId) (n : FbNo) (p : Fin 4) (stamp : Nat) (data : Word) (err warn started low : Bool)
      (crc : BitVec 6),
    let L := s.lane l
    let r := fun (o : Nat) => 0x40100100 + 64 * n.val + o
    let st := r 0x10
    let q := fun (o : Nat) => 0x40100800 + 32 * p.val + o
    let edge := s.counts l = true ∧ L.flag (r 4) 0 = true ∧ L.flag (r 4) 1 = false ∧ L.flag (r 4) 2 = false ∧
      L.flag st 2 = false
    let per := L.fld (r 8) 0 24
    let m := mismatch (L.rd (r 0x14)) (L.rd (r 0xC)) per
    let bits := (if L.fld (q 0) 8 5 = 0 then 32 else L.fld (q 0) 8 5)
    let good := crc6 (bitsMsb data bits ++ [err, warn]) ^^^ 63 = crc.toNat
    let ending := (L.absSt p).frame = some d ∧ s.control = some d ∧ L.flag (q 0) 1 = true
    (edge → per = 0 → ∃ t, exec (.encoderIndex l n true stamp) s = .next t ∧ OnlyLane l s t ∧
      OnlyRegs l [r 0x2C, r 0x34, r 0x38, st] s t ∧ (t.lane l).rd (r 0x2C) = L.rd (r 0x14) ∧
      (t.lane l).rd64 (r 0x34) = s.filterStamp l n stamp % 2 ^ 64 ∧
      (t.lane l).flag st 6 = true ∧ (t.lane l).flag st 2 = true ∧
      SameMemory l s t) ∧
    (edge → per ≠ 0 → m.natAbs ≤ L.fld (r 4) 8 8 → ∃ t, exec (.encoderIndex l n true stamp) s = .next t ∧
      OnlyLane l s t ∧ OnlyRegs l [r 0x2C, r 0x30, r 0x34, r 0x38, st] s t ∧
      (t.lane l).rd (r 0x30) = BitVec.ofInt 32 m ∧ (t.lane l).flag st 6 = true) ∧
    (edge → per ≠ 0 → L.fld (r 4) 8 8 < m.natAbs → L.flag (r 4) 5 = false →
      ∃ t, exec (.encoderIndex l n true stamp) s = .next t ∧ OnlyLane l s t ∧
        (t.lane l).flag st 7 = true ∧ (t.lane l).rd (r 0x30) = BitVec.ofInt 32 m ∧
        (t.lane l).fld (r 0x3C) 16 16 = min 65535 (L.fld (r 0x3C) 16 16 + 1) ∧
        (t.lane l).rd (r 0x14) = L.rd (r 0x14) ∧ Raises l 25 n 0 (BitVec.ofInt 32 m) s t) ∧
    (s.counts l = true → L.flag (r 4) 0 = false → ∃ t, exec (.encoderIndex l n true stamp) s = .next t ∧
      OnlyLaneRegs l [st] s t ∧ (t.lane l).flag st 2 = true) ∧
    (s.control = none → exec (.absFrameStart p) s = .next s) ∧
    (s.control = some d → s.counts d = true → (s.lane d).flag (q 0) 0 = true →
      (s.lane d).lt % ((s.lane d).fld (q 0) 16 16 * 1000) = 0 → 0 < (s.lane d).fld (q 0) 16 16 →
      ∃ t, exec (.absFrameStart p) s = .next t ∧ t.die = s.die ∧ t.rind = s.rind ∧ (t.lane l).regs = L.regs ∧
        Tab.get t.absClk true p = false ∧
        (L.alive = true → L.flag (q 0) 0 = true → ((t.lane l).absSt p).frame = some d) ∧
        (L.flag (q 0) 0 = false → t.lane l = L)) ∧
    (ending → started = true → good → ∃ t, exec (.absFrameEnd p started low data err warn crc stamp) s = .next t ∧
      Tab.get t.absClk true p = true ∧ t.die = s.die ∧ t.rind = s.rind ∧ SameMemory l s t ∧ ((t.lane l).absSt p).frame = none ∧
      (t.lane l).rd (q 8) = BitVec.ofNat 32 (fieldNat data 0 bits) ∧ (t.lane l).rd64 (q 0xC) = s.stampOf l stamp % 2 ^ 64 ∧
      (t.lane l).flag (q 4) 0 = true ∧ (t.lane l).flag (q 4) 3 = (!err) ∧ (t.lane l).flag (q 4) 4 = (!warn) ∧
      ((L.absSt p).down = true → Raises l 29 p 0 0 s t)) ∧
    (ending → started = true → ¬good → L.flag (q 4) 0 = true →
      ∃ t, exec (.absFrameEnd p started low data err warn crc stamp) s = .next t ∧
        (t.lane l).rd (q 8) = L.rd (q 8) ∧ (t.lane l).flag (q 4) 1 = true ∧ (t.lane l).flag (q 4) 0 = false ∧
        (t.lane l).rd (q 0x14) = satAdd (L.rd (q 0x14)) 1 ∧ Raises l 28 p 0 0 s t) ∧
    (ending → started = false → ∃ t, exec (.absFrameEnd p started low data err warn crc stamp) s = .next t ∧
        (t.lane l).rd (q 8) = L.rd (q 8) ∧ (t.lane l).flag (q 4) 2 = true ∧ (t.lane l).flag (q 4) 0 = false ∧
        (t.lane l).rd (q 0x14) = satAdd (L.rd (q 0x14)) 1)

/-- R478, R479, R482, R484, R494, R495, R499: a write of MODE sets the effective mode by the lane's role, and INIT
withdraws every request; the record of drivers follows control at the end of an intermission with E39; configuration counts
in INIT only; the error counters give the state with E32 and E33, bus-off ends with ABOR or after the restart, dominant
faults raise E38, and rate detection tries the next rate at each dwell and ends at its timeout. -/
def Sys2Proof.Claims.CanControllersChangeState : Prop :=
  ∀ (s : State) (l : LaneId) (c : Fin 4) (v : Word) (tec : Fin 512) (rec_ : Fin 256) (brs bus : Bool),
    let L := s.lane l
    let r := fun (o : Nat) => 0x40110000 + 0x4000 * c.val + o
    let st := L.fld (r 4) 2 2
    let x := L.canSt c
    let on := L.running = true ∧ s.power = 0
    (∃ t, exec (.canModeRequest l c v) s = .next t ∧ OnlyLane l s t ∧ SameMemory l s t ∧
      (t.lane l).fld (r 0) 0 2 = fieldNat v 0 2 ∧
      t.emode l c = (if fieldNat v 0 2 = 1 then (if s.control = some l then 1 else 2) else fieldNat v 0 2) ∧
      (fieldNat v 0 2 = 0 → (t.lane l).rd (r 0x3C) = L.rd (r 0x3C) ||| L.rd (r 0x38)) ∧
      (fieldNat v 0 2 = 3 → L.fld (r 0) 0 2 ≠ 3 → ((t.lane l).canSt c).det = 1 ∧ (t.lane l).rd (r 0x60) = 0)) ∧
    (Tab.get s.rind.txen none c.val = s.control → exec (.canTxenChange c) s = .next s) ∧
    (Tab.get s.rind.txen none c.val ≠ s.control → ∃ t, exec (.canTxenChange c) s = .next t ∧ t.die = s.die ∧
      Tab.get t.rind.txen none c.val = s.control ∧ t.rind.regs = s.rind.regs ∧ LanesOnlyRegs [] s t ∧
      (Tab.get s.rind.txen none c.val = some l ∨ s.control = some l → Raises l 39 (s.emode l c) c 0 s t)) ∧
    (s.emode l c ≠ 0 → exec (.canConfigWrite l c 0 v) s = .next s ∧ exec (.canConfigWrite l c 1 v) s = .next s) ∧
    (s.emode l c = 0 → ∃ t, exec (.canConfigWrite l c 0 v) s = .next t ∧ OnlyLane l s t ∧ SameMemory l s t ∧
      (t.lane l).fld (r 0x18) 14 18 = fieldNat v 14 18 ∧
      (∀ o, o ∈ [0x24, 0x28, 0x2C, 0x30, 0x34, 0x38, 0x3C, 0x40, 0x48, 0x4C] → (t.lane l).rd (r o) = 0)) ∧
    (s.emode l c = 0 → 128 < fieldNat v 0 7 + fieldNat v 8 7 + fieldNat v 16 5 →
      ∃ t, exec (.canConfigWrite l c 1 v) s = .next t ∧ OnlyLaneRegs l [r 4] s t ∧ (t.lane l).flag (r 4) 9 = true) ∧
    (on → s.emode l c = 1 → ∃ t, exec (.canBusError l c tec rec_ brs) s = .next t ∧ OnlyLane l s t ∧
      SameMemory l s t ∧ ((t.lane l).canSt c).tec = tec.val ∧ ((t.lane l).canSt c).rec_ = rec_.val ∧
      (let now := if st = 2 ∨ 256 ≤ tec.val then 2 else if 128 ≤ tec.val ∨ 128 ≤ rec_.val then 1 else 0
       (t.lane l).fld (r 4) 2 2 = now ∧ (t.lane l).fld (r 0x14) 0 8 = min 255 tec.val ∧
       (st ≠ now → Pends l 32 s t) ∧ (st ≠ 2 → now = 2 → Pends l 33 s t) ∧
       (st = now → OnlyRegs l [r 4, r 0x14] s t))) ∧
    (on → s.emode l c = 2 → exec (.canBusError l c tec rec_ brs) s = .next s) ∧
    (st = 2 → (L.flag (r 0) 5 = true ∨ x.rearm = 2) → ∃ t, exec (.busOffRecovery l c) s = .next t ∧
      OnlyLane l s t ∧ (t.lane l).fld (r 4) 2 2 = 0 ∧ (t.lane l).rd (r 0x14) = 0 ∧
      ((t.lane l).canSt c).tec = 0 ∧ ((t.lane l).canSt c).rec_ = 0 ∧ Pends l 32 s t ∧ Pends l 33 s t) ∧
    (st ≠ 2 ∨ (L.flag (r 0) 5 = false ∧ x.rearm ≠ 2) → exec (.busOffRecovery l c) s = .next s) ∧
    (x.domTo = false → ∃ t, exec (.canDominantTimeout l c false) s = .next t ∧ OnlyLane l s t ∧
      (t.lane l).flag (r 4) 7 = true ∧ ((t.lane l).canSt c).domTo = true ∧ Raises l 38 1 c 0 s t) ∧
    (x.busDom = false → ∃ t, exec (.canDominantTimeout l c true) s = .next t ∧ OnlyLane l s t ∧
      (t.lane l).flag (r 4) 8 = true ∧ Raises l 38 2 c 0 s t) ∧
    ((if bus then x.busDom else x.domTo) = true → exec (.canDominantTimeout l c bus) s = .next s) ∧
    (∃ t, exec (.dominantFaultClear l c) s = .next t ∧ OnlyLane l s t ∧ (t.lane l).regs = L.regs ∧
      SameMemory l s t ∧ (t.lane l).canSt c = { x with domTo := false, busDom := false }) ∧
    (x.det = 1 → x.dwellAt + max 1 (L.fld (r 0x64) 0 8) * 1000000 ≤ L.lt →
      ∃ t, exec (.canDetectDwell l c) s = .next t ∧ OnlyLane l s t ∧ (t.lane l).regs = L.regs ∧
        (t.lane l).canSt c = { x with rate := (x.rate + 1) % 4, tries := 0, dwellAt := L.lt }) ∧
    (x.det ≠ 1 → exec (.canDetectDwell l c) s = .next s) ∧
    (x.det = 1 → x.detAt + max 1 (L.fld (r 0x64) 8 8) * 10000000 ≤ L.lt →
      ∃ t, exec (.canDetectTimeout l c) s = .next t ∧ OnlyLane l s t ∧ ((t.lane l).canSt c).det = 0 ∧
        (t.lane l).flag (r 0x60) 8 = true ∧ Raises l 34 0 c 0 s t) ∧
    (x.det = 0 → exec (.canDetectTimeout l c) s = .next s)

/-- R485, R487 to R489, R481, R490, R491, R493: a received frame is stored in the next slot of its stream, and at a
full stream without overwriting it is lost with E35; a request of a controller that is not ACTIVE completes at once with
RES 2; of an ACTIVE one it stays pending until it is sent with RES 1 and its stamp, or withdrawn; the ring takes only writes
that advance it within its free entries; a message memory out of reach is E35 with data 3. -/
def Sys2Proof.Claims.CanFramesMove : Prop :=
  ∀ (s : State) (l : LaneId) (c : Fin 4) (f : CanFrame) (j : Fin 8) (v ts : Word) (att : Nat),
    let L := s.lane l
    let r := fun (o : Nat) => 0x40110000 + 0x4000 * c.val + o
    let on := L.running = true ∧ s.power = 0 ∧ L.fld (r 4) 2 2 ≠ 2
    let n := L.fld (r 0x20) 0 7
    let wr := L.fld (r 0x24) 0 7
    let full := wr = L.fld (r 0x28) 0 7 ∧ L.flag (r 0x24) 7 ≠ L.flag (r 0x28) 7
    let stream0 := L.ruleOf c f = none ∧ L.fld (r 0) 8 2 = 1 ∧ (f.rmt = false ∨ L.flag (r 0) 7 = false)
    let slot := L.mram c + 0x600 + 80 * wr
    let req := L.mram c + 0x2E00 + 80 * j.val
    let w := L.word (req + 68)
    let src : CanSrc := ⟨j.val, by have := j.isLt; omega⟩
    (on → s.emode l c = 2 → L.mramOk c = true → stream0 → ¬full → wr + 1 < n →
      ∃ t, exec (.canFrameRx l c f) s = .next t ∧ OnlyLane l s t ∧
        (t.lane l).bytes slot 80 = (canWords { f with ts := s.stamp32 l f.ts } 0x7F).flatMap wordBytes ∧
        (∀ a, a < slot ∨ slot + 80 ≤ a → t.byte l a = s.byte l a) ∧
        (t.lane l).fld (r 0x24) 0 7 = wr + 1 ∧ (t.lane l).flag (r 0x24) 7 = L.flag (r 0x24) 7 ∧
        (L.flag (r 0) 12 = true → Raises l 36 1 c 0 s t) ∧
        (L.flag (r 0) 12 = false → OnlyRegs l [r 0x24] s t)) ∧
    (on → s.emode l c = 2 → L.mramOk c = true → stream0 → full → L.flag (r 0) 10 = false →
      ∃ t, exec (.canFrameRx l c f) s = .next t ∧ OnlyLane l s t ∧ SameMemory l s t ∧
        (t.lane l).rd (r 0x54) = satAdd (L.rd (r 0x54)) 1 ∧ (t.lane l).flag (r 4) 5 = true ∧
        (t.lane l).rd (r 0x24) = L.rd (r 0x24) ∧ Raises l 35 1 c 0 s t) ∧
    (on → s.emode l c = 2 → (f.rmt = false ∨ L.flag (r 0) 7 = false) → L.mramOk c = false →
      ∃ t, exec (.canFrameRx l c f) s = .next t ∧ OnlyLane l s t ∧ SameMemory l s t ∧ t.emode l c = 0 ∧
        (t.lane l).flag (r 4) 6 = true ∧ Raises l 35 3 c 0 s t) ∧
    (¬on ∨ s.emode l c = 0 → exec (.canFrameRx l c f) s = .next s) ∧
    (L.mramOk c = true → s.emode l c ≠ 1 → v = BitVec.ofNat 32 (2 ^ j.val) → L.flag (r 0x38) j = false →
      ∃ t, exec (.txuReq l c v) s = .next t ∧ OnlyLane l s t ∧ (t.lane l).flag (r 0x38) j = false ∧
        (t.lane l).flag (r 0x40) j = true ∧ (t.lane l).rd (r 0x58) = satAdd (L.rd (r 0x58)) 1 ∧
        (t.lane l).word (req + 72) = 0 ∧ (t.lane l).word (req + 76) = 2 ∧
        (bitOf w 17 = true → Raises l 37 2 c (BitVec.ofNat 32 (fieldNat w 24 8)) s t)) ∧
    (L.mramOk c = true → s.emode l c = 1 → v = BitVec.ofNat 32 (2 ^ j.val) → bitOf w 16 = false →
      bitOf w 7 = false → fieldNat w 0 7 ≤ 8 → ∃ t, exec (.txuReq l c v) s = .next t ∧
        OnlyLaneRegs l [r 0x38] s t ∧ (t.lane l).flag (r 0x38) j = true) ∧
    (L.mramOk c = true → s.emode l c = 1 → v = BitVec.ofNat 32 (2 ^ j.val) → bitOf w 16 = true →
      L.flag (r 0) 6 = false → L.flag (r 0x38) j = false → ∃ t, exec (.txuReq l c v) s = .next t ∧
        (t.lane l).word (req + 76) = 3 ∧ (t.lane l).flag (r 0x40) j = true ∧
        (t.lane l).rd (r 0x5C) = satAdd (L.rd (r 0x5C)) 1) ∧
    (∃ t, exec (.txuAbort l c v) s = .next t ∧ OnlyLaneRegs l [r 0x3C] s t ∧
      (t.lane l).rd (r 0x3C) = L.rd (r 0x3C) ||| (v &&& L.rd (r 0x38) &&& 0xFF)) ∧
    (L.flag (r 0x38) j = true → L.mramOk c = true → s.canTxen l c = true → L.fld (r 4) 2 2 ≠ 2 →
      ∃ t, exec (.canTxComplete l c src true att ts) s = .next t ∧ OnlyLane l s t ∧
        (t.lane l).flag (r 0x38) j = false ∧ (t.lane l).flag (r 0x3C) j = false ∧
        (t.lane l).flag (r 0x40) j = true ∧ (t.lane l).word (req + 72) = s.stamp32 l ts ∧
        (t.lane l).word (req + 76) = BitVec.ofNat 32 (1 + 256 * min 255 att) ∧
        ((t.lane l).canSt c).tec = (L.canSt c).tec - 1) ∧
    (L.flag (r 0x38) j = true → L.flag (r 0x3C) j = true → L.mramOk c = true →
      ∃ t, exec (.canTxComplete l c src false att ts) s = .next t ∧ (t.lane l).flag (r 0x38) j = false ∧
        (t.lane l).word (req + 72) = 0 ∧
        (t.lane l).word (req + 76) = BitVec.ofNat 32 (4 + 256 * min 255 att)) ∧
    (L.flag (r 0x38) j = false ∨ s.canTxen l c = false ∨ L.fld (r 4) 2 2 = 2 →
      exec (.canTxComplete l c src true att ts) s = .next s) ∧
    (let d := (canPos (L.txrN c) (fieldNat v 0 6) (fieldNat v 6 1) + 2 * L.txrN c - L.txrWr c) % (2 * L.txrN c)
     (L.txrN c ≤ fieldNat v 0 6 ∨ d = 0 ∨ L.txrN c < L.txrPending c + d → exec (.txrWr l c v) s = .next s) ∧
     (fieldNat v 0 6 < L.txrN c → 0 < d → L.txrPending c + d ≤ L.txrN c → L.mramOk c = true →
       L.txrPending c ≠ 0 → s.canTxen l c = true ∨ ((L.canSt c).flushTo = none ∧ s.canRefusal l c 8 = none) →
       ∃ t, exec (.txrWr l c v) s = .next t ∧ OnlyLaneRegs l [r 0x48] s t ∧
         (t.lane l).rd (r 0x48) = v &&& 0x7F)) ∧
    (bitOf v 0 = true → L.txrPending c ≠ 0 → ∃ t, exec (.flush l c v) s = .next t ∧ OnlyLane l s t ∧
      (t.lane l).regs = L.regs ∧ SameMemory l s t ∧
      (t.lane l).canSt c = { L.canSt c with flushTo := some (L.txrWr c) }) ∧
    (bitOf v 0 = false ∨ L.txrPending c = 0 → exec (.flush l c v) s = .next s)

/-- R496, R497, R69: below RUN a dominant phase on a bus whose edge wakes are enabled, or a frame that matches the wake
filter, ends the state; frames with errors are counted and the 32nd in balance wakes too; a bus without its enable wakes
nothing. -/
def Sys2Proof.Claims.CanBusesWakeTheModule : Prop :=
  ∀ (s : State) (b : Fin 4) (f : CanFrame) (dlc : Fin 16),
    let st := 0x154 + 0x20 * b.val
    let below := s.power ≠ 0
    let woken := fun (t : State) (bit : Nat) => t.rind.trans = some 0 ∧ t.power = s.power ∧
      t.die.units = s.die.units ∧ (∀ l, SameMemory l s t) ∧
      (s.power ≠ 5 → s.rind.trans ≠ some 5 → t.die = s.die ∧ t.rind.steer = s.rind.steer) ∧
      t.rind.rd 0x10C = s.rind.rd 0x10C ||| BitVec.ofNat 32 (2 ^ bit)
    (below → s.rind.flag 0x108 (1 + b.val) = true → ∃ t, exec (.canWakeDominant b) s = .next t ∧
      woken t (1 + b.val)) ∧
    (s.rind.flag 0x108 (1 + b.val) = false ∨ (s.power = 0 ∧ (s.rind.trans = none ∨ s.rind.trans = some 0)) →
      exec (.canWakeDominant b) s = .next s) ∧
    (below → s.rind.flag 0x108 (5 + b.val) = true → f.fd = false → f.rmt = false →
      s.rind.canMatch b f dlc = true → ∃ t, exec (.canWakeFrame b true f dlc) s = .next t ∧
        woken t (5 + b.val) ∧ t.rind.flag st 8 = true ∧ t.rind.fld st 0 6 = s.rind.fld st 0 6 - 1) ∧
    (below → s.rind.flag 0x108 (5 + b.val) = true → f.fd = false → (f.rmt = true ∨ s.rind.canMatch b f dlc = false) →
      ∃ t, exec (.canWakeFrame b true f dlc) s = .next t ∧ OnlyRindWords [st] s t ∧
        t.rind.fld st 0 6 = s.rind.fld st 0 6 - 1) ∧
    (below → s.rind.flag 0x108 (5 + b.val) = true → f.fd = false → s.rind.fld st 0 6 < 31 →
      ∃ t, exec (.canWakeFrame b false f dlc) s = .next t ∧ OnlyRindWords [st] s t ∧
        t.rind.fld st 0 6 = s.rind.fld st 0 6 + 1) ∧
    (below → s.rind.flag 0x108 (5 + b.val) = true → f.fd = false → s.rind.fld st 0 6 = 31 →
      ∃ t, exec (.canWakeFrame b false f dlc) s = .next t ∧ woken t (5 + b.val) ∧ t.rind.flag st 9 = true) ∧
    (s.power = 0 ∨ s.rind.flag 0x108 (5 + b.val) = false ∨ f.fd = true →
      exec (.canWakeFrame b true f dlc) s = .next s)

/-- R502 to R507: a port's link comes up only while it is enabled in RUN or IDLE, with E40; a received frame goes to the
buffer of the descriptor at RX_IDX, which then has OWN 0, or is dropped with E41 where that descriptor is the program's; a
bank out of reach stops the port with E43; a kick starts the scan, and a frame that has been sent completes its
descriptor; a kick below RUN waits for the return (log entry 88). -/
def Obligations.EthernetPortsMoveFrames : Prop :=
  ∀ (s : State) (l : LaneId) (n : Fin 2) (sqi : Fin 8) (f : EthFrame) (v : Word) (ts : BitVec 64),
    let L := s.lane l
    let r := fun (o : Nat) => 0x40120000 + 0x100 * n.val + o
    let i := L.fld (r 0x18) 0 8
    let d := (L.rd (r 0x10)).toNat + 16 * i
    let buf := (L.word d).toNat / 16 * 16
    let ready := L.running = true ∧ L.flag (r 0) 0 = true ∧ L.flag (r 4) 0 = true
    let takes := ready ∧ s.power = 0 ∧ L.macTakes n f = true ∧ f.fcsOk = true ∧ f.lenOk = true ∧
      L.servesAll .network d 16 = true
    let k := L.fld (r 0x24) 0 8
    let e := (L.rd (r 0x1C)).toNat + 16 * k
    let next := if k + 1 < L.fld (r 0x20) 0 9 then k + 1 else 0
    let e2 := (L.rd (r 0x1C)).toNat + 16 * next
    let w := L.word (e + 4)
    let stamped := fun (x : BitVec 64) => BitVec.ofNat 64 (s.stampOf l x.toNat)
    (L.running = true → s.power ≤ 1 → L.flag (r 0) 0 = true → ∃ t, exec (.ethLinkChange l n true sqi) s = .next t ∧
      OnlyLane l s t ∧ SameMemory l s t ∧ (t.lane l).flag (r 4) 0 = true ∧ (t.lane l).fld (r 4) 1 3 = sqi.val ∧
      (L.flag (r 4) 0 = false → Raises l 40 1 n 0 s t) ∧ (L.flag (r 4) 0 = true → OnlyRegs l [r 4] s t)) ∧
    (1 < s.power ∨ L.flag (r 0) 0 = false → exec (.ethLinkChange l n true sqi) s = .next s) ∧
    (L.flag (r 4) 0 = true → (L.ethSt n).scan = false → ∃ t, exec (.ethLinkChange l n false sqi) s = .next t ∧ RaisesOnly l 40 2 n 0 [r 4] s t ∧
      (t.lane l).flag (r 4) 0 = false) ∧
    (L.flag (r 4) 0 = false → (L.ethSt n).scan = false → exec (.ethLinkChange l n false sqi) s = .next s) ∧
    (takes → bitOf (L.word (d + 4)) 31 = true → L.servesAll .network buf 1536 = true → f.data.length ≤ 1536 →
      (d + 16 ≤ buf ∨ buf + 1536 ≤ d) → L.fld (r 0x14) 0 9 ≤ 256 →
      ∃ t, exec (.ethFrameRx l n f) s = .next t ∧ OnlyLane l s t ∧
        (t.lane l).bytes buf f.data.length = f.data ∧ bitOf ((t.lane l).word (d + 4)) 31 = false ∧
        fieldNat ((t.lane l).word (d + 4)) 0 11 = f.data.length ∧
        (t.lane l).word (d + 8) = (stamped f.ts).setWidth 32 ∧
        (t.lane l).fld (r 0x18) 0 8 = (if i + 1 < L.fld (r 0x14) 0 9 then i + 1 else 0) ∧
        (L.flag (r 0) 5 = true → Raises l 41 1 n 0 s t)) ∧
    (takes → bitOf (L.word (d + 4)) 31 = false → ∃ t, exec (.ethFrameRx l n f) s = .next t ∧
      RaisesOnly l 41 2 n 0 [r 0x2C] s t ∧ (t.lane l).rd (r 0x2C) = satAdd (L.rd (r 0x2C)) 1) ∧
    (ready → s.power = 0 → L.macTakes n f = true → f.fcsOk = true → f.lenOk = true →
      L.servesAll .network d 16 = false → ∃ t, exec (.ethFrameRx l n f) s = .next t ∧ OnlyLane l s t ∧
        SameMemory l s t ∧ (t.lane l).flag (r 0) 0 = false ∧ (t.lane l).flag (r 4) 4 = true ∧ Pends l 43 s t) ∧
    (ready → s.power = 1 → ∃ t, exec (.ethFrameRx l n f) s = .next t ∧ OnlyLaneRegs l [r 0x2C] s t ∧
      (t.lane l).rd (r 0x2C) = satAdd (L.rd (r 0x2C)) 1) ∧
    (ready → s.power = 0 → L.macTakes n f = false → exec (.ethFrameRx l n f) s = .next s) ∧
    (s.power = 0 → L.flag (r 0) 0 = true → L.servesAll .network e 16 = true → bitOf w 31 = true →
      L.servesAll .network ((L.word e).toNat / 16 * 16) (fieldNat w 0 11) = true → bitOf w 28 = false →
      L.flag (r 4) 0 = true → ∃ t, exec (.txKick l n v) s = .next t ∧ OnlyLane l s t ∧ (t.lane l).regs = L.regs ∧
        SameMemory l s t ∧ ((t.lane l).ethSt n).scan = true) ∧
    (s.power = 0 → L.flag (r 0) 0 = true → L.servesAll .network e 16 = true → bitOf w 31 = false →
      ∃ t, exec (.txKick l n v) s = .next t ∧ OnlyLane l s t ∧ (t.lane l).regs = L.regs ∧ SameMemory l s t ∧
        ((t.lane l).ethSt n).scan = false) ∧
    (L.flag (r 0) 0 = false → exec (.txKick l n v) s = .next s) ∧
    (s.power ≠ 0 → L.flag (r 0) 0 = true → ∃ t, exec (.txKick l n v) s = .next t ∧ OnlyLane l s t ∧
      (t.lane l).regs = L.regs ∧ SameMemory l s t ∧ ((t.lane l).ethSt n).scan = true) ∧
    (L.running = true → L.flag (r 4) 0 = true → (L.ethSt n).scan = true → s.power = 0 → next ≠ k → L.fld (r 0x20) 0 9 ≤ 256 →
      L.servesAll .network e2 16 = true →
      bitOf (L.word (e2 + 4)) 31 = false → ∃ t, exec (.ethTxComplete l n ts) s = .next t ∧ OnlyLane l s t ∧
        bitOf ((t.lane l).word (e + 4)) 31 = false ∧ fieldNat ((t.lane l).word (e + 4)) 24 4 = 0 ∧
        (t.lane l).word (e + 8) = (if bitOf w 29 = true then (stamped ts).setWidth 32 else 0) ∧
        (t.lane l).fld (r 0x24) 0 8 = next ∧ (t.lane l).rd (r 0x34) = satAdd (L.rd (r 0x34)) 1 ∧
        ((t.lane l).ethSt n).scan = false ∧ (bitOf w 29 = true → Raises l 42 0 n 0 s t)) ∧
    ((L.ethSt n).scan = false ∨ L.flag (r 4) 0 = false → exec (.ethTxComplete l n ts) s = .next s)

/-- R22, R25, R27, R174: the oldest frame towards the switch die arrives and leaves the link; one whose CRC fails stays
and sets CRC_ERR; training brings the link up; when it goes down every frame goes, with every stored command that is not yet due, and
no pending edge stays pending before its time; the burst flag clears at the end of a burst. -/
def Obligations.SwitchLinksCarryFrames : Prop :=
  ∀ (s : State) (l : LaneId) (toDie : Bool) (c : PulseCmd) (rest : List LinkMsg),
    let L := s.lane l
    let ls := 0x400F0040
    let now := s.die.replica
    (L.linkUp = true → ∃ t, exec (.switchLinkFrame l toDie false) s = .next t ∧ OnlyLaneRegs l [ls] s t ∧
      (t.lane l).flag ls 2 = true) ∧
    (L.linkUp = false → exec (.switchLinkFrame l toDie true) s = .next s ∧
      exec (.switchLinkFrame l toDie false) s = .next s) ∧
    (L.link = [] → exec (.switchLinkFrame l true true) s = .next s) ∧
    (L.linkUp = true → L.link = .cmd c :: rest →
      ((s.die.unit c.unit).frozen && s.steer c.unit == laneNo l) = false →
      ∃ t, exec (.switchLinkFrame l true true) s = .next t ∧ t.lane l = { L with link := rest } ∧
        t.lane (other l) = s.lane (other l) ∧ t.rind = s.rind ∧
        t.die.cmds.get l = s.die.cmds.get l ++ [c.arrive now] ∧
        { t.die with cmds := s.die.cmds } = s.die) ∧
    (L.linkUp = true → L.link = .cmd c :: rest →
      ((s.die.unit c.unit).frozen && s.steer c.unit == laneNo l) = true →
      ∃ t, exec (.switchLinkFrame l true true) s = .next t ∧ OnlyLane l s t ∧ (t.lane l).link = rest ∧
        OnlyRegs l [0x400E0014, 0x400D0014] s t) ∧
    (∀ a, c.act = .level a → now ≤ c.at_ → c.arrive now = c) ∧
    (∀ a, c.act = .level a → c.at_ < now → (c.arrive now).late = some c.at_ ∧ now < (c.arrive now).at_ ∧
      (c.arrive now).at_ % 100 = 0 ∧ (c.arrive now).at_ ≤ now + 100) ∧
    (L.alive = true → ∃ t, exec (.switchLinkTrained l) s = .next t ∧ OnlyLaneRegs l [ls] s t ∧
      (t.lane l).flag ls 0 = true) ∧
    (L.alive = false → exec (.switchLinkTrained l) s = .next s) ∧
    (∃ t, exec (.switchLinkDown l) s = .next t ∧ t.lane (other l) = s.lane (other l) ∧ t.rind = s.rind ∧
      (t.lane l).flag ls 0 = false ∧ (t.lane l).link = [] ∧ (t.lane l).sram = L.sram ∧
      (∀ m, m ∈ t.die.cmds.get l ↔ m ∈ s.die.cmds.get l ∧ (m.late ≠ none ∨ m.at_ ≤ now)) ∧
      t.die.cmds.get (other l) = s.die.cmds.get (other l) ∧ { t.die with cmds := s.die.cmds } = s.die ∧
      (t.lane l).spx.cancels = [] ∧
      (∀ e, e < 1024 → ((t.lane l).ent e).st = 1 → ((t.lane l).ent e).at_ < L.lt))

/-- R194, R197, R256, R257, R33, R34: LOAD requests a check of the tables at the next cycle; a table that fails one is
refused with the code and index of its first fault and E64 or E67, the tables in force standing; one that passes becomes
the model; the cycle of a millisecond runs at most once, in RUN with EN 1, once fusion has released the state valid at its start and
before the bound on its edges' issue, and records its start. -/
def Sys2Proof.Claims.SectionTablesLoadAtACycle : Prop :=
  ∀ (s : State) (l : LaneId) (v : Word),
    let L := s.lane l
    let st := 0x40070004
    let mt := 0x40070168
    let ms := (List.range (L.fld 0x40070164 8 5)).map (fun i => L.secWords ((L.rd 0x40070160).toNat + 32 * i) 8)
    let due := L.running = true ∧ s.power = 0 ∧ L.flag 0x40070000 0 = true ∧ L.sec.t0 < L.ms ∧
      (L.fus.t0 = L.ms ∨ L.flag 0x40080000 0 = false) ∧ L.lt < L.ms + 72000
    (bitOf v 1 = true → ∃ t, exec (.secLoad l v) s = .next t ∧ OnlyLaneRegs l [st] s t ∧
      (t.lane l).flag st 2 = true) ∧
    (bitOf v 1 = true → ∃ t, exec (.meterLoad l v) s = .next t ∧ OnlyLaneRegs l [mt] s t ∧
      (t.lane l).flag mt 2 = true) ∧
    (bitOf v 1 = false → exec (.secLoad l v) s = .next s ∧ exec (.meterLoad l v) s = .next s) ∧
    (due → ∃ t, exec (.sectionEngineCycle l) s = .next t ∧ OnlyLane l s t ∧
      (t.lane l).rd64 0x40070140 = L.ms % 2 ^ 64) ∧
    (¬due → exec (.sectionEngineCycle l) s = .next s) ∧
    (L.flag st 2 = false → s.checkModel l = s) ∧
    (L.flag st 2 = true → ∀ code i, code < 16 → i < 256 → s.loadError l L.readTables = some (code, i) →
      let t := s.checkModel l
      RaisesOnly l 64 1 i (BitVec.ofNat 32 code) [st] s t ∧ (t.lane l).flag st 1 = true ∧
        (t.lane l).flag st 2 = false ∧ (t.lane l).fld st 4 4 = code ∧ (t.lane l).fld st 8 8 = i) ∧
    (L.flag st 2 = true → s.loadError l L.readTables = none →
      let t := s.checkModel l
      OnlyLane l s t ∧ SameMemory l s t ∧ (t.lane l).flag st 0 = true ∧ (t.lane l).flag st 2 = false ∧
        (t.lane l).sec.counts = L.readTables.counts ∧ (t.lane l).sec.noz = tabOf L.readTables.noz ∧
        (t.lane l).sec.sect = tabOf L.readTables.sect ∧ (t.lane l).sec.seg = tabOf L.readTables.seg ∧
        (t.lane l).sec.bin = tabOf L.readTables.bin) ∧
    (L.flag mt 2 = true → ∀ code i, code < 16 → i < 32 → L.mtrError ms = some (code, i) →
      let t := s.modLane l Lane.checkMeters
      RaisesOnly l 67 5 i (BitVec.ofNat 32 code) [mt] s t ∧ (t.lane l).flag mt 1 = true ∧
        (t.lane l).flag mt 2 = false ∧ (t.lane l).fld mt 4 4 = code ∧ (t.lane l).fld mt 8 5 = i) ∧
    (L.flag mt 2 = true → L.mtrError ms = none →
      let M := L.checkMeters
      M.flag mt 0 = true ∧ M.flag mt 2 = false ∧
        M.sec = { L.sec with
          mtr := tabOf ms
          mtrOff := [] } ∧ M.sram = L.sram)

/-- R201, R203, R204, R237: a boom sample whose stamp is not later than the last is discarded and counted; another is kept
for its cycle and decides whether its input stands unaligned; an input without a sample for STALE_N periods is stale, with
E64; a pressure sample follows the same rule, and PRESSURE_STALE raises E67 once. -/
def Sys2Proof.Claims.SectionInputsAreTaken : Prop :=
  ∀ (s : State) (l : LaneId) (v : Word) (i : Fin 16),
    let L := s.lane l
    let k := fieldNat v 0 4
    let w := L.binD k
    let b := L.binSt k
    let stamp := L.rd64 0x4007007C
    let late := ∃ q, b.stamp = some q ∧ stamp ≤ q
    let good := binNoxs w = true ∨ L.xsrcOk (df w 0 7 5) (wd w 1).toNat = true
    let wi := L.binD i
    let stale := binEn wi = true ∧ (L.binSt i).at_ + df wi 2 0 8 * (wd wi 1).toNat * 100 ≤ L.lt
    let pst := L.rd64 0x40070124
    let plast := match L.sec.prsWait.getLast? with
      | some m => some m.1
      | none => L.sec.prs.map Prod.fst
    let pdue := L.flag 0x40070000 0 = true ∧ L.sec.prsStale = false ∧
      L.sec.prsAt + L.fld 0x40070130 24 8 * 1000000 ≤ L.lt
    (binEn w = false → exec (.binSubGo l v) s = .next s) ∧
    (binEn w = true → late → ∃ t, exec (.binSubGo l v) s = .next t ∧ OnlyLaneRegs l [0x40070094] s t ∧
      (t.lane l).rd 0x40070094 = satAdd (L.rd 0x40070094) 1) ∧
    (binEn w = true → ¬late → ∃ t, exec (.binSubGo l v) s = .next t ∧ OnlyLane l s t ∧ SameMemory l s t ∧
      OnlyRegs l (0x40070098 :: evRegs) s t ∧
      ((t.lane l).binSt k).stamp = some stamp ∧ ((t.lane l).binSt k).at_ = L.lt ∧
      (good → ((t.lane l).binSt k).cons = min 16 (b.cons + 1)) ∧ (¬good → ((t.lane l).binSt k).cons = 0) ∧
      ((t.lane l).binSt k).wait =
        b.wait ++ [(stamp, L.lt, L.rd 0x40070070, L.rd 0x40070074, L.rd 0x40070078)] ∧
      (t.lane l).flag 0x40070098 k = ((t.lane l).binSt k).unal ∧
      (binNoxs w = true → ((t.lane l).binSt k).unal = false) ∧
      (¬good → ((t.lane l).binSt k).unal = true) ∧
      (binNoxs w = false → good → ((t.lane l).binSt k).unal = (b.unal && decide (b.cons + 1 < 16))) ∧
      (L.flag 0x40070098 k = false → ¬good → Raises l 64 3 k 0 s t)) ∧
    (stale → L.flag 0x40070098 i = false → ∃ t, exec (.boomInputStale l i) s = .next t ∧
      RaisesOnly l 64 3 i 0 [0x40070098] s t ∧ (t.lane l).flag 0x40070098 i = true) ∧
    (¬stale ∨ L.flag 0x40070098 i = true → exec (.boomInputStale l i) s = .next s) ∧
    ((∃ q, plast = some q ∧ pst ≤ q) → ∃ t, exec (.prsSubGo l v) s = .next t ∧ OnlyLaneRegs l [0x40070094] s t ∧
      (t.lane l).rd 0x40070094 = satAdd (L.rd 0x40070094) 1) ∧
    ((∀ q, plast = some q → q < pst) → ∃ t, exec (.prsSubGo l v) s = .next t ∧ OnlyLane l s t ∧
      (t.lane l).regs = L.regs ∧ SameMemory l s t ∧ (t.lane l).sec = { L.sec with
        prsWait := L.sec.prsWait ++ [(pst, L.lt, L.rd 0x40070120)]
        prsAt := L.lt
        prsStale := false }) ∧
    (pdue → ∃ t, exec (.pressureStale l) s = .next t ∧ OnlyLane l s t ∧ OnlyRegs l evRegs s t ∧
      SameMemory l s t ∧ (t.lane l).sec = { L.sec with prsStale := true } ∧ Raises l 67 3 0 0 s t) ∧
    (¬pdue → exec (.pressureStale l) s = .next s)

/-- R211, R212, R215, R216: PAGE_EN puts the reference point into relative tile 8 on each axis and asks for all 256 tiles,
each PENDING; a tile of the window that is still PENDING and not answered within PAGE_TMO becomes UNKNOWN, late, with
E63. -/
def Sys2Proof.Claims.PagingAsksForTheWindow : Prop :=
  ∀ (s : State) (l : LaneId) (k : Fin 31),
    let L := s.lane l
    let T := L.refTile
    let asked := L.sec.asked.find? (fun t => t.slot == k.val && !t.late)
    let due := fun (u : TileReq) => u.at_ + (L.rd 0x4007004C).toNat * 100000 ≤ L.lt ∧
      L.inWindow u.tx u.ty = true ∧ L.tileState (tileSlot u.tx u.ty) = 1 ∧ L.answered k = false
    (L.flag 0x40070000 4 = true → exec (.pageEnable l) s = .next s) ∧
    (L.flag 0x40070000 4 = false → -32760 ≤ T.1 → T.1 ≤ 32759 → -32760 ≤ T.2 → T.2 ≤ 32759 →
      ∃ t, exec (.pageEnable l) s = .next t ∧ OnlyLane l s t ∧ (t.lane l).flag 0x40070000 4 = true ∧
        (t.lane l).winX = T.1 - 8 ∧ (t.lane l).winY = T.2 - 8 ∧ (t.lane l).sec.want.length = 256 ∧
        ∀ x y, T.1 - 8 ≤ x → x < T.1 + 8 → T.2 - 8 ≤ y → y < T.2 + 8 →
          (x, y) ∈ (t.lane l).sec.want ∧ (t.lane l).tileState (tileSlot x y) = 1) ∧
    (asked = none → exec (.pageTimeout l k) s = .next s) ∧
    (∀ u, asked = some u → ¬due u → exec (.pageTimeout l k) s = .next s) ∧
    (∀ u, asked = some u → due u → ∃ t, exec (.pageTimeout l k) s = .next t ∧ OnlyLane l s t ∧ SameMemory l s t ∧
      (t.lane l).rd 0x40070090 = satAdd (L.rd 0x40070090) 1 ∧ Raises l 63 4 0 0 s t ∧
      (t.lane l).sec.want = L.sec.want ∧ { u with late := true } ∈ (t.lane l).sec.asked ∧
      (t.lane l).tileState (tileSlot u.tx u.ty) = 2)

/-- R224, R225: RX_CMD with OP 1 starts the verification of the map named by RX_ADDR, with OP 2 deactivates the layer at
the next cycle; a map that verifies becomes ACTIVE then; one that does not leaves the layer REJECTED with one of the
reasons that hold and E64; a write of FIELD deactivates all four layers at the next cycle. -/
def Sys2Proof.Claims.PrescriptionLayersChange : Prop :=
  ∀ (s : State) (l : LaneId) (v : Word) (k : Fin 4),
    let L := s.lane l
    let j := fieldNat v 0 2
    let rx := 0x4007005C
    let y := L.layer k
    (fieldNat v 2 2 = 1 → ∃ t, exec (.rxActivate l v) s = .next t ∧ OnlyLane l s t ∧ SameMemory l s t ∧
      OnlyRegs l [rx] s t ∧ (t.lane l).fld rx (8 * j) 2 = 1 ∧ (t.lane l).fld rx (8 * j + 2) 4 = 0 ∧
      ((t.lane l).layer j).check = some (L.rd (0x40070060 + 4 * j)).toNat ∧
      ((t.lane l).layer j).map = (L.layer j).map ∧ ∀ i, i ≠ j → (t.lane l).layer i = L.layer i) ∧
    (fieldNat v 2 2 ≠ 1 → exec (.rxActivate l v) s = .next s) ∧
    (fieldNat v 2 2 = 2 → ∃ t, exec (.rxDeactivate l v) s = .next t ∧ OnlyLane l s t ∧ SameMemory l s t ∧
      (t.lane l).regs = L.regs ∧ ((t.lane l).layer j) = ⟨(L.layer j).map, none, 1⟩ ∧
      ∀ i, i ≠ j → (t.lane l).layer i = L.layer i) ∧
    (fieldNat v 2 2 ≠ 2 → exec (.rxDeactivate l v) s = .next s) ∧
    (y.check = none → exec (.rxVerifyComplete l k) s = .next s) ∧
    (∀ a, y.check = some a → L.mapFaults a = [] → ∃ t, exec (.rxVerifyComplete l k) s = .next t ∧
      OnlyLane l s t ∧ (t.lane l).regs = L.regs ∧ (t.lane l).layer k = { y with next := 2 }) ∧
    (∀ a, y.check = some a → L.mapFaults a ≠ [] → ∃ t r, exec (.rxVerifyComplete l k) s = .next t ∧
      OnlyLane l s t ∧ r ∈ L.mapFaults a ∧ OnlyRegs l (rx :: evRegs) s t ∧ SameMemory l s t ∧
      (t.lane l).fld rx (8 * k) 2 = 3 ∧ (t.lane l).fld rx (8 * k + 2) 4 = r ∧
      (t.lane l).layer k = ⟨if y.next = 1 then none else y.map, none, 0⟩ ∧ Raises l 64 2 k (BitVec.ofNat 32 r) s t) ∧
    (∃ t, exec (.fieldWrite l v) s = .next t ∧ OnlyLane l s t ∧ SameMemory l s t ∧
      OnlyRegs l [0x4007000C] s t ∧ (t.lane l).rd 0x4007000C = v ∧
      ∀ i, i < 4 → (t.lane l).layer i = ⟨(L.layer i).map, none, 1⟩) ∧
    (y.next = 1 → ((L.takeLayers).layer k).map = none) ∧
    (y.next = 2 → ((L.takeLayers).layer k) = ⟨y.check, none, 0⟩ ∧ L.takeLayers.fld rx (8 * k) 2 = 2) ∧
    (y.next = 0 → (L.takeLayers).layer k = y)

/-- R238 to R244, R255, R260: the oldest signature window of a channel ends once its samples give a result, which reaches
the learner of a lane only where that lane takes the measurement; an off-edge's point is the first sample at or below 1 %
of the current at the edge, and a window without one is TRUNC where an edge cut it and else NONE; a POINT within its bounds moves the stored delay and the confidence as R242 says, one out of
bounds leaves the delay and lowers the confidence by twice CDN, a NONE counts as a miss, and a frozen entry is held; the entry is written to its table; a flow
or a speed out of tolerance for its time raises E67 with data 4, once. -/
def Sys2Proof.Claims.LearnerAndTolerances : Prop :=
  ∀ (s : State) (l : LaneId) (n : ChNo) (i0 : Rat) (xs : List Rat) (k : Nat) (m : Int) (sect : Fin 64)
      (mt : Fin 24),
    let L := s.lane l
    let ws := Tab.get s.die.sig [] n
    let ys := i0 :: xs
    let full := fun (w : SigWin) => w.te + fieldNat (s.sigCfg n) (if w.on then 0 else 8) 8 * 100000
    let fin := fun (w : SigWin) => min (full w) (w.cut.getD (full w))
    let a := L.sec.lrnBase + 16 * k
    let open_ := L.flag 0x40070100 0 = true ∧ L.flag 0x40070100 1 = false ∧ db (L.nozD k) 7 17 = true
    let e := L.lrn k
    let d := fieldNat (wd e 0) 0 24
    let conf := fieldNat (wd e 0) 24 8
    let cnt := fieldNat (wd e 2) 0 16
    let miss := fieldNat (wd e 3) 0 8
    let lo : Int := (L.fld 0x40070104 0 16 * 100 : Nat)
    let hi : Int := (L.fld 0x40070104 16 16 * 100 : Nat)
    let tol := L.fld 0x4007010C 0 16
    let cup := L.fld 0x4007010C 16 8
    let cdn := L.fld 0x4007010C 24 8
    let fbad := Tab.get L.sec.flowBad none sect
    let mbad := Tab.get L.sec.mtrBad none mt
    let fdue := ∃ q, fbad = some q ∧ q + df (L.sectD sect) 2 8 8 * 1000000 < L.lt ∧ sect.val ∉ L.sec.flowSaid
    let mdue := ∃ q, mbad = some q ∧ q + df (L.mtrD mt) 2 24 8 * 1000000 < L.lt ∧ mt.val ∉ L.sec.mtrSaid
    (ws = [] → exec (.signatureWindowEnd n i0 xs) s = .next s) ∧
    (∀ w rest, ws = w :: rest → s.sigResult n w ys = none → exec (.signatureWindowEnd n i0 xs) s = .next s) ∧
    (∀ w rest r p, ws = w :: rest → s.sigResult n w ys = some (r, p) →
      ∃ t, exec (.signatureWindowEnd n i0 xs) s = .next t ∧ t.rind = s.rind ∧
        { t.die with sig := [] } = { s.die with sig := [] } ∧ Tab.get t.die.sig [] n = rest ∧
        (L.nozzleOf n = none ∨ L.running = false → t.lane l = L) ∧
        (∀ z, L.nozzleOf n = some z → L.running = true → t.lane l =
          if db (L.nozD z) 7 18 = false ∧ s.takesMeasure l z w = true then L.learn z w.on r p else L)) ∧
    (∀ w j, w.on = false → 0 < j → j ≤ xs.length → ys.getD j 0 * 100 ≤ i0 →
      (∀ i, 0 < i → i < j → i0 < ys.getD i 0 * 100) → w.te + 2000 * j < fin w → w.te + 2000 * j ≤ s.die.replica →
      s.sigResult n w ys = some (0, ((20 * j : Nat) : Int))) ∧
    (∀ w, w.on = false → (∀ i, 0 < i → i ≤ xs.length → i0 < ys.getD i 0 * 100) → fin w ≤ s.die.replica →
      fin w ≤ w.te + 2000 * ys.length → s.sigResult n w ys = some (if fin w < full w then 1 else 2, 0)) ∧
    (open_ → L.servesAll .section_ a 16 = true → ∀ r, r ≠ 1 →
      (List.range 4).map (fun i => (L.learn k true r m).word (a + 4 * i)) = (L.learn k true r m).lrn k) ∧
    (open_ → lo ≤ m → m ≤ hi → ¬(conf = 0 ∧ cnt = 0) →
      let M := L.learn k true 0 m
      let dn := clampInt lo hi ((d : Int) +
        roundHalfUp (((m - (d : Int) : Int) : Rat) / ((L.fld 0x40070100 8 8 : Nat) : Rat)))
      fieldNat (wd (M.lrn k) 0) 0 24 = dn.toNat ∧
        fieldNat (wd (M.lrn k) 0) 24 8 =
          (if (m - (d : Int)).natAbs ≤ tol then min 255 (conf + cup) else conf - cdn) ∧
        wd (M.lrn k) 1 = wd e 1 ∧ fieldNat (wd (M.lrn k) 2) 0 16 = min 65535 (cnt + 1) ∧
        fieldNat (wd (M.lrn k) 3) 0 8 = 0 ∧ bitOf (wd (M.lrn k) 3) 8 = false) ∧
    (open_ → lo ≤ m → m ≤ hi → conf = 0 → cnt = 0 → fieldNat (wd ((L.learn k true 0 m).lrn k) 0) 0 24 = m.toNat) ∧
    (open_ → (m < lo ∨ hi < m) →
      let M := L.learn k true 0 m
      fieldNat (wd (M.lrn k) 0) 0 24 = d ∧ fieldNat (wd (M.lrn k) 0) 24 8 = conf - 2 * cdn ∧
        bitOf (wd (M.lrn k) 3) 9 = true ∧ M.rd 0x40070158 = satAdd (L.rd 0x40070158) 1) ∧
    (open_ →
      let M := L.learn k true 2 m
      fieldNat (wd (M.lrn k) 0) 0 24 = d ∧ fieldNat (wd (M.lrn k) 0) 24 8 = conf - cdn ∧
        fieldNat (wd (M.lrn k) 3) 0 8 = min 255 (miss + 1) ∧ M.rd 0x4007015C = satAdd (L.rd 0x4007015C) 1) ∧
    (∀ on r, L.flag 0x40070100 1 = true ∨ db (L.nozD k) 7 17 = false → L.learn k on r m = L) ∧
    (fdue → ∃ t, exec (.flowToleranceExpiry l sect) s = .next t ∧ OnlyLane l s t ∧ OnlyRegs l evRegs s t ∧
      SameMemory l s t ∧ sect.val ∈ (t.lane l).sec.flowSaid ∧ Raises l 67 4 sect 0 s t) ∧
    (¬fdue → exec (.flowToleranceExpiry l sect) s = .next s) ∧
    (mdue → ∃ t, exec (.meterToleranceExpiry l mt) s = .next t ∧ OnlyLane l s t ∧ OnlyRegs l evRegs s t ∧
      SameMemory l s t ∧ mt.val ∈ (t.lane l).sec.mtrSaid ∧ Raises l 67 4 mt 0 s t) ∧
    (¬mdue → exec (.meterToleranceExpiry l mt) s = .next s)

/-- R263, R264, R267 to R270, R19, R277: ORG_GO is refused while the section engine runs and asks for the origin otherwise;
a submitted sample passes the tests of R267 in their order, and an accepted one becomes the slot's last; a slot without a
sample for its time is stale; an accepted sample waits for each class that runs and that its KIND may enter; an inertial
sample reaches its own lane and, over the lane link, the partner, and while the nozzle class runs the tenth differing pair in
a row excludes a stream. -/
def Sys2Proof.Claims.FusionTakesItsInputs : Prop :=
  ∀ (s : State) (l : LaneId) (v : Word) (j : Fin 32) (gx gy gz ax ay az : Word),
    let L := s.lane l
    let i := fieldNat v 0 5
    let c := srcCfg i
    let kind := L.srcKind i
    let own := L.srcOwnClock i
    let x := L.fld c 8 5
    let closed := L.flag c 18 = true ∨ L.flag c 4 = false ∨ kind = 0 ∨ 5 < kind
    let stamp := if own then L.mapStamp x (L.rd64 0x40080048) else L.rd64 0x40080048
    let open_ := ¬closed ∧ (own = true → L.flag (0x40020100 + 32 * x) 1 = true)
    let late := ∃ q, (L.slot i).last = some q ∧ stamp ≤ q
    let old := L.fld 0x40080008 0 8 * 100000 ≤ L.lt - stamp
    let words := (List.range 6).map (fun k => L.rd (0x40080030 + 4 * k))
    let stale := L.flag (srcCfg j) 4 = true ∧ L.srcStale j = false ∧
      (L.slot j).at_ + max 1 (L.fld (srcCfg j) 24 8) * L.srcPer j * 100 ≤ L.lt
    let w := [gx, gy, gz, ax, ay, az]
    let o := Tab.get L.fus.imu (0, []) 1
    let ncOn := L.flag 0x40080000 0 = true
    let pcOn := L.flag 0x40080000 1 = true
    (L.flag 0x40070000 0 = true → ∃ t, exec (.orgGo l v) s = .next t ∧ OnlyLaneRegs l [0x40080004] s t ∧
      (t.lane l).flag 0x40080004 12 = true) ∧
    (L.flag 0x40070000 0 = false → ∃ t, exec (.orgGo l v) s = .next t ∧
      t.lane l = { L with fus := { L.fus with orgPend := true } } ∧ OnlyLane l s t) ∧
    (closed → exec (.fusionSubmit l v) s = .next s) ∧
    (¬closed → own = true → L.flag (0x40020100 + 32 * x) 1 = false → ∃ t, exec (.fusionSubmit l v) s = .next t ∧
      OnlyLane l s t ∧ SameMemory l s t ∧ (t.lane l).fus = L.fus ∧ (t.lane l).flag 0x40080078 i = true ∧
      (t.lane l).flag (srcStat i) 8 = true ∧ (t.lane l).fld (srcStat i) 0 5 = 0) ∧
    (open_ → L.lt < stamp → ∃ t, exec (.fusionSubmit l v) s = .next t ∧ OnlyLane l s t ∧ SameMemory l s t ∧
      (t.lane l).fus = L.fus ∧ (t.lane l).rd 0x4008006C = satAdd (L.rd 0x4008006C) 1 ∧
      (own = false → OnlyRegs l [0x4008006C] s t)) ∧
    (open_ → stamp ≤ L.lt → late → ∃ t, exec (.fusionSubmit l v) s = .next t ∧ OnlyLane l s t ∧ SameMemory l s t ∧
      (t.lane l).fus = L.fus ∧ (t.lane l).rd 0x40080068 = satAdd (L.rd 0x40080068) 1 ∧
      (own = false → OnlyRegs l [0x40080068] s t)) ∧
    (open_ → stamp ≤ L.lt → ¬late → old → ∃ t, exec (.fusionSubmit l v) s = .next t ∧ OnlyLane l s t ∧
      SameMemory l s t ∧ (t.lane l).fus = { L.fus with dropped := L.fus.dropped + 1 } ∧
      (t.lane l).rd 0x40080064 = satAdd (L.rd 0x40080064) 1 ∧ (t.lane l).flag 0x40080004 8 = true) ∧
    (open_ → stamp ≤ L.lt → ¬late → ¬old → ∃ t, exec (.fusionSubmit l v) s = .next t ∧ OnlyLane l s t ∧
      SameMemory l s t ∧ ((t.lane l).slot i).last = some stamp ∧ ((t.lane l).slot i).at_ = L.lt ∧
      ((t.lane l).slot i).data = words ∧ (t.lane l).srcStale i = false ∧
      (∀ k, k ≠ i → (t.lane l).slot k = L.slot k) ∧
      (t.lane l).fus.objs.length = L.fus.objs.length + (if kind = 4 ∧ pcOn then 1 else 0) ∧
      (kind ≠ 4 → (t.lane l).fus.objs = L.fus.objs) ∧
      ((kind = 1 ∨ kind = 5) ∧ ncOn → (t.lane l).fus.ins.length = L.fus.ins.length + 1 ∧
        ∃ y ∈ (t.lane l).fus.ins, y.stamp = stamp ∧ y.slot = i ∧ y.used = false) ∧
      (¬((kind = 1 ∨ kind = 5) ∧ ncOn) → (t.lane l).fus.ins = L.fus.ins) ∧
      (kind ≠ 4 ∧ pcOn → (t.lane l).fus.pins.length = L.fus.pins.length + 1 ∧
        ∃ y ∈ (t.lane l).fus.pins, y.stamp = stamp ∧ y.slot = i ∧ y.used = false) ∧
      (¬(kind ≠ 4 ∧ pcOn) → (t.lane l).fus.pins = L.fus.pins)) ∧
    (stale → ∃ t, exec (.fusionSourceStale l j) s = .next t ∧
      RaisesOnly l 57 1 j 0 [srcStat j, 0x4008007C] s t ∧ (t.lane l).srcStale j = true ∧
      (t.lane l).flag 0x4008007C j = true) ∧
    (¬stale → exec (.fusionSourceStale l j) s = .next s) ∧
    (L.alive = false ∨ s.power ≠ 0 → exec (.imuSample l gx gy gz ax ay az) s = .next s) ∧
    (L.alive = true → s.power = 0 → ∃ t, exec (.imuSample l gx gy gz ax ay az) s = .next t ∧ t.die = s.die ∧
      t.rind = s.rind ∧ (∀ k, SameMemory k s t) ∧ Tab.get (t.lane l).fus.imu (0, []) 0 = (L.lt, w) ∧
      (s.laneLink = true → (s.lane (other l)).alive = true →
        Tab.get (t.lane (other l)).fus.imu (0, []) 1 = (L.lt, w)) ∧
      (s.laneLink = false → t.lane (other l) = s.lane (other l)) ∧
      (ncOn → o.2 ≠ [] → L.lt ≤ o.1 + 150000 → L.fus.excl = none →
        (L.imuDiffers w o.2 = false → (t.lane l).fus.diff = 0 ∧ (t.lane l).fus.excl = none) ∧
        (L.imuDiffers w o.2 = true → L.fus.diff < 9 →
          (t.lane l).fus.diff = L.fus.diff + 1 ∧ (t.lane l).fus.excl = none) ∧
        (L.imuDiffers w o.2 = true → 9 ≤ L.fus.diff → (t.lane l).fus.excl.isSome = true ∧
          (t.lane l).flag 0x40080004 6 = true ∧ Pends l 52 s t)))

/-- R271, R275, R281 to R284: the nozzle-class and perception-class cycles run at their cut-offs in RUN while enabled, and
their outputs carry the end of their window; without the replay bank no output is written, the quality is 0 and E52 is raised;
with it a cycle writes no byte beyond the bank. -/
def Sys2Proof.Claims.FusionCyclesReleaseOutputs : Prop :=
  ∀ (s : State) (l : LaneId),
    let L := s.lane l
    let t0 := (L.lt - 20000) / 100000 * 100000
    let nc := L.running = true ∧ s.power = 0 ∧ L.flag 0x40080000 0 = true ∧ L.fus.t0 < t0
    let p := L.fld 0x40080008 24 8 * 100000
    let e := (L.lt - 200000) / p * p
    let pc := L.running = true ∧ s.power = 0 ∧ L.flag 0x40080000 1 = true ∧ L.fus.pcEnd < e
    let b := (L.rd 0x40080020).toNat
    (¬nc → exec (.fusionNcCycle l) s = .next s) ∧
    (nc → ∃ t, exec (.fusionNcCycle l) s = .next t ∧ t.die = s.die ∧ t.rind = s.rind ∧ t.pending = s.pending ∧
      (s.laneLink = false → t.lane (other l) = s.lane (other l)) ∧
      (L.fus.calLoad = false → L.fus.orgPend = false → L.replayBank = true →
        (t.lane l).rd64 0x40080084 = t0 % 2 ^ 64) ∧
      (L.fus.calLoad = false → L.fus.orgPend = false → L.replayBank = false →
        (t.lane l).fld 0x40080004 0 2 = 0 ∧ (t.lane l).flag 0x40080004 2 = false ∧
          (t.lane l).flag 0x40080004 4 = false ∧ (t.lane l).flag 0x40080004 5 = false ∧
          (∀ k, k < 24 → (t.lane l).nc k = L.nc k) ∧ Pends l 52 s t)) ∧
    (¬pc → exec (.fusionPcCycle l) s = .next s) ∧
    (pc → L.replayBank = false → ∃ t, exec (.fusionPcCycle l) s = .next t ∧ OnlyLane l s t ∧ SameMemory l s t ∧
      OnlyRegs l (0x40080004 :: 0x40040080 :: evRegs) s t ∧ (t.lane l).fus.pcEnd = e ∧
      (t.lane l).fld 0x40080004 0 2 = 0 ∧ (t.lane l).flag 0x40080004 2 = false ∧ Pends l 52 s t) ∧
    (pc → L.replayBank = true → ∃ t, exec (.fusionPcCycle l) s = .next t ∧ OnlyLane l s t ∧
      (∀ a, a < b ∨ b + 0x40000 ≤ a → t.byte l a = s.byte l a) ∧ (t.lane l).flash = L.flash ∧
      (t.lane l).fus.pcEnd = e ∧ (t.lane l).fus.pcTov = e ∧ (t.lane l).rd 0x400800E0 = L.rd 0x400800E0 + 1 ∧
      (t.lane l).rd64 0x400800E4 = e % 2 ^ 64 ∧
      (t.lane l).flag 0x40080004 3 = bitOf ((t.lane l).rd 0x400800F0) 0 ∧
      (L.flag 0x40080004 3 ≠ (t.lane l).flag 0x40080004 3 →
        Raises l 56 (if (t.lane l).flag 0x40080004 3 then 2 else 1) 0 0 s t))

/-- R311 to R313, R317, R318: LOAD and SNAP are requests for the next cycle; a set that fails a test of R317 is refused with
one of the reasons that hold and E59, nothing changing; one that passes gives every parameter its value, sigma and flags; a
refined parameter moves by at most SLEW a cycle, and its estimate stays within DEV of the loaded value. -/
def Sys2Proof.Claims.CalibrationLoadsAndRefines : Prop :=
  ∀ (s : State) (l : LaneId) (v : Word) (i : Fin 92) (d sg : Rat),
    let L := s.lane l
    let ws := L.calSet
    let p := L.calPar i
    let step := L.calSlew i / 1000
    (bitOf v 1 = true → ∃ t, exec (.calLoad l v) s = .next t ∧ OnlyLane l s t ∧ SameMemory l s t ∧
      OnlyRegs l [0x40080400] s t ∧ (t.lane l).cal = L.cal ∧
      (t.lane l).fus = { L.fus with
        calLoad := true
        calSnap := L.fus.calSnap || bitOf v 2 }) ∧
    (bitOf v 2 = true → ∃ t, exec (.calSnap l v) s = .next t ∧ OnlyLane l s t ∧ SameMemory l s t ∧
      OnlyRegs l [0x40080400] s t ∧ (t.lane l).cal = L.cal ∧
      (t.lane l).fus = { L.fus with
        calLoad := L.fus.calLoad || bitOf v 1
        calSnap := true }) ∧
    (bitOf v 1 = false → exec (.calLoad l v) s = .next s) ∧
    (bitOf v 2 = false → exec (.calSnap l v) s = .next s) ∧
    (L.fus.calLoad = true → L.calRefusals ws ≠ [] →
      let M := (L.calLoadNow l).1
      (L.calLoadNow l).2 = false ∧ M.cal = L.cal ∧ M.sram = L.sram ∧ M.fld 0x40080404 4 3 ∈ L.calRefusals ws ∧
        (L.alive = true → L.halted = true ∨ L.waiting 2 59 = [] → M.bitAt 0x40030040 59 = true)) ∧
    (L.fus.calLoad = true → L.calRefusals ws = [] →
      let M := (L.calLoadNow l).1
      (L.calLoadNow l).2 = true ∧ M.flag 0x40080404 0 = true ∧ M.sram = L.sram ∧ M.fus = { L.fus with calLoad := false } ∧
        (M.calPar i).a = f32 (wd ws (8 + 3 * i)) - calNominal i ∧ (M.calPar i).e = (M.calPar i).a ∧
        (M.calPar i).l = (M.calPar i).a ∧ (M.calPar i).sig = some (f32 (wd ws (9 + 3 * i))) ∧
        M.calConverged i = bitOf (wd ws (10 + 3 * i)) 0 ∧ M.calFlag i = bitOf (wd ws (10 + 3 * i)) 1) ∧
    (L.calRefined i = false → ((L.calRefine i d sg).calPar i) = { p with e := p.a }) ∧
    (L.calRefined i = true →
      let q := (L.calRefine i d sg).calPar i
      p.a - step ≤ q.a ∧ q.a ≤ p.a + step ∧ q.l = p.l ∧ q.sig = some sg ∧
        (L.calFlag i = true → q.e = p.e) ∧
        (L.calFlag i = false → p.l - L.calDev i ≤ q.e ∧ q.e ≤ p.l + L.calDev i))

/-- R293, R295, R302, R304: a clear of the table is a request for the next update; an update runs once for each output of
the perception class, when the copy that is not current may be written, and releases the table with one more in SEQ and the
window's end, writing nothing but that copy; as the class goes off the table is cleared, with E58 and NO_PC, and released;
without its bank nothing is released; a track without a detection for a second goes. -/
def Sys2Proof.Claims.TracksUpdateWithThePerceptionClass : Prop :=
  ∀ (s : State) (l : LaneId) (v : Word) (k : Fin 256) (opp : Bool) (tr : Track),
    let L := s.lane l
    let tov := L.fus.pcTov
    let on := L.running = true ∧ s.power = 0 ∧ L.flag 0x40090000 0 = true
    let pc := L.flag 0x40080000 1
    let base := (L.rd 0x4009000C).toNat
    let bank := L.ownedBy 5 base 0x8000
    let free := L.copyFree (L.fld 0x40080008 24 8 * 100000)
    let due := L.trk.freeDue = true ∧ bank = true ∧ free = true
    let copy := base + 0x4000 * ((L.rd 0x40090010 + 1).toNat % 2)
    let released := fun (t : State) (w : Nat) => (t.lane l).rd 0x40090010 = L.rd 0x40090010 + 1 ∧
      (t.lane l).rd64 0x40090014 = w % 2 ^ 64 ∧ (t.lane l).trk.freeDue = false ∧ (t.lane l).trk.relAt = L.lt ∧
      (∀ a, a < copy ∨ copy + 0x4000 ≤ a → t.byte l a = s.byte l a) ∧ (t.lane l).flash = L.flash
    (bitOf v 1 = true → ∃ t, exec (.trackClear l v) s = .next t ∧ OnlyLane l s t ∧ SameMemory l s t ∧
      OnlyRegs l (0x40090000 :: 0x40090004 :: evRegs) s t ∧ (t.lane l).trk.clr = true ∧
      (let noPc := (t.lane l).flag 0x40090000 0 && !pc
       (t.lane l).flag 0x40090004 16 = noPc ∧
       (L.flag 0x40090004 16 = noPc → (t.lane l).trk = { L.trk with
         clr := true
         tov := if (t.lane l).flag 0x40090000 0 && !L.flag 0x40090000 0 then L.fus.pcTov else L.trk.tov }) ∧
       (L.flag 0x40090004 16 = false → noPc = true → (t.lane l).trk.tracks = [] ∧ (t.lane l).trk.cands = [] ∧
         (t.lane l).trk.freeDue = true ∧ Raises l 58 4 0 0 s t))) ∧
    (bitOf v 1 = false → exec (.trackClear l v) s = .next s) ∧
    (¬on → exec (.trackUpdate l) s = .next s) ∧
    (on → pc = false → ¬due → exec (.trackUpdate l) s = .next s) ∧
    (on → pc = false → due → ∃ t, exec (.trackUpdate l) s = .next t ∧ OnlyLane l s t ∧
      (t.lane l).trk.tracks = L.trk.tracks ∧ released t L.trk.from_) ∧
    (on → pc = true → tov ≤ L.trk.tov → exec (.trackUpdate l) s = .next s) ∧
    (on → pc = true → bank = true → free = false → exec (.trackUpdate l) s = .next s) ∧
    (on → pc = true → L.trk.tov < tov → bank = false → ∃ t, exec (.trackUpdate l) s = .next t ∧ OnlyLane l s t ∧
      SameMemory l s t ∧ OnlyRegs l (0x40040080 :: evRegs) s t ∧
      (t.lane l).trk = (L.noteWindow tov L.opportunity).trk ∧ Raises l 58 5 0 0 s t) ∧
    (on → pc = true → L.trk.tov < tov → bank = true → free = true → ∃ t, exec (.trackUpdate l) s = .next t ∧
      OnlyLane l s t ∧ (t.lane l).trk.tov = tov ∧ (t.lane l).trk.clr = false ∧ released t tov) ∧
    (L.track k = some tr → tr.tAssoc + 100000000 ≤ tov →
      let M := L.ageTrack tov opp k
      M.track k = none ∧ M.rd 0x40090024 = satAdd (L.rd 0x40090024) 1 ∧ ∀ j, j ≠ k.val → M.track j = L.track j) ∧
    (L.track k = none → L.ageTrack tov opp k = L)

/-- R19, R263, R267, R270, R271, R281: an inertial sample of a running lane is its latest; ORG_GO without a section engine asks
for the origin; a sample of a slot with an external stamp that meets the tests of R267 becomes the slot's last; a slot without a
sample for its time becomes stale; and each class's cycle, once due, runs for its window. -/
def Sys2Proof.Claims.FusionCommandsComplete : Prop :=
  ∀ (s : State) (l : LaneId) (v : Word) (j : Fin 32) (gx gy gz ax ay az : Word),
    let L := s.lane l
    let i := fieldNat v 0 5
    let c := srcCfg i
    let stamp := L.rd64 0x40080048
    let t0 := (L.lt - 20000) / 100000 * 100000
    let p := L.fld 0x40080008 24 8 * 100000
    let e := (L.lt - 200000) / p * p
    let on := L.running = true ∧ s.power = 0
    (L.alive = true → s.power = 0 → ∃ t, exec (.imuSample l gx gy gz ax ay az) s = .next t ∧
      Tab.get (t.lane l).fus.imu (0, []) 0 = (L.lt, [gx, gy, gz, ax, ay, az]) ∧ t.die = s.die ∧ t.rind = s.rind) ∧
    (L.flag 0x40070000 0 = false → ∃ t, exec (.orgGo l v) s = .next t ∧ (t.lane l).fus.orgPend = true ∧
      OnlyLane l s t) ∧
    (L.flag c 4 = true → L.flag c 7 = true → L.flag c 18 = false → 1 ≤ L.srcKind i → L.srcKind i ≤ 5 →
      stamp ≤ L.lt → L.lt - stamp < L.fld 0x40080008 0 8 * 100000 → (∀ q, (L.slot i).last = some q → q < stamp) →
      ∃ t, exec (.fusionSubmit l v) s = .next t ∧ OnlyLane l s t ∧ ((t.lane l).slot i).last = some stamp) ∧
    (L.flag (srcCfg j) 4 = true → L.srcStale j = false →
      (L.slot j).at_ + max 1 (L.fld (srcCfg j) 24 8) * L.srcPer j * 100 ≤ L.lt →
      ∃ t, exec (.fusionSourceStale l j) s = .next t ∧ OnlyLane l s t ∧ (t.lane l).srcStale j = true) ∧
    (on → L.flag 0x40080000 0 = true → L.fus.t0 < t0 → ∃ t, exec (.fusionNcCycle l) s = .next t ∧
      (t.lane l).fus.t0 = t0 ∧ t.die = s.die ∧ t.rind = s.rind) ∧
    (on → L.flag 0x40080000 1 = true → L.fus.pcEnd < e → ∃ t, exec (.fusionPcCycle l) s = .next t ∧
      (t.lane l).fus.pcEnd = e ∧ OnlyLane l s t)

/-- R325, R330 to R333, R354: a short removes the bias of its antenna and raises E46 with data 2 on both lanes, and a retry
that finds it gone restores it with data 3; a bias current below 2 mA is an open antenna, reported once; JAM reports the
excess and E48 when it passes its threshold; a write of NOTCH holds CENTRE within its band. -/
def Sys2Proof.Claims.AntennasAndInterference : Prop :=
  ∀ (s : State) (l : LaneId) (a : Fin 2) (gone : Bool) (ma : Nat) (b : Fin 3) (excess : Int) (m : Fin 24) (v : Word),
    let L := s.lane l
    let x := s.antenna a
    let front := fun (t : State) => t.die = s.die ∧ t.rind = s.rind ∧ LanesOnlyRegs [] s t
    let ja := 0x400A0018 + 4 * a.val
    let j := min 255 ((4 * max 0 excess) / 100).toNat
    let was := L.fld ja (8 * b.val) 8
    let th := L.fld (0x400A0010 + 4 * a.val) 24 8
    let n := 0x400A0040 + 4 * m.val
    (s.biasOn a = true → ∃ t, exec (.antennaShort a) s = .next t ∧ front t ∧ BothRaise 46 2 a 0 s t ∧
      t.antenna a = { x with
        short := true
        opn := false } ∧ t.biasOn a = false) ∧
    (s.biasOn a = false → exec (.antennaShort a) s = .next s ∧ exec (.antennaOpen a ma) s = .next s) ∧
    (x.short = true → s.biasWanted a = true → ∃ t, exec (.antennaBiasRetry a true) s = .next t ∧ front t ∧
      BothRaise 46 3 a 0 s t ∧ t.antenna a = { x with short := false } ∧ t.biasOn a = true) ∧
    (x.short = false ∨ s.biasWanted a = false ∨ gone = false →
      exec (.antennaBiasRetry a gone) s = .next s) ∧
    (s.biasOn a = true → ∃ t, exec (.antennaOpen a ma) s = .next t ∧ front t ∧
      t.antenna a = { x with
        ma := ma
        opn := decide (ma < 2) } ∧
      (ma < 2 → x.opn = false → BothRaise 46 1 a 0 s t) ∧ (2 ≤ ma → x.opn = true → BothRaise 46 3 a 0 s t) ∧
      (x.opn = decide (ma < 2) → t.laneA = s.laneA ∧ t.laneB = s.laneB)) ∧
    (L.alive = false ∨ s.power ≠ 0 → exec (.jamMeasure l a b excess) s = .next s) ∧
    (L.alive = true → s.power = 0 → ∃ t, exec (.jamMeasure l a b excess) s = .next t ∧ OnlyLane l s t ∧
      SameBulk l s t ∧ OnlyRegs l (ja :: evRegs) s t ∧ (t.lane l).fld ja (8 * b.val) 8 = j ∧
      (was < th → th ≤ j → Raises l 48 1 a (BitVec.ofNat 32 b.val) s t) ∧
      (th ≤ was → th ≤ was + 8 → j + 8 < th → Raises l 48 2 a (BitVec.ofNat 32 b.val) s t) ∧
      (was < th → j < th → th ≤ j + 8 → OnlyLaneRegs l [ja] s t)) ∧
    (∃ t, exec (.notchWrite l m v) s = .next t ∧ OnlyLane l s t ∧ SameMemory l s t ∧ OnlyRegs l [n] s t ∧
      (t.lane l).flag n 0 = bitOf v 0 ∧ (t.lane l).flag n 1 = bitOf v 1 ∧
      -(notchRange (notchBand m)) ≤ sext16 ((t.lane l).fld n 8 16) ∧
      sext16 ((t.lane l).fld n 8 16) ≤ notchRange (notchBand m) ∧
      notchGroup m ∈ (t.lane l).gns.changed ∧ (¬(bitOf v 0 = true ∧ bitOf v 1 = true) → (t.lane l).flag n 4 = false))

/-- R327, R329, R337: EN rising starts the baseband hot, warm or cold; STN_RESET leaves the selected station with E45; AID_CLR
rewrites the aid store and no other byte; a park burst that ends clears its bit, and a fix of four satellites updates the
store of the lane in control. -/
def Sys2Proof.Claims.BasebandsStartAndClear : Prop :=
  ∀ (s : State) (l : LaneId) (v : Word) (sats : List (Fin 4 × Fin 64)),
    let L := s.lane l
    let aid := fun (k : LaneId) => ((s.lane k).rd 0x400A00B8).toNat
    let outside := fun (k : LaneId) (t : State) =>
      ∀ a, a < aid k ∨ aid k + 0x8000 ≤ a → t.byte k a = s.byte k a
    (bitOf v 0 = true → L.flag 0x400A0000 0 = false → ∃ t, exec (.gnssStart l v) s = .next t ∧ OnlyLane l s t ∧
      (t.lane l).flag 0x400A0000 0 = true ∧ 1 ≤ (t.lane l).gns.start ∧ (t.lane l).gns.start ≤ 3 ∧
      (t.lane l).gns.startAt = L.lt ∧ (t.lane l).gns.ttff = false ∧ (t.lane l).gns.epoch = L.lt ∧ outside l t) ∧
    (bitOf v 0 = false ∨ L.flag 0x400A0000 0 = true → exec (.gnssStart l v) s = .next s) ∧
    (bitOf v 4 = true → ∃ t, exec (.stnReset l v) s = .next t ∧ OnlyLane l s t ∧ (t.lane l).gns.stn = none ∧
      (∀ id, L.gns.stn = some id → (t.lane l).flag 0x400A0004 17 = true ∧ (t.lane l).gns.arp = [] ∧
        (t.lane l).gns.fixed = [] ∧ Pends l 45 s t ∧ (5 ≤ L.gns.fixed.length → Pends l 49 s t) ∧
        (L.gns.fixed.length < 5 → (L.flag 0x400A0000 0 = true → bitOf v 0 = true) → Raises l 45 2 id 0 s t)) ∧
      outside l t) ∧
    (bitOf v 4 = false → exec (.stnReset l v) s = .next s) ∧
    (bitOf v 5 = true → ∃ t, exec (.aidClr l v) s = .next t ∧ OnlyLane l s t ∧ outside l t ∧
      (L.servesAll .gnss (aid l) 0x8000 = false → SameMemory l s t)) ∧
    (bitOf v 5 = false → exec (.aidClr l v) s = .next s) ∧
    (s.rind.flag 0x104 3 = false → exec (.parkBurstEnd sats) s = .next s) ∧
    (s.rind.flag 0x104 3 = true → ∃ t, exec (.parkBurstEnd sats) s = .next t ∧ t.die = s.die ∧
      OnlyRindRegs [0x104] s t ∧ t.rind.flag 0x104 3 = false ∧ t.power = s.power ∧
      (s.control = none ∨ sats.length < 4 → t.laneA = s.laneA ∧ t.laneB = s.laneB) ∧
      (∀ d, s.control = some d → t.lane (other d) = s.lane (other d) ∧ outside d t))

/-- R335 to R338, R346, R348: correction words fill queue P until it is full, E45 with data 5 for a word that finds no room;
GO completes a frame whose length and CRC hold and counts any other; the baseband takes frames in order, selects a station
from its message and counts what it cannot use; an epoch at a whole multiple of its period gives a solution with its time
and type. -/
def Obligations.CorrectionsAndEpochs : Prop :=
  ∀ (s : State) (l : LaneId) (v : Word) (e : GnsEpoch) (f : Bool × List Byte) (rest : List (Bool × List Byte)),
    let L := s.lane l
    let n := fieldNat v 0 11
    let bs := L.gns.part.take n
    let whole := L.gns.dropped = false ∧ L.gns.part.length = (n + 3) / 4 * 4 ∧ frameOk bs n = true
    let k := msgType f.2
    let p := L.epochTicks
    let due := L.running = true ∧ s.power = 0 ∧ L.flag 0x400A0000 0 = true ∧ e.epoch / p * p = e.epoch ∧
      L.gns.epoch < e.epoch ∧ e.epoch ≤ L.lt ∧ L.lt ≤ e.epoch + 800000
    (L.gns.pBytes ≤ 2044 → ∃ t, exec (.corrPData l v) s = .next t ∧ OnlyLane l s t ∧
      t.lane l = { L with gns := { L.gns with part := L.gns.part ++ wordBytes v } }) ∧
    (2044 < L.gns.pBytes → ∃ t, exec (.corrPData l v) s = .next t ∧ OnlyLane l s t ∧ SameMemory l s t ∧
      (t.lane l).gns = { L.gns with dropped := true } ∧ (t.lane l).flag 0x400A0004 16 = true ∧
      OnlyRegs l (0x400A0004 :: evRegs) s t ∧ Raises l 45 5 0 0 s t) ∧
    (whole → ∃ t, exec (.corrPGo l v) s = .next t ∧ OnlyLane l s t ∧ (t.lane l).regs = L.regs ∧ SameMemory l s t ∧
      (t.lane l).gns = { L.gns with
        part := []
        dropped := false
        frames := L.gns.frames ++ [(false, bs)] }) ∧
    (¬whole → ∃ t, exec (.corrPGo l v) s = .next t ∧ OnlyLane l s t ∧ SameMemory l s t ∧
      OnlyRegs l [0x400A00C0] s t ∧ (t.lane l).rd 0x400A00C0 = satAdd (L.rd 0x400A00C0) 1 ∧
      (t.lane l).gns = { L.gns with
        part := []
        dropped := false }) ∧
    (L.gns.frames = [] ∨ L.flag 0x400A0000 0 = false → exec (.correctionFrame l) s = .next s) ∧
    (L.gns.frames = f :: rest → L.flag 0x400A0000 0 = true →
      ∃ t, exec (.correctionFrame l) s = .next t ∧ OnlyLane l s t ∧ (t.lane l).gns.frames = rest ∧
        (isArp k = false → isMsm k = false → isEph k = false → SameMemory l s t ∧
          OnlyRegs l [0x400A00C8] s t ∧ (t.lane l).rd 0x400A00C8 = satAdd (L.rd 0x400A00C8) 1) ∧
        (isArp k = true → L.gns.stn = none → L.fld 0x400A0004 0 3 = 0 →
          (t.lane l).gns.stn = some (msgStation f.2) ∧ (t.lane l).gns.arp = packWords f.2 ∧
            Raises l 45 1 (msgStation f.2) 0 s t) ∧
        (∀ d, L.gns.stn = some d → d ≠ msgStation f.2 → (isArp k = true ∨ isMsm k = true) →
          OnlyRegs l [0x400A00C8] s t ∧ (t.lane l).rd 0x400A00C8 = satAdd (L.rd 0x400A00C8) 1 ∧
            (t.lane l).gns.stn = some d)) ∧
    (¬due → exec (.gnssEpoch l e) s = .next s) ∧
    (due → ∃ t, exec (.gnssEpoch l e) s = .next t ∧ OnlyLane l s t ∧ (t.lane l).gns.epoch = e.epoch ∧
      (t.lane l).gns.changed = [] ∧ (t.lane l).rd64 0x400A0104 = e.epoch % 2 ^ 64 ∧
      (t.lane l).fld 0x400A0004 0 3 ≤ 4 ∧ (t.lane l).fld 0x400A010C 0 3 = (t.lane l).fld 0x400A0004 0 3 ∧
      (t.lane l).fld 0x400A0004 3 2 ≤ 2 ∧ (t.lane l).fld 0x400A010C 3 2 = (t.lane l).fld 0x400A0004 3 2)

/-- R363, R366, R374, R360: a write of CTRL asks for its mode at the next cycle; STOP_REQ stops with cause 5 and E71, once;
STOP_CLR ends a stop whose cause is gone while the vehicle stands, with mode OFF; an implement sample is taken when its stamp
is later than the last, stands stale after 100 ms without one, and dead reckoning for longer than its limit stops with
cause 2. -/
def Sys2Proof.Claims.LineKeepingModesAndStops : Prop :=
  ∀ (s : State) (l : LaneId) (v : Word) (q : Nat),
    let L := s.lane l
    let m := fieldNat v 0 2
    let stopped := L.flag lkStat 10
    let slow := absR L.veh.fwd < 1 / 20
    let stamp := L.rd64 (lkReg 0x88)
    let impAt := (L.lkp.imp.map Prod.snd).getD 0
    let dr := ∃ t0, L.lkp.drAt = some t0 ∧ L.running = true ∧
      t0 + max 1 (L.fld (lkReg 8) 16 8) * 100000000 ≤ L.lt
    (bitOf v 4 = false → bitOf v 5 = false → ∃ t, exec (.lkpModeRequest l v) s = .next t ∧ OnlyLane l s t ∧
      SameMemory l s t ∧ OnlyRegs l [lkCtrl] s t ∧ (t.lane l).lkMode = L.lkMode ∧
      (t.lane l).lkp = { L.lkp with req := if m = L.lkMode then none else some m }) ∧
    (∃ t, exec (.lkpModeRequest l v) s = .next t ∧ OnlyLane l s t ∧ SameMemory l s t ∧
      OnlyRegs l ([lkCtrl, lkStat] ++ evRegs) s t) ∧
    (bitOf v 5 = false → ∃ t, exec (.stopReq l v) s = .next t ∧ OnlyLane l s t ∧ SameMemory l s t ∧
      OnlyRegs l ([lkCtrl, lkStat] ++ evRegs) s t ∧ (t.lane l).flag lkStat 10 = true ∧
      (t.lane l).lkMode = L.lkMode ∧
      (stopped = false → (t.lane l).lkp.cause = 5 ∧ Raises l 71 1 0 5 s t) ∧
      (stopped = true → (t.lane l).lkp.cause = L.lkp.cause ∧ (t.lane l).ev = L.ev)) ∧
    (bitOf v 4 = false → ∃ t, exec (.stopClr l v) s = .next t ∧ OnlyLane l s t ∧ SameMemory l s t ∧
      OnlyRegs l ([lkCtrl, lkStat] ++ evRegs) s t ∧
      (stopped = true → slow → L.lkp.cause = 5 → (t.lane l).flag lkStat 10 = false ∧ (t.lane l).lkMode = 0 ∧
        (t.lane l).lkp.ie = 0 ∧ (t.lane l).lkp.req = none ∧ Raises l 71 2 0 0 s t) ∧
      (stopped = true → slow → L.lkp.cause = 1 → L.fld lkStat 5 2 = 0 → (t.lane l).flag lkStat 10 = true) ∧
      (¬slow → (t.lane l).flag lkStat 10 = stopped ∧ (t.lane l).lkMode = L.lkMode)) ∧
    ((∃ x, L.lkp.imp = some x ∧ stamp ≤ x.1) → exec (.impSubGo l v) s = .next s) ∧
    ((∀ x, L.lkp.imp = some x → x.1 < stamp) → ∃ t, exec (.impSubGo l v) s = .next t ∧ OnlyLane l s t ∧
      SameMemory l s t ∧ OnlyRegs l [lkStat] s t ∧ (t.lane l).flag lkStat 14 = false ∧
      (t.lane l).lkp = { L.lkp with
        imp := some (stamp, L.lt)
        impWait := L.lkp.impWait ++ [(stamp, L.lt, L.rd (lkReg 0x84))] }) ∧
    (L.running = true → impAt + 10000000 ≤ L.lt → ∃ t, exec (.impStale l) s = .next t ∧
      OnlyLaneRegs l [lkStat] s t ∧ (t.lane l).flag lkStat 14 = true) ∧
    (L.running = false ∨ L.lt < impAt + 10000000 → exec (.impStale l) s = .next s) ∧
    (dr → stopped = false → ∃ t, exec (.drTimeout l) s = .next t ∧ OnlyLane l s t ∧ SameMemory l s t ∧
      OnlyRegs l (lkStat :: evRegs) s t ∧ (t.lane l).flag lkStat 10 = true ∧ (t.lane l).lkp.cause = 2 ∧
      Raises l 71 1 0 2 s t) ∧
    (¬dr ∨ stopped = true → exec (.drTimeout l) s = .next s) ∧
    (L.lkp.req = none → L.lkRequest q = L) ∧
    (L.lkp.req = some 0 → (L.lkRequest q).lkMode = 0 ∧ (L.lkRequest q).lkp.req = none) ∧
    (∀ n, L.lkp.req = some n → n ≠ 0 → L.lkMode = 0 → L.actBad L.actTable = true →
      (L.lkRequest q).lkMode = 0 ∧ (L.lkRequest q).fld lkStat 2 3 = 1 ∧ (L.lkRequest q).lkp.req = none) ∧
    (∀ n, L.lkp.req = some n → n ≠ 0 → L.lkMode ≠ 0 → (n = 2 ∨ L.pathOk L.pathBase = true) →
      (L.fld lkStat 5 2 = 0 ∨ L.fld lkStat 7 2 = 0 ∨ L.flag lkStat 10 = true) → n ≤ 3 →
      (L.lkRequest q).lkMode = L.lkMode ∧ (L.lkRequest q).fld lkStat 2 3 = 3)

/-- R356, R357, R369: the cycle of an instant runs at most once, in RUN, and touches no other lane; past the bound of the
solve a cycle and its late report are one thing, counted and reported with E70, and a solve that is then still open ends
with no result; each iteration of the allocation keeps each
actuator's bounds, which lie within its rate of the output before. -/
def Sys2Proof.Claims.LineKeepingCycles : Prop :=
  ∀ (s : State) (l : LaneId) (v : Rat) (j : Nat) (xs : List Alloc) (wt tau : List Rat) (n : Nat) (z : LkSolve),
    let L := s.lane l
    let tk := L.lt / 500000 * 500000
    let late := s.modLane l (fun L => L.lkLate tk)
    (s.lkDue l = true → ∃ t, exec (.lkpCycle l) s = .next t ∧ OnlyLane l s t ∧ (t.lane l).lkp.t0 = tk) ∧
    (s.lkDue l = false → exec (.lkpCycle l) s = .next s) ∧
    (s.lkDue l = false → s.lkStuck l = false → exec (.lkpSolveLate l) s = .next s) ∧
    (s.lkOver l = true → s.lkDue l = false → s.lkStuck l = true → ∃ t, exec (.lkpSolveLate l) s = .next t ∧
      OnlyLane l s t ∧ (t.lane l).lkp.solve = none ∧ (t.lane l).flag lkStat 15 = true ∧
      (t.lane l).lkp.t0 = L.lkp.t0) ∧
    (s.lkOver l = false → exec (.lkpSolveLate l) s = .next s) ∧
    (s.lkDue l = true → s.lkOver l = true → ∃ t, exec (.lkpSolveLate l) s = .next t ∧
      exec (.lkpCycle l) s = .next t) ∧
    ((L.lkActs = [] → RaisesOnly l 70 4 0 0 [lkReg 0x114, lkStat] s late) ∧ (late.lane l).flag lkStat 15 = true ∧
      (L.lkp.acts.length ≤ 12 → (late.lane l).rd (lkReg 0x114) = satAdd (L.rd (lkReg 0x114)) 1)) ∧
    ((L.allocOf v j).p - f32 (wd (L.actD j) 3) / 200 ≤ (L.allocOf v j).lo ∧
      (L.allocOf v j).hi ≤ (L.allocOf v j).p + f32 (wd (L.actD j) 3) / 200) ∧
    (let ys := freeOne wt tau ((solveFree wt tau xs).map holdOut)
     ys.map Alloc.j = xs.map Alloc.j ∧ ys.map Alloc.lo = xs.map Alloc.lo ∧ ys.map Alloc.hi = xs.map Alloc.hi) ∧
    ((z.settle n).xs.map Alloc.j = z.xs.map Alloc.j ∧ (z.settle n).xs.map Alloc.lo = z.xs.map Alloc.lo ∧
      (z.settle n).xs.map Alloc.hi = z.xs.map Alloc.hi)

/-- R383 to R385, R391, R394 to R399: at a boundary the pending output is applied, the parameters are taken and the inputs
are sampled, or a loop without EN stops; an evaluation gives the output for the next boundary by the order of R398; one that
has not completed after 25 us is an overrun with E75; the standby lane's loops take the integrator and the model of the
active lane's. -/
def Obligations.LoopsRunAtTheirBoundaries : Prop :=
  ∀ (s : State) (l : LaneId) (k : Fin 64) (sense : Option Word) (sn : LoopSnap),
    let L := s.lane l
    let x := L.loop k
    let per := loopPer x.p * 1000
    let due := s.lpeRuns l = true ∧ x.run = true ∧ x.enAt < L.lt ∧ x.at_ ≠ L.lt ∧
      L.lt % per = loopOfs x.p * 1000
    let others := fun (t : State) => ∀ j, j ≠ k.val → (t.lane l).loop j = L.loop j
    let quiet := (L.lpe.dueAt k L.lt).1 = []
    (¬due → exec (.loopBoundary l k sense) s = .next s) ∧
    (due → ∃ t, exec (.loopBoundary l k sense) s = .next t ∧ OnlyLane l s t ∧ SameMemory l s t ∧ others t ∧
      ((t.lane l).loop k).at_ = L.lt ∧ ((t.lane l).loop k).pend = none ∧
      (∀ u, x.pend = some u → ((t.lane l).loop k).u = u ∧ ((t.lane l).loop k).live = true) ∧
      (x.pend = none → ((t.lane l).loop k).u = x.u) ∧
      (quiet → loopEn x.p = false → ((t.lane l).loop k).run = false ∧ ((t.lane l).loop k).snap = none) ∧
      (quiet → loopEn x.p = true → x.flag = false → ((t.lane l).loop k).run = true ∧
        ∃ w, ((t.lane l).loop k).snap = some w ∧ w.at_ = L.lt ∧ w.bad = ((t.lane l).loop k).bad)) ∧
    (x.snap = none → exec (.loopEvaluation l k) s = .next s ∧ exec (.loopOverrun l k) s = .next s) ∧
    (x.snap = some sn → s.lpeRuns l = true → L.lt ≤ sn.at_ + 2500 →
      ∃ t, exec (.loopEvaluation l k) s = .next t ∧ OnlyLane l s t ∧ SameMemory l s t ∧ others t ∧
        ((t.lane l).loop k).snap = none ∧
        (supEn x.p = false ∨ sn.bad = true →
          let o := x.evaluate sn
          ((t.lane l).loop k).pend = o.u ∧ ((t.lane l).loop k).e = o.e ∧ ((t.lane l).loop k).sat = o.sat ∧
            ((t.lane l).loop k).held = o.held ∧ loopGet ((t.lane l).loop k).p 15 = o.i) ∧
        (loopUnit x.p = none → (t.lane l).link = L.link)) ∧
    (x.snap = some sn → (s.lpeRuns l = false ∨ sn.at_ + 2500 < L.lt) →
      exec (.loopEvaluation l k) s = .next s) ∧
    (x.snap = some sn → s.lpeRuns l = true → sn.at_ + 2500 ≤ L.lt → ∃ t, exec (.loopOverrun l k) s = .next t ∧
      OnlyLane l s t ∧ SameMemory l s t ∧ OnlyRegs l ([0x400C0020, 0x400C0000] ++ evRegs) s t ∧ others t ∧
      (t.lane l).loop k = { x with snap := none } ∧ (t.lane l).rd 0x400C0020 = satAdd (L.rd 0x400C0020) 1 ∧
      (t.lane l).flag 0x400C0000 31 = true ∧ Raises l 75 0 k 0 s t) ∧
    (x.snap = some sn → (s.lpeRuns l = false ∨ L.lt < sn.at_ + 2500) → exec (.loopOverrun l k) s = .next s) ∧
    (x.flag = true → 2 ≤ x.act → (x.evaluate sn).u = some (loopGet x.p 16) ∧ (x.evaluate sn).held = true) ∧
    (x.flag = false → loopHold x.p = true → (x.evaluate sn).u = (if x.live then some x.u else none) ∧
      (x.evaluate sn).i = loopGet x.p 15) ∧
    (s.control = none → exec (.loopMirror) s = .next s) ∧
    (s.control = some l → s.lpeRuns l = true → s.lpeRuns (other l) = true → s.laneLink = true →
      L.lt % 100000 = 0 → ∃ t, exec (.loopMirror) s = .next t ∧ OnlyLane (other l) s t ∧
        (t.lane (other l)).regs = (s.lane (other l)).regs ∧ SameMemory (other l) s t ∧
        (x.run = true → ((s.lane (other l)).loop k).run = true →
          (t.lane (other l)).loop k = ((s.lane (other l)).loop k).mirror x) ∧
        ((x.run && ((s.lane (other l)).loop k).run) = false →
          (t.lane (other l)).loop k = (s.lane (other l)).loop k)) ∧
    (s.control = some l → (s.lpeRuns l && s.lpeRuns (other l) && s.laneLink && decide (L.lt % 100000 = 0)) = false →
      exec (.loopMirror) s = .next s)

/-- R514 to R519, R541: a frame is ignored while the port is not served, counted while the lane is busy, and else answered:
with the RESULT of the first check that fails, or with its opcode's response; a length that disagrees and a tag that fails
are counted, and an accepted request advances its session. -/
def Sys2Proof.Claims.CommandFramesAreAnswered : Prop :=
  ∀ (s : State) (l : LaneId) (f : List Byte) (stamp : BitVec 64) (b : Byte) (i : Instr) (op : Nat),
    (i, op) ∈ [(Instr.sessInit l f, 0x10), (Instr.sessFin l f, 0x11), (Instr.evRead l stamp f, 0x20),
      (Instr.ownRead l f, 0x21), (Instr.visRead l f, 0x22), (Instr.msgWrite l f, 0x30), (Instr.msgRead l f, 0x31),
      (Instr.corrFrame l f, 0x40), (Instr.tileTake l f, 0x50), (Instr.tileReq l f, 0x51), (Instr.tileAns l f, 0x52),
      (Instr.ldgRead l f, 0x60), (Instr.unknownOpcode l b f, b.toNat)] →
    (i = .unknownOpcode l b f → b ≠ 1 ∧ b ≠ 2 ∧ opLen b.toNat = none) →
    let L := s.lane l
    let fr := mkFrame op f
    let r := L.frameResult fr
    (s.hostServed l = false → exec i s = .next s) ∧
    (s.hostServed l = true → L.host.busy = true → ∃ t, exec i s = .next t ∧ OnlyLaneRegs l [0x40130038] s t ∧
      (t.lane l).rd 0x40130038 = satAdd (L.rd 0x40130038) 1) ∧
    (s.hostServed l = true → L.host.busy = false → r ≠ 0 → ∃ t, exec i s = .next t ∧ OnlyLane l s t ∧
      SameMemory l s t ∧ Replies l op r 0 t ∧
      (r = 9 → (t.lane l).rd 0x40130030 = satAdd (L.rd 0x40130030) 1) ∧
      (r = 4 → (t.lane l).rd 0x40130034 = satAdd (L.rd 0x40130034) 1) ∧
      (r ≠ 4 → r ≠ 5 → r ≠ 6 → r ≠ 10 → (t.lane l).host.sess = L.host.sess)) ∧
    (HostTakes s l op f → ∃ t, exec i s = .next t ∧ OnlyLane l s t ∧ (t.lane l).host.busy = true ∧
      (∃ q, (t.lane l).host.resp = some q ∧ q.op = op) ∧
      (∀ x, op ≠ 0x11 → fr.ses ≠ 0 → L.sess fr.ses = some x → x.n + 1 < 4294967296 →
        (t.lane l).sess fr.ses = some { x with
          n := x.n + 1
          fails := 0
          at_ := L.lt })) ∧
    (op = b.toNat → i = .unknownOpcode l b f → r = 9 ∨ r = 1)

/-- R513, R516, R521 to R524, R594 to R596, R599, R214, R215, R335, R336: what each opcode's request gives and does:
sessions open with a proof and end with SESS_FIN; entries, messages, tiles and ledger blocks that are not there give RESULT
7; a message or a tile goes into its slot; a correction frame into queue H. -/
def Sys2Proof.Claims.RequestsHaveTheirEffect : Prop :=
  ∀ (s : State) (l : LaneId) (f : List Byte) (stamp : BitVec 64) (a : Nat),
    let L := s.lane l
    let ses := fun (op : Nat) => (mkFrame op f).ses
    let pay := fun (op : Nat) => L.clearBody (mkFrame op f)
    let es := (L.ev.q.takeWhile (fun e => decide (e.stamp < stamp.toNat))).take (bytesNat (pay 0x20))
    let wr := L.fld 0x40130014 0 6
    let full := wr % 32 = L.fld 0x40130018 0 6 % 32 ∧ wr ≠ L.fld 0x40130018 0 6
    let rd := L.fld 0x40130028 0 6
    (HostTakes s l 0x10 f → L.hostProof (pay 0x10) = false → ∃ t, exec (.sessInit l f) s = .next t ∧
      Replies l 0x10 4 0 t ∧ Pends l 88 s t) ∧
    (HostTakes s l 0x10 f → L.hostProof (pay 0x10) = true → ses 0x10 = 0 →
      (∀ b ∈ ((pay 0x10).drop 129).take 3, b = 0) → ∀ n, L.freeSess = some n →
      ∃ t, exec (.sessInit l f) s = .next t ∧ Replies l 0x10 0 0 t ∧ (t.lane l).flag 0x40150004 (7 + n) = true ∧
        (∃ x, (t.lane l).sess n = some x ∧ x.n = 0 ∧ x.at_ = L.lt) ∧ Raises l 88 1 n 0 s t) ∧
    (HostTakes s l 0x11 f → ∃ t, exec (.sessFin l f) s = .next t ∧ Replies l 0x11 0 0 t ∧
      (t.lane l).sess (ses 0x11) = none) ∧
    (HostTakes s l 0x20 f → bytesNat (pay 0x20) < 1 ∨ 64 < bytesNat (pay 0x20) →
      ∃ t, exec (.evRead l stamp f) s = .next t ∧ Replies l 0x20 2 0 t) ∧
    (HostTakes s l 0x20 f → 1 ≤ bytesNat (pay 0x20) → bytesNat (pay 0x20) ≤ 64 →
      ∃ t, exec (.evRead l stamp f) s = .next t ∧ (es = [] → Replies l 0x20 7 0 t) ∧
        (es ≠ [] → Replies l 0x20 0 1 t ∧ ∃ q, (t.lane l).host.resp = some q ∧ q.n = es.length)) ∧
    (HostTakes s l 0x21 f → ∃ t, exec (.ownRead l f) s = .next t ∧ Replies l 0x21 0 0 t) ∧
    (HostTakes s l 0x22 f → ∃ t, exec (.visRead l f) s = .next t ∧ Replies l 0x22 0 0 t) ∧
    (HostTakes s l 0x30 f → L.msgSlot 0x40130010 wr = some a → ¬full → ∃ t, exec (.msgWrite l f) s = .next t ∧
      Replies l 0x30 0 0 t ∧ (t.lane l).fld 0x40130014 0 6 = (wr + 1) % 64 ∧
      (t.lane l).bytes a (4 + (pay 0x30).length) = natBytes (pay 0x30).length 4 ++ pay 0x30 ∧
      ∀ k, k < a ∨ a + 4 + (pay 0x30).length ≤ k → t.byte l k = s.byte l k) ∧
    (HostTakes s l 0x30 f → L.msgSlot 0x40130010 wr = some a → full → ∃ t, exec (.msgWrite l f) s = .next t ∧
      Replies l 0x30 8 0 t ∧ SameMemory l s t ∧ (t.lane l).rd 0x40130014 = L.rd 0x40130014) ∧
    (HostTakes s l 0x31 f → L.fld 0x40130024 0 6 = rd → ∃ t, exec (.msgRead l f) s = .next t ∧
      Replies l 0x31 7 0 t) ∧
    (HostTakes s l 0x31 f → L.fld 0x40130024 0 6 ≠ rd → L.msgSlot 0x40130020 rd = some a →
      bitOf (L.word a) 16 = false → ∃ t, exec (.msgRead l f) s = .next t ∧ Replies l 0x31 0 2 t ∧
        (t.lane l).fld 0x40130028 0 6 = rd) ∧
    (HostTakes s l 0x40 f → 2048 < L.gns.hBytes + (pay 0x40).length → ∃ t, exec (.corrFrame l f) s = .next t ∧
      Replies l 0x40 8 0 t ∧ (t.lane l).gns = L.gns) ∧
    (HostTakes s l 0x40 f → L.gns.hBytes + (pay 0x40).length ≤ 2048 →
      frameOk (pay 0x40) (pay 0x40).length = true → ∃ t, exec (.corrFrame l f) s = .next t ∧
        Replies l 0x40 0 0 t ∧ (t.lane l).gns.frames = L.gns.frames ++ [(true, pay 0x40)]) ∧
    (HostTakes s l 0x50 f → ∃ t, exec (.tileTake l f) s = .next t ∧ SameMemory l s t ∧
      (ringUsed (L.rd 0x4007003C) (L.rd 0x40070040) = 0 → Replies l 0x50 7 0 t) ∧
      (ringUsed (L.rd 0x4007003C) (L.rd 0x40070040) ≠ 0 → Replies l 0x50 0 3 t)) ∧
    (HostTakes s l 0x51 f → ∃ t, exec (.tileReq l f) s = .next t ∧ SameMemory l s t ∧
      (L.tileSlotDone = none → Replies l 0x51 7 0 t) ∧ (L.tileSlotDone ≠ none → Replies l 0x51 0 0 t)) ∧
    (HostTakes s l 0x52 f → L.tileSlotDone = none → ∃ t, exec (.tileAns l f) s = .next t ∧ SameMemory l s t ∧
      Replies l 0x52 8 0 t) ∧
    (HostTakes s l 0x52 f → L.tileSlotDone = some a → L.servesAll .section_ a (pay 0x52).length = true →
      ∃ t, exec (.tileAns l f) s = .next t ∧ Replies l 0x52 0 0 t ∧
        (t.lane l).bytes a (pay 0x52).length = pay 0x52 ∧
        (t.lane l).rd 0x40070048 = ringNext (L.rd 0x40070048)) ∧
    (HostTakes s l 0x60 f → ∃ t, exec (.ldgRead l f) s = .next t ∧ SameMemory l s t ∧
      (L.vault.idx ≤ L.vault.taken → Replies l 0x60 7 0 t) ∧
      (L.vault.taken < L.vault.idx → Replies l 0x60 0 4 t ∧ (t.lane l).vault.taken = L.vault.taken))

/-- R517 to R521, R596: STATUS answers at once; a complete FETCH frees what its response read and empties the port, an
incomplete one changes nothing of that; a response becomes ready; an attention pulse is owed by an event that came while
HRDY was high, and holds HRDY low; a session without a request for 30 s closes with E88. -/
def Sys2Proof.Claims.ResponsesAndAttention : Prop :=
  ∀ (s : State) (l : LaneId) (c : Bool) (n : Fin 4) (r : Resp),
    let L := s.lane l
    let on := s.hostServed l = true ∧ L.host.busy = false
    let ready := s.hrdy l = true ∧ L.ev.owed = true
    let late := ∃ x, L.sess (n.val + 1) = some x ∧ x.at_ + 3000000000 ≤ L.lt
    (s.hostServed l = false → exec (.statusFrame l) s = .next s ∧ exec (.fetch l c) s = .next s) ∧
    (s.hostServed l = true → L.host.busy = true → ∃ t, exec (.statusFrame l) s = .next t ∧
      exec (.fetch l c) s = .next t ∧ OnlyLaneRegs l [0x40130038] s t ∧
      (t.lane l).rd 0x40130038 = satAdd (L.rd 0x40130038) 1) ∧
    (on → ∃ t, exec (.statusFrame l) s = .next t ∧ OnlyLane l s t ∧
      t.lane l = { L with host := { L.host with out := L.statusWord l } }) ∧
    (on → L.host.resp = none → ∃ t, exec (.fetch l c) s = .next t ∧ OnlyLane l s t ∧
      t.lane l = { L with host := { L.host with out := [0x02, 0, 0, 0, 0, 7, 0, 0] } }) ∧
    (on → L.host.resp = some r → ∃ t, exec (.fetch l false) s = .next t ∧ OnlyLane l s t ∧
      t.lane l = { L with host := { L.host with out := r.bytes } }) ∧
    (on → L.host.resp = some r → ∃ t, exec (.fetch l true) s = .next t ∧ OnlyLane l s t ∧ SameMemory l s t ∧
      (t.lane l).host.out = r.bytes ∧ (t.lane l).host.resp = none ∧ (t.lane l).host.busy = false ∧
      (r.act = 0 → (t.lane l).ev.q = L.ev.q ∧ (t.lane l).regs = L.regs) ∧
      (r.act = 1 → (t.lane l).ev.q = L.ev.q.drop r.n ∧ (t.lane l).regs = L.regs) ∧
      (r.act = 2 → (t.lane l).fld 0x40130028 0 6 = (L.fld 0x40130028 0 6 + 1) % 64) ∧
      (r.act = 3 → (t.lane l).rd 0x40070040 = ringNext (L.rd 0x40070040)) ∧
      (r.act = 4 → (t.lane l).vault.taken = L.vault.taken + 1)) ∧
    (L.host.busy = false → exec (.responseReady l) s = .next s) ∧
    (L.host.busy = true → ∃ t, exec (.responseReady l) s = .next t ∧ OnlyLane l s t ∧ SameMemory l s t ∧
      (t.lane l).regs = L.regs ∧ (t.lane l).host.busy = false ∧ (t.lane l).host.resp = L.host.resp ∧
      (t.lane l).ev = { L.ev with owed := false } ∧
      (L.host.restart = true → L.host.restartAt = none →
        (t.lane l).host.restartAt = some (L.lt + 10000000))) ∧
    (ready → ∃ t, exec (.attentionPulse l) s = .next t ∧ OnlyLane l s t ∧ t.hrdy l = false ∧
      t.lane l = { L with ev := { L.ev with
        owed := false
        pulse := true } }) ∧
    (¬ready → exec (.attentionPulse l) s = .next s) ∧
    (∃ t, exec (.attentionPulseEnd l) s = .next t ∧ OnlyLane l s t ∧
      t.lane l = { L with ev := { L.ev with pulse := false } } ∧ (on → t.hrdy l = true)) ∧
    (late → ∃ t, exec (.sessionTimeout l n) s = .next t ∧ OnlyLane l s t ∧ SameMemory l s t ∧
      (t.lane l).sess (n.val + 1) = none ∧ (t.lane l).flag 0x40150004 (8 + n.val) = false ∧
      OnlyRegs l (0x40150004 :: evRegs) s t ∧ Raises l 88 2 (n.val + 1) 0 s t) ∧
    (¬late → exec (.sessionTimeout l n) s = .next s)

/-- R611 to R614: BEGIN gives the first UCODE that refuses it, or opens a transfer; DATA in the loader programs the block at
its offset, which must be the next; END of a complete transfer restarts the lane, whose reset names cause 7; QUERY changes
nothing of the transfer; and the restart that an accepted BEGIN asked for takes place once it is due. A restart leaves the
partner but for its measurement of the lane, where the lane is not in control; one in control gives it up. -/
def Sys2Proof.Claims.UpdatesRunInTheLoader : Prop :=
  ∀ (s : State) (l : LaneId) (f : List Byte) (vlog : Nat) (vbat : List Nat),
    let L := s.lane l
    let fr := mkFrame 0x70 f
    let pay := L.clearBody fr
    let word := fun (o : Nat) => bytesNat ((pay.drop o).take 4)
    let sub := fun (k : Nat) => HostTakes s l 0x70 f ∧ pay.getD 0 0 = BitVec.ofNat 8 k ∧
      (∀ b ∈ (pay.drop 1).take 3, b = 0)
    let code := s.beginCode l (word 4) (word 8) (s.lowSupply vlog vbat)
    let bs := pay.drop 8
    let due := ∃ q, L.host.restartAt = some q ∧ L.running = true ∧ L.host.restart = true ∧ q ≤ L.lt
    let x := s.lane (other l)
    let apart := fun (t : State) => s.isActive l = false → t.rind.regs = s.rind.regs ∧ t.rind.steer = s.rind.steer ∧
      t.lane (other l) = { x with time := { x.time with peerGood := 0 } }
    (s.hostServed l = false → exec (.updBegin l f vlog vbat) s = .next s ∧ exec (.updData l f vlog vbat) s = .next s ∧
      exec (.updEnd l f) s = .next s ∧ exec (.updQuery l f) s = .next s) ∧
    (sub 1 → pay.length = 12 → code ≠ 0 → ∃ t, exec (.updBegin l f vlog vbat) s = .next t ∧ OnlyLane l s t ∧
      Replies l 0x70 0 0 t ∧ SameMemory l s t ∧ (t.lane l).host.upd = L.host.upd ∧
      (t.lane l).host.restart = L.host.restart) ∧
    (sub 1 → pay.length = 12 → code = 0 → ∃ t, exec (.updBegin l f vlog vbat) s = .next t ∧ OnlyLane l s t ∧
      Replies l 0x70 0 0 t ∧ SameMemory l s t ∧ (t.lane l).host.restart = L.running ∧
      ∃ u, (t.lane l).host.upd = some u ∧ u.total = word 4 ∧ u.got = 0) ∧
    (sub 2 → 9 ≤ pay.length → L.running = true → ∃ t, exec (.updData l f vlog vbat) s = .next t ∧
      Replies l 0x70 0 0 t ∧ SameMemory l s t ∧ (t.lane l).host.upd = L.host.upd) ∧
    (∀ u, sub 2 → 9 ≤ pay.length → L.running = false → L.updOf fr.ses = some u → word 4 = u.got →
      word 4 % 4096 = 0 → word 4 + bs.length ≤ u.total → s.lowSupply vlog vbat = false →
      ∃ t, exec (.updData l f vlog vbat) s = .next t ∧ OnlyLane l s t ∧ Replies l 0x70 0 0 t ∧
        (t.lane l).sram = L.sram ∧ (t.lane l).die (0x100000 + word 4) bs.length = bs ∧
        (∀ k, k < 0x100000 + word 4 ∨ 0x100000 + word 4 + max 4096 bs.length ≤ k →
          Flash.get (t.lane l).flash k = Flash.get L.flash k) ∧
        (t.lane l).host.upd = some ⟨u.total, u.got + bs.length, some fr.ses⟩) ∧
    (∀ u, sub 2 → 9 ≤ pay.length → L.running = false → L.updOf fr.ses = some u →
      (word 4 ≠ u.got ∨ word 4 % 4096 ≠ 0) → ∃ t, exec (.updData l f vlog vbat) s = .next t ∧
        Replies l 0x70 0 0 t ∧ SameMemory l s t ∧ (t.lane l).host.upd = L.host.upd) ∧
    (∀ u, sub 3 → pay.length = 4 → L.running = false → L.updOf fr.ses = some u → u.total ≤ u.got →
      ∃ t, exec (.updEnd l f) s = .next t ∧ (t.lane l).alive = false ∧ (t.lane l).flash = L.flash ∧
        (t.lane l).fld 0x40000010 8 4 = 7 ∧ (t.lane l).linkUp = false ∧ apart t) ∧
    (∀ u, sub 3 → pay.length = 4 → L.running = false → L.updOf fr.ses = some u → u.got < u.total →
      ∃ t, exec (.updEnd l f) s = .next t ∧ OnlyLane l s t ∧ Replies l 0x70 0 0 t ∧
        (t.lane l).host.upd = L.host.upd) ∧
    (sub 4 → pay.length = 4 → ∃ t, exec (.updQuery l f) s = .next t ∧ OnlyLane l s t ∧ Replies l 0x70 0 0 t ∧
      SameMemory l s t ∧ (t.lane l).host.upd = L.host.upd) ∧
    (due → ∃ t, exec (.loaderRestart l) s = .next t ∧ (t.lane l).alive = false ∧ (t.lane l).vault.loader = true ∧
      (t.lane l).fld 0x40000010 8 4 = 7 ∧ (t.lane l).linkUp = false ∧ apart t ∧
      (s.isActive l = true → L.flag 0x40140004 5 = false → t.rind.flag 0x204 (4 + laneNo l) = true)) ∧
    (¬due → exec (.loaderRestart l) s = .next s)

/-- R528 to R535: the management port reads any register and writes MG_ADDR, MG_VAL and MG_TAG only; MG_GO uses up its nonce
and gives RES 4 while locked, 3 without a key, counts a tag that fails, locks the port for 10 s after eight in a row, and
else writes the register that MG_ADDR names, with RES 1 for any other; the lock ends at its time. -/
def Sys2Proof.Claims.ManagementWritesAreProtected : Prop :=
  ∀ (s : State) (addr : BitVec 16) (data : List Byte) (n : Nat) (key : List Byte),
    let r := s.rind
    let m := r.mgmt
    let still := s.power = 0 ∧ r.trans = none
    let ok := r.mgGiven = r.mgTag key
    let a := r.fld 0x70 0 16
    let v := r.rd 0x74
    let fails := r.fld 0x8C 8 4 + 1
    let res := fun (t : State) => t.rind.fld 0x8C 12 4
    (still → ∃ t, exec (.mgmtRead addr n) s = .next t ∧ OnlyRind s t ∧ t.rind.regs = r.regs ∧
      t.rind.mgmt.readBack = (List.range n).map (fun i => s.rindRead ((addr.toNat + 4 * i) % 65536))) ∧
    (still → (∀ i, i < data.length / 4 → (addr.toNat + 4 * i) % 65536 ≠ 0x88) →
      ∃ t, exec (.mgmtWrite addr data) s = .next t ∧ OnlyRindWords [0x70, 0x74, 0x78, 0x7C, 0x80, 0x84] s t) ∧
    (still → addr.toNat = 0x74 → data.length = 4 → ∃ t, exec (.mgmtWrite addr data) s = .next t ∧
      t.rind.rd 0x74 = bytesWord data ∧ OnlyRindWords [0x74] s t) ∧
    (still → addr.toNat = 0x88 → data.length = 4 → exec (.mgmtWrite addr data) s = exec (.mgGo) s) ∧
    (∃ t, exec (.mgGo) s = .next t ∧ t.rind.mgmt.nonce = m.nonce + 1) ∧
    (m.lockUntil.isSome = true → ∃ t, exec (.mgGo) s = .next t ∧ OnlyRind s t ∧ OnlyRindRegs [0x8C] s t ∧
      res t = 4 ∧ t.rind.flag 0x8C 1 = false) ∧
    (m.lockUntil = none → m.key = none → ∃ t, exec (.mgGo) s = .next t ∧ OnlyRind s t ∧
      OnlyRindRegs [0x8C] s t ∧ res t = 3 ∧ t.rind.flag 0x8C 1 = false) ∧
    (m.lockUntil = none → m.key = some key → ¬ok → ∃ t, exec (.mgGo) s = .next t ∧ t.die = s.die ∧
      OnlyRindRegs [0x8C] s t ∧ LanesOnlyRegs [] s t ∧ t.rind.flag 0x8C 2 = true ∧
      t.rind.fld 0x8C 8 4 = min 8 fails ∧ (∀ l, (s.lane l).running = true → Raises l 89 4 0 0 s t) ∧
      (8 ≤ fails → t.rind.mgmt.lockUntil = some (s.die.replica + 1000000000) ∧ t.rind.flag 0x8C 3 = true) ∧
      (fails < 8 → t.rind.mgmt.lockUntil = none)) ∧
    (m.lockUntil = none → m.key = some key → ok → a ≠ 0x100 → a ≠ 0x90 → a ≠ 0x94 → a ≠ 0x98 →
      ∃ t, exec (.mgGo) s = .next t ∧ OnlyRind s t ∧ OnlyRindRegs [0x8C] s t ∧ res t = 1 ∧
        t.rind.flag 0x8C 1 = true ∧ t.rind.fld 0x8C 8 4 = 0) ∧
    (m.lockUntil = none → m.key = some key → ok → a = 0x90 → fieldNat v 0 2 = 3 →
      ∃ t, exec (.mgGo) s = .next t ∧ OnlyRind s t ∧ OnlyRindRegs [0x8C] s t ∧ res t = 2) ∧
    (m.lockUntil = none → m.key = some key → ok → a = 0x90 → fieldNat v 0 2 = 0 →
      ∃ t, exec (.mgGo) s = .next t ∧ OnlyRind s t ∧ OnlyRindRegs [0x8C, 0x90] s t ∧ res t = 0 ∧
        t.rind.fld 0x90 0 2 = 0) ∧
    (m.lockUntil = none → m.key = some key → ok → a = 0x90 → fieldNat v 0 2 = 2 → s.isActive .b = false →
      s.laneOff .b = false → ∃ t, exec (.mgGo) s = .next t ∧
        t.laneA = { s.laneA with time := { s.laneA.time with peerGood := 0 } } ∧ t.laneB.alive = false ∧
        t.laneB.fld 0x40000010 8 4 = 8 ∧ t.rind.fld 0x90 0 2 = 2 ∧ res t = 0) ∧
    (m.lockUntil = none → m.key = some key → ok → a = 0x98 → fieldNat v 0 2 ≠ 0 → ∃ t, exec (.mgGo) s = .next t ∧
      OnlyRind s t ∧ res t = 0 ∧ t.rind.mgmt.eDraw = m.eDraw + 1 ∧
      (∀ k, k < 8 → t.rind.rd (0xA0 + 4 * k) = Config.energy m.eDraw k) ∧
      t.rind.mgmt.eFrom = (if bitOf v 1 then s.die.replica else m.eFrom)) ∧
    (∀ q, m.lockUntil = some q → q ≤ s.die.replica → ∃ t, exec (.mgLockExpiry) s = .next t ∧
      OnlyRind s t ∧ OnlyRindRegs [0x8C] s t ∧ t.rind.mgmt = { m with lockUntil := none } ∧
      t.rind.flag 0x8C 3 = false ∧ t.rind.fld 0x8C 8 4 = 0) ∧
    ((∀ q, m.lockUntil = some q → s.die.replica < q) → exec (.mgLockExpiry) s = .next s)

/-! ### The whole machine -/

/-- The commands wait first in, first out: a step takes the command at the front of the queue and runs it on the state
with the queue's rest; a command put in front is the next to run; a word spells no command, since the table gives no
bits. -/
def Obligations.StepRunsTheFrontCommand : Prop :=
  (∀ (s : State) (c : Instr) (rest : List Instr), s.pending = c :: rest →
    step s = exec c { s with pending := rest }) ∧
  (∀ (s : State) (c : Instr), step (s.withCommand c) = exec c s) ∧
  (∀ (s : State) (nbits w : Nat), decodeTableWord nbits w = none ∧ s.withFetchWord nbits w = s)

/-- The model's choice (log entries 2, 9): on an empty queue time passes and no command takes effect: the replica and the time
of each lane that counts run on by what the rules of rate and slew give (R65, R74, R76, R79, R80, R82); the queue stays empty,
and while no lane has cause to wake the module, memory, steering, outputs and the rind's registers stay, and the contexts and
registers of each lane but for the wheels that a running fusion class reads (R266). -/
def Sys2Proof.Claims.AnEmptyQueueLetsTimePass : Prop :=
  ∀ (s : State), s.pending = [] → ∃ t, step s = .next t ∧ t.pending = [] ∧
    (let n := if s.power = 2 then 5 else 1
     let ran := fun (d : Rat) (was : Nat) => (was + d.floor.toNat) % 2 ^ 64
     let quiet := (s.power = 0 ∧ s.rind.trans = none) ∨
       (s.runOn.laneWakes .a = false ∧ s.runOn.laneWakes .b = false)
     quiet →
       t.die.units = s.die.units ∧ t.die.sw = s.die.sw ∧ t.die.cmds = s.die.cmds ∧ t.rind.steer = s.rind.steer ∧
       t.rind.regs = s.rind.regs ∧ t.control = s.control ∧ t.laneLink = s.laneLink ∧
       (s.tcxo = true → t.die.replica = ran (s.die.sub + s.replicaStep n) s.die.replica) ∧
       (s.tcxo = false → t.die.replica =
         if s.rind.holdEmpty then s.die.replica else ran (s.die.sub + s.rind.period) s.die.replica) ∧
       ∀ l, SameMemory l s t ∧
         (t.lane l).lt = (if (s.lane l).alive = true ∧ s.tcxo = true then
           ran ((s.lane l).time.sub + s.ltStep l n) (s.lane l).lt else (s.lane l).lt) ∧
         (s.standsBy l = false → (s.lane l).ownRate = 0 → s.ltStep l n = n) ∧
         ((s.power = 0 → (s.lane l).flag 0x40080000 0 = false ∧ (s.lane l).flag 0x40080000 1 = false) →
           (t.lane l).ctxs = (s.lane l).ctxs ∧ (t.lane l).regs = (s.lane l).regs))

/-- R11, R45, R49, R72, R573 and log entry 5 on reset values: before the first power-up both lanes are held in
reset with every context FREE and its registers zero, no lane holds control, every unit is steered to lane A with its
output off, no switch conducts, nothing is stored and no command waits. -/
def Obligations.ResetLeavesTheModuleAtRest : Prop :=
  let s := State.reset
  s.pending = [] ∧ s.control = none ∧ s.laneLink = false ∧ s.die.cmds = ⟨[], []⟩ ∧ s.die.due = ⟨[], []⟩ ∧
    s.rind.vlogOk = false ∧ s.rind.holdEmpty = true ∧ (∀ u, s.steer u = 0) ∧
    (∀ u, (s.die.unit u).line = false ∧ (s.die.unit u).gh = false ∧ (s.die.unit u).gl = false ∧
      (s.die.unit u).run = false) ∧
    (∀ n, (s.die.swt n).ph = 0 ∧ (s.die.swt n).inp = false) ∧
    (∀ l, (s.lane l).phase = .off ∧ (s.lane l).lt = 0 ∧ (s.lane l).link = [] ∧
      (∀ c, (s.ctxOf l c).st = .free ∧ (∀ r, (s.ctxOf l c).rx r = 0) ∧ (s.ctxOf l c).flg = 0) ∧
      ∀ a, s.byte l a = 0 ∧ Flash.get (s.lane l).flash a = 0xFF) ∧
    (∀ l a, s.reg l a = fldsReset (laneFlds a)) ∧ ∀ a, s.rind.rd a = fldsReset (rindFlds a)

/-- What R410 says of a bridge's gates, with the dead time that waits to end: never both gates on, and the gate that
waits has the other one off. -/
def GatesApart (p : Machine.PUnit) : Prop :=
  ¬(p.gh = true ∧ p.gl = true) ∧ p.wait ≤ 2 ∧ (p.wait = 1 → p.gl = false) ∧ (p.wait = 2 → p.gh = false)

/-- No unit has both gates on. -/
def NoShootThrough (s : State) : Prop := ∀ u, GatesApart (s.die.unit u)

/-- R20, R538: a steering setting is a port or DIRECT, and DIRECT only of an H-class channel. -/
def LegalSteering (s : State) : Prop := ∀ u, s.steer u ≤ 2 ∧ (s.steer u = 2 → 192 ≤ u ∧ u < 208)

/-- The memories of both lanes are in canonical form: equal memories are equal lists. -/
def CanonicalMemory (s : State) : Prop :=
  ∀ l, Memory.wf (s.lane l).sram = true ∧ Tab.wf (s.lane l).flash 0xFF = true

/-- R410: from every state in which no bridge has both gates on, no step, whatever the command, turns both on. -/
def Obligations.NoStepTurnsBothGatesOn : Prop :=
  ∀ s t : State, NoShootThrough s → step s = .next t → NoShootThrough t

/-- R20: from every state whose steering settings are legal, every step leaves them legal. -/
def Obligations.SteeringStaysLegal : Prop :=
  ∀ s t : State, LegalSteering s → step s = .next t → LegalSteering t

/-- Every step keeps the memories of both lanes in canonical form. -/
def Obligations.MemoriesStayCanonical : Prop :=
  ∀ s t : State, CanonicalMemory s → step s = .next t → CanonicalMemory t

/-- The state after reset meets the three invariants. -/
def Obligations.ResetMeetsTheInvariants : Prop :=
  NoShootThrough State.reset ∧ LegalSteering State.reset ∧ CanonicalMemory State.reset

/-- The instruction names no master that writes the same bytes in its cycle; a word says nothing of one. -/
def noClash (i : Instr) : Prop :=
  match i with
  | .sb _ _ _ _ _ k | .sh _ _ _ _ _ k | .sw _ _ _ _ _ k | .sdp _ _ _ _ _ k | .fsw _ _ _ _ _ k
  | .vst _ _ _ _ _ k => k = []
  | _ => True

/-- R136, R137: for every well-formed instruction of a context, with every operand at every value its row admits, there
is exactly one word that spells it; a word that spells an instruction spells a well-formed one of that context. -/
def Obligations.EveryInstructionHasExactlyOneWord : Prop :=
  (∀ (i : Instr) (l : LaneId) (c : CtxNo), issuerOf i = some (l, c) → i.wf = true → noClash i →
    ∃ w, decodeKfx l c w = some i ∧ ∀ v, decodeKfx l c v = some i → v = w) ∧
  (∀ (l : LaneId) (c : CtxNo) (w : Word) (i : Instr), decodeKfx l c w = some i →
    issuerOf i = some (l, c) ∧ i.wf = true ∧ noClash i)

/-- A command acts on everything but the queue: the commands that wait still wait, in their order. -/
def Obligations.CommandsLeaveTheQueueAlone : Prop :=
  ∀ (i : Instr) (s t : State), exec i s = .next t → t.pending = s.pending

/-! ### The statements that have several parts -/

/-- Choices of the model: the idle step, and register commands outside the register blocks (log entries 2 and 4).  Each part cites its rules. -/
def Obligations.AnEmptyQueueLetsTimePass : Prop :=
  Sys2Proof.Claims.RegisterCommandsOutsideTheBlocksStop ∧
    Sys2Proof.Claims.AnEmptyQueueLetsTimePass

/-- Integer, product, quotient and immediate instructions write their result and nothing else.  Each part cites its rules. -/
def Obligations.IntegerInstructionsWriteTheirResult : Prop :=
  Sys2Proof.Claims.IntegerInstructionsWriteTheirResult ∧
    Sys2Proof.Claims.ProductsAndQuotients ∧
    Sys2Proof.Claims.ImmediateInstructionsWriteTheirResult

/-- Float instructions write their result under FLG.RM and set their sticky bits.  Each part cites its rules. -/
def Obligations.FloatInstructionsWriteTheirResult : Prop :=
  Sys2Proof.Claims.FloatInstructionsWriteTheirResult ∧
    Sys2Proof.Claims.FloatComparisonsAndConversions

/-- NaN results are the canonical NaN, and results that binary32 holds exactly are exact.  Each part cites its rules. -/
def Obligations.FloatResultsAreCanonicalOrExact : Prop :=
  Sys2Proof.Claims.NaNResultsAreCanonical ∧
    Sys2Proof.Claims.ExactFloatResultsAreExact

/-- Vector instructions act on every element, and Q16.16 results saturate.  Each part cites its rules. -/
def Obligations.VectorInstructionsActOnEveryElement : Prop :=
  Sys2Proof.Claims.VectorInstructionsActOnEveryElement ∧
    Sys2Proof.Claims.VectorElementsMoveAndCombine

/-- Loads from SRAM, flash, the context file and the register blocks.  Each part cites its rules. -/
def Obligations.LoadsTakeTheBytesAtTheirAddress : Prop :=
  Sys2Proof.Claims.LoadsTakeTheBytesAtTheirAddress ∧
    Sys2Proof.Claims.LoadsBeyondSram

/-- Stores write their own bytes and no others; colliding stores keep the priority port.  Each part cites its rules. -/
def Obligations.StoresWriteTheirBytesAndNoOthers : Prop :=
  Sys2Proof.Claims.StoresWriteTheirBytesAndNoOthers ∧
    Sys2Proof.Claims.CollidingStoresKeepThePriorityPort

/-- The first cause that an access meets is its fault, and a faulting instruction changes nothing.  Each part cites its rules. -/
def Obligations.DataAccessFaultsArePrecise : Prop :=
  Sys2Proof.Claims.DataAccessCausesInOrder ∧
    Sys2Proof.Claims.RegionsGrantAccess ∧
    Sys2Proof.Claims.MemoryFaultsArePrecise

/-- Fetch faults, ILLEGAL fields, and the lane fault of context 0.  Each part cites its rules. -/
def Obligations.FetchAndIllegalFaultsComeFirst : Prop :=
  Sys2Proof.Claims.FetchFaultsComeFirst ∧
    Sys2Proof.Claims.IllegalFieldsFault ∧
    Sys2Proof.Claims.FaultsOfContextZeroResetTheLane

/-- Context commands make the transitions of the table, and a leaving context abandons its locks.  Each part cites its rules. -/
def Obligations.ContextCommandsFollowTheTable : Prop :=
  Sys2Proof.Claims.ContextCommandsFollowTheTable ∧
    Sys2Proof.Claims.LocksOfALeavingContextAreAbandoned

/-- The system instructions and ctxc.  Each part cites its rules. -/
def Obligations.SystemInstructionsAct : Prop :=
  Sys2Proof.Claims.SystemInstructionsAct ∧
    Sys2Proof.Claims.CtxcTellsWhetherTheCommandWasIgnored

/-- Waits that are met go on, others wait, and what ends a wait reaches the waiter.  Each part cites its rules. -/
def Obligations.WaitsFollowTheirConditions : Prop :=
  Sys2Proof.Claims.MetWaitsGoOn ∧
    Sys2Proof.Claims.UnmetWaitsWait ∧
    Sys2Proof.Claims.WaitersReceiveWhatTheyWaitFor

/-- edge and pair send commands; curd enters an edge or says why not; set, drain and crdst complete.  Each part cites its rules. -/
def Obligations.EdgesPairsAndCurds : Prop :=
  Sys2Proof.Claims.EdgeAndPairSendCommands ∧
    Sys2Proof.Claims.CurdEntersAnEdgeOrSaysWhyNot ∧
    Sys2Proof.Claims.HandleCommandsComplete

/-- set, drain and crdst act on the edge that a handle names, and refuse what is no handle.  Each part cites its rules. -/
def Obligations.HandlesResolveEdges : Prop :=
  Sys2Proof.Claims.HandlesResolveEdges ∧
    Sys2Proof.Claims.SpeculationRefusesBadOperands

/-- Matrix commands are queued under tickets, wait for room, and complete with a status.  Each part cites its rules. -/
def Obligations.MatrixCommandsRunUnderTickets : Prop :=
  Sys2Proof.Claims.MatrixCommandsAreQueuedUnderTickets ∧
    Sys2Proof.Claims.MatrixCommandsComplete ∧
    Sys2Proof.Claims.WaitingEngineCommandsAreAccepted

/-- Register writes and clearing reads follow the access codes; reads of the time latch one instant.  Each part cites its rules. -/
def Obligations.RegistersFollowTheirAccessCodes : Prop :=
  Sys2Proof.Claims.RegistersFollowTheirAccessCodes ∧
    Sys2Proof.Claims.TimeReadsLatchOneInstant

/-- SRAM banks change their owner in a hand-over, or refuse it with OWN_BUSY.  Each part cites its rules. -/
def Obligations.BanksChangeTheirOwner : Prop :=
  Sys2Proof.Claims.BanksChangeTheirOwner

/-- Banks change their power mode, and the scrubber corrects and reports errors.  Each part cites its rules. -/
def Obligations.BanksKeepPowerAndSoundWords : Prop :=
  Sys2Proof.Claims.BanksChangeTheirPowerMode ∧
    Sys2Proof.Claims.TheScrubberCorrectsAndReports

/-- RESET_N, the loss and return of VLOG, and the crystal.  Each part cites its rules. -/
def Obligations.ResetsAndSupplies : Prop :=
  Sys2Proof.Claims.ResetNHoldsTheModule ∧
    Sys2Proof.Claims.SuppliesFailAndReturn ∧
    Sys2Proof.Claims.TheCrystalFailsAndReturns

/-- Power targets, transitions, wakes and the wake filters of the CAN buses.  Each part cites its rules. -/
def Obligations.PowerTargetsAndWakes : Prop :=
  Sys2Proof.Claims.PowerTargetsAreRefusedOrTaken ∧
    Sys2Proof.Claims.PowerTransitionsAndWakes ∧
    Sys2Proof.Claims.CanBusesWakeTheModule

/-- Lanes reset themselves, leave reset and boot.  Each part cites its rules. -/
def Obligations.LanesResetAndBoot : Prop :=
  Sys2Proof.Claims.LanesResetThemselves ∧
    Sys2Proof.Claims.LanesLeaveResetAndBoot

/-- Enrolment happens once, monotonic counters never fall, ledger blocks are sealed in order.  Each part cites its rules. -/
def Obligations.EnrolmentCountersAndLedger : Prop :=
  Sys2Proof.Claims.EnrolmentHappensOnce ∧
    Sys2Proof.Claims.MonotonicCountersNeverFall ∧
    Sys2Proof.Claims.LedgerBlocksAreSealedInOrder

/-- Debug unlock by the enrolled root, and writes of configuration and program data to flash.  Each part cites its rules. -/
def Obligations.DebugUnlockAndFlashWrites : Prop :=
  Sys2Proof.Claims.DebugUnlocksByTheEnrolledRoot ∧
    Sys2Proof.Claims.FlashWritesEraseAndProgram

/-- GNSS time follows its fix, and the time pulses follow GNSS time.  Each part cites its rules. -/
def Obligations.GnssTimeAndTimePulses : Prop :=
  Sys2Proof.Claims.GnssTimeFollowsItsFix ∧
    Sys2Proof.Claims.TimePulsesAreGenerated

/-- Heartbeats carry readiness, and without control the outputs go off.  Each part cites its rules. -/
def Obligations.HeartbeatsAndLossOfControl : Prop :=
  Sys2Proof.Claims.HeartbeatsCarryReadiness ∧
    Sys2Proof.Claims.WithoutControlTheOutputsGoOff

/-- Control moves only by the arbiters: takeovers, planned handovers and proof swaps.  Each part cites its rules. -/
def Obligations.ControlMovesByTheArbiters : Prop :=
  Sys2Proof.Claims.ArbitersMoveControl ∧
    Sys2Proof.Claims.HandoversAndProofSwaps

/-- Due commands execute on the unit they name; commits, forces and shutdowns.  Each part cites its rules. -/
def Obligations.DueCommandsAndForces : Prop :=
  Sys2Proof.Claims.DueCommandsExecute ∧
    Sys2Proof.Claims.CommitsForcesAndShutdowns

/-- Channels and bridges run their waveform.  Each part cites its rules. -/
def Obligations.PulseUnitsRunTheirWaveform : Prop :=
  Sys2Proof.Claims.ChannelsRunTheirWaveform ∧
    Sys2Proof.Claims.BridgesRunTheirWaveform

/-- Switches follow their input, are cut, retry and lock out (log entry 77 for the 100 ns edges).  Each part cites its rules. -/
def Obligations.SwitchesCutAndRetry : Prop :=
  Sys2Proof.Claims.SwitchesFollowTheirInput ∧
    Sys2Proof.Claims.CutsRetriesAndLockouts

/-- Temperatures latch channels off, and banks keep their budget.  Each part cites its rules. -/
def Obligations.TemperaturesAndBudgets : Prop :=
  Sys2Proof.Claims.TemperaturesAndCurrents ∧
    Sys2Proof.Claims.BanksKeepTheirBudget

/-- Feedback channels count, capture their index and measure their rate; absolute ports read frames.  Each part cites its rules. -/
def Obligations.FeedbackInputsCount : Prop :=
  Sys2Proof.Claims.FeedbackChannelsCount ∧
    Sys2Proof.Claims.IndexesAndAbsolutePorts

/-- CAN controllers change state and move frames.  Each part cites its rules. -/
def Obligations.CanControllersMoveFrames : Prop :=
  Sys2Proof.Claims.CanControllersChangeState ∧
    Sys2Proof.Claims.CanFramesMove

/-- Section tables load at a cycle, paging asks for the window, prescription layers change.  Each part cites its rules. -/
def Obligations.SectionTablesPagesAndLayers : Prop :=
  Sys2Proof.Claims.SectionTablesLoadAtACycle ∧
    Sys2Proof.Claims.PagingAsksForTheWindow ∧
    Sys2Proof.Claims.PrescriptionLayersChange

/-- Boom and pressure samples, the delay learner and the flow tolerances.  Each part cites its rules. -/
def Obligations.SectionInputsAndLearning : Prop :=
  Sys2Proof.Claims.SectionInputsAreTaken ∧
    Sys2Proof.Claims.LearnerAndTolerances

/-- Fusion takes its inputs and releases its outputs at the cut-offs.  Each part cites its rules. -/
def Obligations.FusionTakesInputsAndReleasesOutputs : Prop :=
  Sys2Proof.Claims.FusionTakesItsInputs ∧
    Sys2Proof.Claims.FusionCyclesReleaseOutputs

/-- Calibration loads and refines; tracks update with the perception class; the commands of fusion complete.  Each part cites its rules. -/
def Obligations.CalibrationAndTracks : Prop :=
  Sys2Proof.Claims.CalibrationLoadsAndRefines ∧
    Sys2Proof.Claims.TracksUpdateWithThePerceptionClass ∧
    Sys2Proof.Claims.FusionCommandsComplete

/-- Antennas, interference, and the start and clearing of the basebands.  Each part cites its rules. -/
def Obligations.AntennasAndBasebands : Prop :=
  Sys2Proof.Claims.AntennasAndInterference ∧
    Sys2Proof.Claims.BasebandsStartAndClear

/-- Line keeping: modes, stops, inputs and cycles.  Each part cites its rules. -/
def Obligations.LineKeepingCyclesAndStops : Prop :=
  Sys2Proof.Claims.LineKeepingModesAndStops ∧
    Sys2Proof.Claims.LineKeepingCycles

/-- The host port answers every frame, and each request has its effect.  Each part cites its rules. -/
def Obligations.HostFramesAreAnswered : Prop :=
  Sys2Proof.Claims.CommandFramesAreAnswered ∧
    Sys2Proof.Claims.RequestsHaveTheirEffect ∧
    Sys2Proof.Claims.ResponsesAndAttention

/-- Updates run in the loader, and management writes are protected.  Each part cites its rules. -/
def Obligations.UpdatesAndManagementWrites : Prop :=
  Sys2Proof.Claims.UpdatesRunInTheLoader ∧
    Sys2Proof.Claims.ManagementWritesAreProtected
end

