-- ==== Sys2Proof/Laws/Fields.lean ====
section
/-!
SUPPORT. Bit fields of a word: what a field reads after it, or another, is set.
-/

namespace Sys2Proof.Machine

theorem setFieldNat_arith (n lo w v : Nat) :
    n - ((n >>> lo) % 2 ^ w) * 2 ^ lo + (v % 2 ^ w) * 2 ^ lo =
      n / 2 ^ (lo + w) * 2 ^ (lo + w) + (v % 2 ^ w) * 2 ^ lo + n % 2 ^ lo := by
  have h1 : n = n / 2 ^ lo * 2 ^ lo + n % 2 ^ lo := (Nat.div_add_mod' n (2 ^ lo)).symm
  have h2 : n / 2 ^ lo = n / 2 ^ lo / 2 ^ w * 2 ^ w + n / 2 ^ lo % 2 ^ w :=
    (Nat.div_add_mod' _ (2 ^ w)).symm
  have h3 : n / 2 ^ lo / 2 ^ w = n / 2 ^ (lo + w) := by rw [Nat.div_div_eq_div_mul, pow_add]
  rw [Nat.shiftRight_eq_div_pow]
  rw [h3] at h2
  set q := n / 2 ^ (lo + w)
  set m := n / 2 ^ lo % 2 ^ w
  have h4 : n = q * 2 ^ (lo + w) + m * 2 ^ lo + n % 2 ^ lo := by
    conv_lhs => rw [h1, h2]
    rw [pow_add]; ring
  omega

/-- Bit `i` of a word after a field is set. -/
theorem getLsbD_setFieldNat (x : Word) (lo w v i : Nat) (hi : i < 32) :
    (setFieldNat x lo w v).getLsbD i =
      if lo ≤ i ∧ i < lo + w then v.testBit (i - lo) else x.getLsbD i := by
  unfold setFieldNat
  rw [setFieldNat_arith, BitVec.getLsbD_ofNat]
  simp only [hi, decide_true, Bool.true_and]
  have hlow : x.toNat % 2 ^ lo < 2 ^ lo := Nat.mod_lt _ (by positivity)
  have hv : v % 2 ^ w < 2 ^ w := Nat.mod_lt _ (by positivity)
  have hmid : (v % 2 ^ w) * 2 ^ lo + x.toNat % 2 ^ lo < 2 ^ (lo + w) := by
    calc (v % 2 ^ w) * 2 ^ lo + x.toNat % 2 ^ lo
        < (v % 2 ^ w) * 2 ^ lo + 2 ^ lo := by omega
      _ = (v % 2 ^ w + 1) * 2 ^ lo := by ring
      _ ≤ 2 ^ w * 2 ^ lo := Nat.mul_le_mul_right _ hv
      _ = 2 ^ (lo + w) := by rw [pow_add]; ring
  rw [Nat.add_assoc, Nat.mul_comm (x.toNat / 2 ^ (lo + w)), Nat.testBit_two_pow_mul_add _ hmid]
  split
  · next h =>
    rw [Nat.mul_comm (v % 2 ^ w), Nat.testBit_two_pow_mul_add _ hlow]
    split
    · next h2 => rw [if_neg (by omega), Nat.testBit_mod_two_pow, ← BitVec.testBit_toNat]; simp [h2]
    · next h2 =>
      rw [if_pos (by omega), Nat.testBit_mod_two_pow]
      simp; omega
  · next h =>
    rw [if_neg (by omega), Nat.testBit_div_two_pow, BitVec.testBit_toNat]
    congr 1; omega

theorem testBit_fieldNat (x : Word) (lo w i : Nat) :
    (fieldNat x lo w).testBit i = (decide (i < w) && x.getLsbD (lo + i)) := by
  simp [fieldNat, Nat.testBit_mod_two_pow, Nat.testBit_shiftRight, BitVec.testBit_toNat]

theorem fieldNat_lt (x : Word) (lo w : Nat) : fieldNat x lo w < 2 ^ w :=
  Nat.mod_lt _ (by positivity)

/-- A field reads what was set in it, reduced to its width. -/
theorem fieldNat_setFieldNat_self (x : Word) (lo w v : Nat) (h : lo + w ≤ 32) :
    fieldNat (setFieldNat x lo w v) lo w = v % 2 ^ w := by
  apply Nat.eq_of_testBit_eq
  intro i
  rw [testBit_fieldNat, Nat.testBit_mod_two_pow]
  by_cases hi : i < w
  · rw [getLsbD_setFieldNat _ _ _ _ _ (by omega), if_pos (by omega)]
    simp [hi]
  · simp [hi]

/-- A field apart from the one set is unchanged. -/
theorem fieldNat_setFieldNat_ne (x : Word) (lo w v lo' w' : Nat) (h' : lo' + w' ≤ 32)
    (h : lo + w ≤ lo' ∨ lo' + w' ≤ lo) :
    fieldNat (setFieldNat x lo w v) lo' w' = fieldNat x lo' w' := by
  apply Nat.eq_of_testBit_eq
  intro i
  rw [testBit_fieldNat, testBit_fieldNat]
  by_cases hi : i < w'
  · rw [getLsbD_setFieldNat _ _ _ _ _ (by omega), if_neg (by omega)]
  · simp [hi]

theorem bitOf_setFieldNat_ne (x : Word) (lo w v i : Nat) (hi : i < 32)
    (h : i < lo ∨ lo + w ≤ i) : bitOf (setFieldNat x lo w v) i = bitOf x i := by
  rw [bitOf, getLsbD_setFieldNat _ _ _ _ _ hi, if_neg (by omega)]; rfl

theorem bitOf_setBit (x : Word) (i j : Nat) (b : Bool) (hj : j < 32) :
    bitOf (setBit x i b) j = if j = i then b else bitOf x j := by
  rw [bitOf, setBit, getLsbD_setFieldNat _ _ _ _ _ hj]
  by_cases h : j = i
  · subst h
    rw [if_pos (by omega), if_pos rfl]
    cases b <;> simp
  · rw [if_neg (by omega), if_neg h]; rfl

theorem fieldNat_setBit_ne (x : Word) (i lo w : Nat) (b : Bool) (hw : lo + w ≤ 32)
    (h : i < lo ∨ lo + w ≤ i) : fieldNat (setBit x i b) lo w = fieldNat x lo w :=
  fieldNat_setFieldNat_ne _ _ _ _ _ _ hw (by omega)

end Sys2Proof.Machine
end

