-- ==== Sys2Proof/Laws/Tab.lean ====
section
/-!
SUPPORT. What a sparse table reads after a write, and that every operation keeps the canonical form.
-/

namespace Sys2Proof.Machine

variable {α : Type}

@[simp] theorem Tab.get_nil (d : α) (k : Nat) : Tab.get [] d k = d := rfl

theorem Tab.get_cons (j : Nat) (v : α) (t : Tab α) (d : α) (k : Nat) :
    Tab.get ((j, v) :: t) d k = if j = k then v else Tab.get t d k := rfl

@[simp] theorem Tab.get_put_self (t : Tab α) (d : α) (k : Nat) (v : α) :
    Tab.get (Tab.put t k v) d k = v := by
  induction t with
  | nil => simp [Tab.put, Tab.get]
  | cons e t ih =>
    obtain ⟨j, w⟩ := e
    simp only [Tab.put]
    split
    · simp [Tab.get]
    · split
      · simp [Tab.get]
      · have : j ≠ k := by omega
        simp [Tab.get, this, ih]

theorem Tab.get_put_ne (t : Tab α) (d : α) {j k : Nat} (v : α) (h : j ≠ k) :
    Tab.get (Tab.put t k v) d j = Tab.get t d j := by
  induction t with
  | nil => simp [Tab.put, Tab.get, h.symm]
  | cons e t ih =>
    obtain ⟨i, w⟩ := e
    simp only [Tab.put]
    split
    · simp [Tab.get, h.symm]
    · split
      · next hk => subst hk; simp [Tab.get, h.symm]
      · simp [Tab.get, ih]

@[simp] theorem Tab.get_drop_self (t : Tab α) (d : α) (k : Nat) :
    Tab.get (Tab.drop t k) d k = d := by
  induction t with
  | nil => rfl
  | cons e t ih =>
    obtain ⟨j, w⟩ := e
    simp only [Tab.drop]
    split
    · exact ih
    · next h => simp [Tab.get, h, ih]

theorem Tab.get_drop_ne (t : Tab α) (d : α) {j k : Nat} (h : j ≠ k) :
    Tab.get (Tab.drop t k) d j = Tab.get t d j := by
  induction t with
  | nil => rfl
  | cons e t ih =>
    obtain ⟨i, w⟩ := e
    simp only [Tab.drop]
    split
    · next hk => subst hk; simp [Tab.get, h.symm, ih]
    · simp [Tab.get, ih]

theorem Tab.mem_put {t : Tab α} {k : Nat} {v : α} {e : Nat × α} (h : e ∈ Tab.put t k v) :
    e = (k, v) ∨ e ∈ t := by
  induction t with
  | nil => simp only [Tab.put, List.mem_cons, List.not_mem_nil, or_false] at h; exact .inl h
  | cons f t ih =>
    obtain ⟨j, w⟩ := f
    simp only [Tab.put] at h
    split at h
    · simpa using h
    · split at h
      · simp only [List.mem_cons] at h ⊢
        exact h.imp_right .inr
      · simp only [List.mem_cons] at h ⊢
        rcases h with h | h
        · exact .inr (.inl h)
        · exact (ih h).imp_right .inr

theorem Tab.drop_sublist (t : Tab α) (k : Nat) : (Tab.drop t k).Sublist t := by
  induction t with
  | nil => exact List.Sublist.refl _
  | cons e t ih =>
    obtain ⟨j, w⟩ := e
    simp only [Tab.drop]
    split
    · exact ih.cons _
    · exact ih.cons_cons _

variable [DecidableEq α]

/-- A read of the entry just written gives the value written. -/
@[simp] theorem Tab.get_set_self (t : Tab α) (d : α) (k : Nat) (v : α) :
    Tab.get (Tab.set t d k v) d k = v := by
  unfold Tab.set
  split
  · next h => simp [h]
  · simp

/-- A write leaves every other entry alone. -/
theorem Tab.get_set_ne (t : Tab α) (d e : α) {j k : Nat} (v : α) (h : j ≠ k) :
    Tab.get (Tab.set t d k v) e j = Tab.get t e j := by
  unfold Tab.set
  split
  · exact Tab.get_drop_ne t e h
  · exact Tab.get_put_ne t e v h

theorem Tab.get_set (t : Tab α) (d : α) (j k : Nat) (v : α) :
    Tab.get (Tab.set t d k v) d j = if j = k then v else Tab.get t d j := by
  split
  · next h => subst h; simp
  · next h => exact Tab.get_set_ne t d d v h

/-- The canonical form, as a property of the whole list. -/
theorem Tab.wf_iff (t : Tab α) (d : α) :
    Tab.wf t d = true ↔ t.Pairwise (fun x y => x.1 < y.1) ∧ ∀ e ∈ t, e.2 ≠ d := by
  induction t with
  | nil => simp [Tab.wf]
  | cons e t ih =>
    obtain ⟨j, v⟩ := e
    cases t with
    | nil => simp [Tab.wf]
    | cons f t =>
      obtain ⟨k, w⟩ := f
      simp only [Tab.wf, Bool.and_eq_true, decide_eq_true_eq, ih, List.pairwise_cons,
        List.mem_cons, forall_eq_or_imp]
      constructor
      · rintro ⟨⟨hv, hjk⟩, ⟨hk, hp⟩, hw, hd⟩
        exact ⟨⟨⟨hjk, fun a ha => lt_trans hjk (hk a ha)⟩, hk, hp⟩, hv, hw, hd⟩
      · rintro ⟨⟨⟨hjk, _⟩, hk, hp⟩, hv, hw, hd⟩
        exact ⟨⟨hv, hjk⟩, ⟨hk, hp⟩, hw, hd⟩

theorem Tab.wf_sublist {t u : Tab α} {d : α} (h : u.Sublist t) (ht : Tab.wf t d = true) :
    Tab.wf u d = true := by
  rw [Tab.wf_iff] at ht ⊢
  exact ⟨ht.1.sublist h, fun e he => ht.2 e (h.subset he)⟩

theorem Tab.wf_drop {t : Tab α} {d : α} (k : Nat) (ht : Tab.wf t d = true) :
    Tab.wf (Tab.drop t k) d = true := Tab.wf_sublist (Tab.drop_sublist t k) ht

theorem Tab.wf_filter {t : Tab α} {d : α} (p : Nat × α → Bool) (ht : Tab.wf t d = true) :
    Tab.wf (t.filter p) d = true := Tab.wf_sublist List.filter_sublist ht

theorem Tab.wf_put {t : Tab α} {d v : α} (k : Nat) (hv : v ≠ d) (ht : Tab.wf t d = true) :
    Tab.wf (Tab.put t k v) d = true := by
  rw [Tab.wf_iff] at ht ⊢
  refine ⟨?_, fun e he => ?_⟩
  · obtain ⟨hp, -⟩ := ht
    induction t with
    | nil => simp [Tab.put]
    | cons f t ih =>
      obtain ⟨j, w⟩ := f
      rw [List.pairwise_cons] at hp
      simp only [Tab.put]
      split
      · next h =>
        refine List.pairwise_cons.2 ⟨fun e he => ?_, List.pairwise_cons.2 hp⟩
        rcases List.mem_cons.1 he with rfl | he
        · exact h
        · exact lt_trans h (hp.1 e he)
      · split
        · next h => subst h; exact List.pairwise_cons.2 hp
        · next h1 h2 =>
          refine List.pairwise_cons.2 ⟨fun e he => ?_, ih hp.2⟩
          rcases Tab.mem_put he with rfl | he
          · show j < k
            omega
          · exact hp.1 e he
  · rcases Tab.mem_put he with rfl | he
    · exact hv
    · exact ht.2 e he

/-- Every write keeps the canonical form. -/
theorem Tab.wf_set {t : Tab α} {d : α} (k : Nat) (v : α) (ht : Tab.wf t d = true) :
    Tab.wf (Tab.set t d k v) d = true := by
  unfold Tab.set
  split
  · exact Tab.wf_drop k ht
  · next h => exact Tab.wf_put k h ht

theorem Tab.wf_modify {t : Tab α} {d : α} (k : Nat) (f : α → α) (ht : Tab.wf t d = true) :
    Tab.wf (Tab.modify t d k f) d = true := Tab.wf_set k _ ht

end Sys2Proof.Machine
end

