-- ==== Sys2Proof/Laws/State.lean ====
section
/-!
SUPPORT. What each update of the state leaves in each field; no later proof unfolds a record update.
-/

namespace Sys2Proof.Machine

/-! ### The two lanes -/

@[simp] theorem other_other (l : LaneId) : other (other l) = l := by cases l <;> rfl
@[simp] theorem other_ne (l : LaneId) : other l ≠ l := by cases l <;> decide
@[simp] theorem ne_other (l : LaneId) : l ≠ other l := by cases l <;> decide

@[simp] theorem State.lane_setLane (s : State) (l : LaneId) (L : Lane) : (s.setLane l L).lane l = L := by
  cases l <;> rfl
@[simp] theorem State.lane_other_setLane (s : State) (l : LaneId) (L : Lane) :
    (s.setLane l L).lane (other l) = s.lane (other l) := by cases l <;> rfl
theorem State.lane_setLane_ne (s : State) {l m : LaneId} (L : Lane) (h : m ≠ l) :
    (s.setLane l L).lane m = s.lane m := by cases l <;> cases m <;> first | rfl | exact absurd rfl h
@[simp] theorem State.lane_modLane (s : State) (l : LaneId) (f : Lane → Lane) :
    (s.modLane l f).lane l = f (s.lane l) := by simp [State.modLane]
@[simp] theorem State.lane_other_modLane (s : State) (l : LaneId) (f : Lane → Lane) :
    (s.modLane l f).lane (other l) = s.lane (other l) := by simp [State.modLane]
@[simp] theorem State.lane_bothLanes (s : State) (l : LaneId) (f : Lane → Lane) :
    (s.bothLanes f).lane l = f (s.lane l) := by cases l <;> rfl
@[simp] theorem State.lane_modRind (s : State) (l : LaneId) (f : Rind → Rind) :
    (s.modRind f).lane l = s.lane l := by cases l <;> rfl
@[simp] theorem State.lane_modDie (s : State) (l : LaneId) (f : Die → Die) :
    (s.modDie f).lane l = s.lane l := by cases l <;> rfl
@[simp] theorem State.setLane_self (s : State) (l : LaneId) : s.setLane l (s.lane l) = s := by
  cases l <;> rfl
@[simp] theorem State.rind_modRind (s : State) (f : Rind → Rind) : (s.modRind f).rind = f s.rind := rfl
@[simp] theorem State.die_modDie (s : State) (f : Die → Die) : (s.modDie f).die = f s.die := rfl

/-! ### The module's other fields -/

@[simp] theorem State.die_setLane (s : State) (l : LaneId) (L : Lane) :
    (s.setLane l L).die = s.die := by cases l <;> rfl
@[simp] theorem State.die_modLane (s : State) (l : LaneId) (f : Lane → Lane) :
    (s.modLane l f).die = s.die := by cases l <;> rfl
@[simp] theorem State.die_bothLanes (s : State) (f : Lane → Lane) :
    (s.bothLanes f).die = s.die := rfl
@[simp] theorem State.die_modRind (s : State) (f : Rind → Rind) :
    (s.modRind f).die = s.die := rfl
@[simp] theorem State.rind_setLane (s : State) (l : LaneId) (L : Lane) :
    (s.setLane l L).rind = s.rind := by cases l <;> rfl
@[simp] theorem State.rind_modLane (s : State) (l : LaneId) (f : Lane → Lane) :
    (s.modLane l f).rind = s.rind := by cases l <;> rfl
@[simp] theorem State.rind_bothLanes (s : State) (f : Lane → Lane) :
    (s.bothLanes f).rind = s.rind := rfl
@[simp] theorem State.rind_modDie (s : State) (f : Die → Die) :
    (s.modDie f).rind = s.rind := rfl
@[simp] theorem State.laneLink_setLane (s : State) (l : LaneId) (L : Lane) :
    (s.setLane l L).laneLink = s.laneLink := by cases l <;> rfl
@[simp] theorem State.laneLink_modLane (s : State) (l : LaneId) (f : Lane → Lane) :
    (s.modLane l f).laneLink = s.laneLink := by cases l <;> rfl
@[simp] theorem State.laneLink_bothLanes (s : State) (f : Lane → Lane) :
    (s.bothLanes f).laneLink = s.laneLink := rfl
@[simp] theorem State.laneLink_modRind (s : State) (f : Rind → Rind) :
    (s.modRind f).laneLink = s.laneLink := rfl
@[simp] theorem State.laneLink_modDie (s : State) (f : Die → Die) :
    (s.modDie f).laneLink = s.laneLink := rfl
@[simp] theorem State.absClk_setLane (s : State) (l : LaneId) (L : Lane) :
    (s.setLane l L).absClk = s.absClk := by cases l <;> rfl
@[simp] theorem State.absClk_modLane (s : State) (l : LaneId) (f : Lane → Lane) :
    (s.modLane l f).absClk = s.absClk := by cases l <;> rfl
@[simp] theorem State.absClk_bothLanes (s : State) (f : Lane → Lane) :
    (s.bothLanes f).absClk = s.absClk := rfl
@[simp] theorem State.absClk_modRind (s : State) (f : Rind → Rind) :
    (s.modRind f).absClk = s.absClk := rfl
@[simp] theorem State.absClk_modDie (s : State) (f : Die → Die) :
    (s.modDie f).absClk = s.absClk := rfl
@[simp] theorem State.ant_setLane (s : State) (l : LaneId) (L : Lane) :
    (s.setLane l L).ant = s.ant := by cases l <;> rfl
@[simp] theorem State.ant_modLane (s : State) (l : LaneId) (f : Lane → Lane) :
    (s.modLane l f).ant = s.ant := by cases l <;> rfl
@[simp] theorem State.ant_bothLanes (s : State) (f : Lane → Lane) :
    (s.bothLanes f).ant = s.ant := rfl
@[simp] theorem State.ant_modRind (s : State) (f : Rind → Rind) :
    (s.modRind f).ant = s.ant := rfl
@[simp] theorem State.ant_modDie (s : State) (f : Die → Die) :
    (s.modDie f).ant = s.ant := rfl
@[simp] theorem State.pending_setLane (s : State) (l : LaneId) (L : Lane) :
    (s.setLane l L).pending = s.pending := by cases l <;> rfl
@[simp] theorem State.pending_modLane (s : State) (l : LaneId) (f : Lane → Lane) :
    (s.modLane l f).pending = s.pending := by cases l <;> rfl
@[simp] theorem State.pending_bothLanes (s : State) (f : Lane → Lane) :
    (s.bothLanes f).pending = s.pending := rfl
@[simp] theorem State.pending_modRind (s : State) (f : Rind → Rind) :
    (s.modRind f).pending = s.pending := rfl
@[simp] theorem State.pending_modDie (s : State) (f : Die → Die) :
    (s.modDie f).pending = s.pending := rfl

/-! ### Registers of a lane -/

@[simp] theorem Lane.rd_wr_self (L : Lane) (a : Nat) (v : Word) : (L.wr a v).rd a = v := by
  simp [Lane.rd, Lane.wr]
theorem Lane.rd_wr_ne (L : Lane) {a k : Nat} (v : Word) (h : a ≠ k) : (L.wr k v).rd a = L.rd a := by
  simp [Lane.rd, Lane.wr, Tab.get_set_ne _ _ _ _ h]
theorem Lane.rd_wr (L : Lane) (a k : Nat) (v : Word) :
    (L.wr k v).rd a = if a = k then v else L.rd a := by
  split
  · next h => subst h; simp
  · next h => exact Lane.rd_wr_ne L v h
@[simp] theorem Rind.rd_wr_self (r : Rind) (a : Nat) (v : Word) : (r.wr a v).rd a = v := by
  simp [Rind.rd, Rind.wr]
theorem Rind.rd_wr_ne (r : Rind) {a k : Nat} (v : Word) (h : a ≠ k) : (r.wr k v).rd a = r.rd a := by
  simp [Rind.rd, Rind.wr, Tab.get_set_ne _ _ _ _ h]
theorem Rind.rd_wr (r : Rind) (a k : Nat) (v : Word) :
    (r.wr k v).rd a = if a = k then v else r.rd a := by
  split
  · next h => subst h; simp
  · next h => exact Rind.rd_wr_ne r v h
theorem Lane.rd_setFld (L : Lane) (a k lo w v : Nat) :
    (L.setFld k lo w v).rd a = if a = k then setFieldNat (L.rd k) lo w v else L.rd a := Lane.rd_wr ..
theorem Lane.rd_setFlag (L : Lane) (a k i : Nat) (b : Bool) :
    (L.setFlag k i b).rd a = if a = k then setBit (L.rd k) i b else L.rd a := Lane.rd_wr ..
theorem Lane.rd_bump (L : Lane) (a k : Nat) :
    (L.bump k).rd a = if a = k then satAdd (L.rd k) 1 else L.rd a := Lane.rd_wr ..
theorem Rind.rd_setFld (r : Rind) (a k lo w v : Nat) :
    (r.setFld k lo w v).rd a = if a = k then setFieldNat (r.rd k) lo w v else r.rd a := Rind.rd_wr ..
theorem Rind.rd_setFlag (r : Rind) (a k i : Nat) (b : Bool) :
    (r.setFlag k i b).rd a = if a = k then setBit (r.rd k) i b else r.rd a := Rind.rd_wr ..

@[simp] theorem Lane.phase_wr (L : Lane) (a : Nat) (v : Word) :
    (L.wr a v).phase = L.phase := rfl
@[simp] theorem Lane.lt_wr (L : Lane) (a : Nat) (v : Word) :
    (L.wr a v).lt = L.lt := rfl
@[simp] theorem Lane.free_wr (L : Lane) (a : Nat) (v : Word) :
    (L.wr a v).free = L.free := rfl
@[simp] theorem Lane.halted_wr (L : Lane) (a : Nat) (v : Word) :
    (L.wr a v).halted = L.halted := rfl
@[simp] theorem Lane.reason_wr (L : Lane) (a : Nat) (v : Word) :
    (L.wr a v).reason = L.reason := rfl
@[simp] theorem Lane.time_wr (L : Lane) (a : Nat) (v : Word) :
    (L.wr a v).time = L.time := rfl
@[simp] theorem Lane.ctxs_wr (L : Lane) (a : Nat) (v : Word) :
    (L.wr a v).ctxs = L.ctxs := rfl
@[simp] theorem Lane.saved_wr (L : Lane) (a : Nat) (v : Word) :
    (L.wr a v).saved = L.saved := rfl
@[simp] theorem Lane.brkCtx_wr (L : Lane) (a : Nat) (v : Word) :
    (L.wr a v).brkCtx = L.brkCtx := rfl
@[simp] theorem Lane.queues_wr (L : Lane) (a : Nat) (v : Word) :
    (L.wr a v).queues = L.queues := rfl
@[simp] theorem Lane.locks_wr (L : Lane) (a : Nat) (v : Word) :
    (L.wr a v).locks = L.locks := rfl
@[simp] theorem Lane.mat_wr (L : Lane) (a : Nat) (v : Word) :
    (L.wr a v).mat = L.mat := rfl
@[simp] theorem Lane.spxQ_wr (L : Lane) (a : Nat) (v : Word) :
    (L.wr a v).spxQ = L.spxQ := rfl
@[simp] theorem Lane.lpeQ_wr (L : Lane) (a : Nat) (v : Word) :
    (L.wr a v).lpeQ = L.lpeQ := rfl
@[simp] theorem Lane.wdogDue_wr (L : Lane) (a : Nat) (v : Word) :
    (L.wr a v).wdogDue = L.wdogDue := rfl
@[simp] theorem Lane.wdogPer_wr (L : Lane) (a : Nat) (v : Word) :
    (L.wr a v).wdogPer = L.wdogPer := rfl
@[simp] theorem Lane.ev_wr (L : Lane) (a : Nat) (v : Word) :
    (L.wr a v).ev = L.ev := rfl
@[simp] theorem Lane.link_wr (L : Lane) (a : Nat) (v : Word) :
    (L.wr a v).link = L.link := rfl
@[simp] theorem Lane.seq_wr (L : Lane) (a : Nat) (v : Word) :
    (L.wr a v).seq = L.seq := rfl
@[simp] theorem Lane.banks_wr (L : Lane) (a : Nat) (v : Word) :
    (L.wr a v).banks = L.banks := rfl
@[simp] theorem Lane.sram_wr (L : Lane) (a : Nat) (v : Word) :
    (L.wr a v).sram = L.sram := rfl
@[simp] theorem Lane.ecc_wr (L : Lane) (a : Nat) (v : Word) :
    (L.wr a v).ecc = L.ecc := rfl
@[simp] theorem Lane.flash_wr (L : Lane) (a : Nat) (v : Word) :
    (L.wr a v).flash = L.flash := rfl
@[simp] theorem Lane.spx_wr (L : Lane) (a : Nat) (v : Word) :
    (L.wr a v).spx = L.spx := rfl
@[simp] theorem Lane.sec_wr (L : Lane) (a : Nat) (v : Word) :
    (L.wr a v).sec = L.sec := rfl
@[simp] theorem Lane.cal_wr (L : Lane) (a : Nat) (v : Word) :
    (L.wr a v).cal = L.cal := rfl
@[simp] theorem Lane.enc_wr (L : Lane) (a : Nat) (v : Word) :
    (L.wr a v).enc = L.enc := rfl
@[simp] theorem Lane.abs_wr (L : Lane) (a : Nat) (v : Word) :
    (L.wr a v).abs_ = L.abs_ := rfl
@[simp] theorem Lane.fus_wr (L : Lane) (a : Nat) (v : Word) :
    (L.wr a v).fus = L.fus := rfl
@[simp] theorem Lane.trk_wr (L : Lane) (a : Nat) (v : Word) :
    (L.wr a v).trk = L.trk := rfl
@[simp] theorem Lane.gns_wr (L : Lane) (a : Nat) (v : Word) :
    (L.wr a v).gns = L.gns := rfl
@[simp] theorem Lane.lpe_wr (L : Lane) (a : Nat) (v : Word) :
    (L.wr a v).lpe = L.lpe := rfl
@[simp] theorem Lane.lkp_wr (L : Lane) (a : Nat) (v : Word) :
    (L.wr a v).lkp = L.lkp := rfl
@[simp] theorem Lane.can_wr (L : Lane) (a : Nat) (v : Word) :
    (L.wr a v).can = L.can := rfl
@[simp] theorem Lane.eth_wr (L : Lane) (a : Nat) (v : Word) :
    (L.wr a v).eth = L.eth := rfl
@[simp] theorem Lane.host_wr (L : Lane) (a : Nat) (v : Word) :
    (L.wr a v).host = L.host := rfl
@[simp] theorem Lane.vault_wr (L : Lane) (a : Nat) (v : Word) :
    (L.wr a v).vault = L.vault := rfl
@[simp] theorem Lane.keys_wr (L : Lane) (a : Nat) (v : Word) :
    (L.wr a v).keys = L.keys := rfl
@[simp] theorem Lane.pads_wr (L : Lane) (a : Nat) (v : Word) :
    (L.wr a v).pads = L.pads := rfl
@[simp] theorem Lane.phase_setFld (L : Lane) (a lo w v : Nat) :
    (L.setFld a lo w v).phase = L.phase := rfl
@[simp] theorem Lane.lt_setFld (L : Lane) (a lo w v : Nat) :
    (L.setFld a lo w v).lt = L.lt := rfl
@[simp] theorem Lane.free_setFld (L : Lane) (a lo w v : Nat) :
    (L.setFld a lo w v).free = L.free := rfl
@[simp] theorem Lane.halted_setFld (L : Lane) (a lo w v : Nat) :
    (L.setFld a lo w v).halted = L.halted := rfl
@[simp] theorem Lane.reason_setFld (L : Lane) (a lo w v : Nat) :
    (L.setFld a lo w v).reason = L.reason := rfl
@[simp] theorem Lane.time_setFld (L : Lane) (a lo w v : Nat) :
    (L.setFld a lo w v).time = L.time := rfl
@[simp] theorem Lane.ctxs_setFld (L : Lane) (a lo w v : Nat) :
    (L.setFld a lo w v).ctxs = L.ctxs := rfl
@[simp] theorem Lane.saved_setFld (L : Lane) (a lo w v : Nat) :
    (L.setFld a lo w v).saved = L.saved := rfl
@[simp] theorem Lane.brkCtx_setFld (L : Lane) (a lo w v : Nat) :
    (L.setFld a lo w v).brkCtx = L.brkCtx := rfl
@[simp] theorem Lane.queues_setFld (L : Lane) (a lo w v : Nat) :
    (L.setFld a lo w v).queues = L.queues := rfl
@[simp] theorem Lane.locks_setFld (L : Lane) (a lo w v : Nat) :
    (L.setFld a lo w v).locks = L.locks := rfl
@[simp] theorem Lane.mat_setFld (L : Lane) (a lo w v : Nat) :
    (L.setFld a lo w v).mat = L.mat := rfl
@[simp] theorem Lane.spxQ_setFld (L : Lane) (a lo w v : Nat) :
    (L.setFld a lo w v).spxQ = L.spxQ := rfl
@[simp] theorem Lane.lpeQ_setFld (L : Lane) (a lo w v : Nat) :
    (L.setFld a lo w v).lpeQ = L.lpeQ := rfl
@[simp] theorem Lane.wdogDue_setFld (L : Lane) (a lo w v : Nat) :
    (L.setFld a lo w v).wdogDue = L.wdogDue := rfl
@[simp] theorem Lane.wdogPer_setFld (L : Lane) (a lo w v : Nat) :
    (L.setFld a lo w v).wdogPer = L.wdogPer := rfl
@[simp] theorem Lane.ev_setFld (L : Lane) (a lo w v : Nat) :
    (L.setFld a lo w v).ev = L.ev := rfl
@[simp] theorem Lane.link_setFld (L : Lane) (a lo w v : Nat) :
    (L.setFld a lo w v).link = L.link := rfl
@[simp] theorem Lane.seq_setFld (L : Lane) (a lo w v : Nat) :
    (L.setFld a lo w v).seq = L.seq := rfl
@[simp] theorem Lane.banks_setFld (L : Lane) (a lo w v : Nat) :
    (L.setFld a lo w v).banks = L.banks := rfl
@[simp] theorem Lane.sram_setFld (L : Lane) (a lo w v : Nat) :
    (L.setFld a lo w v).sram = L.sram := rfl
@[simp] theorem Lane.ecc_setFld (L : Lane) (a lo w v : Nat) :
    (L.setFld a lo w v).ecc = L.ecc := rfl
@[simp] theorem Lane.flash_setFld (L : Lane) (a lo w v : Nat) :
    (L.setFld a lo w v).flash = L.flash := rfl
@[simp] theorem Lane.spx_setFld (L : Lane) (a lo w v : Nat) :
    (L.setFld a lo w v).spx = L.spx := rfl
@[simp] theorem Lane.sec_setFld (L : Lane) (a lo w v : Nat) :
    (L.setFld a lo w v).sec = L.sec := rfl
@[simp] theorem Lane.cal_setFld (L : Lane) (a lo w v : Nat) :
    (L.setFld a lo w v).cal = L.cal := rfl
@[simp] theorem Lane.enc_setFld (L : Lane) (a lo w v : Nat) :
    (L.setFld a lo w v).enc = L.enc := rfl
@[simp] theorem Lane.abs_setFld (L : Lane) (a lo w v : Nat) :
    (L.setFld a lo w v).abs_ = L.abs_ := rfl
@[simp] theorem Lane.fus_setFld (L : Lane) (a lo w v : Nat) :
    (L.setFld a lo w v).fus = L.fus := rfl
@[simp] theorem Lane.trk_setFld (L : Lane) (a lo w v : Nat) :
    (L.setFld a lo w v).trk = L.trk := rfl
@[simp] theorem Lane.gns_setFld (L : Lane) (a lo w v : Nat) :
    (L.setFld a lo w v).gns = L.gns := rfl
@[simp] theorem Lane.lpe_setFld (L : Lane) (a lo w v : Nat) :
    (L.setFld a lo w v).lpe = L.lpe := rfl
@[simp] theorem Lane.lkp_setFld (L : Lane) (a lo w v : Nat) :
    (L.setFld a lo w v).lkp = L.lkp := rfl
@[simp] theorem Lane.can_setFld (L : Lane) (a lo w v : Nat) :
    (L.setFld a lo w v).can = L.can := rfl
@[simp] theorem Lane.eth_setFld (L : Lane) (a lo w v : Nat) :
    (L.setFld a lo w v).eth = L.eth := rfl
@[simp] theorem Lane.host_setFld (L : Lane) (a lo w v : Nat) :
    (L.setFld a lo w v).host = L.host := rfl
@[simp] theorem Lane.vault_setFld (L : Lane) (a lo w v : Nat) :
    (L.setFld a lo w v).vault = L.vault := rfl
@[simp] theorem Lane.keys_setFld (L : Lane) (a lo w v : Nat) :
    (L.setFld a lo w v).keys = L.keys := rfl
@[simp] theorem Lane.pads_setFld (L : Lane) (a lo w v : Nat) :
    (L.setFld a lo w v).pads = L.pads := rfl
@[simp] theorem Lane.phase_setFlag (L : Lane) (a i : Nat) (b : Bool) :
    (L.setFlag a i b).phase = L.phase := rfl
@[simp] theorem Lane.lt_setFlag (L : Lane) (a i : Nat) (b : Bool) :
    (L.setFlag a i b).lt = L.lt := rfl
@[simp] theorem Lane.free_setFlag (L : Lane) (a i : Nat) (b : Bool) :
    (L.setFlag a i b).free = L.free := rfl
@[simp] theorem Lane.halted_setFlag (L : Lane) (a i : Nat) (b : Bool) :
    (L.setFlag a i b).halted = L.halted := rfl
@[simp] theorem Lane.reason_setFlag (L : Lane) (a i : Nat) (b : Bool) :
    (L.setFlag a i b).reason = L.reason := rfl
@[simp] theorem Lane.time_setFlag (L : Lane) (a i : Nat) (b : Bool) :
    (L.setFlag a i b).time = L.time := rfl
@[simp] theorem Lane.ctxs_setFlag (L : Lane) (a i : Nat) (b : Bool) :
    (L.setFlag a i b).ctxs = L.ctxs := rfl
@[simp] theorem Lane.saved_setFlag (L : Lane) (a i : Nat) (b : Bool) :
    (L.setFlag a i b).saved = L.saved := rfl
@[simp] theorem Lane.brkCtx_setFlag (L : Lane) (a i : Nat) (b : Bool) :
    (L.setFlag a i b).brkCtx = L.brkCtx := rfl
@[simp] theorem Lane.queues_setFlag (L : Lane) (a i : Nat) (b : Bool) :
    (L.setFlag a i b).queues = L.queues := rfl
@[simp] theorem Lane.locks_setFlag (L : Lane) (a i : Nat) (b : Bool) :
    (L.setFlag a i b).locks = L.locks := rfl
@[simp] theorem Lane.mat_setFlag (L : Lane) (a i : Nat) (b : Bool) :
    (L.setFlag a i b).mat = L.mat := rfl
@[simp] theorem Lane.spxQ_setFlag (L : Lane) (a i : Nat) (b : Bool) :
    (L.setFlag a i b).spxQ = L.spxQ := rfl
@[simp] theorem Lane.lpeQ_setFlag (L : Lane) (a i : Nat) (b : Bool) :
    (L.setFlag a i b).lpeQ = L.lpeQ := rfl
@[simp] theorem Lane.wdogDue_setFlag (L : Lane) (a i : Nat) (b : Bool) :
    (L.setFlag a i b).wdogDue = L.wdogDue := rfl
@[simp] theorem Lane.wdogPer_setFlag (L : Lane) (a i : Nat) (b : Bool) :
    (L.setFlag a i b).wdogPer = L.wdogPer := rfl
@[simp] theorem Lane.ev_setFlag (L : Lane) (a i : Nat) (b : Bool) :
    (L.setFlag a i b).ev = L.ev := rfl
@[simp] theorem Lane.link_setFlag (L : Lane) (a i : Nat) (b : Bool) :
    (L.setFlag a i b).link = L.link := rfl
@[simp] theorem Lane.seq_setFlag (L : Lane) (a i : Nat) (b : Bool) :
    (L.setFlag a i b).seq = L.seq := rfl
@[simp] theorem Lane.banks_setFlag (L : Lane) (a i : Nat) (b : Bool) :
    (L.setFlag a i b).banks = L.banks := rfl
@[simp] theorem Lane.sram_setFlag (L : Lane) (a i : Nat) (b : Bool) :
    (L.setFlag a i b).sram = L.sram := rfl
@[simp] theorem Lane.ecc_setFlag (L : Lane) (a i : Nat) (b : Bool) :
    (L.setFlag a i b).ecc = L.ecc := rfl
@[simp] theorem Lane.flash_setFlag (L : Lane) (a i : Nat) (b : Bool) :
    (L.setFlag a i b).flash = L.flash := rfl
@[simp] theorem Lane.spx_setFlag (L : Lane) (a i : Nat) (b : Bool) :
    (L.setFlag a i b).spx = L.spx := rfl
@[simp] theorem Lane.sec_setFlag (L : Lane) (a i : Nat) (b : Bool) :
    (L.setFlag a i b).sec = L.sec := rfl
@[simp] theorem Lane.cal_setFlag (L : Lane) (a i : Nat) (b : Bool) :
    (L.setFlag a i b).cal = L.cal := rfl
@[simp] theorem Lane.enc_setFlag (L : Lane) (a i : Nat) (b : Bool) :
    (L.setFlag a i b).enc = L.enc := rfl
@[simp] theorem Lane.abs_setFlag (L : Lane) (a i : Nat) (b : Bool) :
    (L.setFlag a i b).abs_ = L.abs_ := rfl
@[simp] theorem Lane.fus_setFlag (L : Lane) (a i : Nat) (b : Bool) :
    (L.setFlag a i b).fus = L.fus := rfl
@[simp] theorem Lane.trk_setFlag (L : Lane) (a i : Nat) (b : Bool) :
    (L.setFlag a i b).trk = L.trk := rfl
@[simp] theorem Lane.gns_setFlag (L : Lane) (a i : Nat) (b : Bool) :
    (L.setFlag a i b).gns = L.gns := rfl
@[simp] theorem Lane.lpe_setFlag (L : Lane) (a i : Nat) (b : Bool) :
    (L.setFlag a i b).lpe = L.lpe := rfl
@[simp] theorem Lane.lkp_setFlag (L : Lane) (a i : Nat) (b : Bool) :
    (L.setFlag a i b).lkp = L.lkp := rfl
@[simp] theorem Lane.can_setFlag (L : Lane) (a i : Nat) (b : Bool) :
    (L.setFlag a i b).can = L.can := rfl
@[simp] theorem Lane.eth_setFlag (L : Lane) (a i : Nat) (b : Bool) :
    (L.setFlag a i b).eth = L.eth := rfl
@[simp] theorem Lane.host_setFlag (L : Lane) (a i : Nat) (b : Bool) :
    (L.setFlag a i b).host = L.host := rfl
@[simp] theorem Lane.vault_setFlag (L : Lane) (a i : Nat) (b : Bool) :
    (L.setFlag a i b).vault = L.vault := rfl
@[simp] theorem Lane.keys_setFlag (L : Lane) (a i : Nat) (b : Bool) :
    (L.setFlag a i b).keys = L.keys := rfl
@[simp] theorem Lane.pads_setFlag (L : Lane) (a i : Nat) (b : Bool) :
    (L.setFlag a i b).pads = L.pads := rfl
@[simp] theorem Lane.phase_bump (L : Lane) (a : Nat) :
    (L.bump a).phase = L.phase := rfl
@[simp] theorem Lane.lt_bump (L : Lane) (a : Nat) :
    (L.bump a).lt = L.lt := rfl
@[simp] theorem Lane.free_bump (L : Lane) (a : Nat) :
    (L.bump a).free = L.free := rfl
@[simp] theorem Lane.halted_bump (L : Lane) (a : Nat) :
    (L.bump a).halted = L.halted := rfl
@[simp] theorem Lane.reason_bump (L : Lane) (a : Nat) :
    (L.bump a).reason = L.reason := rfl
@[simp] theorem Lane.time_bump (L : Lane) (a : Nat) :
    (L.bump a).time = L.time := rfl
@[simp] theorem Lane.ctxs_bump (L : Lane) (a : Nat) :
    (L.bump a).ctxs = L.ctxs := rfl
@[simp] theorem Lane.saved_bump (L : Lane) (a : Nat) :
    (L.bump a).saved = L.saved := rfl
@[simp] theorem Lane.brkCtx_bump (L : Lane) (a : Nat) :
    (L.bump a).brkCtx = L.brkCtx := rfl
@[simp] theorem Lane.queues_bump (L : Lane) (a : Nat) :
    (L.bump a).queues = L.queues := rfl
@[simp] theorem Lane.locks_bump (L : Lane) (a : Nat) :
    (L.bump a).locks = L.locks := rfl
@[simp] theorem Lane.mat_bump (L : Lane) (a : Nat) :
    (L.bump a).mat = L.mat := rfl
@[simp] theorem Lane.spxQ_bump (L : Lane) (a : Nat) :
    (L.bump a).spxQ = L.spxQ := rfl
@[simp] theorem Lane.lpeQ_bump (L : Lane) (a : Nat) :
    (L.bump a).lpeQ = L.lpeQ := rfl
@[simp] theorem Lane.wdogDue_bump (L : Lane) (a : Nat) :
    (L.bump a).wdogDue = L.wdogDue := rfl
@[simp] theorem Lane.wdogPer_bump (L : Lane) (a : Nat) :
    (L.bump a).wdogPer = L.wdogPer := rfl
@[simp] theorem Lane.ev_bump (L : Lane) (a : Nat) :
    (L.bump a).ev = L.ev := rfl
@[simp] theorem Lane.link_bump (L : Lane) (a : Nat) :
    (L.bump a).link = L.link := rfl
@[simp] theorem Lane.seq_bump (L : Lane) (a : Nat) :
    (L.bump a).seq = L.seq := rfl
@[simp] theorem Lane.banks_bump (L : Lane) (a : Nat) :
    (L.bump a).banks = L.banks := rfl
@[simp] theorem Lane.sram_bump (L : Lane) (a : Nat) :
    (L.bump a).sram = L.sram := rfl
@[simp] theorem Lane.ecc_bump (L : Lane) (a : Nat) :
    (L.bump a).ecc = L.ecc := rfl
@[simp] theorem Lane.flash_bump (L : Lane) (a : Nat) :
    (L.bump a).flash = L.flash := rfl
@[simp] theorem Lane.spx_bump (L : Lane) (a : Nat) :
    (L.bump a).spx = L.spx := rfl
@[simp] theorem Lane.sec_bump (L : Lane) (a : Nat) :
    (L.bump a).sec = L.sec := rfl
@[simp] theorem Lane.cal_bump (L : Lane) (a : Nat) :
    (L.bump a).cal = L.cal := rfl
@[simp] theorem Lane.enc_bump (L : Lane) (a : Nat) :
    (L.bump a).enc = L.enc := rfl
@[simp] theorem Lane.abs_bump (L : Lane) (a : Nat) :
    (L.bump a).abs_ = L.abs_ := rfl
@[simp] theorem Lane.fus_bump (L : Lane) (a : Nat) :
    (L.bump a).fus = L.fus := rfl
@[simp] theorem Lane.trk_bump (L : Lane) (a : Nat) :
    (L.bump a).trk = L.trk := rfl
@[simp] theorem Lane.gns_bump (L : Lane) (a : Nat) :
    (L.bump a).gns = L.gns := rfl
@[simp] theorem Lane.lpe_bump (L : Lane) (a : Nat) :
    (L.bump a).lpe = L.lpe := rfl
@[simp] theorem Lane.lkp_bump (L : Lane) (a : Nat) :
    (L.bump a).lkp = L.lkp := rfl
@[simp] theorem Lane.can_bump (L : Lane) (a : Nat) :
    (L.bump a).can = L.can := rfl
@[simp] theorem Lane.eth_bump (L : Lane) (a : Nat) :
    (L.bump a).eth = L.eth := rfl
@[simp] theorem Lane.host_bump (L : Lane) (a : Nat) :
    (L.bump a).host = L.host := rfl
@[simp] theorem Lane.vault_bump (L : Lane) (a : Nat) :
    (L.bump a).vault = L.vault := rfl
@[simp] theorem Lane.keys_bump (L : Lane) (a : Nat) :
    (L.bump a).keys = L.keys := rfl
@[simp] theorem Lane.pads_bump (L : Lane) (a : Nat) :
    (L.bump a).pads = L.pads := rfl
@[simp] theorem Lane.phase_bumpFld (L : Lane) (a lo w : Nat) :
    (L.bumpFld a lo w).phase = L.phase := rfl
@[simp] theorem Lane.lt_bumpFld (L : Lane) (a lo w : Nat) :
    (L.bumpFld a lo w).lt = L.lt := rfl
@[simp] theorem Lane.free_bumpFld (L : Lane) (a lo w : Nat) :
    (L.bumpFld a lo w).free = L.free := rfl
@[simp] theorem Lane.halted_bumpFld (L : Lane) (a lo w : Nat) :
    (L.bumpFld a lo w).halted = L.halted := rfl
@[simp] theorem Lane.reason_bumpFld (L : Lane) (a lo w : Nat) :
    (L.bumpFld a lo w).reason = L.reason := rfl
@[simp] theorem Lane.time_bumpFld (L : Lane) (a lo w : Nat) :
    (L.bumpFld a lo w).time = L.time := rfl
@[simp] theorem Lane.ctxs_bumpFld (L : Lane) (a lo w : Nat) :
    (L.bumpFld a lo w).ctxs = L.ctxs := rfl
@[simp] theorem Lane.saved_bumpFld (L : Lane) (a lo w : Nat) :
    (L.bumpFld a lo w).saved = L.saved := rfl
@[simp] theorem Lane.brkCtx_bumpFld (L : Lane) (a lo w : Nat) :
    (L.bumpFld a lo w).brkCtx = L.brkCtx := rfl
@[simp] theorem Lane.queues_bumpFld (L : Lane) (a lo w : Nat) :
    (L.bumpFld a lo w).queues = L.queues := rfl
@[simp] theorem Lane.locks_bumpFld (L : Lane) (a lo w : Nat) :
    (L.bumpFld a lo w).locks = L.locks := rfl
@[simp] theorem Lane.mat_bumpFld (L : Lane) (a lo w : Nat) :
    (L.bumpFld a lo w).mat = L.mat := rfl
@[simp] theorem Lane.spxQ_bumpFld (L : Lane) (a lo w : Nat) :
    (L.bumpFld a lo w).spxQ = L.spxQ := rfl
@[simp] theorem Lane.lpeQ_bumpFld (L : Lane) (a lo w : Nat) :
    (L.bumpFld a lo w).lpeQ = L.lpeQ := rfl
@[simp] theorem Lane.wdogDue_bumpFld (L : Lane) (a lo w : Nat) :
    (L.bumpFld a lo w).wdogDue = L.wdogDue := rfl
@[simp] theorem Lane.wdogPer_bumpFld (L : Lane) (a lo w : Nat) :
    (L.bumpFld a lo w).wdogPer = L.wdogPer := rfl
@[simp] theorem Lane.ev_bumpFld (L : Lane) (a lo w : Nat) :
    (L.bumpFld a lo w).ev = L.ev := rfl
@[simp] theorem Lane.link_bumpFld (L : Lane) (a lo w : Nat) :
    (L.bumpFld a lo w).link = L.link := rfl
@[simp] theorem Lane.seq_bumpFld (L : Lane) (a lo w : Nat) :
    (L.bumpFld a lo w).seq = L.seq := rfl
@[simp] theorem Lane.banks_bumpFld (L : Lane) (a lo w : Nat) :
    (L.bumpFld a lo w).banks = L.banks := rfl
@[simp] theorem Lane.sram_bumpFld (L : Lane) (a lo w : Nat) :
    (L.bumpFld a lo w).sram = L.sram := rfl
@[simp] theorem Lane.ecc_bumpFld (L : Lane) (a lo w : Nat) :
    (L.bumpFld a lo w).ecc = L.ecc := rfl
@[simp] theorem Lane.flash_bumpFld (L : Lane) (a lo w : Nat) :
    (L.bumpFld a lo w).flash = L.flash := rfl
@[simp] theorem Lane.spx_bumpFld (L : Lane) (a lo w : Nat) :
    (L.bumpFld a lo w).spx = L.spx := rfl
@[simp] theorem Lane.sec_bumpFld (L : Lane) (a lo w : Nat) :
    (L.bumpFld a lo w).sec = L.sec := rfl
@[simp] theorem Lane.cal_bumpFld (L : Lane) (a lo w : Nat) :
    (L.bumpFld a lo w).cal = L.cal := rfl
@[simp] theorem Lane.enc_bumpFld (L : Lane) (a lo w : Nat) :
    (L.bumpFld a lo w).enc = L.enc := rfl
@[simp] theorem Lane.abs_bumpFld (L : Lane) (a lo w : Nat) :
    (L.bumpFld a lo w).abs_ = L.abs_ := rfl
@[simp] theorem Lane.fus_bumpFld (L : Lane) (a lo w : Nat) :
    (L.bumpFld a lo w).fus = L.fus := rfl
@[simp] theorem Lane.trk_bumpFld (L : Lane) (a lo w : Nat) :
    (L.bumpFld a lo w).trk = L.trk := rfl
@[simp] theorem Lane.gns_bumpFld (L : Lane) (a lo w : Nat) :
    (L.bumpFld a lo w).gns = L.gns := rfl
@[simp] theorem Lane.lpe_bumpFld (L : Lane) (a lo w : Nat) :
    (L.bumpFld a lo w).lpe = L.lpe := rfl
@[simp] theorem Lane.lkp_bumpFld (L : Lane) (a lo w : Nat) :
    (L.bumpFld a lo w).lkp = L.lkp := rfl
@[simp] theorem Lane.can_bumpFld (L : Lane) (a lo w : Nat) :
    (L.bumpFld a lo w).can = L.can := rfl
@[simp] theorem Lane.eth_bumpFld (L : Lane) (a lo w : Nat) :
    (L.bumpFld a lo w).eth = L.eth := rfl
@[simp] theorem Lane.host_bumpFld (L : Lane) (a lo w : Nat) :
    (L.bumpFld a lo w).host = L.host := rfl
@[simp] theorem Lane.vault_bumpFld (L : Lane) (a lo w : Nat) :
    (L.bumpFld a lo w).vault = L.vault := rfl
@[simp] theorem Lane.keys_bumpFld (L : Lane) (a lo w : Nat) :
    (L.bumpFld a lo w).keys = L.keys := rfl
@[simp] theorem Lane.pads_bumpFld (L : Lane) (a lo w : Nat) :
    (L.bumpFld a lo w).pads = L.pads := rfl
@[simp] theorem Lane.phase_wr64 (L : Lane) (a n : Nat) :
    (L.wr64 a n).phase = L.phase := rfl
@[simp] theorem Lane.lt_wr64 (L : Lane) (a n : Nat) :
    (L.wr64 a n).lt = L.lt := rfl
@[simp] theorem Lane.free_wr64 (L : Lane) (a n : Nat) :
    (L.wr64 a n).free = L.free := rfl
@[simp] theorem Lane.halted_wr64 (L : Lane) (a n : Nat) :
    (L.wr64 a n).halted = L.halted := rfl
@[simp] theorem Lane.reason_wr64 (L : Lane) (a n : Nat) :
    (L.wr64 a n).reason = L.reason := rfl
@[simp] theorem Lane.time_wr64 (L : Lane) (a n : Nat) :
    (L.wr64 a n).time = L.time := rfl
@[simp] theorem Lane.ctxs_wr64 (L : Lane) (a n : Nat) :
    (L.wr64 a n).ctxs = L.ctxs := rfl
@[simp] theorem Lane.saved_wr64 (L : Lane) (a n : Nat) :
    (L.wr64 a n).saved = L.saved := rfl
@[simp] theorem Lane.brkCtx_wr64 (L : Lane) (a n : Nat) :
    (L.wr64 a n).brkCtx = L.brkCtx := rfl
@[simp] theorem Lane.queues_wr64 (L : Lane) (a n : Nat) :
    (L.wr64 a n).queues = L.queues := rfl
@[simp] theorem Lane.locks_wr64 (L : Lane) (a n : Nat) :
    (L.wr64 a n).locks = L.locks := rfl
@[simp] theorem Lane.mat_wr64 (L : Lane) (a n : Nat) :
    (L.wr64 a n).mat = L.mat := rfl
@[simp] theorem Lane.spxQ_wr64 (L : Lane) (a n : Nat) :
    (L.wr64 a n).spxQ = L.spxQ := rfl
@[simp] theorem Lane.lpeQ_wr64 (L : Lane) (a n : Nat) :
    (L.wr64 a n).lpeQ = L.lpeQ := rfl
@[simp] theorem Lane.wdogDue_wr64 (L : Lane) (a n : Nat) :
    (L.wr64 a n).wdogDue = L.wdogDue := rfl
@[simp] theorem Lane.wdogPer_wr64 (L : Lane) (a n : Nat) :
    (L.wr64 a n).wdogPer = L.wdogPer := rfl
@[simp] theorem Lane.ev_wr64 (L : Lane) (a n : Nat) :
    (L.wr64 a n).ev = L.ev := rfl
@[simp] theorem Lane.link_wr64 (L : Lane) (a n : Nat) :
    (L.wr64 a n).link = L.link := rfl
@[simp] theorem Lane.seq_wr64 (L : Lane) (a n : Nat) :
    (L.wr64 a n).seq = L.seq := rfl
@[simp] theorem Lane.banks_wr64 (L : Lane) (a n : Nat) :
    (L.wr64 a n).banks = L.banks := rfl
@[simp] theorem Lane.sram_wr64 (L : Lane) (a n : Nat) :
    (L.wr64 a n).sram = L.sram := rfl
@[simp] theorem Lane.ecc_wr64 (L : Lane) (a n : Nat) :
    (L.wr64 a n).ecc = L.ecc := rfl
@[simp] theorem Lane.flash_wr64 (L : Lane) (a n : Nat) :
    (L.wr64 a n).flash = L.flash := rfl
@[simp] theorem Lane.spx_wr64 (L : Lane) (a n : Nat) :
    (L.wr64 a n).spx = L.spx := rfl
@[simp] theorem Lane.sec_wr64 (L : Lane) (a n : Nat) :
    (L.wr64 a n).sec = L.sec := rfl
@[simp] theorem Lane.cal_wr64 (L : Lane) (a n : Nat) :
    (L.wr64 a n).cal = L.cal := rfl
@[simp] theorem Lane.enc_wr64 (L : Lane) (a n : Nat) :
    (L.wr64 a n).enc = L.enc := rfl
@[simp] theorem Lane.abs_wr64 (L : Lane) (a n : Nat) :
    (L.wr64 a n).abs_ = L.abs_ := rfl
@[simp] theorem Lane.fus_wr64 (L : Lane) (a n : Nat) :
    (L.wr64 a n).fus = L.fus := rfl
@[simp] theorem Lane.trk_wr64 (L : Lane) (a n : Nat) :
    (L.wr64 a n).trk = L.trk := rfl
@[simp] theorem Lane.gns_wr64 (L : Lane) (a n : Nat) :
    (L.wr64 a n).gns = L.gns := rfl
@[simp] theorem Lane.lpe_wr64 (L : Lane) (a n : Nat) :
    (L.wr64 a n).lpe = L.lpe := rfl
@[simp] theorem Lane.lkp_wr64 (L : Lane) (a n : Nat) :
    (L.wr64 a n).lkp = L.lkp := rfl
@[simp] theorem Lane.can_wr64 (L : Lane) (a n : Nat) :
    (L.wr64 a n).can = L.can := rfl
@[simp] theorem Lane.eth_wr64 (L : Lane) (a n : Nat) :
    (L.wr64 a n).eth = L.eth := rfl
@[simp] theorem Lane.host_wr64 (L : Lane) (a n : Nat) :
    (L.wr64 a n).host = L.host := rfl
@[simp] theorem Lane.vault_wr64 (L : Lane) (a n : Nat) :
    (L.wr64 a n).vault = L.vault := rfl
@[simp] theorem Lane.keys_wr64 (L : Lane) (a n : Nat) :
    (L.wr64 a n).keys = L.keys := rfl
@[simp] theorem Lane.pads_wr64 (L : Lane) (a n : Nat) :
    (L.wr64 a n).pads = L.pads := rfl
@[simp] theorem Lane.phase_plainWrite (L : Lane) (a : Nat) (v : Word) :
    (L.plainWrite a v).phase = L.phase := rfl
@[simp] theorem Lane.lt_plainWrite (L : Lane) (a : Nat) (v : Word) :
    (L.plainWrite a v).lt = L.lt := rfl
@[simp] theorem Lane.free_plainWrite (L : Lane) (a : Nat) (v : Word) :
    (L.plainWrite a v).free = L.free := rfl
@[simp] theorem Lane.halted_plainWrite (L : Lane) (a : Nat) (v : Word) :
    (L.plainWrite a v).halted = L.halted := rfl
@[simp] theorem Lane.reason_plainWrite (L : Lane) (a : Nat) (v : Word) :
    (L.plainWrite a v).reason = L.reason := rfl
@[simp] theorem Lane.time_plainWrite (L : Lane) (a : Nat) (v : Word) :
    (L.plainWrite a v).time = L.time := rfl
@[simp] theorem Lane.ctxs_plainWrite (L : Lane) (a : Nat) (v : Word) :
    (L.plainWrite a v).ctxs = L.ctxs := rfl
@[simp] theorem Lane.saved_plainWrite (L : Lane) (a : Nat) (v : Word) :
    (L.plainWrite a v).saved = L.saved := rfl
@[simp] theorem Lane.brkCtx_plainWrite (L : Lane) (a : Nat) (v : Word) :
    (L.plainWrite a v).brkCtx = L.brkCtx := rfl
@[simp] theorem Lane.queues_plainWrite (L : Lane) (a : Nat) (v : Word) :
    (L.plainWrite a v).queues = L.queues := rfl
@[simp] theorem Lane.locks_plainWrite (L : Lane) (a : Nat) (v : Word) :
    (L.plainWrite a v).locks = L.locks := rfl
@[simp] theorem Lane.mat_plainWrite (L : Lane) (a : Nat) (v : Word) :
    (L.plainWrite a v).mat = L.mat := rfl
@[simp] theorem Lane.spxQ_plainWrite (L : Lane) (a : Nat) (v : Word) :
    (L.plainWrite a v).spxQ = L.spxQ := rfl
@[simp] theorem Lane.lpeQ_plainWrite (L : Lane) (a : Nat) (v : Word) :
    (L.plainWrite a v).lpeQ = L.lpeQ := rfl
@[simp] theorem Lane.wdogDue_plainWrite (L : Lane) (a : Nat) (v : Word) :
    (L.plainWrite a v).wdogDue = L.wdogDue := rfl
@[simp] theorem Lane.wdogPer_plainWrite (L : Lane) (a : Nat) (v : Word) :
    (L.plainWrite a v).wdogPer = L.wdogPer := rfl
@[simp] theorem Lane.ev_plainWrite (L : Lane) (a : Nat) (v : Word) :
    (L.plainWrite a v).ev = L.ev := rfl
@[simp] theorem Lane.link_plainWrite (L : Lane) (a : Nat) (v : Word) :
    (L.plainWrite a v).link = L.link := rfl
@[simp] theorem Lane.seq_plainWrite (L : Lane) (a : Nat) (v : Word) :
    (L.plainWrite a v).seq = L.seq := rfl
@[simp] theorem Lane.banks_plainWrite (L : Lane) (a : Nat) (v : Word) :
    (L.plainWrite a v).banks = L.banks := rfl
@[simp] theorem Lane.sram_plainWrite (L : Lane) (a : Nat) (v : Word) :
    (L.plainWrite a v).sram = L.sram := rfl
@[simp] theorem Lane.ecc_plainWrite (L : Lane) (a : Nat) (v : Word) :
    (L.plainWrite a v).ecc = L.ecc := rfl
@[simp] theorem Lane.flash_plainWrite (L : Lane) (a : Nat) (v : Word) :
    (L.plainWrite a v).flash = L.flash := rfl
@[simp] theorem Lane.spx_plainWrite (L : Lane) (a : Nat) (v : Word) :
    (L.plainWrite a v).spx = L.spx := rfl
@[simp] theorem Lane.sec_plainWrite (L : Lane) (a : Nat) (v : Word) :
    (L.plainWrite a v).sec = L.sec := rfl
@[simp] theorem Lane.cal_plainWrite (L : Lane) (a : Nat) (v : Word) :
    (L.plainWrite a v).cal = L.cal := rfl
@[simp] theorem Lane.enc_plainWrite (L : Lane) (a : Nat) (v : Word) :
    (L.plainWrite a v).enc = L.enc := rfl
@[simp] theorem Lane.abs_plainWrite (L : Lane) (a : Nat) (v : Word) :
    (L.plainWrite a v).abs_ = L.abs_ := rfl
@[simp] theorem Lane.fus_plainWrite (L : Lane) (a : Nat) (v : Word) :
    (L.plainWrite a v).fus = L.fus := rfl
@[simp] theorem Lane.trk_plainWrite (L : Lane) (a : Nat) (v : Word) :
    (L.plainWrite a v).trk = L.trk := rfl
@[simp] theorem Lane.gns_plainWrite (L : Lane) (a : Nat) (v : Word) :
    (L.plainWrite a v).gns = L.gns := rfl
@[simp] theorem Lane.lpe_plainWrite (L : Lane) (a : Nat) (v : Word) :
    (L.plainWrite a v).lpe = L.lpe := rfl
@[simp] theorem Lane.lkp_plainWrite (L : Lane) (a : Nat) (v : Word) :
    (L.plainWrite a v).lkp = L.lkp := rfl
@[simp] theorem Lane.can_plainWrite (L : Lane) (a : Nat) (v : Word) :
    (L.plainWrite a v).can = L.can := rfl
@[simp] theorem Lane.eth_plainWrite (L : Lane) (a : Nat) (v : Word) :
    (L.plainWrite a v).eth = L.eth := rfl
@[simp] theorem Lane.host_plainWrite (L : Lane) (a : Nat) (v : Word) :
    (L.plainWrite a v).host = L.host := rfl
@[simp] theorem Lane.vault_plainWrite (L : Lane) (a : Nat) (v : Word) :
    (L.plainWrite a v).vault = L.vault := rfl
@[simp] theorem Lane.keys_plainWrite (L : Lane) (a : Nat) (v : Word) :
    (L.plainWrite a v).keys = L.keys := rfl
@[simp] theorem Lane.pads_plainWrite (L : Lane) (a : Nat) (v : Word) :
    (L.plainWrite a v).pads = L.pads := rfl
@[simp] theorem Lane.phase_plainAfter (L : Lane) (a : Nat) :
    (L.plainAfter a).phase = L.phase := rfl
@[simp] theorem Lane.lt_plainAfter (L : Lane) (a : Nat) :
    (L.plainAfter a).lt = L.lt := rfl
@[simp] theorem Lane.free_plainAfter (L : Lane) (a : Nat) :
    (L.plainAfter a).free = L.free := rfl
@[simp] theorem Lane.halted_plainAfter (L : Lane) (a : Nat) :
    (L.plainAfter a).halted = L.halted := rfl
@[simp] theorem Lane.reason_plainAfter (L : Lane) (a : Nat) :
    (L.plainAfter a).reason = L.reason := rfl
@[simp] theorem Lane.time_plainAfter (L : Lane) (a : Nat) :
    (L.plainAfter a).time = L.time := rfl
@[simp] theorem Lane.ctxs_plainAfter (L : Lane) (a : Nat) :
    (L.plainAfter a).ctxs = L.ctxs := rfl
@[simp] theorem Lane.saved_plainAfter (L : Lane) (a : Nat) :
    (L.plainAfter a).saved = L.saved := rfl
@[simp] theorem Lane.brkCtx_plainAfter (L : Lane) (a : Nat) :
    (L.plainAfter a).brkCtx = L.brkCtx := rfl
@[simp] theorem Lane.queues_plainAfter (L : Lane) (a : Nat) :
    (L.plainAfter a).queues = L.queues := rfl
@[simp] theorem Lane.locks_plainAfter (L : Lane) (a : Nat) :
    (L.plainAfter a).locks = L.locks := rfl
@[simp] theorem Lane.mat_plainAfter (L : Lane) (a : Nat) :
    (L.plainAfter a).mat = L.mat := rfl
@[simp] theorem Lane.spxQ_plainAfter (L : Lane) (a : Nat) :
    (L.plainAfter a).spxQ = L.spxQ := rfl
@[simp] theorem Lane.lpeQ_plainAfter (L : Lane) (a : Nat) :
    (L.plainAfter a).lpeQ = L.lpeQ := rfl
@[simp] theorem Lane.wdogDue_plainAfter (L : Lane) (a : Nat) :
    (L.plainAfter a).wdogDue = L.wdogDue := rfl
@[simp] theorem Lane.wdogPer_plainAfter (L : Lane) (a : Nat) :
    (L.plainAfter a).wdogPer = L.wdogPer := rfl
@[simp] theorem Lane.ev_plainAfter (L : Lane) (a : Nat) :
    (L.plainAfter a).ev = L.ev := rfl
@[simp] theorem Lane.link_plainAfter (L : Lane) (a : Nat) :
    (L.plainAfter a).link = L.link := rfl
@[simp] theorem Lane.seq_plainAfter (L : Lane) (a : Nat) :
    (L.plainAfter a).seq = L.seq := rfl
@[simp] theorem Lane.banks_plainAfter (L : Lane) (a : Nat) :
    (L.plainAfter a).banks = L.banks := rfl
@[simp] theorem Lane.sram_plainAfter (L : Lane) (a : Nat) :
    (L.plainAfter a).sram = L.sram := rfl
@[simp] theorem Lane.ecc_plainAfter (L : Lane) (a : Nat) :
    (L.plainAfter a).ecc = L.ecc := rfl
@[simp] theorem Lane.flash_plainAfter (L : Lane) (a : Nat) :
    (L.plainAfter a).flash = L.flash := rfl
@[simp] theorem Lane.spx_plainAfter (L : Lane) (a : Nat) :
    (L.plainAfter a).spx = L.spx := rfl
@[simp] theorem Lane.sec_plainAfter (L : Lane) (a : Nat) :
    (L.plainAfter a).sec = L.sec := rfl
@[simp] theorem Lane.cal_plainAfter (L : Lane) (a : Nat) :
    (L.plainAfter a).cal = L.cal := rfl
@[simp] theorem Lane.enc_plainAfter (L : Lane) (a : Nat) :
    (L.plainAfter a).enc = L.enc := rfl
@[simp] theorem Lane.abs_plainAfter (L : Lane) (a : Nat) :
    (L.plainAfter a).abs_ = L.abs_ := rfl
@[simp] theorem Lane.fus_plainAfter (L : Lane) (a : Nat) :
    (L.plainAfter a).fus = L.fus := rfl
@[simp] theorem Lane.trk_plainAfter (L : Lane) (a : Nat) :
    (L.plainAfter a).trk = L.trk := rfl
@[simp] theorem Lane.gns_plainAfter (L : Lane) (a : Nat) :
    (L.plainAfter a).gns = L.gns := rfl
@[simp] theorem Lane.lpe_plainAfter (L : Lane) (a : Nat) :
    (L.plainAfter a).lpe = L.lpe := rfl
@[simp] theorem Lane.lkp_plainAfter (L : Lane) (a : Nat) :
    (L.plainAfter a).lkp = L.lkp := rfl
@[simp] theorem Lane.can_plainAfter (L : Lane) (a : Nat) :
    (L.plainAfter a).can = L.can := rfl
@[simp] theorem Lane.eth_plainAfter (L : Lane) (a : Nat) :
    (L.plainAfter a).eth = L.eth := rfl
@[simp] theorem Lane.host_plainAfter (L : Lane) (a : Nat) :
    (L.plainAfter a).host = L.host := rfl
@[simp] theorem Lane.vault_plainAfter (L : Lane) (a : Nat) :
    (L.plainAfter a).vault = L.vault := rfl
@[simp] theorem Lane.keys_plainAfter (L : Lane) (a : Nat) :
    (L.plainAfter a).keys = L.keys := rfl
@[simp] theorem Lane.pads_plainAfter (L : Lane) (a : Nat) :
    (L.plainAfter a).pads = L.pads := rfl

/-! ### Registers of the rind -/

@[simp] theorem Rind.steer_wr (r : Rind) (a : Nat) (v : Word) :
    (r.wr a v).steer = r.steer := rfl
@[simp] theorem Rind.act_wr (r : Rind) (a : Nat) (v : Word) :
    (r.wr a v).act = r.act := rfl
@[simp] theorem Rind.none_wr (r : Rind) (a : Nat) (v : Word) :
    (r.wr a v).none_ = r.none_ := rfl
@[simp] theorem Rind.noneAt_wr (r : Rind) (a : Nat) (v : Word) :
    (r.wr a v).noneAt = r.noneAt := rfl
@[simp] theorem Rind.everHeld_wr (r : Rind) (a : Nat) (v : Word) :
    (r.wr a v).everHeld = r.everHeld := rfl
@[simp] theorem Rind.beat_wr (r : Rind) (a : Nat) (v : Word) :
    (r.wr a v).beat = r.beat := rfl
@[simp] theorem Rind.readyAt_wr (r : Rind) (a : Nat) (v : Word) :
    (r.wr a v).readyAt = r.readyAt := rfl
@[simp] theorem Rind.gaveAt_wr (r : Rind) (a : Nat) (v : Word) :
    (r.wr a v).gaveAt = r.gaveAt := rfl
@[simp] theorem Rind.diffAt_wr (r : Rind) (a : Nat) (v : Word) :
    (r.wr a v).diffAt = r.diffAt := rfl
@[simp] theorem Rind.diffSaid_wr (r : Rind) (a : Nat) (v : Word) :
    (r.wr a v).diffSaid = r.diffSaid := rfl
@[simp] theorem Rind.plan_wr (r : Rind) (a : Nat) (v : Word) :
    (r.wr a v).plan = r.plan := rfl
@[simp] theorem Rind.proving_wr (r : Rind) (a : Nat) (v : Word) :
    (r.wr a v).proving = r.proving := rfl
@[simp] theorem Rind.toCheck_wr (r : Rind) (a : Nat) (v : Word) :
    (r.wr a v).toCheck = r.toCheck := rfl
@[simp] theorem Rind.trans_wr (r : Rind) (a : Nat) (v : Word) :
    (r.wr a v).trans = r.trans := rfl
@[simp] theorem Rind.wakeOwed_wr (r : Rind) (a : Nat) (v : Word) :
    (r.wr a v).wakeOwed = r.wakeOwed := rfl
@[simp] theorem Rind.resetLow_wr (r : Rind) (a : Nat) (v : Word) :
    (r.wr a v).resetLow = r.resetLow := rfl
@[simp] theorem Rind.vlogOk_wr (r : Rind) (a : Nat) (v : Word) :
    (r.wr a v).vlogOk = r.vlogOk := rfl
@[simp] theorem Rind.holdEmpty_wr (r : Rind) (a : Nat) (v : Word) :
    (r.wr a v).holdEmpty = r.holdEmpty := rfl
@[simp] theorem Rind.vlogRec_wr (r : Rind) (a : Nat) (v : Word) :
    (r.wr a v).vlogRec = r.vlogRec := rfl
@[simp] theorem Rind.xtalCoast_wr (r : Rind) (a : Nat) (v : Word) :
    (r.wr a v).xtalCoast = r.xtalCoast := rfl
@[simp] theorem Rind.coastRC_wr (r : Rind) (a : Nat) (v : Word) :
    (r.wr a v).coastRC = r.coastRC := rfl
@[simp] theorem Rind.xtRate_wr (r : Rind) (a : Nat) (v : Word) :
    (r.wr a v).xtRate = r.xtRate := rfl
@[simp] theorem Rind.coast_wr (r : Rind) (a : Nat) (v : Word) :
    (r.wr a v).coast = r.coast := rfl
@[simp] theorem Rind.mgmt_wr (r : Rind) (a : Nat) (v : Word) :
    (r.wr a v).mgmt = r.mgmt := rfl
@[simp] theorem Rind.mcnt_wr (r : Rind) (a : Nat) (v : Word) :
    (r.wr a v).mcnt = r.mcnt := rfl
@[simp] theorem Rind.txen_wr (r : Rind) (a : Nat) (v : Word) :
    (r.wr a v).txen = r.txen := rfl
@[simp] theorem Rind.dirReq_wr (r : Rind) (a : Nat) (v : Word) :
    (r.wr a v).dirReq = r.dirReq := rfl
@[simp] theorem Rind.steer_setFld (r : Rind) (a lo w v : Nat) :
    (r.setFld a lo w v).steer = r.steer := rfl
@[simp] theorem Rind.act_setFld (r : Rind) (a lo w v : Nat) :
    (r.setFld a lo w v).act = r.act := rfl
@[simp] theorem Rind.none_setFld (r : Rind) (a lo w v : Nat) :
    (r.setFld a lo w v).none_ = r.none_ := rfl
@[simp] theorem Rind.noneAt_setFld (r : Rind) (a lo w v : Nat) :
    (r.setFld a lo w v).noneAt = r.noneAt := rfl
@[simp] theorem Rind.everHeld_setFld (r : Rind) (a lo w v : Nat) :
    (r.setFld a lo w v).everHeld = r.everHeld := rfl
@[simp] theorem Rind.beat_setFld (r : Rind) (a lo w v : Nat) :
    (r.setFld a lo w v).beat = r.beat := rfl
@[simp] theorem Rind.readyAt_setFld (r : Rind) (a lo w v : Nat) :
    (r.setFld a lo w v).readyAt = r.readyAt := rfl
@[simp] theorem Rind.gaveAt_setFld (r : Rind) (a lo w v : Nat) :
    (r.setFld a lo w v).gaveAt = r.gaveAt := rfl
@[simp] theorem Rind.diffAt_setFld (r : Rind) (a lo w v : Nat) :
    (r.setFld a lo w v).diffAt = r.diffAt := rfl
@[simp] theorem Rind.diffSaid_setFld (r : Rind) (a lo w v : Nat) :
    (r.setFld a lo w v).diffSaid = r.diffSaid := rfl
@[simp] theorem Rind.plan_setFld (r : Rind) (a lo w v : Nat) :
    (r.setFld a lo w v).plan = r.plan := rfl
@[simp] theorem Rind.proving_setFld (r : Rind) (a lo w v : Nat) :
    (r.setFld a lo w v).proving = r.proving := rfl
@[simp] theorem Rind.toCheck_setFld (r : Rind) (a lo w v : Nat) :
    (r.setFld a lo w v).toCheck = r.toCheck := rfl
@[simp] theorem Rind.trans_setFld (r : Rind) (a lo w v : Nat) :
    (r.setFld a lo w v).trans = r.trans := rfl
@[simp] theorem Rind.wakeOwed_setFld (r : Rind) (a lo w v : Nat) :
    (r.setFld a lo w v).wakeOwed = r.wakeOwed := rfl
@[simp] theorem Rind.resetLow_setFld (r : Rind) (a lo w v : Nat) :
    (r.setFld a lo w v).resetLow = r.resetLow := rfl
@[simp] theorem Rind.vlogOk_setFld (r : Rind) (a lo w v : Nat) :
    (r.setFld a lo w v).vlogOk = r.vlogOk := rfl
@[simp] theorem Rind.holdEmpty_setFld (r : Rind) (a lo w v : Nat) :
    (r.setFld a lo w v).holdEmpty = r.holdEmpty := rfl
@[simp] theorem Rind.vlogRec_setFld (r : Rind) (a lo w v : Nat) :
    (r.setFld a lo w v).vlogRec = r.vlogRec := rfl
@[simp] theorem Rind.xtalCoast_setFld (r : Rind) (a lo w v : Nat) :
    (r.setFld a lo w v).xtalCoast = r.xtalCoast := rfl
@[simp] theorem Rind.coastRC_setFld (r : Rind) (a lo w v : Nat) :
    (r.setFld a lo w v).coastRC = r.coastRC := rfl
@[simp] theorem Rind.xtRate_setFld (r : Rind) (a lo w v : Nat) :
    (r.setFld a lo w v).xtRate = r.xtRate := rfl
@[simp] theorem Rind.coast_setFld (r : Rind) (a lo w v : Nat) :
    (r.setFld a lo w v).coast = r.coast := rfl
@[simp] theorem Rind.mgmt_setFld (r : Rind) (a lo w v : Nat) :
    (r.setFld a lo w v).mgmt = r.mgmt := rfl
@[simp] theorem Rind.mcnt_setFld (r : Rind) (a lo w v : Nat) :
    (r.setFld a lo w v).mcnt = r.mcnt := rfl
@[simp] theorem Rind.txen_setFld (r : Rind) (a lo w v : Nat) :
    (r.setFld a lo w v).txen = r.txen := rfl
@[simp] theorem Rind.dirReq_setFld (r : Rind) (a lo w v : Nat) :
    (r.setFld a lo w v).dirReq = r.dirReq := rfl
@[simp] theorem Rind.steer_setFlag (r : Rind) (a i : Nat) (b : Bool) :
    (r.setFlag a i b).steer = r.steer := rfl
@[simp] theorem Rind.act_setFlag (r : Rind) (a i : Nat) (b : Bool) :
    (r.setFlag a i b).act = r.act := rfl
@[simp] theorem Rind.none_setFlag (r : Rind) (a i : Nat) (b : Bool) :
    (r.setFlag a i b).none_ = r.none_ := rfl
@[simp] theorem Rind.noneAt_setFlag (r : Rind) (a i : Nat) (b : Bool) :
    (r.setFlag a i b).noneAt = r.noneAt := rfl
@[simp] theorem Rind.everHeld_setFlag (r : Rind) (a i : Nat) (b : Bool) :
    (r.setFlag a i b).everHeld = r.everHeld := rfl
@[simp] theorem Rind.beat_setFlag (r : Rind) (a i : Nat) (b : Bool) :
    (r.setFlag a i b).beat = r.beat := rfl
@[simp] theorem Rind.readyAt_setFlag (r : Rind) (a i : Nat) (b : Bool) :
    (r.setFlag a i b).readyAt = r.readyAt := rfl
@[simp] theorem Rind.gaveAt_setFlag (r : Rind) (a i : Nat) (b : Bool) :
    (r.setFlag a i b).gaveAt = r.gaveAt := rfl
@[simp] theorem Rind.diffAt_setFlag (r : Rind) (a i : Nat) (b : Bool) :
    (r.setFlag a i b).diffAt = r.diffAt := rfl
@[simp] theorem Rind.diffSaid_setFlag (r : Rind) (a i : Nat) (b : Bool) :
    (r.setFlag a i b).diffSaid = r.diffSaid := rfl
@[simp] theorem Rind.plan_setFlag (r : Rind) (a i : Nat) (b : Bool) :
    (r.setFlag a i b).plan = r.plan := rfl
@[simp] theorem Rind.proving_setFlag (r : Rind) (a i : Nat) (b : Bool) :
    (r.setFlag a i b).proving = r.proving := rfl
@[simp] theorem Rind.toCheck_setFlag (r : Rind) (a i : Nat) (b : Bool) :
    (r.setFlag a i b).toCheck = r.toCheck := rfl
@[simp] theorem Rind.trans_setFlag (r : Rind) (a i : Nat) (b : Bool) :
    (r.setFlag a i b).trans = r.trans := rfl
@[simp] theorem Rind.wakeOwed_setFlag (r : Rind) (a i : Nat) (b : Bool) :
    (r.setFlag a i b).wakeOwed = r.wakeOwed := rfl
@[simp] theorem Rind.resetLow_setFlag (r : Rind) (a i : Nat) (b : Bool) :
    (r.setFlag a i b).resetLow = r.resetLow := rfl
@[simp] theorem Rind.vlogOk_setFlag (r : Rind) (a i : Nat) (b : Bool) :
    (r.setFlag a i b).vlogOk = r.vlogOk := rfl
@[simp] theorem Rind.holdEmpty_setFlag (r : Rind) (a i : Nat) (b : Bool) :
    (r.setFlag a i b).holdEmpty = r.holdEmpty := rfl
@[simp] theorem Rind.vlogRec_setFlag (r : Rind) (a i : Nat) (b : Bool) :
    (r.setFlag a i b).vlogRec = r.vlogRec := rfl
@[simp] theorem Rind.xtalCoast_setFlag (r : Rind) (a i : Nat) (b : Bool) :
    (r.setFlag a i b).xtalCoast = r.xtalCoast := rfl
@[simp] theorem Rind.coastRC_setFlag (r : Rind) (a i : Nat) (b : Bool) :
    (r.setFlag a i b).coastRC = r.coastRC := rfl
@[simp] theorem Rind.xtRate_setFlag (r : Rind) (a i : Nat) (b : Bool) :
    (r.setFlag a i b).xtRate = r.xtRate := rfl
@[simp] theorem Rind.coast_setFlag (r : Rind) (a i : Nat) (b : Bool) :
    (r.setFlag a i b).coast = r.coast := rfl
@[simp] theorem Rind.mgmt_setFlag (r : Rind) (a i : Nat) (b : Bool) :
    (r.setFlag a i b).mgmt = r.mgmt := rfl
@[simp] theorem Rind.mcnt_setFlag (r : Rind) (a i : Nat) (b : Bool) :
    (r.setFlag a i b).mcnt = r.mcnt := rfl
@[simp] theorem Rind.txen_setFlag (r : Rind) (a i : Nat) (b : Bool) :
    (r.setFlag a i b).txen = r.txen := rfl
@[simp] theorem Rind.dirReq_setFlag (r : Rind) (a i : Nat) (b : Bool) :
    (r.setFlag a i b).dirReq = r.dirReq := rfl
@[simp] theorem Rind.steer_bumpFld (r : Rind) (a lo w : Nat) :
    (r.bumpFld a lo w).steer = r.steer := rfl
@[simp] theorem Rind.act_bumpFld (r : Rind) (a lo w : Nat) :
    (r.bumpFld a lo w).act = r.act := rfl
@[simp] theorem Rind.none_bumpFld (r : Rind) (a lo w : Nat) :
    (r.bumpFld a lo w).none_ = r.none_ := rfl
@[simp] theorem Rind.noneAt_bumpFld (r : Rind) (a lo w : Nat) :
    (r.bumpFld a lo w).noneAt = r.noneAt := rfl
@[simp] theorem Rind.everHeld_bumpFld (r : Rind) (a lo w : Nat) :
    (r.bumpFld a lo w).everHeld = r.everHeld := rfl
@[simp] theorem Rind.beat_bumpFld (r : Rind) (a lo w : Nat) :
    (r.bumpFld a lo w).beat = r.beat := rfl
@[simp] theorem Rind.readyAt_bumpFld (r : Rind) (a lo w : Nat) :
    (r.bumpFld a lo w).readyAt = r.readyAt := rfl
@[simp] theorem Rind.gaveAt_bumpFld (r : Rind) (a lo w : Nat) :
    (r.bumpFld a lo w).gaveAt = r.gaveAt := rfl
@[simp] theorem Rind.diffAt_bumpFld (r : Rind) (a lo w : Nat) :
    (r.bumpFld a lo w).diffAt = r.diffAt := rfl
@[simp] theorem Rind.diffSaid_bumpFld (r : Rind) (a lo w : Nat) :
    (r.bumpFld a lo w).diffSaid = r.diffSaid := rfl
@[simp] theorem Rind.plan_bumpFld (r : Rind) (a lo w : Nat) :
    (r.bumpFld a lo w).plan = r.plan := rfl
@[simp] theorem Rind.proving_bumpFld (r : Rind) (a lo w : Nat) :
    (r.bumpFld a lo w).proving = r.proving := rfl
@[simp] theorem Rind.toCheck_bumpFld (r : Rind) (a lo w : Nat) :
    (r.bumpFld a lo w).toCheck = r.toCheck := rfl
@[simp] theorem Rind.trans_bumpFld (r : Rind) (a lo w : Nat) :
    (r.bumpFld a lo w).trans = r.trans := rfl
@[simp] theorem Rind.wakeOwed_bumpFld (r : Rind) (a lo w : Nat) :
    (r.bumpFld a lo w).wakeOwed = r.wakeOwed := rfl
@[simp] theorem Rind.resetLow_bumpFld (r : Rind) (a lo w : Nat) :
    (r.bumpFld a lo w).resetLow = r.resetLow := rfl
@[simp] theorem Rind.vlogOk_bumpFld (r : Rind) (a lo w : Nat) :
    (r.bumpFld a lo w).vlogOk = r.vlogOk := rfl
@[simp] theorem Rind.holdEmpty_bumpFld (r : Rind) (a lo w : Nat) :
    (r.bumpFld a lo w).holdEmpty = r.holdEmpty := rfl
@[simp] theorem Rind.vlogRec_bumpFld (r : Rind) (a lo w : Nat) :
    (r.bumpFld a lo w).vlogRec = r.vlogRec := rfl
@[simp] theorem Rind.xtalCoast_bumpFld (r : Rind) (a lo w : Nat) :
    (r.bumpFld a lo w).xtalCoast = r.xtalCoast := rfl
@[simp] theorem Rind.coastRC_bumpFld (r : Rind) (a lo w : Nat) :
    (r.bumpFld a lo w).coastRC = r.coastRC := rfl
@[simp] theorem Rind.xtRate_bumpFld (r : Rind) (a lo w : Nat) :
    (r.bumpFld a lo w).xtRate = r.xtRate := rfl
@[simp] theorem Rind.coast_bumpFld (r : Rind) (a lo w : Nat) :
    (r.bumpFld a lo w).coast = r.coast := rfl
@[simp] theorem Rind.mgmt_bumpFld (r : Rind) (a lo w : Nat) :
    (r.bumpFld a lo w).mgmt = r.mgmt := rfl
@[simp] theorem Rind.mcnt_bumpFld (r : Rind) (a lo w : Nat) :
    (r.bumpFld a lo w).mcnt = r.mcnt := rfl
@[simp] theorem Rind.txen_bumpFld (r : Rind) (a lo w : Nat) :
    (r.bumpFld a lo w).txen = r.txen := rfl
@[simp] theorem Rind.dirReq_bumpFld (r : Rind) (a lo w : Nat) :
    (r.bumpFld a lo w).dirReq = r.dirReq := rfl

/-! ### Contexts -/

@[simp] theorem Lane.ctx_setCtx_self (L : Lane) (c : Nat) (x : Ctx) : (L.setCtx c x).ctx c = x := by
  simp [Lane.ctx, Lane.setCtx]
theorem Lane.ctx_setCtx_ne (L : Lane) {c d : Nat} (x : Ctx) (h : d ≠ c) :
    (L.setCtx c x).ctx d = L.ctx d := by
  simp [Lane.ctx, Lane.setCtx, Tab.get_set_ne _ _ _ _ h]
@[simp] theorem Lane.ctx_modCtx_self (L : Lane) (c : Nat) (f : Ctx → Ctx) :
    (L.modCtx c f).ctx c = f (L.ctx c) := by simp [Lane.modCtx]
theorem Lane.ctx_modCtx_ne (L : Lane) {c d : Nat} (f : Ctx → Ctx) (h : d ≠ c) :
    (L.modCtx c f).ctx d = L.ctx d := Lane.ctx_setCtx_ne L _ h
@[simp] theorem Lane.rd_setCtx (L : Lane) (c : Nat) (x : Ctx) (a : Nat) :
    (L.setCtx c x).rd a = L.rd a := rfl
@[simp] theorem Lane.rd_modCtx (L : Lane) (c : Nat) (f : Ctx → Ctx) (a : Nat) :
    (L.modCtx c f).rd a = L.rd a := rfl
@[simp] theorem Lane.ctx_wr (L : Lane) (a : Nat) (v : Word) (c : Nat) : (L.wr a v).ctx c = L.ctx c := rfl
@[simp] theorem Lane.ctx_setFld (L : Lane) (a lo w v c : Nat) : (L.setFld a lo w v).ctx c = L.ctx c := rfl
@[simp] theorem Lane.ctx_setFlag (L : Lane) (a i : Nat) (b : Bool) (c : Nat) :
    (L.setFlag a i b).ctx c = L.ctx c := rfl

@[simp] theorem Lane.regs_setCtx (L : Lane) (c : Nat) (x : Ctx) :
    (L.setCtx c x).regs = L.regs := rfl
@[simp] theorem Lane.phase_setCtx (L : Lane) (c : Nat) (x : Ctx) :
    (L.setCtx c x).phase = L.phase := rfl
@[simp] theorem Lane.lt_setCtx (L : Lane) (c : Nat) (x : Ctx) :
    (L.setCtx c x).lt = L.lt := rfl
@[simp] theorem Lane.free_setCtx (L : Lane) (c : Nat) (x : Ctx) :
    (L.setCtx c x).free = L.free := rfl
@[simp] theorem Lane.halted_setCtx (L : Lane) (c : Nat) (x : Ctx) :
    (L.setCtx c x).halted = L.halted := rfl
@[simp] theorem Lane.reason_setCtx (L : Lane) (c : Nat) (x : Ctx) :
    (L.setCtx c x).reason = L.reason := rfl
@[simp] theorem Lane.time_setCtx (L : Lane) (c : Nat) (x : Ctx) :
    (L.setCtx c x).time = L.time := rfl
@[simp] theorem Lane.saved_setCtx (L : Lane) (c : Nat) (x : Ctx) :
    (L.setCtx c x).saved = L.saved := rfl
@[simp] theorem Lane.brkCtx_setCtx (L : Lane) (c : Nat) (x : Ctx) :
    (L.setCtx c x).brkCtx = L.brkCtx := rfl
@[simp] theorem Lane.queues_setCtx (L : Lane) (c : Nat) (x : Ctx) :
    (L.setCtx c x).queues = L.queues := rfl
@[simp] theorem Lane.locks_setCtx (L : Lane) (c : Nat) (x : Ctx) :
    (L.setCtx c x).locks = L.locks := rfl
@[simp] theorem Lane.mat_setCtx (L : Lane) (c : Nat) (x : Ctx) :
    (L.setCtx c x).mat = L.mat := rfl
@[simp] theorem Lane.spxQ_setCtx (L : Lane) (c : Nat) (x : Ctx) :
    (L.setCtx c x).spxQ = L.spxQ := rfl
@[simp] theorem Lane.lpeQ_setCtx (L : Lane) (c : Nat) (x : Ctx) :
    (L.setCtx c x).lpeQ = L.lpeQ := rfl
@[simp] theorem Lane.wdogDue_setCtx (L : Lane) (c : Nat) (x : Ctx) :
    (L.setCtx c x).wdogDue = L.wdogDue := rfl
@[simp] theorem Lane.wdogPer_setCtx (L : Lane) (c : Nat) (x : Ctx) :
    (L.setCtx c x).wdogPer = L.wdogPer := rfl
@[simp] theorem Lane.ev_setCtx (L : Lane) (c : Nat) (x : Ctx) :
    (L.setCtx c x).ev = L.ev := rfl
@[simp] theorem Lane.link_setCtx (L : Lane) (c : Nat) (x : Ctx) :
    (L.setCtx c x).link = L.link := rfl
@[simp] theorem Lane.seq_setCtx (L : Lane) (c : Nat) (x : Ctx) :
    (L.setCtx c x).seq = L.seq := rfl
@[simp] theorem Lane.banks_setCtx (L : Lane) (c : Nat) (x : Ctx) :
    (L.setCtx c x).banks = L.banks := rfl
@[simp] theorem Lane.sram_setCtx (L : Lane) (c : Nat) (x : Ctx) :
    (L.setCtx c x).sram = L.sram := rfl
@[simp] theorem Lane.ecc_setCtx (L : Lane) (c : Nat) (x : Ctx) :
    (L.setCtx c x).ecc = L.ecc := rfl
@[simp] theorem Lane.flash_setCtx (L : Lane) (c : Nat) (x : Ctx) :
    (L.setCtx c x).flash = L.flash := rfl
@[simp] theorem Lane.spx_setCtx (L : Lane) (c : Nat) (x : Ctx) :
    (L.setCtx c x).spx = L.spx := rfl
@[simp] theorem Lane.sec_setCtx (L : Lane) (c : Nat) (x : Ctx) :
    (L.setCtx c x).sec = L.sec := rfl
@[simp] theorem Lane.cal_setCtx (L : Lane) (c : Nat) (x : Ctx) :
    (L.setCtx c x).cal = L.cal := rfl
@[simp] theorem Lane.enc_setCtx (L : Lane) (c : Nat) (x : Ctx) :
    (L.setCtx c x).enc = L.enc := rfl
@[simp] theorem Lane.abs_setCtx (L : Lane) (c : Nat) (x : Ctx) :
    (L.setCtx c x).abs_ = L.abs_ := rfl
@[simp] theorem Lane.fus_setCtx (L : Lane) (c : Nat) (x : Ctx) :
    (L.setCtx c x).fus = L.fus := rfl
@[simp] theorem Lane.trk_setCtx (L : Lane) (c : Nat) (x : Ctx) :
    (L.setCtx c x).trk = L.trk := rfl
@[simp] theorem Lane.gns_setCtx (L : Lane) (c : Nat) (x : Ctx) :
    (L.setCtx c x).gns = L.gns := rfl
@[simp] theorem Lane.lpe_setCtx (L : Lane) (c : Nat) (x : Ctx) :
    (L.setCtx c x).lpe = L.lpe := rfl
@[simp] theorem Lane.lkp_setCtx (L : Lane) (c : Nat) (x : Ctx) :
    (L.setCtx c x).lkp = L.lkp := rfl
@[simp] theorem Lane.can_setCtx (L : Lane) (c : Nat) (x : Ctx) :
    (L.setCtx c x).can = L.can := rfl
@[simp] theorem Lane.eth_setCtx (L : Lane) (c : Nat) (x : Ctx) :
    (L.setCtx c x).eth = L.eth := rfl
@[simp] theorem Lane.host_setCtx (L : Lane) (c : Nat) (x : Ctx) :
    (L.setCtx c x).host = L.host := rfl
@[simp] theorem Lane.vault_setCtx (L : Lane) (c : Nat) (x : Ctx) :
    (L.setCtx c x).vault = L.vault := rfl
@[simp] theorem Lane.keys_setCtx (L : Lane) (c : Nat) (x : Ctx) :
    (L.setCtx c x).keys = L.keys := rfl
@[simp] theorem Lane.pads_setCtx (L : Lane) (c : Nat) (x : Ctx) :
    (L.setCtx c x).pads = L.pads := rfl
@[simp] theorem Lane.regs_modCtx (L : Lane) (c : Nat) (f : Ctx → Ctx) :
    (L.modCtx c f).regs = L.regs := rfl
@[simp] theorem Lane.phase_modCtx (L : Lane) (c : Nat) (f : Ctx → Ctx) :
    (L.modCtx c f).phase = L.phase := rfl
@[simp] theorem Lane.lt_modCtx (L : Lane) (c : Nat) (f : Ctx → Ctx) :
    (L.modCtx c f).lt = L.lt := rfl
@[simp] theorem Lane.free_modCtx (L : Lane) (c : Nat) (f : Ctx → Ctx) :
    (L.modCtx c f).free = L.free := rfl
@[simp] theorem Lane.halted_modCtx (L : Lane) (c : Nat) (f : Ctx → Ctx) :
    (L.modCtx c f).halted = L.halted := rfl
@[simp] theorem Lane.reason_modCtx (L : Lane) (c : Nat) (f : Ctx → Ctx) :
    (L.modCtx c f).reason = L.reason := rfl
@[simp] theorem Lane.time_modCtx (L : Lane) (c : Nat) (f : Ctx → Ctx) :
    (L.modCtx c f).time = L.time := rfl
@[simp] theorem Lane.saved_modCtx (L : Lane) (c : Nat) (f : Ctx → Ctx) :
    (L.modCtx c f).saved = L.saved := rfl
@[simp] theorem Lane.brkCtx_modCtx (L : Lane) (c : Nat) (f : Ctx → Ctx) :
    (L.modCtx c f).brkCtx = L.brkCtx := rfl
@[simp] theorem Lane.queues_modCtx (L : Lane) (c : Nat) (f : Ctx → Ctx) :
    (L.modCtx c f).queues = L.queues := rfl
@[simp] theorem Lane.locks_modCtx (L : Lane) (c : Nat) (f : Ctx → Ctx) :
    (L.modCtx c f).locks = L.locks := rfl
@[simp] theorem Lane.mat_modCtx (L : Lane) (c : Nat) (f : Ctx → Ctx) :
    (L.modCtx c f).mat = L.mat := rfl
@[simp] theorem Lane.spxQ_modCtx (L : Lane) (c : Nat) (f : Ctx → Ctx) :
    (L.modCtx c f).spxQ = L.spxQ := rfl
@[simp] theorem Lane.lpeQ_modCtx (L : Lane) (c : Nat) (f : Ctx → Ctx) :
    (L.modCtx c f).lpeQ = L.lpeQ := rfl
@[simp] theorem Lane.wdogDue_modCtx (L : Lane) (c : Nat) (f : Ctx → Ctx) :
    (L.modCtx c f).wdogDue = L.wdogDue := rfl
@[simp] theorem Lane.wdogPer_modCtx (L : Lane) (c : Nat) (f : Ctx → Ctx) :
    (L.modCtx c f).wdogPer = L.wdogPer := rfl
@[simp] theorem Lane.ev_modCtx (L : Lane) (c : Nat) (f : Ctx → Ctx) :
    (L.modCtx c f).ev = L.ev := rfl
@[simp] theorem Lane.link_modCtx (L : Lane) (c : Nat) (f : Ctx → Ctx) :
    (L.modCtx c f).link = L.link := rfl
@[simp] theorem Lane.seq_modCtx (L : Lane) (c : Nat) (f : Ctx → Ctx) :
    (L.modCtx c f).seq = L.seq := rfl
@[simp] theorem Lane.banks_modCtx (L : Lane) (c : Nat) (f : Ctx → Ctx) :
    (L.modCtx c f).banks = L.banks := rfl
@[simp] theorem Lane.sram_modCtx (L : Lane) (c : Nat) (f : Ctx → Ctx) :
    (L.modCtx c f).sram = L.sram := rfl
@[simp] theorem Lane.ecc_modCtx (L : Lane) (c : Nat) (f : Ctx → Ctx) :
    (L.modCtx c f).ecc = L.ecc := rfl
@[simp] theorem Lane.flash_modCtx (L : Lane) (c : Nat) (f : Ctx → Ctx) :
    (L.modCtx c f).flash = L.flash := rfl
@[simp] theorem Lane.spx_modCtx (L : Lane) (c : Nat) (f : Ctx → Ctx) :
    (L.modCtx c f).spx = L.spx := rfl
@[simp] theorem Lane.sec_modCtx (L : Lane) (c : Nat) (f : Ctx → Ctx) :
    (L.modCtx c f).sec = L.sec := rfl
@[simp] theorem Lane.cal_modCtx (L : Lane) (c : Nat) (f : Ctx → Ctx) :
    (L.modCtx c f).cal = L.cal := rfl
@[simp] theorem Lane.enc_modCtx (L : Lane) (c : Nat) (f : Ctx → Ctx) :
    (L.modCtx c f).enc = L.enc := rfl
@[simp] theorem Lane.abs_modCtx (L : Lane) (c : Nat) (f : Ctx → Ctx) :
    (L.modCtx c f).abs_ = L.abs_ := rfl
@[simp] theorem Lane.fus_modCtx (L : Lane) (c : Nat) (f : Ctx → Ctx) :
    (L.modCtx c f).fus = L.fus := rfl
@[simp] theorem Lane.trk_modCtx (L : Lane) (c : Nat) (f : Ctx → Ctx) :
    (L.modCtx c f).trk = L.trk := rfl
@[simp] theorem Lane.gns_modCtx (L : Lane) (c : Nat) (f : Ctx → Ctx) :
    (L.modCtx c f).gns = L.gns := rfl
@[simp] theorem Lane.lpe_modCtx (L : Lane) (c : Nat) (f : Ctx → Ctx) :
    (L.modCtx c f).lpe = L.lpe := rfl
@[simp] theorem Lane.lkp_modCtx (L : Lane) (c : Nat) (f : Ctx → Ctx) :
    (L.modCtx c f).lkp = L.lkp := rfl
@[simp] theorem Lane.can_modCtx (L : Lane) (c : Nat) (f : Ctx → Ctx) :
    (L.modCtx c f).can = L.can := rfl
@[simp] theorem Lane.eth_modCtx (L : Lane) (c : Nat) (f : Ctx → Ctx) :
    (L.modCtx c f).eth = L.eth := rfl
@[simp] theorem Lane.host_modCtx (L : Lane) (c : Nat) (f : Ctx → Ctx) :
    (L.modCtx c f).host = L.host := rfl
@[simp] theorem Lane.vault_modCtx (L : Lane) (c : Nat) (f : Ctx → Ctx) :
    (L.modCtx c f).vault = L.vault := rfl
@[simp] theorem Lane.keys_modCtx (L : Lane) (c : Nat) (f : Ctx → Ctx) :
    (L.modCtx c f).keys = L.keys := rfl
@[simp] theorem Lane.pads_modCtx (L : Lane) (c : Nat) (f : Ctx → Ctx) :
    (L.modCtx c f).pads = L.pads := rfl
@[simp] theorem Ctx.f_wx (x : Ctx) (r : Nat) (v : Word) :
    (x.wx r v).f = x.f := by unfold Ctx.wx; split <;> rfl
@[simp] theorem Ctx.v_wx (x : Ctx) (r : Nat) (v : Word) :
    (x.wx r v).v = x.v := by unfold Ctx.wx; split <;> rfl
@[simp] theorem Ctx.pc_wx (x : Ctx) (r : Nat) (v : Word) :
    (x.wx r v).pc = x.pc := by unfold Ctx.wx; split <;> rfl
@[simp] theorem Ctx.flg_wx (x : Ctx) (r : Nat) (v : Word) :
    (x.wx r v).flg = x.flg := by unfold Ctx.wx; split <;> rfl
@[simp] theorem Ctx.ltLatch_wx (x : Ctx) (r : Nat) (v : Word) :
    (x.wx r v).ltLatch = x.ltLatch := by unfold Ctx.wx; split <;> rfl
@[simp] theorem Ctx.outLatch_wx (x : Ctx) (r : Nat) (v : Word) :
    (x.wx r v).outLatch = x.outLatch := by unfold Ctx.wx; split <;> rfl
@[simp] theorem Ctx.st_wx (x : Ctx) (r : Nat) (v : Word) :
    (x.wx r v).st = x.st := by unfold Ctx.wx; split <;> rfl
@[simp] theorem Ctx.prio_wx (x : Ctx) (r : Nat) (v : Word) :
    (x.wx r v).prio = x.prio := by unfold Ctx.wx; split <;> rfl
@[simp] theorem Ctx.aff_wx (x : Ctx) (r : Nat) (v : Word) :
    (x.wx r v).aff = x.aff := by unfold Ctx.wx; split <;> rfl
@[simp] theorem Ctx.rlq_wx (x : Ctx) (r : Nat) (v : Word) :
    (x.wx r v).rlq = x.rlq := by unfold Ctx.wx; split <;> rfl
@[simp] theorem Ctx.dlmiss_wx (x : Ctx) (r : Nat) (v : Word) :
    (x.wx r v).dlmiss = x.dlmiss := by unfold Ctx.wx; split <;> rfl
@[simp] theorem Ctx.core_wx (x : Ctx) (r : Nat) (v : Word) :
    (x.wx r v).core = x.core := by unfold Ctx.wx; split <;> rfl
@[simp] theorem Ctx.wait_wx (x : Ctx) (r : Nat) (v : Word) :
    (x.wx r v).wait = x.wait := by unfold Ctx.wx; split <;> rfl
@[simp] theorem Ctx.deadline_wx (x : Ctx) (r : Nat) (v : Word) :
    (x.wx r v).deadline = x.deadline := by unfold Ctx.wx; split <;> rfl
@[simp] theorem Ctx.missed_wx (x : Ctx) (r : Nat) (v : Word) :
    (x.wx r v).missed = x.missed := by unfold Ctx.wx; split <;> rfl
@[simp] theorem Ctx.dlRel_wx (x : Ctx) (r : Nat) (v : Word) :
    (x.wx r v).dlRel = x.dlRel := by unfold Ctx.wx; split <;> rfl
@[simp] theorem Ctx.cause_wx (x : Ctx) (r : Nat) (v : Word) :
    (x.wx r v).cause = x.cause := by unfold Ctx.wx; split <;> rfl
@[simp] theorem Ctx.faddr_wx (x : Ctx) (r : Nat) (v : Word) :
    (x.wx r v).faddr = x.faddr := by unfold Ctx.wx; split <;> rfl
@[simp] theorem Ctx.rgnBase_wx (x : Ctx) (r : Nat) (v : Word) :
    (x.wx r v).rgnBase = x.rgnBase := by unfold Ctx.wx; split <;> rfl
@[simp] theorem Ctx.rgnLim_wx (x : Ctx) (r : Nat) (v : Word) :
    (x.wx r v).rgnLim = x.rgnLim := by unfold Ctx.wx; split <;> rfl
@[simp] theorem Ctx.yielded_wx (x : Ctx) (r : Nat) (v : Word) :
    (x.wx r v).yielded = x.yielded := by unfold Ctx.wx; split <;> rfl
@[simp] theorem Ctx.x_wf (x : Ctx) (r : Nat) (v : Word) :
    (x.wf r v).x = x.x := rfl
@[simp] theorem Ctx.v_wf (x : Ctx) (r : Nat) (v : Word) :
    (x.wf r v).v = x.v := rfl
@[simp] theorem Ctx.pc_wf (x : Ctx) (r : Nat) (v : Word) :
    (x.wf r v).pc = x.pc := rfl
@[simp] theorem Ctx.flg_wf (x : Ctx) (r : Nat) (v : Word) :
    (x.wf r v).flg = x.flg := rfl
@[simp] theorem Ctx.ltLatch_wf (x : Ctx) (r : Nat) (v : Word) :
    (x.wf r v).ltLatch = x.ltLatch := rfl
@[simp] theorem Ctx.outLatch_wf (x : Ctx) (r : Nat) (v : Word) :
    (x.wf r v).outLatch = x.outLatch := rfl
@[simp] theorem Ctx.st_wf (x : Ctx) (r : Nat) (v : Word) :
    (x.wf r v).st = x.st := rfl
@[simp] theorem Ctx.prio_wf (x : Ctx) (r : Nat) (v : Word) :
    (x.wf r v).prio = x.prio := rfl
@[simp] theorem Ctx.aff_wf (x : Ctx) (r : Nat) (v : Word) :
    (x.wf r v).aff = x.aff := rfl
@[simp] theorem Ctx.rlq_wf (x : Ctx) (r : Nat) (v : Word) :
    (x.wf r v).rlq = x.rlq := rfl
@[simp] theorem Ctx.dlmiss_wf (x : Ctx) (r : Nat) (v : Word) :
    (x.wf r v).dlmiss = x.dlmiss := rfl
@[simp] theorem Ctx.core_wf (x : Ctx) (r : Nat) (v : Word) :
    (x.wf r v).core = x.core := rfl
@[simp] theorem Ctx.wait_wf (x : Ctx) (r : Nat) (v : Word) :
    (x.wf r v).wait = x.wait := rfl
@[simp] theorem Ctx.deadline_wf (x : Ctx) (r : Nat) (v : Word) :
    (x.wf r v).deadline = x.deadline := rfl
@[simp] theorem Ctx.missed_wf (x : Ctx) (r : Nat) (v : Word) :
    (x.wf r v).missed = x.missed := rfl
@[simp] theorem Ctx.dlRel_wf (x : Ctx) (r : Nat) (v : Word) :
    (x.wf r v).dlRel = x.dlRel := rfl
@[simp] theorem Ctx.cause_wf (x : Ctx) (r : Nat) (v : Word) :
    (x.wf r v).cause = x.cause := rfl
@[simp] theorem Ctx.faddr_wf (x : Ctx) (r : Nat) (v : Word) :
    (x.wf r v).faddr = x.faddr := rfl
@[simp] theorem Ctx.rgnBase_wf (x : Ctx) (r : Nat) (v : Word) :
    (x.wf r v).rgnBase = x.rgnBase := rfl
@[simp] theorem Ctx.rgnLim_wf (x : Ctx) (r : Nat) (v : Word) :
    (x.wf r v).rgnLim = x.rgnLim := rfl
@[simp] theorem Ctx.yielded_wf (x : Ctx) (r : Nat) (v : Word) :
    (x.wf r v).yielded = x.yielded := rfl
@[simp] theorem Ctx.x_wv (x : Ctx) (r : Nat) (v : VWord) :
    (x.wv r v).x = x.x := rfl
@[simp] theorem Ctx.f_wv (x : Ctx) (r : Nat) (v : VWord) :
    (x.wv r v).f = x.f := rfl
@[simp] theorem Ctx.pc_wv (x : Ctx) (r : Nat) (v : VWord) :
    (x.wv r v).pc = x.pc := rfl
@[simp] theorem Ctx.flg_wv (x : Ctx) (r : Nat) (v : VWord) :
    (x.wv r v).flg = x.flg := rfl
@[simp] theorem Ctx.ltLatch_wv (x : Ctx) (r : Nat) (v : VWord) :
    (x.wv r v).ltLatch = x.ltLatch := rfl
@[simp] theorem Ctx.outLatch_wv (x : Ctx) (r : Nat) (v : VWord) :
    (x.wv r v).outLatch = x.outLatch := rfl
@[simp] theorem Ctx.st_wv (x : Ctx) (r : Nat) (v : VWord) :
    (x.wv r v).st = x.st := rfl
@[simp] theorem Ctx.prio_wv (x : Ctx) (r : Nat) (v : VWord) :
    (x.wv r v).prio = x.prio := rfl
@[simp] theorem Ctx.aff_wv (x : Ctx) (r : Nat) (v : VWord) :
    (x.wv r v).aff = x.aff := rfl
@[simp] theorem Ctx.rlq_wv (x : Ctx) (r : Nat) (v : VWord) :
    (x.wv r v).rlq = x.rlq := rfl
@[simp] theorem Ctx.dlmiss_wv (x : Ctx) (r : Nat) (v : VWord) :
    (x.wv r v).dlmiss = x.dlmiss := rfl
@[simp] theorem Ctx.core_wv (x : Ctx) (r : Nat) (v : VWord) :
    (x.wv r v).core = x.core := rfl
@[simp] theorem Ctx.wait_wv (x : Ctx) (r : Nat) (v : VWord) :
    (x.wv r v).wait = x.wait := rfl
@[simp] theorem Ctx.deadline_wv (x : Ctx) (r : Nat) (v : VWord) :
    (x.wv r v).deadline = x.deadline := rfl
@[simp] theorem Ctx.missed_wv (x : Ctx) (r : Nat) (v : VWord) :
    (x.wv r v).missed = x.missed := rfl
@[simp] theorem Ctx.dlRel_wv (x : Ctx) (r : Nat) (v : VWord) :
    (x.wv r v).dlRel = x.dlRel := rfl
@[simp] theorem Ctx.cause_wv (x : Ctx) (r : Nat) (v : VWord) :
    (x.wv r v).cause = x.cause := rfl
@[simp] theorem Ctx.faddr_wv (x : Ctx) (r : Nat) (v : VWord) :
    (x.wv r v).faddr = x.faddr := rfl
@[simp] theorem Ctx.rgnBase_wv (x : Ctx) (r : Nat) (v : VWord) :
    (x.wv r v).rgnBase = x.rgnBase := rfl
@[simp] theorem Ctx.rgnLim_wv (x : Ctx) (r : Nat) (v : VWord) :
    (x.wv r v).rgnLim = x.rgnLim := rfl
@[simp] theorem Ctx.yielded_wv (x : Ctx) (r : Nat) (v : VWord) :
    (x.wv r v).yielded = x.yielded := rfl

/-- x0 reads 0, whatever is written (R99). -/
@[simp] theorem Ctx.rx_zero (x : Ctx) : x.rx 0 = 0 := rfl
theorem Ctx.rx_wx (x : Ctx) (r k : Nat) (v : Word) :
    (x.wx k v).rx r = if r = k ∧ r ≠ 0 then v else x.rx r := by
  unfold Ctx.rx Ctx.wx
  by_cases hr : r = 0
  · simp [hr]
  · by_cases hk : k = 0
    · subst hk; simp [hr]
    · simp only [hr, hk, if_false, Tab.get_set]
      by_cases h : r = k <;> simp [h, hk]
@[simp] theorem Ctx.rf_wx (x : Ctx) (r k : Nat) (v : Word) : (x.wx k v).rf r = x.rf r := by
  simp [Ctx.rf]
@[simp] theorem Ctx.rv_wx (x : Ctx) (r k : Nat) (v : Word) : (x.wx k v).rv r = x.rv r := by
  simp [Ctx.rv]
theorem Ctx.rf_wf (x : Ctx) (r k : Nat) (v : Word) :
    (x.wf k v).rf r = if r = k then v else x.rf r := Tab.get_set ..
@[simp] theorem Ctx.rx_wf (x : Ctx) (r k : Nat) (v : Word) : (x.wf k v).rx r = x.rx r := rfl
@[simp] theorem Ctx.rv_wf (x : Ctx) (r k : Nat) (v : Word) : (x.wf k v).rv r = x.rv r := rfl
theorem Ctx.rv_wv (x : Ctx) (r k : Nat) (v : VWord) :
    (x.wv k v).rv r = if r = k then v else x.rv r := Tab.get_set ..
@[simp] theorem Ctx.rx_wv (x : Ctx) (r k : Nat) (v : VWord) : (x.wv k v).rx r = x.rx r := rfl
@[simp] theorem Ctx.rf_wv (x : Ctx) (r k : Nat) (v : VWord) : (x.wv k v).rf r = x.rf r := rfl

end Sys2Proof.Machine
end

