-- ==== Sys2Proof/Laws/Issue.lean ====
section
/-!
SUPPORT. What issuing an instruction can do, and the frames of an instruction that changes its context alone.
-/

namespace Sys2Proof.Machine

/-- A ready context runs the instruction's own effect, when its word is one and it may run it. -/
theorem State.issue_ready {s : State} {l : LaneId} {c : CtxNo} {wf priv : Bool} {body : IRes}
    (h : Ready s l c) (hw : wf = true) (hp : priv = false ∨ c.val = 0) :
    s.issue l c wf priv body =
      match body with
      | .ok t => t
      | .fault cause addr => s.takeFault l c cause addr
      | .hold => s := by
  obtain ⟨h1, h2, h3⟩ := h
  have hp' : (priv && decide (c.val ≠ 0)) = false := by
    rcases hp with hp | hp <;> simp [hp]
  rw [State.ctxOf] at h2
  unfold State.issue
  rw [if_pos h1, h2]
  simp only [h3, hw, hp']
  rfl

/-- A ready context whose word is no instruction, or one for context 0 alone, takes the fault. -/
theorem State.issue_illegal {s : State} {l : LaneId} {c : CtxNo} {priv : Bool} {body : IRes}
    (h : Ready s l c) : s.issue l c false priv body = s.takeFault l c 1 none := by
  obtain ⟨h1, h2, h3⟩ := h
  rw [State.ctxOf] at h2
  simp [State.issue, h1, h2, h3]

theorem State.issue_priv {s : State} {l : LaneId} {c : CtxNo} {body : IRes}
    (h : Ready s l c) (hc : c.val ≠ 0) : s.issue l c true true body = s.takeFault l c 2 none := by
  obtain ⟨h1, h2, h3⟩ := h
  rw [State.ctxOf] at h2
  have hc' : ¬c = 0 := fun h => hc (by simp [h])
  simp [State.issue, h1, h2, h3, hc']

/-- A context that cannot issue leaves the state as it is. -/
theorem State.issue_not {s : State} {l : LaneId} {c : CtxNo} {wf priv : Bool} {body : IRes}
    (h : s.canIssue l c = false) : s.issue l c wf priv body = s := by simp [State.issue, h]

theorem OnlyLane.refl (l : LaneId) (s : State) : OnlyLane l s s := ⟨rfl, rfl, rfl, rfl, rfl, rfl, rfl⟩

theorem OnlyLane.setLane (l : LaneId) (s : State) (L : Lane) : OnlyLane l s (s.setLane l L) := by
  simp [OnlyLane]

theorem OnlyLane.modLane (l : LaneId) (s : State) (f : Lane → Lane) : OnlyLane l s (s.modLane l f) := by
  simp [OnlyLane]

theorem OnlyLane.trans {l : LaneId} {s t u : State} (h : OnlyLane l s t) (k : OnlyLane l t u) :
    OnlyLane l s u := by
  obtain ⟨h1, h2, h3, h4, h5, h6, h7⟩ := h
  obtain ⟨k1, k2, k3, k4, k5, k6, k7⟩ := k
  exact ⟨k1.trans h1, k2.trans h2, k3.trans h3, k4.trans h4, k5.trans h5, k6.trans h6, k7.trans h7⟩

theorem OnlyCtx.modCtx (l : LaneId) (c : Nat) (s : State) (f : Ctx → Ctx) :
    OnlyCtx l c s (s.modLane l (fun L => L.modCtx c f)) := by
  refine ⟨OnlyLane.modLane l s _, ?_, ?_, ?_⟩
  · rw [State.lane_modLane]; rfl
  · intro d hd; simp [State.ctxOf, Lane.ctx_modCtx_ne _ _ hd]
  · intro a; simp [State.byte]

@[simp] theorem State.ctxOf_modLane (s : State) (l : LaneId) (c : Nat) (f : Ctx → Ctx) :
    (s.modLane l (fun L => L.modCtx c f)).ctxOf l c = f (s.ctxOf l c) := by simp [State.ctxOf]

/-- An instruction that changes its context alone executes in a ready context. -/
theorem State.issue_onCtx {s : State} {l : LaneId} {c : CtxNo} {wf : Bool} (f : Ctx → Ctx)
    (h : Ready s l c) (hw : wf = true) :
    OnlyCtx l c s (s.issue l c wf false (s.onCtx l c f)) ∧
      (s.issue l c wf false (s.onCtx l c f)).ctxOf l c =
        { f (s.ctxOf l c) with pc := (s.ctxOf l c).pc + 4 } := by
  rw [State.issue_ready h hw (.inl rfl)]
  exact ⟨OnlyCtx.modCtx l c s _, by simp [State.onCtx, Ctx.step]⟩

/-- An integer result in a ready context. -/
theorem GivesX.of_onCtx {i : Instr} {s : State} {l : LaneId} {c : CtxNo} {rd : RegNo} {wf : Bool}
    {v : Ctx → Word} (he : exec i s = .next (s.issue l c wf false (s.onCtx l c (fun x => x.wx rd (v x)))))
    (h : Ready s l c) (hw : wf = true) : GivesX i l c rd v s := by
  obtain ⟨h1, h2⟩ := State.issue_onCtx (fun x => x.wx rd (v x)) h hw
  refine ⟨_, he, h1, ?_, ?_, ?_⟩
  · rw [h2]
  · intro r; rw [h2]; exact Ctx.rx_wx (s.ctxOf l c) r rd _
  · rw [h2]; unfold Ctx.wx; split <;> rfl

/-- An integer result with exceptions in a ready context. -/
theorem GivesXF.of_onCtx {i : Instr} {s : State} {l : LaneId} {c : CtxNo} {rd : RegNo} {wf : Bool}
    {v : Ctx → Word × Exc}
    (he : exec i s = .next (s.issue l c wf false
      (s.onCtx l c (fun x => (x.stick (v x).2).wx rd (v x).1))))
    (h : Ready s l c) (hw : wf = true) : GivesXF i l c rd v s := by
  obtain ⟨h1, h2⟩ := State.issue_onCtx (fun x => (x.stick (v x).2).wx rd (v x).1) h hw
  refine ⟨_, he, h1, ?_, ?_, ?_, ?_⟩
  · rw [h2]
  · rw [h2]; exact Ctx.flg_wx ..
  · intro r; rw [h2]; exact Ctx.rx_wx ((s.ctxOf l c).stick _) r rd _
  · rw [h2]; unfold Ctx.wx; split <;> rfl

/-- A float result in a ready context. -/
theorem GivesF.of_onCtx {i : Instr} {s : State} {l : LaneId} {c : CtxNo} {rd : RegNo} {wf : Bool}
    {v : Ctx → Word × Exc}
    (he : exec i s = .next (s.issue l c wf false
      (s.onCtx l c (fun x => (x.stick (v x).2).wf rd (v x).1))))
    (h : Ready s l c) (hw : wf = true) : GivesF i l c rd v s := by
  obtain ⟨h1, h2⟩ := State.issue_onCtx (fun x => (x.stick (v x).2).wf rd (v x).1) h hw
  refine ⟨_, he, h1, ?_, ?_, ?_, ?_⟩
  · rw [h2]
  · rw [h2]; rfl
  · intro r; rw [h2]; exact Ctx.rf_wf ((s.ctxOf l c).stick _) r rd _
  · rw [h2]; rfl

end Sys2Proof.Machine
end

