-- ==== Sys2Proof/Laws/Ctx.lean ====
section
/-!
SUPPORT. What the operations on contexts and the raising of events leave alone: every field of the lane but those
they are about, and every register but those they name.
-/

namespace Sys2Proof.Machine

/-- Two lanes agree but for their registers and contexts, the images of contexts that left a core and the event
queue; SRAM and flash among the rest. -/
def Lane.sameBulk (L M : Lane) : Prop :=
  { M with regs := [], ctxs := [], saved := [], ev := EvQueue.reset } =
    { L with regs := [], ctxs := [], saved := [], ev := EvQueue.reset }

theorem Lane.sameBulk_refl (L : Lane) : L.sameBulk L := rfl
theorem Lane.sameBulk_trans {L M N : Lane} (h : L.sameBulk M) (k : M.sameBulk N) : L.sameBulk N :=
  Eq.trans k h

theorem Lane.sameBulk_phase {L M : Lane} (h : L.sameBulk M) : M.phase = L.phase := by
  have k := congrArg Lane.phase h; exact k

theorem Lane.sameBulk_lt {L M : Lane} (h : L.sameBulk M) : M.lt = L.lt := by
  have k := congrArg Lane.lt h; exact k

theorem Lane.sameBulk_free {L M : Lane} (h : L.sameBulk M) : M.free = L.free := by
  have k := congrArg Lane.free h; exact k

theorem Lane.sameBulk_halted {L M : Lane} (h : L.sameBulk M) : M.halted = L.halted := by
  have k := congrArg Lane.halted h; exact k

theorem Lane.sameBulk_reason {L M : Lane} (h : L.sameBulk M) : M.reason = L.reason := by
  have k := congrArg Lane.reason h; exact k

theorem Lane.sameBulk_time {L M : Lane} (h : L.sameBulk M) : M.time = L.time := by
  have k := congrArg Lane.time h; exact k

theorem Lane.sameBulk_brkCtx {L M : Lane} (h : L.sameBulk M) : M.brkCtx = L.brkCtx := by
  have k := congrArg Lane.brkCtx h; exact k

theorem Lane.sameBulk_queues {L M : Lane} (h : L.sameBulk M) : M.queues = L.queues := by
  have k := congrArg Lane.queues h; exact k

theorem Lane.sameBulk_locks {L M : Lane} (h : L.sameBulk M) : M.locks = L.locks := by
  have k := congrArg Lane.locks h; exact k

theorem Lane.sameBulk_mat {L M : Lane} (h : L.sameBulk M) : M.mat = L.mat := by
  have k := congrArg Lane.mat h; exact k

theorem Lane.sameBulk_spxQ {L M : Lane} (h : L.sameBulk M) : M.spxQ = L.spxQ := by
  have k := congrArg Lane.spxQ h; exact k

theorem Lane.sameBulk_lpeQ {L M : Lane} (h : L.sameBulk M) : M.lpeQ = L.lpeQ := by
  have k := congrArg Lane.lpeQ h; exact k

theorem Lane.sameBulk_wdogDue {L M : Lane} (h : L.sameBulk M) : M.wdogDue = L.wdogDue := by
  have k := congrArg Lane.wdogDue h; exact k

theorem Lane.sameBulk_wdogPer {L M : Lane} (h : L.sameBulk M) : M.wdogPer = L.wdogPer := by
  have k := congrArg Lane.wdogPer h; exact k

theorem Lane.sameBulk_link {L M : Lane} (h : L.sameBulk M) : M.link = L.link := by
  have k := congrArg Lane.link h; exact k

theorem Lane.sameBulk_seq {L M : Lane} (h : L.sameBulk M) : M.seq = L.seq := by
  have k := congrArg Lane.seq h; exact k

theorem Lane.sameBulk_banks {L M : Lane} (h : L.sameBulk M) : M.banks = L.banks := by
  have k := congrArg Lane.banks h; exact k

theorem Lane.sameBulk_sram {L M : Lane} (h : L.sameBulk M) : M.sram = L.sram := by
  have k := congrArg Lane.sram h; exact k

theorem Lane.sameBulk_ecc {L M : Lane} (h : L.sameBulk M) : M.ecc = L.ecc := by
  have k := congrArg Lane.ecc h; exact k

theorem Lane.sameBulk_flash {L M : Lane} (h : L.sameBulk M) : M.flash = L.flash := by
  have k := congrArg Lane.flash h; exact k

theorem Lane.sameBulk_spx {L M : Lane} (h : L.sameBulk M) : M.spx = L.spx := by
  have k := congrArg Lane.spx h; exact k

theorem Lane.sameBulk_sec {L M : Lane} (h : L.sameBulk M) : M.sec = L.sec := by
  have k := congrArg Lane.sec h; exact k

theorem Lane.sameBulk_cal {L M : Lane} (h : L.sameBulk M) : M.cal = L.cal := by
  have k := congrArg Lane.cal h; exact k

theorem Lane.sameBulk_enc {L M : Lane} (h : L.sameBulk M) : M.enc = L.enc := by
  have k := congrArg Lane.enc h; exact k

theorem Lane.sameBulk_abs {L M : Lane} (h : L.sameBulk M) : M.abs_ = L.abs_ := by
  have k := congrArg Lane.abs_ h; exact k

theorem Lane.sameBulk_fus {L M : Lane} (h : L.sameBulk M) : M.fus = L.fus := by
  have k := congrArg Lane.fus h; exact k

theorem Lane.sameBulk_trk {L M : Lane} (h : L.sameBulk M) : M.trk = L.trk := by
  have k := congrArg Lane.trk h; exact k

theorem Lane.sameBulk_gns {L M : Lane} (h : L.sameBulk M) : M.gns = L.gns := by
  have k := congrArg Lane.gns h; exact k

theorem Lane.sameBulk_lpe {L M : Lane} (h : L.sameBulk M) : M.lpe = L.lpe := by
  have k := congrArg Lane.lpe h; exact k

theorem Lane.sameBulk_lkp {L M : Lane} (h : L.sameBulk M) : M.lkp = L.lkp := by
  have k := congrArg Lane.lkp h; exact k

theorem Lane.sameBulk_can {L M : Lane} (h : L.sameBulk M) : M.can = L.can := by
  have k := congrArg Lane.can h; exact k

theorem Lane.sameBulk_eth {L M : Lane} (h : L.sameBulk M) : M.eth = L.eth := by
  have k := congrArg Lane.eth h; exact k

theorem Lane.sameBulk_host {L M : Lane} (h : L.sameBulk M) : M.host = L.host := by
  have k := congrArg Lane.host h; exact k

theorem Lane.sameBulk_vault {L M : Lane} (h : L.sameBulk M) : M.vault = L.vault := by
  have k := congrArg Lane.vault h; exact k

theorem Lane.sameBulk_keys {L M : Lane} (h : L.sameBulk M) : M.keys = L.keys := by
  have k := congrArg Lane.keys h; exact k

theorem Lane.sameBulk_pads {L M : Lane} (h : L.sameBulk M) : M.pads = L.pads := by
  have k := congrArg Lane.pads h; exact k


theorem Lane.sameBulk_wr (L : Lane) (a : Nat) (v : Word) : L.sameBulk (L.wr a v) := rfl
theorem Lane.sameBulk_modCtx (L : Lane) (c : Nat) (f : Ctx → Ctx) : L.sameBulk (L.modCtx c f) := rfl

/-! ### Leaving a core -/

theorem Lane.freeCore_fold (L : Lane) (c a : Nat) (ks : List Nat)
    (ha : a ∉ ks.map (fun k => 0x40030080 + 4 * k)) :
    (ks.foldl (fun (M : Lane) k =>
      if M.rd (0x40030080 + 4 * k) = BitVec.ofNat 32 c then M.wr (0x40030080 + 4 * k) 0x80 else M) L).rd a =
      L.rd a := by
  induction ks generalizing L with
  | nil => rfl
  | cons k ks ih =>
    rw [List.map_cons, List.mem_cons, not_or] at ha
    rw [List.foldl_cons, ih _ ha.2]
    split
    · exact Lane.rd_wr_ne _ _ ha.1
    · rfl

/-- Leaving a core changes the registers alone. -/
theorem Lane.freeCore_eq (L : Lane) (c : Nat) : ∃ r, L.freeCore c = { L with regs := r } := ⟨_, rfl⟩

theorem Lane.ctx_regs (L : Lane) (r : Tab Word) (d : Nat) : ({ L with regs := r }).ctx d = L.ctx d := rfl

@[simp] theorem Lane.ctx_freeCore (L : Lane) (c d : Nat) : (L.freeCore c).ctx d = L.ctx d := by
  obtain ⟨r, hr⟩ := Lane.freeCore_eq L c
  rw [hr, Lane.ctx_regs]

theorem Lane.rd_freeCore (L : Lane) (c a : Nat) (ha : a ∉ (List.range 6).map (fun k => 0x40030080 + 4 * k)) :
    (L.freeCore c).rd a = L.rd a := by
  have h := Lane.freeCore_fold L c a (List.range 6) ha
  unfold Lane.freeCore
  generalize List.foldl _ L (List.range 6) = M at h ⊢
  exact h

/-- A change of state: the registers of the cores, the image of a context that leaves one, and the context. -/
theorem Lane.moveTo_eq (L : Lane) (c : Nat) (st : CtxSt) : ∃ r v,
    L.moveTo c st = ({ L with regs := r, saved := v } : Lane).modCtx c (fun x => { x with st := st }) ∧
      ∀ a, a ∉ (List.range 6).map (fun k => 0x40030080 + 4 * k) →
        ({ L with regs := r } : Lane).rd a = L.rd a := by
  unfold Lane.moveTo
  split
  · have h := Lane.rd_freeCore L c
    obtain ⟨r, hr⟩ := Lane.freeCore_eq L c
    rw [hr] at h ⊢
    exact ⟨r, _, rfl, h⟩
  · exact ⟨L.regs, L.saved, rfl, fun _ _ => rfl⟩

@[simp] theorem Lane.ctx_moveTo_self (L : Lane) (c : Nat) (st : CtxSt) :
    (L.moveTo c st).ctx c = { L.ctx c with st := st } := by
  obtain ⟨r, v, h, -⟩ := Lane.moveTo_eq L c st
  rw [h, Lane.ctx_modCtx_self]
  rfl

theorem Lane.ctx_moveTo_ne (L : Lane) {c d : Nat} (st : CtxSt) (hd : d ≠ c) :
    (L.moveTo c st).ctx d = L.ctx d := by
  obtain ⟨r, v, h, -⟩ := Lane.moveTo_eq L c st
  rw [h, Lane.ctx_modCtx_ne _ _ hd]
  rfl

theorem Lane.sameBulk_moveTo (L : Lane) (c : Nat) (st : CtxSt) : L.sameBulk (L.moveTo c st) := by
  obtain ⟨r, v, h, -⟩ := Lane.moveTo_eq L c st
  rw [h]
  rfl

theorem Lane.ev_moveTo (L : Lane) (c : Nat) (st : CtxSt) : (L.moveTo c st).ev = L.ev := by
  obtain ⟨r, v, h, -⟩ := Lane.moveTo_eq L c st
  rw [h]
  rfl

theorem Lane.rd_moveTo (L : Lane) (c a : Nat) (st : CtxSt)
    (ha : a ∉ (List.range 6).map (fun k => 0x40030080 + 4 * k)) : (L.moveTo c st).rd a = L.rd a := by
  obtain ⟨r, v, h, k⟩ := Lane.moveTo_eq L c st
  rw [h]
  exact k a ha

theorem Lane.ctx_finishWait_ne (L : Lane) {c d : Nat} (v : Word) (h : d ≠ c) :
    (L.finishWait c v).ctx d = L.ctx d := Lane.ctx_modCtx_ne _ _ h
@[simp] theorem Lane.rd_finishWait (L : Lane) (c : Nat) (v : Word) (a : Nat) :
    (L.finishWait c v).rd a = L.rd a := rfl
theorem Lane.sameBulk_finishWait (L : Lane) (c : Nat) (v : Word) : L.sameBulk (L.finishWait c v) := rfl

/-! ### Events -/

theorem Lane.sameBulk_finishAll (L : Lane) (cs : List Nat) (v : Word) :
    L.sameBulk (cs.foldl (fun M c => M.finishWait c v) L) := by
  induction cs generalizing L with
  | nil => rfl
  | cons c cs ih => exact Lane.sameBulk_trans (Lane.sameBulk_finishWait L c v) (ih _)

theorem Lane.rd_finishAll (L : Lane) (cs : List Nat) (v : Word) (a : Nat) :
    (cs.foldl (fun M c => M.finishWait c v) L).rd a = L.rd a := by
  induction cs generalizing L with
  | nil => rfl
  | cons c cs ih => rw [List.foldl_cons, ih]; rfl

theorem Lane.sameBulk_post (L : Lane) (n : Nat) : L.sameBulk (L.post n) := by
  unfold Lane.post
  generalize (if L.halted then [] else L.waiting 2 n) = ws
  cases ws with
  | nil => rfl
  | cons c cs => exact Lane.sameBulk_finishAll L (c :: cs) 0

/-- Raising or posting number `n` changes no register but its word of CTX.EPEND. -/
theorem Lane.rd_post (L : Lane) (n a : Nat) (h : a ≠ 0x40030040 + 4 * (n / 32)) :
    (L.post n).rd a = L.rd a := by
  unfold Lane.post
  generalize (if L.halted then [] else L.waiting 2 n) = ws
  cases ws with
  | nil => exact Lane.rd_wr_ne _ _ h
  | cons c cs => exact Lane.rd_finishAll L (c :: cs) 0 a

theorem Lane.sameBulk_enqueue (L : Lane) (n d0 d1 : Nat) (d2 : Word) : L.sameBulk (L.enqueue n d0 d1 d2) := by
  unfold Lane.enqueue
  split
  · dsimp only
    split <;> rfl
  · rfl

theorem Lane.rd_enqueue (L : Lane) (n d0 d1 a : Nat) (d2 : Word) (h : a ≠ 0x40050014) :
    (L.enqueue n d0 d1 d2).rd a = L.rd a := by
  unfold Lane.enqueue
  split
  · dsimp only
    split
    · exact Lane.rd_wr_ne _ _ h
    · rfl
  · rfl

/-- An event leaves everything of the lane but its registers, its contexts and its event queue. -/
theorem Lane.sameBulk_raise (L : Lane) (n d0 d1 : Nat) (d2 : Word) : L.sameBulk (L.raise n d0 d1 d2) := by
  unfold Lane.raise
  split
  · exact Lane.sameBulk_trans (Lane.sameBulk_post L n) (Lane.sameBulk_enqueue _ n d0 d1 d2)
  · rfl

/-- An event changes no register but its word of CTX.EPEND and EVT.CNT_LOST. -/
theorem Lane.rd_raise (L : Lane) (n d0 d1 a : Nat) (d2 : Word) (h1 : a ≠ 0x40030040 + 4 * (n / 32))
    (h2 : a ≠ 0x40050014) : (L.raise n d0 d1 d2).rd a = L.rd a := by
  unfold Lane.raise
  split
  · rw [Lane.rd_enqueue _ _ _ _ _ _ h2, Lane.rd_post _ _ _ h1]
  · rfl

/-! ### Faults -/

theorem Lane.ctx_ctxFault_self (L : Lane) (c : Nat) (pc : Word) (k : Nat) (addr : Option Word) :
    (L.ctxFault c pc k addr).ctx c = { L.ctx c with
      st := .halted
      pc := pc
      cause := k
      faddr := addr.getD (L.ctx c).faddr
      wait := Wait.none } := by
  rw [Lane.ctxFault, Lane.setBitOf, Lane.ctx_setFlag, Lane.ctx_modCtx_self, Lane.ctx_moveTo_self]
theorem Lane.ctx_ctxFault_ne (L : Lane) {c d : Nat} (pc : Word) (k : Nat) (addr : Option Word) (h : d ≠ c) :
    (L.ctxFault c pc k addr).ctx d = L.ctx d := by
  rw [Lane.ctxFault, Lane.setBitOf, Lane.ctx_setFlag, Lane.ctx_modCtx_ne _ _ h, Lane.ctx_moveTo_ne _ _ h]
theorem Lane.sameBulk_ctxFault (L : Lane) (c : Nat) (pc : Word) (k : Nat) (addr : Option Word) :
    L.sameBulk (L.ctxFault c pc k addr) :=
  Lane.sameBulk_trans (Lane.sameBulk_moveTo L c .halted)
    (Lane.sameBulk_trans (Lane.sameBulk_modCtx _ c _) (Lane.sameBulk_wr _ _ _))
theorem Lane.bitAt_ctxFault (L : Lane) (c : Nat) (pc : Word) (k : Nat) (addr : Option Word) :
    (L.ctxFault c pc k addr).bitAt 0x40030020 c = true := by
  rw [Lane.ctxFault, Lane.setBitOf, Lane.bitAt, Lane.flag, Lane.rd_setFlag, if_pos rfl,
    bitOf_setBit _ _ _ _ (Nat.mod_lt c (by decide : 0 < 32)), if_pos rfl]
theorem Lane.rd_ctxFault (L : Lane) (c a : Nat) (pc : Word) (k : Nat) (addr : Option Word)
    (h : a ≠ 0x40030020 + 4 * (c / 32)) (ha : a ∉ (List.range 6).map (fun k => 0x40030080 + 4 * k)) :
    (L.ctxFault c pc k addr).rd a = L.rd a := by
  rw [Lane.ctxFault, Lane.setBitOf, Lane.rd_setFlag, if_neg h, Lane.rd_modCtx, Lane.rd_moveTo _ _ _ _ ha]

/-- A fault in a context other than 0 does what R122 says and nothing else. -/
theorem Faults.of_takeFault {i : Instr} {s : State} {l : LaneId} {c : CtxNo} {k : Nat} {addr : Option Word}
    (he : exec i s = .next (s.takeFault l c k addr)) (hc : c ≠ 0) : Faults i l c k addr s := by
  have hv : ¬c.val = 0 := fun h => hc (Fin.ext h)
  have hst : s.takeFault l c k addr = s.modLane l (fun L => L.ctxFault c (L.ctx c).pc k addr) := by
    rw [State.takeFault, if_neg hv]
  generalize hL : s.lane l = L at *
  have hl : (s.takeFault l c k addr).lane l = L.ctxFault c (L.ctx c).pc k addr := by
    rw [hst, State.lane_modLane, hL]
  have hx : (s.takeFault l c k addr).ctxOf l c = { s.ctxOf l c with
      st := .halted
      pc := (s.ctxOf l c).pc
      cause := k
      faddr := addr.getD (s.ctxOf l c).faddr
      wait := Wait.none } := by
    rw [State.ctxOf, State.ctxOf, hl, hL, Lane.ctx_ctxFault_self]
  have hb := Lane.sameBulk_ctxFault L c (L.ctx c).pc k addr
  refine ⟨_, he, by rw [hst]; exact OnlyLane.modLane l s _, ⟨fun a => ?_, ?_⟩, fun d hd => ?_, ?_, ?_, ?_, ?_, ?_, ?_, ?_, ?_, ?_,
    fun a ha => ?_⟩
  · rw [State.byte, State.byte, hl, hL, Lane.sameBulk_sram hb]
  · rw [hl, hL, Lane.sameBulk_flash hb]
  · rw [State.ctxOf, State.ctxOf, hl, hL, Lane.ctx_ctxFault_ne _ _ _ _ hd]
  · rw [hx]
  · rw [hx]
  · rw [hx]
  · rw [hx]
  · rw [hx]
  · rw [hx]
  · rw [hx]
  · rw [hx]
  · rw [hl, Lane.bitAt_ctxFault]
  · rw [List.mem_append, not_or] at ha
    rw [State.reg, State.reg, hl, hL, Lane.rd_ctxFault _ _ _ _ _ _ _ ha.2]
    intro h
    exact ha.1 (h ▸ List.mem_map.2 ⟨c.val / 32, List.mem_range.2 (by omega), rfl⟩)

end Sys2Proof.Machine
end

