-- ==== Sys2Proof/Laws/Memory.lean ====
section
/-!
SUPPORT. SRAM and flash: a read after a write, the bytes a write leaves alone, and the canonical form
under every memory operation.
-/

namespace Sys2Proof.Machine

@[simp] theorem Memory.get_put_self (m : List Host.Cell) (a : Nat) (b : Byte) :
    Memory.get (Memory.put m a b) a = b := Tab.get_set_self m 0 a b

theorem Memory.get_put_ne (m : List Host.Cell) {a k : Nat} (b : Byte) (h : a ≠ k) :
    Memory.get (Memory.put m k b) a = Memory.get m a := Tab.get_set_ne m 0 0 b h

theorem Memory.wf_put {m : List Host.Cell} (a : Nat) (b : Byte) (h : Memory.wf m = true) :
    Memory.wf (Memory.put m a b) = true := Tab.wf_set a b h

theorem Memory.wf_write {m : List Host.Cell} (a : Nat) (bs : List Byte) (h : Memory.wf m = true) :
    Memory.wf (Memory.write m a bs) = true := by
  induction bs generalizing m a with
  | nil => exact h
  | cons b rest ih => exact ih (a + 1) (Memory.wf_put a b h)

theorem Memory.wf_filter {m : List Host.Cell} (p : Host.Cell → Bool) (h : Memory.wf m = true) :
    Memory.wf (m.filter p) = true := Tab.wf_filter p h

/-- A write leaves every byte outside the stored ones alone. -/
theorem Memory.get_write_outside (m : List Host.Cell) (a : Nat) (bs : List Byte) (k : Nat)
    (h : k < a ∨ a + bs.length ≤ k) : Memory.get (Memory.write m a bs) k = Memory.get m k := by
  induction bs generalizing m a with
  | nil => rfl
  | cons b rest ih =>
    rw [List.length_cons] at h
    rw [Memory.write, ih (Memory.put m a b) (a + 1) (by omega),
      Memory.get_put_ne m b (by omega : k ≠ a)]

/-- A read of a byte just written gives the byte written. -/
theorem Memory.get_write_inside (m : List Host.Cell) (a : Nat) (bs : List Byte) (i : Nat)
    (h : i < bs.length) : Memory.get (Memory.write m a bs) (a + i) = bs[i] := by
  induction bs generalizing m a i with
  | nil => exact absurd h (Nat.not_lt_zero i)
  | cons b rest ih =>
    cases i with
    | zero =>
      rw [Memory.write, Memory.get_write_outside _ _ _ _ (by omega)]
      exact Memory.get_put_self m a b
    | succ n =>
      have := ih (Memory.put m a b) (a + 1) n (by simpa using h)
      rw [Memory.write, show a + (n + 1) = a + 1 + n by omega, this]
      rfl

theorem Memory.read_write (m : List Host.Cell) (a : Nat) (bs : List Byte) :
    Memory.read (Memory.write m a bs) a bs.length = bs := by
  apply List.ext_getElem
  · simp [Memory.read]
  · intro i h1 h2
    simp only [Memory.read, List.getElem_map, List.getElem_range]
    exact Memory.get_write_inside m a bs i h2

theorem Flash.wf_put {m : List Host.Cell} (a : Nat) (b : Byte) (h : Tab.wf m 0xFF = true) :
    Tab.wf (Flash.put m a b) 0xFF = true := Tab.wf_set a b h

theorem Flash.wf_write {m : List Host.Cell} (a : Nat) (bs : List Byte) (h : Tab.wf m 0xFF = true) :
    Tab.wf (Flash.write m a bs) 0xFF = true := by
  induction bs generalizing m a with
  | nil => exact h
  | cons b rest ih => exact ih (a + 1) (Flash.wf_put a b h)

theorem Flash.wf_erase {m : List Host.Cell} (a n : Nat) (h : Tab.wf m 0xFF = true) :
    Tab.wf (Flash.erase m a n) 0xFF = true := Tab.wf_filter _ h

/-- A store in SRAM keeps the canonical form. -/
theorem Lane.wf_store {L : Lane} (a : Nat) (bs : List Byte) (h : Memory.wf L.sram = true) :
    Memory.wf (L.store a bs).sram = true := Memory.wf_write a bs h

theorem State.reset_memory_wf (l : LaneId) :
    Memory.wf (State.reset.lane l).sram = true ∧ Tab.wf (State.reset.lane l).flash 0xFF = true := by
  cases l <;> decide

/-- The word of a word's bytes. -/
theorem bytesWord_wordBytes (w : Word) : bytesWord (wordBytes w) = w := by
  apply BitVec.eq_of_toNat_eq
  have hw := w.isLt
  simp only [bytesWord, wordBytes, bytesNat, BitVec.extractLsb'_toNat, BitVec.toNat_ofNat, Nat.shiftRight_eq_div_pow]
  omega

/-- Words read back from the bytes that words were stored as. -/
theorem bytesWord_flatMap (ws : List Word) (n : Nat) (h : n = ws.length) :
    (List.range n).map (fun i => bytesWord (((ws.flatMap wordBytes).drop (4 * i)).take 4)) = ws := by
  subst h
  induction ws with
  | nil => rfl
  | cons w ws ih =>
    rw [List.length_cons, List.range_succ_eq_map, List.map_cons, List.map_map]
    refine congr (congrArg List.cons (bytesWord_wordBytes w)) ?_
    refine Eq.trans (List.map_congr_left fun i _ => ?_) ih
    show bytesWord (((wordBytes w ++ ws.flatMap wordBytes).drop (4 * (i + 1))).take 4) = _
    rw [show 4 * (i + 1) = 4 + 4 * i by omega, ← List.drop_drop]
    rfl

end Sys2Proof.Machine
end

