-- ==== Sys2Proof/Tests/Slice0.lean ====
section
/-!
SUPPORT. The author's own tests: ill-formed instructions that WellFormed refuses, words written out from the encoding
tables, worked examples of the spec, and for each statement a state and operands that meet its hypotheses together
(one theorem a statement part, one line a clause).
-/

namespace Sys2Proof.Tests

open Sys2Proof Sys2Proof.Machine

set_option Elab.async false

/-! ### Small states -/

/-- Context 0 RUNNING in the image. -/
def ctx0 : Ctx := { Ctx.reset with st := .running, pc := 0x10100000 }
/-- A context RUNNING in the image, whose region 0 grants everything. -/
def ctx1 : Ctx := { Ctx.reset with
  st := .running
  pc := 0x10100020
  rgnBase := [(0, 0xF)]
  rgnLim := [(0, 0xFFFFFFC0)] }

/-- A lane that runs its image. -/
def lane1 : Lane := { Lane.reset with
  phase := .run
  ctxs := [(0, ctx0), (1, ctx1)] }

/-- The module in RUN with lane A in control, LT and its replica at `n`. -/
def at_ (n : Nat) : State :=
  { State.reset with
    laneA := { lane1 with lt := n }
    laneB := { lane1 with
      lt := n
      free := 0x800000 }
    die := { Die.reset with replica := n }
    rind := { Rind.reset with
      none_ := false
      everHeld := true
      vlogOk := true
      holdEmpty := false }
    laneLink := true }

/-- The module in RUN, at 1 s. -/
def s1 : State := at_ 100000000

/-- Change lane A. -/
def la (f : Lane → Lane) (s : State) : State := s.modLane .a f
/-- Store a register of lane A. -/
def wr (a : Nat) (v : Word) (s : State) : State := la (fun L => L.wr a v) s
/-- Change context `c` of lane A. -/
def cx (c : Nat) (f : Ctx → Ctx) (s : State) : State := la (fun L => L.modCtx c f) s
/-- Store an x register of context 1 of lane A. -/
def x1 (r : Nat) (v : Word) (s : State) : State := cx 1 (fun x => x.wx r v) s
/-- Change a unit. -/
def un (u : Nat) (f : Machine.PUnit → Machine.PUnit) (s : State) : State :=
  s.modDie (fun d => d.setUnit u (f (d.unit u)))
/-- Change a load switch. -/
def sw (n : Nat) (f : Sw → Sw) (s : State) : State := s.modDie (fun d => d.setSw n (f (d.swt n)))
/-- Store a register of the rind. -/
def rw_ (a : Nat) (v : Word) (s : State) : State := s.modRind (fun r => r.wr a v)

theorem test_ready : Ready s1 .a 1 := by unfold Ready; decide +kernel
theorem test_ready0 : Ready s1 .a 0 := by unfold Ready; decide +kernel

/-- Store a register of lane A's image of the die. -/
def im (a : Nat) (v : Word) (s : State) : State :=
  s.modDie (fun d => { d with img := ⟨(a, v) :: d.img.a, d.img.b⟩ })
/-- Change a bank supervisor. -/
def bk (k : Nat) (f : BankSup → BankSup) (s : State) : State := s.modDie (fun d => d.setBank k (f (d.bank k)))
/-- The commands on lane A's port. -/
def port (cs : List PulseCmd) (s : State) : State := s.modDie (fun d => { d with cmds := ⟨cs, d.cmds.b⟩ })
/-- Change a CAN controller of lane A. -/
def cn (c : Nat) (f : CanSt → CanSt) (s : State) : State := la (fun L => L.setCan c (f (L.canSt c))) s

/-! ### Well-formedness: one ill-formed instruction for each check (R137, R138, R148, R154) -/

theorem test_wf_v_field : (Instr.vadd .a 0 8 0 0).wf = false := by decide
theorem test_wf_v_source : (Instr.vdot .a 0 0 0 9).wf = false := by decide
theorem test_wf_v_two : (Instr.vtoq .a 0 0 8).wf = false := by decide
theorem test_wf_vsplt : (Instr.vsplt .a 0 8 0).wf = false := by decide
theorem test_wf_vins_element : (Instr.vins .a 0 0 0 4).wf = false := by decide
theorem test_wf_vext_element : (Instr.vext .a 0 0 0 4).wf = false := by decide
theorem test_wf_vsum : (Instr.vsum .a 0 0 31).wf = false := by decide
theorem test_wf_shift : (Instr.srai .a 0 1 2 32).wf = false := by decide
theorem test_wf_pair_load : (Instr.ldp .a 0 3 0 0).wf = false := by decide
theorem test_wf_vector_store : (Instr.vst .a 0 8 0 0 []).wf = false := by decide
theorem test_wf_wtlt_pair : (Instr.wtlt .a 0 0 1).wf = false := by decide
theorem test_wf_wtev_number : (Instr.wtev .a 0 0 false 0 160).wf = false := by decide
theorem test_wf_wtev_timeout : (Instr.wtev .a 0 0 true 1 0).wf = false := by decide
theorem test_wf_wtflt_no_timeout : (Instr.wtflt .a 0 0 false 2).wf = false := by decide
theorem test_wf_evpost : (Instr.evpost .a 0 64).wf = false := by decide
theorem test_wf_qput : (Instr.qput .a 0 0 0 false 0 32).wf = false := by decide
theorem test_wf_lkacq : (Instr.lkacq .a 0 0 false 0 64).wf = false := by decide
theorem test_wf_curd_pair : (Instr.curd .a 0 1 2 3 4).wf = false := by decide

/-! ### Words written out from the encoding tables of R136, R142 to R169 -/

/-- add x5, x6, x7: FMT 000, OP 0, rd 5, rs1 6, rs2 7, rs3 0, FN 0 (R142). -/
theorem test_word_add : decodeKfx .a 3 0b0000_00000_00111_00110_00101_00000_000#32 = some (.add .a 3 5 6 7) := by
  decide
/-- remu x1, x2, x3: OP 1, FN 7 (R142). -/
theorem test_word_remu : decodeKfx .a 3 0b0111_00000_00011_00010_00001_00001_000#32 = some (.remu .a 3 1 2 3) := by
  decide
/-- fnms f4, f5, f6, f7: OP 3, FN 3 (R145). -/
theorem test_word_fnms : decodeKfx .a 0 0b0011_00111_00110_00101_00100_00011_000#32 =
    some (.fnms .a 0 4 5 6 7) := by decide
/-- vmac v1, v2, v3: OP 5, FN 3 (R147). -/
theorem test_word_vmac : decodeKfx .a 0 0b0011_00000_00011_00010_00001_00101_000#32 =
    some (.vmac .a 0 1 2 3) := by decide
/-- The same with v9 is ILLEGAL (R137, R138). -/
theorem test_word_vmac_illegal : decodeKfx .a 0 0b0011_00000_00011_00010_01001_00101_000#32 = none := by decide
/-- addi x7, x5, 100: FMT 001, OP 0, imm14 100 (R148, and the assembly of R16). -/
theorem test_word_addi : decodeKfx .a 0 0b00000001100100_00101_00111_00000_001#32 =
    some (.addi .a 0 7 5 100) := by decide
/-- A reserved OP of format I is ILLEGAL (R137). -/
theorem test_word_reserved : decodeKfx .a 0 0b00000000000000_00000_00000_01011_001#32 = none := by decide
/-- sw x9, -4(x10): FMT 010, OP 10, rt 9, rs1 10, off14 -4 (R151). -/
theorem test_word_sw : decodeKfx .a 0 0b11111111111100_01010_01001_01010_010#32 =
    some (.sw .a 0 9 10 (-4) []) := by decide
/-- bltu x1, x2, +3 words: FMT 011, OP 4 (R153). -/
theorem test_word_bltu : decodeKfx .a 0 0b00000000000011_00010_00001_00100_011#32 =
    some (.bltu .a 0 1 2 3) := by decide
/-- jal x1, -1 word: FMT 100, OP 0, off19 (R153). -/
theorem test_word_jal : decodeKfx .a 0 0b1111111111111111111_00001_00000_100#32 = some (.jal .a 0 1 (-1)) := by
  decide
/-- wtev x3, timeout pair x4, event 83: FMT 101, OP 2, TM 1, imm8 83 (R154). -/
theorem test_word_wtev : decodeKfx .a 0 0b01010011_1_00100_00000_00011_00010_101#32 =
    some (.wtev .a 0 3 true 4 83) := by decide
/-- curd x1, x2, x4, x6: FMT 110, OP 2 (R158, R162). -/
theorem test_word_curd : decodeKfx .a 0 0b0000_00110_00100_00010_00001_00010_110#32 =
    some (.curd .a 0 1 2 4 6) := by decide
/-- mchol x1, x2, x3 with rs3 0: OP 21; with rs3 1 it is ILLEGAL (R137, R168). -/
theorem test_word_mchol : decodeKfx .a 0 0b0000_00000_00011_00010_00001_10101_110#32 =
    some (.mchol .a 0 1 2 3) ∧ decodeKfx .a 0 0b0000_00001_00011_00010_00001_10101_110#32 = none := by decide
/-- FMT 111 is ILLEGAL (R137). -/
theorem test_word_fmt7 : decodeKfx .a 0 0xFFFFFFFF#32 = none := by decide
/-- The table gives no bits: no word spells a command. -/
theorem test_no_table_word : decodeTableWord 32 0 = none := rfl

/-! ### The hypotheses of the statements are met -/

/-- Products: the signed overflow; immediates: a shift by 31. -/
theorem test_hyps_integer : Ready s1 .a 1 ∧
    Ready (x1 2 0xFFFFFFFF (x1 1 0x80000000 s1)) .a 1 ∧
    ((x1 2 0xFFFFFFFF (x1 1 0x80000000 s1)).ctxOf .a 1).rx 1 = 0x80000000 ∧
    ((x1 2 0xFFFFFFFF (x1 1 0x80000000 s1)).ctxOf .a 1).rx 2 = 0xFFFFFFFF ∧ (31#14).toNat < 32 := by
  repeat' apply And.intro
  all_goals decide +kernel

/-- Conversions out of range at both ends, and the NaNs. -/
theorem test_hyps_conversions : (FVal.ofWord 0x7FC00001).isNaN = true ∧ f32 0xCF800000 ≤ -2147483649 ∧
    f32Finite 0xCF800000 = true ∧ 4294967296 ≤ f32 0x4F800000 ∧ f32Finite 0x4F800000 = true := by
  repeat' apply And.intro
  all_goals decide +kernel

theorem test_hyps_nans : FVal.isNaN (FVal.ofWord (fadd 0 0x7F800000 0xFF800000).1) = true ∧
    FVal.isNaN (FVal.ofWord (fsub 0 0x7F800000 0x7F800000).1) = true ∧
    FVal.isNaN (FVal.ofWord (fmul 0 0x7F800000 0).1) = true ∧ FVal.isNaN (FVal.ofWord (fdiv 0 0 0).1) = true ∧
    (FVal.ofWord 0x7F800001).isNaN = true ∧ (FVal.ofWord 0x3F800000).isNaN = false := by
  repeat' apply And.intro
  all_goals decide +kernel

/-- 1 + 1 = 2, 2 - 1 = 1, 2 * 1 = 2, 2 / 1 = 2. -/
theorem test_hyps_exact : f32Finite 0x3F800000 = true ∧ f32Finite 0x40000000 = true ∧ f32 0x40000000 ≠ 0 ∧
    f32 0x3F800000 + f32 0x3F800000 = f32 0x40000000 ∧ f32 0x40000000 - f32 0x3F800000 = f32 0x3F800000 ∧
    f32 0x40000000 * f32 0x3F800000 = f32 0x40000000 ∧ f32 0x3F800000 ≠ 0 ∧
    f32 0x40000000 / f32 0x3F800000 = f32 0x40000000 := by
  repeat' apply And.intro
  all_goals decide +kernel

/-- v7 and element 3 are the last; Q16.16 at both ends of its range and beyond. -/
theorem test_hyps_vector : Ready s1 .a 1 ∧ (7 : RegNo).val < 8 ∧ (3 : RegNo).val < 4 ∧
    ((-0x80000001 : Int) < -0x80000000) ∧ ((0x7FFFFFFF : Int) < 0x80000000) := by
  repeat' apply And.intro
  all_goals decide +kernel

/-- jlr to a multiple of 4. -/
theorem test_hyps_jumps : Ready s1 .a 1 ∧
    (((x1 1 0x10100002 s1).ctxOf .a 1).rx 1 + (2#14).signExtend 32).toNat % 4 = 0 := by
  repeat' apply And.intro
  all_goals decide +kernel

/-- Loads and stores of each size at the last address of SRAM that holds one. -/
theorem test_hyps_sram : Ready (x1 1 0x5FFFF0 s1) .a 1 ∧
    SramAccess (x1 1 0x5FFFFF s1) .a 1 0 (((x1 1 0x5FFFFF s1).ctxOf .a 1).ea 1 0) 1 ∧
    SramAccess (x1 1 0x5FFFFE s1) .a 1 0 (((x1 1 0x5FFFFE s1).ctxOf .a 1).ea 1 0) 2 ∧
    SramAccess (x1 1 0x5FFFFC s1) .a 1 0 (((x1 1 0x5FFFFC s1).ctxOf .a 1).ea 1 0) 4 ∧
    SramAccess (x1 1 0x5FFFF8 s1) .a 1 0 (((x1 1 0x5FFFF8 s1).ctxOf .a 1).ea 1 0) 8 ∧
    SramAccess (x1 1 0x5FFFF0 s1) .a 1 0 (((x1 1 0x5FFFF0 s1).ctxOf .a 1).ea 1 0) 16 ∧
    SramAccess (x1 1 0x5FFFFF s1) .a 1 1 (((x1 1 0x5FFFFF s1).ctxOf .a 1).ea 1 0) 1 ∧
    SramAccess (x1 1 0x5FFFFE s1) .a 1 1 (((x1 1 0x5FFFFE s1).ctxOf .a 1).ea 1 0) 2 ∧
    SramAccess (x1 1 0x5FFFFC s1) .a 1 1 (((x1 1 0x5FFFFC s1).ctxOf .a 1).ea 1 0) 4 ∧
    SramAccess (x1 1 0x5FFFF8 s1) .a 1 1 (((x1 1 0x5FFFF8 s1).ctxOf .a 1).ea 1 0) 8 ∧
    SramAccess (x1 1 0x5FFFF0 s1) .a 1 1 (((x1 1 0x5FFFF0 s1).ctxOf .a 1).ea 1 0) 16 ∧
    (30 : RegNo).val % 2 = 0 ∧ (7 : RegNo).val < 8 := by
  repeat' apply And.intro
  all_goals first | decide +kernel | exact fun _ => rfl

/-- Flash at its last word, the context file of context 0, and a register block. -/
theorem test_hyps_beyond_sram : Ready (x1 1 0x13FFFFFC s1) .a 1 ∧
    ((x1 1 0x13FFFFFC s1).ctxOf .a 1).ea 1 0 = 0x13FFFFFC ∧
    (s1.ctxOf .a 1).granted 1 0 0x13FFFFFC = true ∧ Ready s1 .a 0 ∧
    ((cx 0 (fun x => x.wx 1 0x2000FFFC) s1).ctxOf .a 0).ea 1 0 = 0x2000FFFC ∧ 0x2000FFFC % 4 = 0 ∧
    ((cx 0 (fun x => x.wx 1 0x2000FFFF) s1).ctxOf .a 0).ea 1 0 = 0x2000FFFF ∧
    ((x1 1 0x40020000 s1).ctxOf .a 1).ea 1 0 = 0x40020000 ∧ supervisorOnly 0x40020000 = false ∧
    (s1.ctxOf .a 1).granted 1 0 0x40020000 = true := by
  repeat' apply And.intro
  all_goals decide +kernel

/-- A store to bank 0, whose priority port is either, with each master of the other port. -/
theorem test_hyps_collision : Ready s1 .a 1 ∧ SramAccess s1 .a 1 1 ((s1.ctxOf .a 1).ea 0 0) 4 ∧
    s1.laneA.owner (bankOf ((s1.ctxOf .a 1).ea 0 0)) = 1 ∧ (6 : Fin 14).val ∈ [6, 7, 12, 13] ∧
    (13 : Fin 14).val ∈ [6, 7, 12, 13] := by
  repeat' apply And.intro
  all_goals first | decide +kernel | exact fun _ => rfl

/-- Each cause of R633 is met, by a context other than 0, where no earlier one is. -/
theorem test_hyps_causes :
    let L := lane1
    let F := la (fun L => L.setFld 0x40040200 0 3 0) s1
    ¬(0x600000 < 0x600000) ∧ L.dataFault 1 0x600000 4 false true = some 5 ∧
    L.dataFault 1 0x5FFFFE 4 false true = some 3 ∧ L.dataFault 1 0x40030000 4 false true = some 2 ∧
    L.dataFault 2 0x100 4 true true = some 4 ∧ L.dataFault 1 0x40020000 1 false false = some 5 ∧
    L.dataFault 1 0x10000000 4 true true = some 5 ∧ F.laneA.dataFault 1 0 4 true true = some 6 ∧
    L.dataFault 1 0 4 true true = none ∧ L.dataFault 0 0x2000FFFC 4 true true = none ∧
    L.dataFault 0 0x2000FFFF 1 true false = none := by decide +kernel

/-- The region of context 1 grants; no region of context 2 does. -/
theorem test_hyps_regions : ctx1.granted 1 1 0xFFFFFFBF = true ∧ Ctx.reset.granted 2 0 0 = false ∧
    ctx1.granted 1 2 0x40020000 = false ∧ Ctx.reset.granted 0 2 0x40020000 = true := by decide +kernel

/-- A misaligned access of each size, and a word that spells nothing. -/
theorem test_hyps_memory_faults :
    let s := x1 1 0x600000 s1
    let a := (s.ctxOf .a 1).ea 1 0
    let L := s.laneA
    Ready s .a 1 ∧ a = 0x600000 ∧ L.dataFault 1 a 1 false false = some 5 ∧ L.dataFault 1 a 2 false false = some 5 ∧
    L.dataFault 1 a 4 false true = some 5 ∧ L.dataFault 1 a 8 false false = some 5 ∧
    L.dataFault 1 a 16 false false = some 5 ∧ L.dataFault 1 a 1 true false = some 5 ∧
    L.dataFault 1 a 2 true false = some 5 ∧ L.dataFault 1 a 4 true true = some 5 ∧
    L.dataFault 1 a 8 true false = some 5 ∧ L.dataFault 1 a 16 true false = some 5 ∧
    decodeKfx .a 1 0xFFFFFFFF = none := by
  intro s a L
  repeat' apply And.intro
  all_goals decide +kernel

/-- A context that cannot issue, one whose fetch faults, an ill-formed field, and context 0. -/
theorem test_hyps_fetch : issuerOf (.add .a 1 0 0 0) = some (.a, 1) ∧ issuerOf (.add .a 2 0 0 0) = some (.a, 2) ∧
    s1.canIssue .a 2 = false ∧ s1.canIssue .a 1 = true ∧
    (cx 1 (fun x => { x with pc := 0x600000 }) s1).canIssue .a 1 = true ∧
    (cx 1 (fun x => { x with pc := 0x600000 }) s1).laneA.fetchFault 1 0x600000 = some 5 ∧
    (Instr.vadd .a 1 8 0 0).wf = false ∧ issuerOf (.vadd .a 1 8 0 0) = some (.a, 1) ∧
    Ready s1 .a 0 ∧ decodeKfx .a 0 0xFFFFFFFF = none ∧ s1.laneA.flag 0x40140004 5 = false := by
  repeat' apply And.intro
  all_goals decide +kernel

/-- Contexts in each state, and context 0. -/
theorem test_hyps_context_commands : (s1.ctxOf .a 127).st = .free ∧ (s1.ctxOf .a 1).st = .running ∧
    ((cx 1 (fun x => { x with st := .ready }) s1).ctxOf .a 1).st = .ready ∧
    (let s := cx 1 (fun x => { x with
        st := .waiting
        wait := { Wait.none with
          kind := 1
          time := 200000000 } }) s1
     (s.ctxOf .a 1).st = .waiting ∧ s.laneA.condMet 1 = false ∧ s.laneA.timedOut 1 = false) ∧
    ((cx 1 (fun x => { x with st := .halted }) s1).ctxOf .a 1).st = .halted ∧ (127 : CtxNo) ≠ 0 := by
  decide +kernel

/-- A context holds lock 63 and nobody waits for any. -/
theorem test_hyps_leaving :
    let s := la (fun L => L.setLock 63 ⟨true, 1, false⟩) s1
    Ready s .a 1 ∧ (∀ n, n < 64 → s.laneA.waiting 5 n = []) ∧ (s.ctxOf .a 1).st ≠ .free ∧
    (s.laneA.lock 63).held = true ∧ (s.laneA.lock 63).holder = 1 := by
  intro s
  repeat' apply And.intro
  all_goals decide +kernel

/-- The debug port open and closed, RLQ 0 and 1. -/
theorem test_hyps_system : Ready s1 .a 1 ∧ s1.laneA.debugOpen = true ∧
    (wr 0x40150004 1 s1).laneA.debugOpen = false ∧ Ready (wr 0x40150004 1 s1) .a 1 ∧
    (cx 1 (fun x => { x with rlq := true }) s1 |>.ctxOf .a 1).rlq = true ∧ (s1.ctxOf .a 1).rlq = false := by
  repeat' apply And.intro
  all_goals decide +kernel

/-- ctxc: START of a FREE context, a command to context 0, and OP 7. -/
theorem test_hyps_ctxc :
    let s := cx 0 (fun x => x.wx 1 0x105) s1
    Ready s .a 0 ∧ (s.ctxOf .a 0).rx 1 = BitVec.ofNat 32 ((5 : CtxNo).val + 256 * (1 : Fin 8).val) ∧
    (s.ctxOf .a 5).st = .free ∧
    ((cx 0 (fun x => x.wx 1 0x400) s1).ctxOf .a 0).rx 1 = BitVec.ofNat 32 ((0 : CtxNo).val + 256 * (4 : Fin 8).val) ∧
    ((cx 0 (fun x => x.wx 1 0x77F) s1).ctxOf .a 0).rx 1 =
      BitVec.ofNat 32 ((127 : CtxNo).val + 256 * (7 : Fin 8).val) := by
  intro s
  repeat' apply And.intro
  all_goals decide +kernel

/-- Met conditions: a time that has come, a set event, a word and room in queues, a free lock, a fault, a held lock. -/
theorem test_hyps_met :
    let s := la (fun L => ((L.setQueue 31 [7]).setLock 63 ⟨true, 1, false⟩).setBitOf 0x40030040 159 true)
      (wr 0x40030020 2 (x1 2 100000000 s1))
    let L := s.laneA
    Ready s .a 1 ∧ Ready s .a 0 ∧ ((s.ctxOf .a 1).rx 2).toNat + 2 ^ 32 * ((s.ctxOf .a 1).rx 3).toNat ≤ L.lt ∧
    L.bitAt 0x40030040 159 = true ∧ L.waiting 4 31 = [] ∧ L.queue 31 = [7] ∧ L.waiting 3 31 = [] ∧
    (L.queue 31).length < 64 ∧ (L.lock 62).held = false ∧ L.rd 0x40030020 ≠ 0 ∧ (L.lock 63).held = true ∧
    (L.lock 63).holder = 1 ∧ L.waiting 5 63 = [] ∧ L.waiting 2 (96 + 63) = [] := by
  intro s L
  repeat' apply And.intro
  all_goals decide +kernel

/-- Unmet conditions, with no timeout, with one to come and with one that has passed. -/
theorem test_hyps_unmet :
    let s := la (fun L => (L.setQueue 0 (List.replicate 64 5)).setLock 0 ⟨true, 2, false⟩)
      (x1 2 100000001 s1)
    let L := s.laneA
    Ready s .a 1 ∧ Ready s .a 0 ∧ L.lt < ((s.ctxOf .a 1).rx 2).toNat + 2 ^ 32 * ((s.ctxOf .a 1).rx 3).toNat ∧
    L.bitAt 0x40030040 0 = false ∧ L.queue 31 = [] ∧ 64 ≤ (L.queue 0).length ∧ (L.lock 0).held = true ∧
    (L.lock 0).holder ≠ 1 ∧ (∀ k, k < 4 → L.rd (0x40030020 + 4 * k) = 0) ∧
    ((s.ctxOf .a 1).rx 4).toNat + 2 ^ 32 * ((s.ctxOf .a 1).rx 5).toNat ≤ L.lt ∧
    ((la (fun L => L.setLock 5 ⟨true, 1, false⟩) s).laneA.lock 5).holder = 1 ∧ (L.lock 63).held = false := by
  intro s L
  repeat' apply And.intro
  all_goals decide +kernel

/-- A context that waits: on a time, on a timeout, on a signal, on a queue, on a lock. -/
def waits (kind arg : Nat) (time : Nat) (s : State) : State := cx 2 (fun x => { x with
  st := .waiting
  wait := { Wait.none with
    kind := kind
    arg := arg
    time := time
    rd := 5
    rd2 := 6 } }) s

theorem test_hyps_waiters :
    let t := cx 2 (fun x => { x with wait := { x.wait with tmo := true } }) (waits 2 9 100000000 s1)
    let k := la (fun L => L.setLock 63 ⟨true, 1, false⟩) (waits 5 63 0 s1)
    s1.laneA.phase = .run ∧ s1.laneA.halted = false ∧ ((waits 1 0 100000000 s1).ctxOf .a 2).st = .waiting ∧
    ((waits 1 0 100000000 s1).ctxOf .a 2).wait.kind = 1 ∧
    ((waits 1 0 100000000 s1).ctxOf .a 2).wait.time ≤ s1.laneA.lt ∧ t.laneA.timedOut 2 = true ∧
    t.laneA.condMet 2 = false ∧ Ready (waits 2 159 0 s1) .a 1 ∧ (waits 2 159 0 s1).laneA.waiting 2 (96 + 63) = [2] ∧
    Ready (waits 3 31 0 s1) .a 1 ∧ (waits 3 31 0 s1).laneA.waiting 3 31 = [2] ∧ Ready k .a 1 ∧
    k.laneA.waiting 5 63 = [2] ∧ (k.laneA.lock 63).held = true ∧ (k.laneA.lock 63).holder = 1 := by
  intro t k
  repeat' apply And.intro
  all_goals decide +kernel

/-- A READY context and the last core idle; a deadline that has come; debug halt and resume; the context file. -/
theorem test_hyps_scheduler :
    let s := la (fun L => (((((((L.wr 0x40030080 0).wr 0x40030084 1).wr 0x40030088 2).wr 0x4003008C 3).wr
      0x40030090 4)).wr 0x40030094 0x80)) (cx 3 (fun x => { x with st := .ready }) s1)
    let d := cx 1 (fun x => { x with deadline := 100000000 }) s1
    let h := la (fun L => { L with
      halted := true
      brkCtx := some 1 }) s1
    s1.coresRun .a = true ∧ s1.laneA.inState .ready = [] ∧ s.coresRun .a = true ∧ s.laneA.inState .ready = [3] ∧
    (s.laneA.affinity 3).testBit 5 = true ∧ s.laneA.flag (0x40030080 + 4 * 5) 7 = true ∧
    (∀ j, j < 5 → s.laneA.flag (0x40030080 + 4 * j) 7 = false) ∧ (d.ctxOf .a 1).st = .running ∧
    (d.ctxOf .a 1).missed = false ∧ (d.ctxOf .a 1).deadline ≤ d.laneA.lt ∧ s1.laneA.debugOpen = true ∧
    h.laneA.halted = true ∧ h.laneA.inState .waiting = [] ∧ h.laneA.brkCtx = some 1 ∧
    (0xFF80 : Fin 0x10000).val / 0x200 = 127 ∧ (0xFF80 : Fin 0x10000).val % 0x200 = 0x180 ∧
    (s1.ctxOf .a 127).st = .free ∧ (0x380 : Fin 0x10000).val / 0x200 = 1 := by
  intro s d h
  repeat' apply And.intro
  all_goals decide +kernel

/-- The last channel and the last bridge with values at their bounds, a full path, and descriptors out of range. -/
theorem test_hyps_edge_pair :
    let s := x1 6 1048575 (x1 5 20 (x1 4 (BitVec.ofNat 32 (207 + 256)) (wr 0x400F0040 1 s1)))
    let b := x1 6 65535 (x1 5 100 (x1 4 (BitVec.ofNat 32 (23 + 256)) (wr 0x400F0040 1 s1)))
    let f := la (fun L => { L with link := List.replicate 64 (.cmd ⟨0, 0, 0, .level true, none, none⟩) }) s1
    Ready s .a 1 ∧ s.laneA.flag 0x400F0040 0 = true ∧ s.laneA.link.countP LinkMsg.onPath < 64 ∧
    (s.ctxOf .a 1).rx 4 = BitVec.ofNat 32 ((207 : ChNo).val + (if true then 256 else 0)) ∧
    20 ≤ ((s.ctxOf .a 1).rx 5).toNat ∧ ((s.ctxOf .a 1).rx 6).toNat ≤ 1048575 ∧
    ((x1 4 207 s).ctxOf .a 1).rx 4 = BitVec.ofNat 32 (207 : ChNo).val ∧ Ready b .a 1 ∧
    (b.ctxOf .a 1).rx 4 = BitVec.ofNat 32 ((23 : BrNo).val + 256) ∧ ((b.ctxOf .a 1).rx 6).toNat ≤ 65535 ∧
    Ready f .a 1 ∧ 64 ≤ f.laneA.link.countP LinkMsg.onPath ∧ 512 ≤ ((x1 4 512 s).ctxOf .a 1 |>.rx 4).toNat ∧
    208 ≤ ((x1 4 208 s).ctxOf .a 1 |>.rx 4).toNat % 256 := by
  intro s b f
  repeat' apply And.intro
  all_goals decide +kernel

/-- curd into a queue that is full, on a channel with four edges, 20 us away and nearer. -/
theorem test_hyps_curd :
    let c := x1 8 500000 (x1 6 100002000 (x1 4 (BitVec.ofNat 32 (207 + 256)) (wr 0x400F0040 1 s1)))
    let e : CurdE := { CurdE.reset with
      st := 1
      ch := 207 }
    let full := la (fun L => { L with spx := { L.spx with ents := (List.range 1024).map (fun i => (i, e)) } }) c
    let four := la (fun L => { L with spx := { L.spx with ents := (List.range 4).map (fun i => (i, e)) } }) c
    let busy := la (fun L => { L with spxQ := List.replicate 16 6 }) c
    Ready busy .a 1 ∧ 16 ≤ busy.laneA.spxQ.length ∧ c.laneA.spxQ.length < 16 ∧
    Ready c .a 1 ∧ (c.ctxOf .a 1).rx 4 = BitVec.ofNat 32 ((207 : ChNo).val + (if true then 256 else 0)) ∧
    1 ≤ ((c.ctxOf .a 1).rx 8).toNat ∧ ((c.ctxOf .a 1).rx 8).toNat ≤ 500000 ∧ c.laneA.occ < 1024 ∧
    c.laneA.lt + 2000 ≤
      (((c.ctxOf .a 1).rx 6).toNat + 2 ^ 32 * ((c.ctxOf .a 1).rx 7).toNat + 50) / 100 * 100 ∧
    c.laneA.flag 0x400F0040 0 = true ∧ 1024 ≤ full.laneA.occ ∧
    4 ≤ (four.laneA.spx.ents.filter (fun e => e.2.st != 0 && e.2.ch == 207)).length ∧ four.laneA.occ < 1024 ∧
    (((x1 6 100001900 c).ctxOf .a 1 |>.rx 6).toNat + 50) / 100 * 100 < c.laneA.lt + 2000 := by
  intro c e full four busy
  repeat' apply And.intro
  all_goals decide +kernel

/-- Handles: stale, resolved, drained before the firing, pending with time to spare and without, fired, past the deadline; a full
queue. -/
theorem test_hyps_handles :
    let e : CurdE := { CurdE.reset with
      used := true
      gen := 4095
      st := 1
      at_ := 100002000 }
    let s := fun (y : CurdE) => x1 4 0x3FFFFF (wr 0x400F0040 1 (la (fun L => L.setEnt 1023 y) s1))
    Ready (s e) .a 1 ∧ ((s e).ctxOf .a 1).rx 4 = BitVec.ofNat 32 0x3FFFFF ∧ (0x3FFFFF : Nat) < 2 ^ 22 ∧
    ((s e).laneA.ent (0x3FFFFF % 1024)).gen = 0x3FFFFF / 1024 ∧
    ¬((s { e with gen := 0 }).laneA.ent 1023).gen = 0x3FFFFF / 1024 ∧
    ((s { e with st := 0 }).laneA.ent 1023).st = 0 ∧
    ((s { e with drainAt := some 5 }).laneA.ent 1023).drainAt ≠ none ∧
    (s e).laneA.lt + 2000 ≤ ((s e).laneA.ent 1023).at_ ∧ (s e).laneA.flag 0x400F0040 0 = true ∧
    ((s { e with at_ := 100001999 }).laneA.ent 1023).at_ < s1.laneA.lt + 2000 ∧ (s e).laneA.spxQ.length < 16 ∧
    s1.laneA.lt < ((s { e with at_ := 100001999 }).laneA.ent 1023).at_ ∧ ((s e).laneA.ent 1023).drainAt = none ∧
    (let f := (s { e with st := 2, at_ := 99999999, dl := 1 }).laneA.ent 1023
     f.st = 2 ∧ s1.laneA.lt < f.at_ + 100 * f.dl ∧ f.at_ ≤ s1.laneA.lt ∧ f.drainAt = none) ∧
    (let f := (s { e with at_ := 100000000, dl := 1 }).laneA.ent 1023
     f.st = 1 ∧ f.at_ ≤ s1.laneA.lt ∧ s1.laneA.lt < f.at_ + 100 * f.dl) ∧
    (let f := (s { e with st := 2, at_ := 99999900, dl := 1 }).laneA.ent 1023
     f.st = 2 ∧ f.at_ + 100 * f.dl ≤ s1.laneA.lt) ∧
    (let b := la (fun L => { L with spxQ := List.replicate 16 6 }) (s e)
     Ready b .a 1 ∧ 16 ≤ b.laneA.spxQ.length) := by
  intro e s
  repeat' apply And.intro
  all_goals decide +kernel

theorem test_hyps_bad_operands : Ready (x1 4 0x400000 s1) .a 1 ∧ s1.laneA.spxQ.length < 16 ∧
    2 ^ 22 ≤ (((x1 4 0x400000 s1).ctxOf .a 1).rx 4).toNat ∧ (s1.ctxOf .a 1).rx 8 = 0 ∧
    500000 < (((x1 8 500001 s1).ctxOf .a 1).rx 8).toNat := by
  repeat' apply And.intro
  all_goals decide +kernel

/-- The last loop, each bound of the parameter numbers, a loop number out of range, a full queue, and CTL of a loop that may start,
that may not, and that runs. -/
theorem test_hyps_loop_parameters : Ready (x1 4 63 s1) .a 1 ∧
    (let b := la (fun L => { L with lpeQ := List.replicate 16 6 }) s1
     Ready b .a 1 ∧ 16 ≤ b.laneA.lpeQ.length) ∧ s1.laneA.lpeQ.length < 16 ∧
    (let g := x1 4 63 (x1 5 1 (la (fun L => L.setLoopAcc 63 3 5) s1))
     Ready g .a 1 ∧ bitOf ((g.ctxOf .a 1).rx 5) 0 = true ∧ bitOf ((g.ctxOf .a 1).rx 5) 4 = false ∧
       g.laneA.loopOn 63 = false ∧ g.enableErr .a 63 = 0 ∧
       (la (fun L => L.setLoopAcc 63 3 4) g).enableErr .a 63 ≠ 0 ∧ bitOf ((g.ctxOf .a 1).rx 6) 0 = false ∧
       (la (fun L => L.setLoopAcc 63 0 1) g).laneA.loopOn 63 = true) ∧
    ((la (fun L => L.setLoop 63 { L.loop 63 with run := true }) s1).laneA.loop 63).run = true ∧
    ((x1 4 63 s1).ctxOf .a 1).rx 4 = BitVec.ofNat 32 (63 : Fin 64).val ∧ s1.laneA.loopOn 63 = false ∧
    (s1.laneA.loop 63).run = false ∧ 1 ≤ (1 : Fin 32).val ∧ (20 : Fin 32).val ≤ 20 ∧ (25 : Fin 32).val ≤ 25 ∧
    64 ≤ (((x1 4 64 s1).ctxOf .a 1).rx 4).toNat ∧ 21 ≤ (21 : Fin 32).val ∧ 26 ≤ (26 : Fin 32).val := by
  repeat' apply And.intro
  all_goals decide +kernel

/-- A matrix command with operands `c` and `a`. -/
def mat (op : Nat) : MatCmd := ⟨op, 0x100, 0x200, 0x300, 1, 1, 0, 0, []⟩

/-- Room and none, aligned and misaligned, tickets completed, waiting and to come. -/
theorem test_hyps_matrix_queue :
    let full := la (fun L => { L with mat := ⟨List.replicate 8 (mat 18), 1, []⟩ }) s1
    let done := x1 4 1 (la (fun L => { L with mat := ⟨[], 1, [(1, 3)]⟩ }) s1)
    Ready s1 .a 1 ∧ s1.laneA.mat.queue.length < 8 ∧ ((s1.ctxOf .a 1).rx 4).toNat % 16 = 0 ∧ Ready full .a 1 ∧
    8 ≤ full.laneA.mat.queue.length ∧ Ready (x1 4 8 s1) .a 1 ∧ (((x1 4 8 s1).ctxOf .a 1).rx 4).toNat % 16 ≠ 0 ∧
    Ready done .a 1 ∧ done.laneA.ticketStatus ((done.ctxOf .a 1).rx 4) = some 3 ∧
    full.laneA.ticketStatus (((x1 4 1 full).ctxOf .a 1).rx 4) = none ∧
    0 < (((x1 4 2 done).ctxOf .a 1).rx 4 - done.laneA.mat.last).toInt := by
  intro full done
  repeat' apply And.intro
  all_goals decide +kernel

/-- A 2 x 2 sum that passes the checks, a command whose operand is not in reach, and the first command of a solve of the LKP. -/
theorem test_hyps_matrix_complete :
    let hdr : Word := 0x00020202
    let s := la (fun L => { (L.storeWords 0x100 [hdr]).storeWords 0x200 [hdr] |>.storeWords 0x300 [hdr] with
      mat := ⟨[mat 18], 1, []⟩ }) s1
    let m := { mat 18 with a := 0x600000 }
    let n : MatCmd := ⟨21, 0, 0, 0, 128, 1, 0, 0, []⟩
    let k := la (fun L => { L with
      mat := ⟨[n], 1, []⟩
      lkp := { L.lkp with solve := some ⟨100000000, 16, 21, some 1, [], [], [], [], []⟩ } }) s1
    s.power = 0 ∧ s.laneA.mat.queue = [mat 18] ∧ s.laneA.matCheck (mat 18) = none ∧
    s.laneA.matCheck m = some 3 ∧ (mat 18).ctx < 128 ∧ s.laneA.lkp.solve = none ∧
    k.laneA.lkp.solve = some ⟨100000000, 16, 21, some 1, [], [], [], [], []⟩ ∧ k.laneA.mat.queue = [n] ∧ n.ctx = 128 ∧
    n.ticket = 1 ∧ (n.ticket - k.laneA.mat.last).toInt ≤ 0 ∧ k.laneA.servesAll .dma0 n.c.toNat 4096 = true := by
  intro hdr s m n k
  repeat' apply And.intro
  all_goals decide +kernel

/-- A context that waits with madd, with room and without, and one that waits with edge. -/
theorem test_hyps_engine_wait :
    let w := fun (i : Instr) => cx 1 (fun x => { x with
      st := .waiting
      wait := { Wait.none with
        kind := 6
        rd := 9
        cmd := some i } }) s1
    let s := w (.madd .a 1 9 4 5 6)
    let f := la (fun L => { L with mat := ⟨List.replicate 8 (mat 18), 1, []⟩ }) s
    let g := la (fun L => { L with link := List.replicate 64 (.cmd ⟨0, 0, 0, .level true, none, none⟩) })
      (w (.edge .a 1 4 6))
    let p := la (fun L => { L with lpeQ := List.replicate 16 6 }) (w (.lprd .a 1 9 4 6))
    let h := w (.crdst .a 1 9 4)
    let q := la (fun L => { L with spxQ := List.replicate 16 6 }) h
    s.laneA.phase = .run ∧ s.laneA.halted = false ∧ (s.ctxOf .a 1).st = .waiting ∧
    (s.ctxOf .a 1).wait.cmd = some (.madd .a 1 9 4 5 6) ∧ (s.ctxOf .a 1).wait.rd = 9 ∧
    s.laneA.mat.queue.length < 8 ∧ ((s.ctxOf .a 1).rx 4).toNat % 16 = 0 ∧ 8 ≤ f.laneA.mat.queue.length ∧
    (f.ctxOf .a 1).wait.cmd = some (.madd .a 1 9 4 5 6) ∧ (g.ctxOf .a 1).wait.cmd = some (.edge .a 1 4 6) ∧
    64 ≤ g.laneA.link.countP LinkMsg.onPath ∧ (p.ctxOf .a 1).wait.cmd = some (.lprd .a 1 9 4 6) ∧
    16 ≤ p.laneA.lpeQ.length ∧ (h.ctxOf .a 1).wait.cmd = some (.crdst .a 1 9 4) ∧
    (h.ctxOf .a 1).rx 4 = BitVec.ofNat 32 0 ∧ (h.ctxOf .a 1).wait.rd = (9 : RegNo).val ∧
    (h.laneA.ent (0 % 1024)).used = false ∧ h.laneA.spxQ.length < 16 ∧ 16 ≤ q.laneA.spxQ.length ∧
    (q.ctxOf .a 1).wait.cmd = some (.crdst .a 1 9 4) := by
  intro w s f g p h q
  repeat' apply And.intro
  all_goals decide +kernel

/-- A field of each access code in the blocks named. -/
theorem test_hyps_registers : (0x40060000#32).toNat % 4 = 0 ∧
    (0x40060000#32).toNat / 0x10000 ∈ [0x4005, 0x4006, 0x4009, 0x4013] ∧ (0x40060000#32).toNat ≠ 0x40090000 ∧
    (laneFlds 0x40060000).length ≠ 0 ∧ (0x40050014#32).toNat / 0x10000 ∈ [0x4005, 0x4006, 0x4007, 0x4009, 0x4013] ∧
    (laneFlds 0x40050014).any (fun f => f.acc == .rc) = true ∧ (2#32).toNat % 4 ≠ 0 ∧
    (0x3FFFFFFC#32).toNat < 0x40000000 ∧ 0x40180000 ≤ (0x40180000#32).toNat := by decide +kernel

/-- GNSS time known and unknown. -/
theorem test_hyps_time_reads :
    let s := la (fun L => { L with time := { L.time with map := some 5 } }) s1
    s.laneA.gnssTime = some (((1000000005 : Nat) : Int)) ∧ (1000000005 : Nat) < 2 ^ 64 ∧
    s1.laneA.gnssTime = none := by decide +kernel

/-- Banks: handing over, OFF, the present owner, another owner; a bank that leaves OFF. -/
theorem test_hyps_banks :
    let p := la (fun L => L.setFlag 0x4004025C 3 true) s1
    let o := la (fun L => (L.setFld 0x40040200 0 3 0).setFld 0x40040200 4 2 2) s1
    p.laneA.flag (0x40040200 + 4 * 23) 3 = true ∧ o.laneA.bankPower 0 = 2 ∧ o.laneA.owner 0 = 0 ∧
    s1.laneA.flag 0x40040200 3 = false ∧ (1 : Fin 8).val = s1.laneA.owner 0 ∧ (4 : Fin 8).val ≠ s1.laneA.owner 23 ∧
    s1.laneA.bankPower 23 ≠ 2 ∧ s1.laneA.flag (0x40040200 + 4 * 23) 6 = false ∧
    s1.laneA.flag (0x40040200 + 4 * 23) 7 = false ∧ (Tab.get s1.laneA.banks ⟨none⟩ 0).toOwner = none ∧
    s1.laneA.bankWaits 0 = false ∧ o.laneA.bankWaits 0 = false ∧ s1.laneA.owner 0 ≠ 0 ∧
    (22 : SramNo).val ≠ 23 ∧ p.laneA.bankWaits 23 = true := by decide +kernel

/-- The scrubber runs over a sound word, a single-bit and a double-bit error, in an owned bank and in none. -/
theorem test_hyps_scrub :
    let o := la (fun L => L.setFld 0x4004025C 0 3 0) s1
    s1.laneA.alive = true ∧ s1.laneA.fld 0x40040004 0 8 ≠ 0 ∧ s1.laneA.bankPower 23 ≠ 2 ∧ s1.power ≤ 1 ∧
    max (Tab.get s1.laneA.ecc 0 0x17FFFF) (2 : Fin 3).val = 2 ∧ s1.laneA.owner 23 ≠ 0 ∧ o.laneA.owner 23 = 0 ∧
    max (Tab.get s1.laneA.ecc 0 0) (1 : Fin 3).val = 1 ∧ 0x17FFFF / 0x10000 = 23 := by decide +kernel

/-- RESET_N high and low, VLOG present and absent, the hold store empty and not. -/
theorem test_hyps_resets :
    let low := s1.modRind (fun r => { r with resetLow := true })
    let dark := s1.modRind (fun r => { r with vlogOk := false })
    let x := rw_ 0x110 0x40000 s1
    let nap := rw_ 0x108 0x800 (rw_ 0x104 3 dark)
    nap.power ≠ 0 ∧ nap.rind.vlogOk = false ∧ nap.rind.flag 0x108 11 = true ∧ State.reset.laneA.alive = false ∧
    s1.rind.resetLow = false ∧ low.rind.resetLow = true ∧ s1.rind.vlogOk = true ∧ dark.rind.vlogOk = false ∧
    dark.rind.holdEmpty = false ∧ State.reset.rind.holdEmpty = true ∧ State.reset.rind.vlogOk = false ∧
    x.rind.flag 0x110 18 = true ∧ s1.rind.flag 0x110 18 = false ∧ s1.laneA.running = true ∧
    State.reset.laneA.running = false := by decide +kernel

/-- Each reason of a refused power target, where no earlier one holds. -/
theorem test_hyps_power_targets :
    let on := sw 207 (fun w => { w with ph := 2 }) s1
    let run := un 208 (fun p => { p with run := true }) s1
    let curd := wr 0x40060004 1 s1
    let wk := rw_ 0x10C 1 s1
    let z := fun (x : Nat) => rw_ 0x104 (BitVec.ofNat 32 x) s1
    let d := sw 207 (fun w => { w with ph := 2 }) (s1.modRind (fun r => { r with steer := [(207, 2)] }))
    (1 ≠ s1.power ∧ s1.tcxo = true) ∧ ((z 3).tcxo = false ∧ 0 ≠ (z 3).power ∧ (z 3).rind.vlogOk = true ∧
      (z 3).laneA.alive = true) ∧ (d.caving = false ∧ d.steer 207 = 2 ∧ (d.die.swt 207).ph = 2) ∧
    ((z 5).power = 5 ∧ (z 5).caving = true ∧ (z 5).steer 231 ≠ 2) ∧
    s1.control = some .a ∧ on.steer 207 ≠ 2 ∧ (on.die.swt 207).ph = 2 ∧ (run.die.unit 208).run = true ∧
    (curd.lane .a).fld 0x40060004 0 11 ≠ 0 ∧ wk.rind.rd 0x10C ≠ 0 ∧ 6 ≤ fieldNat 6 0 3 ∧ s1.rind.rd 0x10C = 0 ∧
    fieldNat 5 0 3 = 5 ∧ s1.power = 0 ∧ s1.rind.trans = none ∧ (s1.die.unit 231).run = false := by decide +kernel

/-- Transitions to each state, wakes in and below RUN, and park. -/
theorem test_hyps_transitions :
    let too := fun (x : Nat) => s1.modRind (fun r => { r with trans := some x })
    let z := fun (x : Nat) => rw_ 0x104 (BitVec.ofNat 32 x) s1
    let ok := fun (s : State) (src : BitVec 13) => (src.toNat &&& ((s.rind.rd 0x108).toNat &&& 4095)) |||
      (if src.getLsbD 12 = true ∧ (s.laneWakes .a = true ∨ s.laneWakes .b = true) then 4096 else 0)
    let ev := fun (s : State) => la (fun L => { L with ev := { L.ev with woken := true } }) s
    let c := rw_ 0x108 1 (z 5)
    let off := la (fun L => { L with phase := .off }) c
    (ok c 1 ≠ 0 ∧ c.power = 5 ∧ c.caving = true ∧ off.laneA.alive = false ∧ c.laneA.alive = true ∧ c.tcxo = false ∧
      c.rind.vlogOk = true) ∧ (2 = (z 2).power ∧ (z 2).laneA.bankPower 0 = 0) ∧
    s1.rind.trans = none ∧ (too 5).rind.trans = some 5 ∧ (z 3).power = 3 ∧ ok (ev (z 2)) 4096 ≠ 0 ∧ ok (ev (z 4)) 4096 = 0 ∧
    ok (rw_ 0x108 4 s1) 4 ≠ 0 ∧ s1.power = 0 ∧ (too 1).rind.trans = some 1 ∧ ok (ev (too 1)) 4096 ≠ 0 ∧ (z 2).power = 2 ∧
    (rw_ 0x100 8 (z 2)).rind.flag 0x100 3 = true ∧ (rw_ 0x100 8 (z 2)).power = 2 := by decide +kernel

/-- A watchdog at its end, one tick before it, and one in a lane whose cores do not run. -/
theorem test_hyps_lane_resets :
    let w := la (fun L => { L with wdogDue := 100000000 }) s1
    let v := la (fun L => { L with wdogDue := 100000001 }) s1
    s1.laneA.alive = true ∧ w.coresRun .a = true ∧ w.laneA.wdogDue ≤ w.laneA.lt ∧ v.laneA.lt < v.laneA.wdogDue ∧
    State.reset.coresRun .a = false ∧ s1.laneA.gaveUp = false := by decide +kernel

/-- A lane that may leave reset, with and without a slept bank, one that may not; the boot's outcomes. -/
theorem test_hyps_boot :
    let off := la (fun L => { L with phase := .off }) s1
    let slept := wr 0x40000010 0x200 off
    let b := fun (m : Word) => wr 0x40000010 m (la (fun L => { L with phase := .boot }) s1)
    off.laneA.phase = .off ∧ off.rind.vlogOk = true ∧ off.rind.resetLow = false ∧ off.laneOff .a = false ∧
    off.tcxo = true ∧ (b 0).rind.vlogRec.get .a = false ∧
    ((b 0).modRind (fun r => { r with vlogRec := ⟨true, false⟩ })).rind.vlogRec.get .a = true ∧
    (b 0).laneA.waiting 2 92 = [] ∧ off.laneA.fld 0x40000010 8 4 ≠ 2 ∧ slept.laneA.fld 0x40000010 8 4 = 2 ∧
    (257#9).getLsbD 0 = true ∧ s1.laneA.phase ≠ .off ∧ (b 2).laneA.fld 0x40000010 0 3 = 2 ∧
    (b 2).laneA.enrolled = false ∧ (b 1).laneA.fld 0x40000010 0 3 = 1 ∧ (b 0).laneA.fld 0x40000010 0 3 ≠ 1 ∧
    (b 0).laneA.vault.loader = false ∧ (b 0).imageCheck .a ≠ 0 ∧ s1.laneA.phase ≠ .boot := by decide +kernel

/-- Not enrolled and enrolled, a failed burn, another value, a burn that runs. -/
theorem test_hyps_enrolment :
    let e := la (fun L => L.setFlag 0x40150004 0 true) s1
    let f := la (fun L => L.setFlag 0x40150004 3 true) s1
    let b := la (fun L => L.modVault (fun v => { v with burn := some [1] })) s1
    s1.laneA.running = true ∧ e.laneA.enrolled = true ∧ f.laneA.flag 0x40150004 3 = true ∧
    s1.laneA.enrolled = false ∧ s1.laneA.flag 0x40150004 3 = false ∧ s1.laneA.vault.burn = none ∧
    State.reset.laneA.running = false ∧ b.laneA.vault.burn = some [1] := by
  intro e f b
  repeat' apply And.intro
  all_goals decide +kernel

/-- The floor below, at and above the running image's SVN; a value one later, the same and half a circle away. -/
theorem test_hyps_counters :
    let up := wr 0x401500E0 1 s1
    let high := s1.modRind (fun r => { r with mcnt := [(0, 1)] })
    s1.laneA.running = true ∧ up.imgFloor .a ≤ up.reg .a 0x401500E0 ∧ s1.imgFloor .a ≤ s1.reg .a 0x401500E0 ∧
    high.laneA.running = true ∧ high.reg .a 0x401500E0 < high.imgFloor .a ∧
    0 < (1#32 - s1.cfgFloor .a).toInt ∧ (0#32 - s1.cfgFloor .a).toInt ≤ 0 ∧
    (0x80000000#32 - s1.cfgFloor .a).toInt ≤ 0 ∧ 0 < (0x7FFFFFFF#32 - s1.cfgFloor .a).toInt := by
  intro up high
  repeat' apply And.intro
  all_goals decide +kernel

/-- No refusal and one that runs; an enrolled lane with a challenge; fewer than two failures and two. -/
theorem test_hyps_debug :
    let v := fun (f : Vault → Vault) => la (fun L => L.modVault f) (la (fun L => L.setFlag 0x40150004 0 true) s1)
    let c := v (fun x => { x with chal := some [7], fails := 2 })
    let k := v (fun x => { x with lockTill := some 100000000 })
    s1.laneA.alive = true ∧ s1.laneA.vault.lockTill = none ∧ k.laneA.vault.lockTill ≠ none ∧
    c.laneA.alive = true ∧ c.laneA.enrolled = true ∧ c.laneA.vault.chal = some [7] ∧ 2 ≤ c.laneA.vault.fails ∧
    s1.laneA.vault.fails < 2 ∧ k.laneA.vault.lockTill = some 100000000 ∧ (100000000 : Nat) ≤ k.laneA.lt := by
  intro v c k
  repeat' apply And.intro
  all_goals decide +kernel

/-- A response is good once its signature verifies, which alone is opaque here; a key of another hash is not good. -/
theorem test_hyps_debug_response :
    let L := s1.laneA.modVault (fun v => { v with hash := Config.sha384 [1] })
    (Config.ecdsaVerify [1] (Config.sha384 [7]) [2] = true →
      Config.sha384 [1] = L.vault.hash ∧ Config.ecdsaVerify [1] (Config.sha384 [7]) [2] = true) ∧
    ¬(Config.sha384 [1] = s1.laneA.vault.hash ∧ Config.ecdsaVerify [1] (Config.sha384 [7]) [2] = true) := by
  refine ⟨fun h => ⟨rfl, h⟩, fun h => ?_⟩
  have e : (Config.sha384 [1]).length = (0 : Nat) := congrArg List.length h.1
  rw [Config.sha384, List.length_map, List.length_range] at e
  exact absurd e (by decide)

/-- Writes of both kinds at the least length and the first place, a busy memory, a source that is not owned, a write
under way. -/
theorem test_hyps_flash_writes :
    let c := wr 0x40160010 1 (wr 0x4016000C 1200 (wr 0x40040200 1 s1))
    let p := wr 0x40160038 4 (wr 0x40160034 0x3000000 (wr 0x40040200 1 s1))
    let b := la (fun L => L.setFlag 0x40160004 0 true) c
    let w := la (fun L => L.modVault (fun v => { v with wr := some ⟨true, 0x40000, [1]⟩ })) s1
    c.laneA.running = true ∧ c.laneA.flag 0x40160004 0 = false ∧ c.laneA.cfgSrcOk = true ∧ c.nseqOk .a = true ∧
    b.laneA.flag 0x40160004 0 = true ∧ s1.laneA.cfgSrcOk = false ∧ (wr 0x40160010 0 c).nseqOk .a = false ∧
    w.laneA.running = true ∧ w.laneA.vault.wr = some ⟨true, 0x40000, [1]⟩ ∧ p.laneA.running = true ∧
    p.laneA.flag 0x40160004 0 = false ∧ 4 ≤ p.laneA.fld 0x40160038 0 13 ∧ p.laneA.fld 0x40160038 0 13 ≤ 4096 ∧
    0x3000000 ≤ (p.laneA.rd 0x40160034).toNat ∧ (p.laneA.rd 0x40160034).toNat < 0x4000000 ∧
    (p.laneA.rd 0x40160034).toNat % 4096 = 0 ∧ p.laneA.ownedBy 1 (p.laneA.rd 0x40160030).toNat 4 = true ∧
    ¬4 ≤ s1.laneA.fld 0x40160038 0 13 := by
  intro c p b w
  repeat' apply And.intro
  all_goals decide +kernel

/-- A full block, an old record, neither, and blocks that none has taken. -/
theorem test_hyps_ledger :
    let f := la (fun L => { L with spx := { L.spx with held := 120 } }) s1
    let o := la (fun L => { L with spx := { L.spx with
      held := 1
      wrote := [75000000] } }) s1
    let u := la (fun L => L.modVault (fun v => { v with idx := 4096 })) f
    f.laneA.spx.lost = 0 ∧ f.laneA.spx.held ≤ 4096 ∧
    (la (fun L => { L with spx := { L.spx with lost := 1 } }) f).laneA.spx.lost ≠ 0 ∧
    f.laneA.running = true ∧ f.laneA.vault.idx < f.laneA.vault.taken + 4096 ∧ 120 ≤ f.laneA.spx.held ∧
    o.laneA.spx.wrote = 75000000 :: [] ∧ 75000000 + 25000000 ≤ o.laneA.lt ∧ f.laneA.vault.prev.length = 48 ∧
    u.laneA.vault.taken + 4096 ≤ u.laneA.vault.idx ∧ s1.laneA.spx.held < 120 ∧ s1.laneA.spx.wrote = [] := by
  intro f o u
  repeat' apply And.intro
  all_goals decide +kernel

/-- No mapping and one; control and none; holdover left by a small error and a large one; a slew that ends. -/
theorem test_hyps_gnss_time :
    let m := la (fun L => { L with time := { L.time with map := some 5 } }) s1
    let h := la (fun L => L.setFld 0x4002000C 0 2 2) m
    let e := la (fun L => L.setFld 0x4002000C 0 2 3) m
    let none_ := s1.modRind (fun r => { r with none_ := true })
    let fix := fun (s : State) => wr 0x400A0004 0x20 s
    (fix s1).hasFix .a = true ∧ (fix s1).laneA.time.map = none ∧ (fix h).hasFix .a = true ∧ (fix h).laneA.fld 0x4002000C 0 2 = 2 ∧
    m.hasFix .a = false ∧ m.hasFix .b = false ∧ (fix m).hasFix .b = true ∧
    s1.control = some .a ∧ s1.laneA.alive = true ∧ s1.laneA.time.map = none ∧ none_.control = none ∧
    m.control = some .a ∧ m.laneA.time.map ≠ none ∧ m.laneA.alive = true ∧ m.laneA.fld 0x4002000C 0 2 ≠ 2 ∧
    h.laneA.fld 0x4002000C 0 2 = 2 ∧ h.control = some .a ∧ h.laneA.gnssTime = some (((1000000005 : Nat) : Int)) ∧
    h.laneA.alive = true ∧ ((((1001000005 : Nat) : Int) - 1000000005 : Int) : Rat) + h.laneA.time.slew ≤ 1000000 ∧
    ¬((((1001000006 : Nat) : Int) - 1000000005 : Int) : Rat) + h.laneA.time.slew ≤ 1000000 ∧
    e.laneA.fld 0x4002000C 0 2 = 3 ∧ -10 < e.laneA.time.slew ∧ e.laneA.time.slew < 10 := by
  intro m h e none_ fix
  repeat' apply And.intro
  all_goals decide +kernel

/-- A generator enabled and not; its next edge due; suppressed, to be suppressed, and within its limit. -/
theorem test_hyps_pulses :
    let m := la (fun L => { L with time := { L.time with map := some 0 } }) s1
    let g := la (fun L => L.setGen 1 { L.gen 1 with cur := 1 }) m
    let high := fun (c : Word) (t : Nat) => (la (fun L => L.setGen 1 { L.gen 1 with
      cur := c
      high := true
      start := t }) m).laneA.gen (1 : Fin 2)
    let u := la (fun L => { L.setFld 0x4002000C 0 2 2 with time := { L.time with u0 := 2000000000 } }) g
    let p := la (fun L => L.setFlag 0x4002005C 2 true) g
    (g.counts .a = true ∧ g.laneA.tpDue (1 : Fin 2) = some 1000 ∧ g.laneA.beyondLimit = false ∧ g.control = some .a ∧
      p.laneA.tpDue (1 : Fin 2) = some 1000 ∧ p.laneA.beyondLimit = false ∧ u.laneA.tpDue (1 : Fin 2) = some 1000 ∧
      u.laneA.beyondLimit = true ∧ u.laneA.flag (0x40020058 + 4 * (1 : Fin 2).val) 2 = false ∧
      m.laneA.tpDue (1 : Fin 2) = none ∧ g.control = some (other .b)) ∧
    ((high 0x101 99999900).high = true ∧ 99999900 + 100 * fieldNat (high 0x101 99999900).cur 8 20 ≤ g.laneA.lt ∧
      g.laneA.lt < 99999901 + 100 * fieldNat (high 0x101 99999901).cur 8 20) ∧
    bitOf (g.laneA.gen (1 : Fin 2)).cur 0 = true ∧ g.laneA.time.map ≠ none ∧ bitOf (m.laneA.gen (0 : Fin 2)).cur 0 = false ∧
    g.laneA.alive = true ∧ (g.laneA.gen (1 : Fin 2)).phase = 0 ∧ (g.laneA.gen (1 : Fin 2)).pending = none ∧
    g.laneA.flag (0x40020058 + 4 * (1 : Fin 2).val) 2 = false ∧ p.laneA.flag (0x40020058 + 4 * (1 : Fin 2).val) 2 = true ∧
    p.laneA.fld 0x4002000C 0 2 ≠ 2 ∧ u.laneA.fld 0x4002000C 0 2 = 2 ∧
    (((u.laneA.rd 0x40020048).toNat : Nat) : Rat) < u.laneA.holdU ∧
    g.laneA.holdU ≤ (((g.laneA.rd 0x40020048).toNat : Nat) : Rat) := by
  intro m g high u p
  repeat' apply And.intro
  all_goals decide +kernel

/-- Both lanes comparing, the link away, a lane that does not count; slot 31 closed, open, and with a full window. -/
theorem test_hyps_peers :
    let o := la (fun L => L.setFlag 0x400204E0 0 true) s1
    let two := la (fun L => L.setFld 0x400204E0 8 5 1) o
    let dark := { s1 with laneLink := false }
    let full := la (fun L => { L with time := { L.time with pairs := [(31, List.replicate 256 (0, 0))] } }) o
    (s1.modLane .b (fun L => { L with phase := .off })).counts (other .a) = false ∧
    s1.counts .a = true ∧ s1.laneLink = true ∧ s1.counts (other .a) = true ∧ dark.counts .a = true ∧
    dark.laneLink = false ∧ State.reset.counts .a = false ∧ fieldNat 31 0 5 = (31 : Fin 32).val ∧
    s1.laneA.flag (0x40020100 + 32 * (31 : Fin 32).val) 0 = false ∧ o.laneA.flag 0x400204E0 0 = true ∧
    two.laneA.flag 0x400204E0 0 = true ∧ (Tab.get two.laneA.time.pairs [] 31).length + 1 < two.laneA.xsrcN 31 ∧
    full.laneA.xsrcN 31 ≤ (Tab.get full.laneA.time.pairs [] 31).length + 1 ∧
    fieldNat 0x100 8 5 ≠ s1.laneA.fld 0x400204E0 8 5 ∧ fieldNat (BitVec.ofNat 32 (256 * s1.laneA.fld 0x400204E0 8 5)) 8 5 = s1.laneA.fld 0x400204E0 8 5 := by
  intro o two dark full
  repeat' apply And.intro
  all_goals decide +kernel

/-- Lanes that send a heartbeat and one that cannot; a lane silent for 40 us, and one just heard. -/
theorem test_hyps_heartbeats :
    let h := wr 0x400F0040 1 s1
    let b := fun (t : Nat) => s1.modRind (fun r => { r with beat := ⟨⟨true, true, t, true⟩, r.beat.b⟩ })
    let o := fun (g : Nat) => rw_ 0x204 (BitVec.ofNat 32 g) (la (fun L => { L with phase := .off }) (b 99996000))
    ((o 0).laneA.alive = false ∧ ((o 0).rind.beat.get .a).live = true ∧ (o 0).gu .a = false ∧ (o 16).gu .a = true) ∧
    h.laneA.alive = true ∧ h.laneA.flag 0x400F0040 0 = true ∧ h.laneA.phase ≠ .factory ∧
    State.reset.laneA.alive = false ∧ ((b 99996000).rind.beat.get .a).live = true ∧
    ((b 99996000).rind.beat.get .a).at_ + 4000 ≤ (b 99996000).die.replica ∧ s1.laneA.gaveUp = false ∧
    (b 99996001).die.replica < ((b 99996001).rind.beat.get .a).at_ + 4000 ∧ (s1.rind.beat.get .a).live = false := by
  intro h b o
  repeat' apply And.intro
  all_goals decide +kernel

/-- A lane that gave up with and without a ready partner; a return due; none in control, ready lanes and not. -/
theorem test_hyps_arbiters :
    let rb : Beat := ⟨false, true, 100000000, true⟩
    let g := s1.modRind (fun r => r.setFlag 0x204 4 true)
    let p := g.modRind (fun r => { r with beat := ⟨r.beat.a, rb⟩ })
    let ret := s1.modRind (fun r => { r with act := .b, beat := ⟨rb, rb⟩, readyAt := ⟨some 0, some 0⟩ }.setFld 0x200 8 8 1)
    let n := s1.modRind (fun r => { r with none_ := true, beat := ⟨rb, rb⟩ })
    let m := n.modRind (fun r => { r with
      beat := ⟨Beat.reset, rb⟩
      everHeld := false
      readyAt := ⟨none, some 0⟩ })
    let d := s1.modRind (fun r => { r with diffAt := some 99998999 })
    s1.rind.plan = none ∧ s1.rind.proving = none ∧ p.control = some .a ∧ p.gu .a = true ∧
    p.readyBeat (other .a) = true ∧ g.gu .a = true ∧ g.readyBeat (other .a) = false ∧ s1.gu .a = false ∧
    s1.returnDue = false ∧ ret.control = some .b ∧ ret.gu .b = false ∧ ret.returnDue = true ∧ n.control = none ∧
    n.readyBeat n.home = true ∧ n.rind.everHeld = true ∧ m.control = none ∧ m.rind.everHeld = false ∧
    m.readyBeat m.home = false ∧ m.readyBeat (other m.home) = true ∧
    m.rind.readyAt.get (other m.home) = some 0 ∧ 0 + 100000000 ≤ m.die.replica ∧ d.rind.diffAt = some 99998999 ∧
    99998999 + 1000 < d.die.replica ∧ d.rind.diffSaid = false := by
  intro rb g p ret n m d
  repeat' apply And.intro
  all_goals decide +kernel

/-- No lane in control for NONE_TMO; control, and a time that has not run out. -/
theorem test_hyps_without_control :
    let n := s1.modRind (fun r => { r with none_ := true })
    let z := n.modRind (fun r => r.setFld 0x200 16 8 1)
    let y := n.modRind (fun r => r.setFld 0x200 16 8 255)
    z.rind.none_ = true ∧ z.rind.everHeld = true ∧ z.die.safeOff = false ∧
    z.rind.noneAt + z.rind.fld 0x200 16 8 * 1000000 ≤ z.die.replica ∧ s1.rind.none_ = false ∧
    ¬y.rind.noneAt + y.rind.fld 0x200 16 8 * 1000000 ≤ y.die.replica := by
  intro n z y
  repeat' apply And.intro
  all_goals decide +kernel

/-- Plans of each kind at their instant and before it; a proof that may start and one that may not. -/
theorem test_hyps_handovers :
    let pl := fun (k t : Nat) => s1.modRind (fun r => { r with plan := some ⟨.b, t, k⟩ })
    let sw2 := (pl 2 100000000).modRind (fun r => { r with proving := some .b })
    let rb : Beat := ⟨false, true, 100000000, true⟩
    let r := s1.modRind (fun r => { r with beat := ⟨r.beat.a, rb⟩ })
    (pl 0 100000000).rind.plan = some ⟨.b, 100000000, 0⟩ ∧ (pl 0 100000000).gu .a = false ∧
    (pl 0 100000000).gu .b = false ∧ (100000000 : Nat) ≤ (pl 0 100000000).die.replica ∧
    (pl 0 100000001).die.replica < 100000001 ∧ s1.rind.plan = none ∧ r.control = some .a ∧
    r.readyBeat (other .a) = true ∧ r.rind.proving = none ∧ r.rind.plan = none ∧ r.power = 0 ∧
    s1.readyBeat (other .a) = false ∧ (pl 0 0).rind.plan ≠ none ∧ r.control ≠ some .b ∧
    sw2.rind.plan = some ⟨.b, 100000000, 2⟩ ∧ sw2.rind.proving = some .b ∧ (rw_ 0x104 1 s1).power ≠ 0 := by
  intro pl sw2 rb r
  repeat' apply And.intro
  all_goals decide +kernel

/-- The link there and away; views that agree, that differ in the role and that differ in the last unit. -/
theorem test_hyps_views :
    let v := fun (x : View) => la (fun L => { L with host := { L.host with view := x } }) s1
    let d := v ⟨.a, false, 0, [(231, 1)]⟩
    s1.laneLink = true ∧ s1.laneA.alive = true ∧ s1.laneB.alive = true ∧ s1.control = some .a ∧
    ({ s1 with laneLink := false } : State).laneLink = false ∧ s1.laneA.host.view.none_ = true ∧
    d.laneA.host.view.none_ = false ∧ d.laneA.host.view.act = .a ∧ d.control = some .a ∧
    Tab.get d.laneA.host.view.steer 0 231 ≠ d.steer 231 ∧
    (∀ k, k < 231 → Tab.get d.laneA.host.view.steer 0 k = d.steer k) := by
  intro v d
  repeat' apply And.intro
  all_goals decide +kernel

/-- Change the shadows of port A of a unit. -/
def shd (u : Nat) (f : Machine.Shadow → Machine.Shadow) (s : State) : State :=
  s.modDie (fun d => d.setShadow .a u (f (d.shadow .a u)))

/-- A command due at this tick ahead of a later one, on the last channel; frozen; none due; a register command. -/
theorem test_hyps_due :
    let c : PulseCmd := ⟨207, 100000000, 1, .level true, none, none⟩
    let d : PulseCmd := ⟨0, 100000001, 2, .level true, none, none⟩
    let g : PulseCmd := ⟨207, 100000000, 1, .reg (perAddr 207) 50, none, none⟩
    let q := port [c, d] s1
    let z := un 207 (fun p => { p with frozen := true }) q
    let e : PulseCmd := ⟨207, 100000000, 2, .level false, none, none⟩
    let b := un 208 id (port [⟨208, 100000000, 1, .level true, none, some 99999000⟩] s1)
    q.die.cmds.get .a = c :: [d] ∧ c.at_ ≤ q.die.replica ∧
    (∀ x, x ∈ [d] → x.isReg = c.isReg → x.at_ ≤ q.die.replica → c.at_ ≤ x.at_) ∧ c.act = .level true ∧ c.unit < 208 ∧
    q.ladderIdle c.unit = false ∧ (port [g] s1).ladderIdle g.unit = false ∧ (port [c, e] s1).ladderIdle c.unit = false ∧
    (let i := port [g] (rw_ 0x104 3 s1); i.die.cmds.get .a = [g] ∧ i.ladderIdle g.unit = true) ∧
    (let i := port [c] (rw_ 0x104 3 s1); i.die.cmds.get .a = [c] ∧ i.ladderIdle c.unit = true) ∧
    (q.die.unit c.unit).frozen = false ∧ q.rind.none_ = false ∧ q.steer c.unit = laneNo .a ∧
    ({ c with late := some 5 }).late ≠ none ∧ c.late = none ∧ (q.die.unit c.unit).shut = none ∧
    (q.die.unit c.unit).held = false ∧ c.isReg = false ∧ (z.die.unit c.unit).frozen = true ∧
    z.die.cmds.get .a = c :: [d] ∧ z.rind.none_ = false ∧ z.steer c.unit = laneNo .a ∧
    (∀ x, x ∈ (port [d] s1).die.cmds.get .a → x.isReg = true ∨ (port [d] s1).die.replica < x.at_) ∧
    (port [g] s1).die.cmds.get .a = g :: [] ∧ g.unit < 208 ∧ g.act = .reg (perAddr g.unit) 50 ∧
    ((port [g] s1).die.unit g.unit).frozen = false ∧ (port [g] s1).governs g.unit = .a ∧ s1.governs g.unit ≠ .b ∧
    bitOf ((port [g] s1).die.image .a (cfgAddr g.unit)) 4 = false ∧
    bitOf ((im (cfgAddr 207) 16 (port [g] s1)).die.image .a (cfgAddr g.unit)) 4 = true ∧
    (∀ x, x ∈ [d] → x.unit = c.unit → x.at_ = c.at_ → x.late ≠ c.late) ∧ e.late = c.late ∧ (port [c, e] s1).die.cmds.get .a = c :: [e] ∧
    (∀ x, x ∈ [e] → x.isReg = c.isReg → x.at_ ≤ q.die.replica → c.at_ ≤ x.at_) ∧ e ∈ [e] ∧ e.act = .level (!true) ∧
    e.unit = c.unit ∧ e.at_ = c.at_ ∧
    (∀ x, x ∈ q.die.cmds.get .a → x.isReg = false ∨ q.die.replica < x.at_) ∧ (b.die.cmds.get .a).length = 1 := by
  intro c d g q z e b
  repeat' apply And.intro
  all_goals decide +kernel

/-- The last channel at its period's end with each set of shadows; before the end; at its duty's end, on and off. -/
theorem test_hyps_channels :
    let s := un 207 (fun p => { p with run := true, per := 20, dut := 10, start := 99998000 }) s1
    let m := fun (f : Machine.PUnit → Machine.PUnit) => un 207 f s
    let w := shd 207 (fun x => { x with pPer := true, wDut := some 99999900 }) s
    let p := s.die.unit 207
    s.ladderIdle 207 = false ∧ (rw_ 0x104 4 s).ladderIdle 207 = true ∧ (un 207 (fun p => { p with frozen := true }) s).die.unit 207 ≠ p ∧
    p.run = true ∧ p.frozen = false ∧ p.start + p.per * 100 ≤ s.die.replica ∧ p.trip = false ∧ p.force = 0 ∧
    p.held = false ∧ p.shut = none ∧ s.rind.none_ = false ∧
    ((shd 207 (fun x => { x with group := true }) s).shadow 207).group = true ∧
    (s.modRind (fun r => { r with none_ := true })).rind.none_ = true ∧ w.rind.none_ = false ∧
    (s.shadow 207).group = false ∧ (s.shadow 207).pPer = false ∧ (s.shadow 207).pDut = false ∧
    (w.shadow 207).group = false ∧ (w.shadow 207).pPer = true ∧ (w.shadow 207).pDut = false ∧
    (w.shadow 207).wDut = some 99999900 ∧ 99999900 < w.die.replica ∧ w.die.replica ≤ 99999900 + w.guardTicks 207 ∧
    (w.die.unit 207).start + (w.die.unit 207).per * 100 ≤ w.die.replica ∧ (w.die.unit 207).run = true ∧
    ¬(s1.die.unit 207).run = true ∧ ((m (fun p => { p with h := true })).die.unit 207).h = true ∧ p.dut < p.per ∧
    p.start + p.dut * 100 ≤ s.die.replica ∧ p.h = false ∧
    ((m (fun p => { p with h := true, line := true })).die.unit 207).line = true := by
  intro s m w p
  repeat' apply And.intro
  all_goals decide +kernel

/-- The last bridge at each of its instants, edge aligned and centred. -/
theorem test_hyps_bridges :
    let p : Machine.PUnit := { Machine.PUnit.reset true with
      run := true
      per := 100
      dut := 40
      start := 99999900 }
    let s := fun (f : Machine.PUnit → Machine.PUnit) => un 231 (fun _ => f p) s1
    let u := fun (f : Machine.PUnit → Machine.PUnit) => (s f).die.unit (208 + (23 : BrNo).val)
    let fr := fun (q : Machine.PUnit) =>
      q.trip = false ∧ q.force = 0 ∧ q.resume = false ∧ q.refresh = false ∧ q.frozen = false ∧
        s1.die.safeOff = false ∧ s1.ladderIdle 231 = false
    let gate := fun (q : Machine.PUnit) => q.frozen = false ∧ q.waitAt ≤ s1.die.replica ∧ q.noPulse = false ∧
      s1.die.safeOff = false ∧ s1.ladderIdle 231 = false
    (let z := shd 231 (fun x => { x with group := true }) (s id)
     (z.die.unit 231).run = true ∧ (z.die.unit 231).frozen = false ∧ (z.shadow 231).group = true ∧
       z.rind.none_ = false ∧ (z.die.unit 231).start + (z.die.unit 231).per ≤ z.die.replica) ∧
    ¬(s1.die.unit 231).run = true ∧ fr (u (fun p => { p with h := true })) ∧
    (u (fun p => { p with h := true })).h = true ∧ (u (fun p => { p with h := true })).align = false ∧ p.dut < p.per ∧
    p.start + p.dut ≤ s1.die.replica ∧ 0 < p.dt ∧ (u id).h = false ∧
    (let q := u (fun p => { p with wait := 1, waitAt := 99999930, h := true }); gate q ∧ q.wait = 1 ∧ q.h = true) ∧
    (let q := u (fun p => { p with wait := 2, waitAt := 99999999 }); gate q ∧ q.wait = 2) ∧ (u id).wait = 0 ∧
    (u (fun p => { p with wait := 1, waitAt := 99999940, h := true })).noPulse = true ∧
    (rw_ 0x104 2 s1).ladderIdle 231 = true ∧
    (let q := u (fun p => { p with align := true, start := 99999965 })
     fr q ∧ q.align = true ∧ q.h = false ∧ q.mid = false ∧ 0 < q.dut ∧ q.midAt - q.dut / 2 ≤ s1.die.replica ∧
       s1.die.replica < q.midAt) ∧
    (let z := shd 231 (fun x => { x with pDut := true }) (s (fun p => { p with upd := true }))
     let q := z.die.unit 231
     q.run = true ∧ q.frozen = false ∧ q.align = false ∧ q.mid = false ∧ q.midAt ≤ z.die.replica ∧ q.upd = true ∧
       z.rind.none_ = false ∧ (z.shadow 231).group = false ∧ (z.shadow 231).pDut = true) ∧
    (let q := u (fun p => { p with refresh := true, gl := true, h := true })
     q.refresh = true ∧ q.gl = true ∧ q.frozen = false ∧ 0 < q.dt ∧ q.start + q.dt + s1.bsw 231 ≤ s1.die.replica ∧ q.h = true) ∧
    (u id).refresh = false := by
  intro p s u fr
  repeat' apply And.intro
  all_goals decide +kernel

/-- A governing port and one that does not govern; shutdowns absent, running and over, of a channel and a bridge. -/
theorem test_hyps_commits :
    let sh := fun (u t : Nat) => un u (fun p => { p with shut := some t }) s1
    let n := s1.modRind (fun r => { r with none_ := true })
    s1.governs 231 = .a ∧ s1.ladderIdle 231 = false ∧ (rw_ 0x104 2 s1).ladderIdle 231 = true ∧
    (let p := (un 231 (fun p => { p with shut := some 100000000, enHeld := true }) s1).die.unit 231
     p.shut = some 100000000 ∧ p.enHeld = true) ∧
    (let p := (sh 231 100000000).die.unit 231
     p.enHeld = false ∧ p.run = false ∧ p.force = 0 ∧ p.gh = false ∧ p.gl = false ∧ p.wait = 0 ∧ p.refresh = false) ∧
    s1.rind.none_ = false ∧ s1.governs 207 ≠ .b ∧ n.rind.none_ = true ∧
    (s1.die.unit 207).trip = false ∧ (s1.die.unit 207).frozen = false ∧ (1 : Fin 4).val = 1 ∧ (207 : UnitNo).val < 208 ∧
    208 ≤ (208 : UnitNo).val ∧ (s1.die.unit 207).shut = none ∧ ((sh 207 100000001).die.unit 207).shut = some 100000001 ∧
    (sh 207 100000001).die.replica < 100000001 ∧ ((sh 231 100000000).die.unit 231).shut = some 100000000 ∧
    100000000 ≤ (sh 231 100000000).die.replica ∧ ((sh 231 100000000).die.unit 231).held = false ∧
    ((sh 207 100000000).die.unit 207).trip = false ∧ ((sh 207 100000000).die.unit 207).frozen = false ∧
    ((sh 207 100000000).die.unit 207).force = 0 ∧ ((sh 207 100000000).die.unit 207).run = false ∧
    ((sh 207 100000000).die.unit 207).line = false := by
  intro sh n
  repeat' apply And.intro
  all_goals decide +kernel

/-- A selected source of the last channel and of a bridge, active and not; a halt, with and without a command path. -/
theorem test_hyps_trips :
    let c := im (cfgAddr 207) 0x10000 s1
    let b := im (cfgAddr 231 + 12) 1 s1
    let t := un 207 (fun p => { p with trip := true }) c
    let h := la (fun L => { L.wr 0x400F0040 1 with halted := true }) s1
    let z := un 207 (fun p => { p with frozen := true }) (s1.modDie (fun d => { d with freezing := ⟨true, false⟩, froze := ⟨[207], []⟩ }))
    c.selected 207 &&& (1#10).toNat ≠ 0 ∧ (c.die.unit 207).trip = false ∧ c.tripAct 207 = 0 ∧
    b.selected 231 &&& (1#10).toNat ≠ 0 ∧ b.tripAct 231 = 0 ∧ c.selected 207 &&& (0#10).toNat = 0 ∧
    t.governs 207 = .a ∧ t.rind.none_ = false ∧ (t.die.unit 207).trip = true ∧
    t.selected 207 &&& ((1#10).toNat ||| 256) ≠ 0 ∧ t.selected 207 &&& ((0#10).toNat ||| 256) = 0 ∧
    t.tripped 207 (t.die.unit 207) = true ∧ s1.tripped 207 (s1.die.unit 207) = false ∧ (t.die.unit 207).force < 2 ∧
    Tab.get s1.die.tripIn false 7 ≠ (128#10).getLsbD 7 ∧ c.selected 207 &&& (128#10).toNat = 0 ∧
    (wr 0x400F0040 1 s1).laneA.alive = true ∧ (wr 0x400F0040 1 s1).laneA.flag 0x400F0040 0 = true ∧
    (un 207 (fun p => { p with trip := true, run := true }) c).tripped 207 ((un 207 (fun p => { p with trip := true, run := true }) c).die.unit 207) = true ∧
    (let z := la (fun L => { L with halted := true }) (s1.modDie (fun d => { d with freezing := ⟨true, false⟩ }))
     z.die.freezing.get .a = true ∧ z.laneA.halted = true ∧ z.laneA.flag 0x400F0040 0 = false) ∧
    h.laneA.halted = true ∧ h.laneA.flag 0x400F0040 0 = true ∧ h.die.freezing.get .a = false ∧
    s1.laneA.halted = false ∧ z.die.freezing.get .a = true ∧ z.laneA.halted = false ∧
    (z.die.unit 207).frozen = true ∧ 207 ∈ z.die.froze.get .a ∧ 206 ∉ z.die.froze.get .a ∧ (z.die.unit 206).frozen = false ∧ s1.die.freezing.get .a = false := by
  intro c b t h z
  repeat' apply And.intro
  all_goals decide +kernel

/-- The input line and the stored input in each relation, a pad held off, a bank above its budget, window ends. -/
theorem test_hyps_switches :
    let l := un 207 (fun p => { p with line := true }) s1
    let i := sw 207 (fun w => { w with inp := true })
    let x := fun (f : Sw → Sw) => (sw 207 f s1).die.swt 207
    let up := bk 7 (fun b => { b with above := true }) l
    l.ladderIdle 207 = false ∧ (rw_ 0x104 3 s1).ladderIdle 207 = true ∧
    (let w := x (fun w => { w with fastSince := some 99999500, latchAt := some 99999999 })
     w.ph ≠ 2 ∧ w.latchedNow 99999999 = true ∧ w.fastSince = some 99999500) ∧ (s1.die.swt 207).latchedNow 100000000 = false ∧
    (x (fun w => { w with inp := true, backoff := some 5 })).backoff = some 5 ∧
    l.inputLine 207 = true ∧ (l.die.swt 207).inp = false ∧ l.padFree 207 = true ∧ (l.die.bank (bankOfCh 207)).restoring = false ∧
    (l.die.bank (bankOfCh 207)).above = false ∧ (sw 207 (fun w => { w with tlatch := true }) l).padFree 207 = false ∧
    up.inputLine 207 = true ∧ up.padFree 207 = true ∧ (up.die.bank (bankOfCh 207)).above = true ∧
    up.newTurnOn 207 = true ∧ s1.inputLine 207 = (s1.die.swt 207).inp ∧ (i s1).inputLine 207 = false ∧
    ((i s1).die.swt 207).inp = true ∧ (x (fun w => { w with ph := 2, inp := true })).ph = 2 ∧
    (x (fun w => { w with ph := 1, winEnd := 100000000 })).winEnd ≤ s1.die.replica ∧
    amps 207 (x (fun w => { w with fast := 255, cur := 64 })).fast ≤ (x (fun w => { w with fast := 255, cur := 64 })).cur ∧
    (x (fun w => { w with fast := 255, cur := 63 })).cur < amps 207 (x (fun w => { w with fast := 255, cur := 63 })).fast ∧
    (s1.die.swt 207).ph ≠ 1 ∧ (x (fun w => { w with ph := 2, fastSince := some 99999500 })).fastSince = some 99999500 ∧
    99999500 + 500 ≤ s1.die.replica ∧ (s1.die.swt 207).fastSince = none := by
  intro l i x up
  repeat' apply And.intro
  all_goals decide +kernel

/-- Heat below and at the trip level; with and without AUTO; seven and eight recent cuts; energy below, at and above the
limit; backoffs that have ended; ages; locks of this lane and of none. -/
theorem test_hyps_cuts :
    let auto := im 0x400F1CF0 0x40000000 s1
    let x := fun (f : Sw → Sw) => (sw 207 f auto).die.swt 207
    let hot := fun (w : Sw) => w.heat * (1 - 1 / 100000 / wireTau w.wire) + 0 * 0 * (1 / 100000)
    let c := x (fun w => { w with ph := 2, heat := 129, cuts := List.replicate 7 99999999 })
    let e := x (fun w => { w with ph := 1, retrying := true, re := [(0, 7 / 4)] })
    let r := x (fun w => { w with backoff := some 100000000, inp := true, heat := 64, re := [(0, 1)] })
    (s1.die.swt 207).latchedNow 100000000 = false ∧ (x (fun w => { w with latchAt := some 100000000, heat := 129 })).latchedNow 100000000 = true ∧
    auto.ladderIdle 207 = false ∧ (rw_ 0x104 3 s1).ladderIdle 207 = true ∧ r.heat ≤ tripLevel r.wire / 2 ∧
    (let v := x (fun w => { w with backoff := some 100000000, inp := true, re := [(0, 7 / 4)] })
     v.heat ≤ tripLevel v.wire / 2 ∧ v.tlatch = false ∧ 2 ≤ v.energy + eMax 207) ∧
    (x (fun w => { w with backoff := some 100000001 })).backoff = some 100000001 ∧
    (let v := x (fun w => { w with backoff := some 5, inp := true, heat := 129 })
     v.inp = true ∧ tripLevel v.wire / 2 < v.heat) ∧ (x (fun w => { w with tlatch := true })).tlatch = true ∧
    hot (s1.die.swt 207) < tripLevel 0 ∧ tripLevel c.wire ≤ hot c ∧ bitOf (auto.chCfg 207) 30 = true ∧
    (c.cuts.filter (fun t => decide (auto.die.replica < t + 60000000000))).length < 8 ∧ bitOf (im 0x400F1CF0 0 s1 |>.chCfg 207) 30 = false ∧
    8 ≤ ((99999999 :: c.cuts).filter (fun t => decide (auto.die.replica < t + 60000000000))).length ∧
    e.retrying = true ∧ e.ph = 1 ∧ 2 - eMax 207 ≤ e.energy ∧ (s1.die.swt 207).retrying = false ∧
    r.backoff = some 100000000 ∧ 100000000 ≤ auto.die.replica ∧ r.tlatch = false ∧ r.inp = true ∧
    r.heat ≤ tripLevel (fieldNat (auto.chCfg 207) 0 3) / 2 ∧ auto.order1 207 = false ∧
    (auto.die.bank (bankOfCh 207)).off = false ∧ (auto.die.bank (bankOfCh 207)).restoring = false ∧
    (auto.die.bank (bankOfCh 207)).above = false ∧ r.energy + eMax 207 < 2 ∧
    (x (fun w => { w with backoff := some 0 })).inp = false ∧ (s1.die.swt 207).backoff = none ∧ c.ph = 2 ∧
    ((sw 0 id (at_ 6000000000)).die.swt 0).onSince + 6000000000 ≤ (at_ 6000000000).die.replica ∧
    (at_ 5999999999).die.replica < (s1.die.swt 0).onSince + 6000000000 ∧ s1.governs 207 ≠ .b ∧
    (s1.die.swt 207).lockCnt = false ∧ (s1.die.swt 207).lockE = false ∧ s1.governs 207 = .a ∧
    (x (fun w => { w with lockE := true, re := [(0, 7 / 4)] })).lockE = true ∧
    2 ≤ (x (fun w => { w with lockE := true, re := [(0, 7 / 4)] })).energy + eMax 207 ∧
    (x (fun w => { w with lockCnt := true })).energy + eMax 207 < 2 := by
  intro auto x hot c e r
  repeat' apply And.intro
  all_goals decide +kernel

/-- Junctions at 175 and below, differences at the limit and below it, case sensors in and out of range, clears. -/
theorem test_hyps_temperatures :
    let s := im 0x400F1CF4 0x1E00 s1
    let x := fun (f : Sw → Sw) => sw 207 f s
    let dtl : Int := fieldNat (s.chLim 207) 8 7
    let hys : Int := s.dtHys
    let t := x (fun w => { w with tlatch := true, tj := 100 })
    (175 : Int) ≤ 175 ∧ (s.die.swt 207).tjmax = false ∧ (174 : Int) < 175 ∧ (s.die.bank (bankOfCh 207)).caseFail = false ∧
    (-50 : Int) ≤ -50 ∧ (150 : Int) ≤ 150 ∧ dtl ≤ (150 + dtl) - 150 ∧ 20 + dtl < 175 ∧ (s.die.swt 207).tlatch = false ∧ 20 - 20 < dtl ∧
    (150 : Int) < 151 ∧ (t.die.swt 207).tlatch = true ∧ s.governs 207 ≠ .b ∧ t.governs 207 = .a ∧
    ¬(∀ d, t.deltaT 207 = some d → d < dtl - hys) ∧
    (let c := x (fun w => { w with tlatch := true, tj := 1 })
     (∀ d, c.deltaT 207 = some d → d < dtl - hys) ∧ (c.die.swt 207).tj < 175 - hys) := by
  intro s x dtl hys t
  refine ⟨?_, ?_, ?_, ?_, ?_, ?_, ?_, ?_, ?_, ?_, ?_, ?_, ?_, ?_, fun h => ?_, fun d h => ?_, ?_⟩
  case refine_15 => exact absurd (h 100 (by decide +kernel)) (by decide +kernel)
  case refine_16 =>
    have e : (1 : Int) = d := by injection h
    exact e ▸ (by decide +kernel)
  all_goals decide +kernel

/-- A bank over its budget for 1 ms, at nine tenths of it for 10 ms, between; a deferred channel; restore steps. -/
theorem test_hyps_bank_budgets :
    let s := im 0x400F2074 10 s1
    let amp := fun (c : Rat) => sw 168 (fun w => { w with cur := c }) s
    let sum := fun (s : State) => (channelsOf 7).foldl (fun a n => a + (s.die.swt n).cur) 0
    let o := bk 7 (fun b => { b with overSince := some 99900000 }) (amp 11)
    let r := bk 7 (fun b => { b with above := true, recSince := some 99000000 }) (amp 9)
    let d := sw 207 (fun w => { w with defer := true, inp := true }) s1
    let f := fun (b : BankSup → BankSup) => un 168 (fun p => { p with line := true }) (un 169 (fun p => { p with line := true }) (bk 7 b s1))
    let w := f (fun b => { b with restoring := true, waiting := [168, 169] })
    o.budget 7 < sum o ∧ (o.die.bank 7).above = false ∧ (o.die.bank 7).overSince = some 99900000 ∧
    99900000 + 100000 ≤ o.die.replica ∧ sum r ≤ r.budget 7 * 9 / 10 ∧ (r.die.bank 7).above = true ∧
    (r.die.bank 7).recSince = some 99000000 ∧ 99000000 + 1000000 ≤ r.die.replica ∧
    (amp 10).budget 7 * 9 / 10 < sum (amp 10) ∧ sum (amp 10) ≤ (amp 10).budget 7 ∧ 207 ∈ channelsOf 7 ∧
    (d.die.bank 7).above = false ∧ (d.die.bank 7).nextDefer ≤ d.die.replica ∧ (d.die.swt 207).defer = true ∧
    (d.die.swt 207).inp = true ∧ (d.die.swt 207).backoff = none ∧
    (∀ m, m ∈ channelsOf 7 → m < 207 → (d.die.swt m).defer = false ∨ (d.die.swt m).inp = false ∨ d.order1 m = true) ∧
    d.order1 207 = false ∧ (s1.modDie (fun d => { d with safeOff := true })).order1 206 = true ∧
    (let v := (sw 207 (fun w => { w with defer := true, inp := true, backoff := some 5, heat := 64, re := [(0, 1)] }) s1).die.swt 207
     v.backoff = some 5 ∧ v.heat ≤ tripLevel v.wire / 2 ∧ v.energy + eMax 207 < 2) ∧
    ((f (fun b => { b with off := true })).die.bank 7).off = true ∧ (s1.die.bank 7).restoring = false ∧
    (s1.die.bank 7).off = false ∧ ((f (fun b => { b with restoring := true })).die.bank 7).waiting = [] ∧
    ((f (fun b => { b with restoring := true, nextStep := 100000001 })).die.bank 7).nextStep > s1.die.replica ∧
    (w.die.bank 7).restoring = true ∧ (w.die.bank 7).nextStep ≤ w.die.replica ∧
    (w.die.bank 7).waiting = 168 :: 169 :: [] ∧ w.restorable 168 = true ∧ w.restorable 169 = true ∧
    (w.die.bank 7).above = false := by
  intro s amp sum o r d f w
  repeat' apply And.intro
  all_goals decide +kernel

/-- The last DIRECT channel: requested by the active lane and the standby lane, in use, forwarded, in and out. -/
theorem test_hyps_direct :
    let q := fun (v : Nat) => s1.modRind (fun r => { r with dirReq := [(15, v)] })
    let d := (q 2).modRind (fun r => { r with steer := [(207, 2)] })
    let u := la (fun L => { L with sec := { L.sec with noz := [(0, [0, 0, 0, 0x80000000, 207])] } }) s1
    (wr 0x400F0040 1 s1).laneA.alive = true ∧ s1.control ≠ some .b ∧ s1.control = some .a ∧ s1.laneA.chInUse (192 + (15 : DirNo).val) = false ∧
    u.control = some .a ∧ u.laneA.chInUse (192 + (15 : DirNo).val) = true ∧ Tab.get s1.rind.dirReq 0 15 = 0 ∧ Tab.get (q 1).rind.dirReq 0 15 ≠ 0 ∧
    Tab.get (q 1).rind.dirReq 0 15 = 1 ∧ (q 1).steer (192 + (15 : DirNo).val) ≠ 2 ∧
    Tab.get d.rind.dirReq 0 15 = 2 ∧ d.steer (192 + (15 : DirNo).val) = 2 ∧
    (wr 0x400F0040 1 s1).laneA.flag 0x400F0040 0 = true := by
  intro q d u
  repeat' apply And.intro
  all_goals decide +kernel

/-- Entry 1023 pending, with a drain, waiting for its deadline with each level; cancels on the way and reported. -/
theorem test_hyps_curd_edges :
    let y : CurdE := { CurdE.reset with
      used := true
      st := 1
      ch := 207
      level := true
      at_ := 100000000 }
    let s := fun (f : CurdE → CurdE) => la (fun L => L.setEnt 1023 (f y)) s1
    let x := fun (f : CurdE → CurdE) => (s f).laneA.ent ((1023 : Fin 1024).val)
    let h : BitVec 22 := 0x3FFFFF
    let c : Cancel := ⟨h.toNat, y, false⟩
    let m := fun (c : Cancel) => la (fun L => { L with
      link := [.cancel h.toNat 0]
      spx := { L.spx with cancels := [c] } }) s1
    (x id).st = 1 ∧ (x id).at_ ≤ (s id).laneA.lt ∧ (x id).drainAt = none ∧ (s id).laneA.spx.gap = false ∧
    (s id).laneA.spx.lost = 0 ∧ (s id).laneA.spx.held + 2 ≤ 4096 ∧ (x (fun e => { e with drainAt := some 5 })).drainAt = some 5 ∧
    (x (fun e => { e with st := 2 })).st ≠ 1 ∧ s1.laneA.lt < (x (fun e => { e with at_ := 100000001 })).at_ ∧
    (x (fun e => { e with st := 2 })).at_ + 100 * (x (fun e => { e with st := 2 })).dl ≤ s1.laneA.lt ∧
    (x (fun e => { e with st := 2 })).level = true ∧ (x (fun e => { e with st := 2, level := false })).level = false ∧
    s1.laneA.lt < (x (fun e => { e with st := 2, dl := 1 })).at_ + 100 * (x (fun e => { e with st := 2, dl := 1 })).dl ∧
    (m c).laneA.link = LinkMsg.cancel h.toNat 0 :: [] ∧
    (m c).laneA.spx.cancels.find? (fun k => k.handle == h.toNat && !k.done) = some c ∧
    (m c).die.replica ≤ c.ent.at_ ∧ { y with at_ := 99999999 }.at_ < (m c).die.replica ∧ s1.laneA.link = [] ∧
    (m { c with done := true }).laneA.spx.cancels.find? (fun k => k.handle == h.toNat && k.done) =
      some { c with done := true } ∧ (∀ k, k ∈ (m c).laneA.spx.cancels → k.done = false) := by
  intro y s x h c m
  repeat' apply And.intro
  all_goals decide +kernel

/-- The last channel in quadrature and in direction mode, each pair of levels; a repeated illegal change; a silent one. -/
theorem test_hyps_feedback :
    let r := fun (o : Nat) => 0x40100100 + 64 * (23 : FbNo).val + o
    let q := wr (r 0) 3 s1
    let p := wr (r 0) 0x10006 s1
    let e := la (fun L => { L with enc := [(23, { EncSt.reset with
      last := some 99999999
      illAt := some 99900001 })] }) p
    99999999 < e.filterStamp .a 23 100000000 ∧ e.laneA.flag (r 0x10) 10 = false ∧
    e.laneA.rd64 (r 0x24) + 50 ≤ e.filterStamp .a 23 100000000 ∧
    (p.laneA.encSt 23).since + max 1 (p.laneA.fld (r 0) 20 8) * 1000000 ≤ p.laneA.lt ∧
    (at_ 999999).laneA.lt < ((at_ 999999).laneA.encSt 23).since + 1000000 ∧
    q.counts .a = true ∧ q.laneA.fld (r 0) 0 3 = 3 ∧ q.laneA.flag (r 0x10) 0 = false ∧ q.laneA.flag (r 0x10) 1 = false ∧
    p.laneA.fld (r 0) 0 3 = 6 ∧ (q.laneA.encSt 23).illAt = none ∧
    (e.laneA.encSt 23).illAt = some 99900001 ∧ e.laneA.lt < 99900001 + 100000 ∧ State.reset.counts .a = false ∧
    e.laneA.fld (r 0) 16 4 = 1 ∧ e.laneA.flag (r 0) 3 = false ∧ (e.laneA.encSt 23).last = some 99999999 ∧
    99999999 < 100000000 ∧ (e.laneA.encSt 23).sign ≠ some false ∧ p.laneA.flag (r 0x10) 9 = false := by
  intro r q p e
  repeat' apply And.intro
  all_goals decide +kernel

/-- The last channel's index with each period and tolerance; the last port with no lane in control, at its instant, and at
the end of frames of each kind. -/
theorem test_hyps_indexes :
    let r := fun (o : Nat) => 0x40100100 + 64 * (23 : FbNo).val + o
    let q := fun (o : Nat) => 0x40100800 + 32 * (3 : Fin 4).val + o
    let e := wr (r 4) 1 s1
    let p := wr (r 8) 100 e
    let f := wr (q 0) 0x10003 s1
    let d := la (fun L => { L with abs_ := [(3, ⟨some .a, true⟩)] }) f
    let crc : BitVec 6 := BitVec.ofNat 6 (crc6 (bitsMsb 5 32 ++ [true, true]) ^^^ 63)
    e.counts .a = true ∧ e.laneA.flag (r 4) 0 = true ∧ e.laneA.flag (r 4) 1 = false ∧ e.laneA.flag (r 4) 2 = false ∧
    e.laneA.flag (r 0x10) 2 = false ∧ e.laneA.fld (r 8) 0 24 = 0 ∧ p.laneA.fld (r 8) 0 24 ≠ 0 ∧
    (mismatch (p.laneA.rd (r 0x14)) (p.laneA.rd (r 0xC)) 100).natAbs ≤ p.laneA.fld (r 4) 8 8 ∧
    (let m := wr (r 0x14) 300 (wr (r 8) 1000 e)
     m.laneA.fld (r 4) 8 8 < (mismatch (m.laneA.rd (r 0x14)) (m.laneA.rd (r 0xC)) 1000).natAbs ∧
     m.laneA.flag (r 4) 5 = false) ∧
    s1.laneA.flag (r 4) 0 = false ∧ State.reset.control = none ∧ f.control = some .a ∧ f.counts .a = true ∧
    f.laneA.flag (q 0) 0 = true ∧ f.laneA.lt % (f.laneA.fld (q 0) 16 16 * 1000) = 0 ∧ 0 < f.laneA.fld (q 0) 16 16 ∧
    s1.laneA.flag (q 0) 0 = false ∧ (d.laneA.absSt 3).frame = some .a ∧ d.laneA.flag (q 0) 1 = true ∧
    crc6 (bitsMsb 5 32 ++ [true, true]) ^^^ 63 = crc.toNat ∧ ¬crc6 (bitsMsb 5 32 ++ [true, true]) ^^^ 63 = (crc + 1).toNat ∧
    (wr (q 4) 1 d).laneA.flag (q 4) 0 = true ∧ (d.laneA.absSt 3).down = true := by
  intro r q e p f d crc
  repeat' apply And.intro
  all_goals decide +kernel

/-- The last controller in each mode, below RUN and in RUN, with each record of drivers, fault and detection. -/
theorem test_hyps_can_controllers :
    let r := fun (o : Nat) => 0x40110000 + 0x4000 * (3 : Fin 4).val + o
    let m := fun (n : Word) => wr (r 0) n s1
    let y := fun (o : Option LaneId) => s1.modRind (fun q => { q with txen := [(3, o)] })
    let b := la (fun L => L.setFld (r 4) 2 2 2) s1
    let d := fun (t : Nat) => cn 3 (fun x => { x with det := 1 }) (at_ t)
    Tab.get (y (some .a)).rind.txen none 3 = (y (some .a)).control ∧ Tab.get s1.rind.txen none 3 ≠ s1.control ∧
    Tab.get (y (some .b)).rind.txen none 3 = some .b ∧ s1.control = some .a ∧ (m 1).emode .a 3 ≠ 0 ∧
    (m 0).emode .a 3 = 0 ∧ 128 < fieldNat 0x4040 0 7 + fieldNat 0x4040 8 7 + fieldNat 0x4040 16 5 + 1 ∧
    128 < fieldNat 0x14040 0 7 + fieldNat 0x14040 8 7 + fieldNat 0x14040 16 5 ∧ s1.laneA.running = true ∧
    s1.power = 0 ∧ (m 1).emode .a 3 = 1 ∧ (m 2).emode .a 3 = 2 ∧ (s1.laneA.fld (r 4) 2 2) ≠ 2 ∧
    256 ≤ (256 : Fin 512).val ∧ b.laneA.fld (r 4) 2 2 = 2 ∧ (cn 3 (fun x => { x with rearm := 2 }) b |>.laneA.canSt 3).rearm = 2 ∧
    (la (fun L => L.setFlag (r 0) 5 true) b).laneA.flag (r 0) 5 = true ∧ (s1.laneA.canSt 3).domTo = false ∧
    (s1.laneA.canSt 3).busDom = false ∧ ((cn 3 (fun x => { x with busDom := true }) s1).laneA.canSt 3).busDom = true ∧
    ((d 100000000).laneA.canSt 3).det = 1 ∧ (s1.laneA.canSt 3).det = 0 ∧
    ((d 255000000).laneA.canSt 3).dwellAt + max 1 ((d 255000000).laneA.fld (r 0x64) 0 8) * 1000000 ≤ (d 255000000).laneA.lt ∧
    ((d 2550000000).laneA.canSt 3).detAt + max 1 ((d 2550000000).laneA.fld (r 0x64) 8 8) * 10000000 ≤ (d 2550000000).laneA.lt := by
  intro r m y b d
  repeat' apply And.intro
  all_goals decide +kernel

/-- A controller with its message memory and without; streams with room and full; the last urgent slot; a ring. -/
theorem test_hyps_can_frames :
    let r := fun (o : Nat) => 0x40110000 + 0x4000 * (3 : Fin 4).val + o
    let f : CanFrame := ⟨0x1FFFFFFF, true, false, false, false, false, [], 0⟩
    let k := fun (m : Word) => wr (r 0) m (wr 0x40040200 7 s1)
    let s := la (fun L => L.setFld (r 0x20) 0 7 2) (k 0x102)
    let full := la (fun L => L.setFlag (r 0x24) 7 true) s
    let a := k 1
    let q := fun (x : Word) => la (fun L => L.storeWords (0x2E00 + 80 * 7 + 68) [x]) a
    let p := wr (r 0x38) 0x80 a
    let t := wr (r 0x48) 1 (wr (r 0x44) 4 a)
    let d := (canPos (t.laneA.txrN 3) 2 0 + 2 * t.laneA.txrN 3 - t.laneA.txrWr 3) % (2 * t.laneA.txrN 3)
    s.laneA.running = true ∧ s.power = 0 ∧ s.laneA.fld (r 4) 2 2 ≠ 2 ∧ full.laneA.fld (r 4) 2 2 ≠ 2 ∧
    (la (fun L => L.setFld (r 4) 2 2 2) s).laneA.fld (r 4) 2 2 = 2 ∧ p.laneA.fld (r 4) 2 2 ≠ 2 ∧ (t.laneA.canSt 3).flushTo = none ∧
    p.canTxen .b 3 = false ∧ s.emode .a 3 = 2 ∧ s.laneA.mramOk 3 = true ∧ s.laneA.ruleOf 3 f = none ∧
    s.laneA.fld (r 0) 8 2 = 1 ∧ f.rmt = false ∧ s.laneA.flag (r 0x24) 7 = s.laneA.flag (r 0x28) 7 ∧
    s.laneA.fld (r 0x24) 0 7 + 1 < s.laneA.fld (r 0x20) 0 7 ∧ full.laneA.fld (r 0x24) 0 7 = full.laneA.fld (r 0x28) 0 7 ∧
    full.laneA.flag (r 0x24) 7 ≠ full.laneA.flag (r 0x28) 7 ∧ full.laneA.flag (r 0) 10 = false ∧
    full.laneA.mramOk 3 = true ∧ (wr 0x40040200 2 s).laneA.mramOk 3 = false ∧ (wr 0x40040200 2 s).emode .a 3 = 2 ∧
    (k 0).emode .a 3 = 0 ∧ (k 0).emode .a 3 ≠ 1 ∧ (k 0).laneA.flag (r 0x38) (7 : Fin 8).val = false ∧ a.emode .a 3 = 1 ∧
    a.laneA.mramOk 3 = true ∧ bitOf (a.laneA.word (a.laneA.mram 3 + 0x2E00 + 80 * 7 + 68)) 16 = false ∧
    bitOf (a.laneA.word (a.laneA.mram 3 + 0x2E00 + 80 * 7 + 68)) 7 = false ∧
    fieldNat ((q 8).laneA.word (a.laneA.mram 3 + 0x2E00 + 80 * 7 + 68)) 0 7 ≤ 8 ∧
    bitOf ((q 0x10000).laneA.word (a.laneA.mram 3 + 0x2E00 + 80 * 7 + 68)) 16 = true ∧ a.laneA.flag (r 0) 6 = false ∧
    p.laneA.flag (r 0x38) (7 : Fin 8).val = true ∧ p.laneA.mramOk 3 = true ∧
    (p.modRind (fun q => { q with txen := [(3, some .a)] })).canTxen .a 3 = true ∧
    (wr (r 0x3C) 0x80 p).laneA.flag (r 0x3C) (7 : Fin 8).val = true ∧ t.laneA.txrN 3 ≤ fieldNat 4 0 6 ∧
    fieldNat 2 0 6 < t.laneA.txrN 3 ∧ 0 < d ∧ t.laneA.txrPending 3 + d ≤ t.laneA.txrN 3 ∧ t.laneA.mramOk 3 = true ∧
    t.emode .a 3 = 1 ∧ t.laneA.txrPending 3 ≠ 0 ∧ t.canRefusal .a 3 8 = none ∧ bitOf 1 0 = true ∧
    s1.laneA.txrPending 3 = 0 ∧ (canPos 4 1 0 + 8 - t.laneA.txrWr 3) % 8 = 0 := by
  intro r f k s full a q p t d
  repeat' apply And.intro
  all_goals decide +kernel

/-- Below RUN with each enable of the last bus and without, a frame that matches and one that does not, errors. -/
theorem test_hyps_can_wakes :
    let f : CanFrame := ⟨0, false, false, false, false, false, [], 0⟩
    let z := fun (e : Word) => rw_ 0x108 e (rw_ 0x104 3 s1)
    let c := fun (n : Word) => rw_ (0x154 + 0x20 * (3 : Fin 4).val) n (z 0x100)
    s1.rind.trans ≠ some 5 ∧ (z 0x10).power ≠ 5 ∧ (z 0x10).rind.trans ≠ some 5 ∧
    (s1.modRind (fun q => { q with trans := some 0 })).rind.trans = some 0 ∧ (z 0x10).power ≠ 0 ∧ (z 0x10).rind.flag 0x108 (1 + (3 : Fin 4).val) = true ∧ s1.rind.flag 0x108 4 = false ∧
    (z 0x100).rind.flag 0x108 (5 + (3 : Fin 4).val) = true ∧ (z 0x100).power ≠ 0 ∧ f.fd = false ∧ f.rmt = false ∧
    (z 0x100).rind.canMatch 3 f 0 = true ∧
    (rw_ (0x148 + 0x60) 0xFFFFFFFF (z 0x100)).rind.canMatch 3 { f with id := 1 } 0 = false ∧
    ({ f with rmt := true }).rmt = true ∧ (c 30).rind.fld (0x154 + 0x60) 0 6 < 31 ∧
    (c 31).rind.fld (0x154 + 0x60) 0 6 = 31 ∧ s1.power = 0 ∧ s1.rind.trans = none ∧ ({ f with fd := true }).fd = true := by
  intro f z c
  repeat' apply And.intro
  all_goals decide +kernel

/-- The last port with link and without; its receive descriptor free, taken and out of reach; IDLE; its scan. -/
theorem test_hyps_ethernet :
    let r := fun (o : Nat) => 0x40120000 + 0x100 * (1 : Fin 2).val + o
    let f : EthFrame := ⟨List.replicate 64 0xFF, true, true, 0⟩
    let on := la (fun L => (L.setFlag (r 0) 0 true).setFlag (r 4) 0 true) s1
    let own := la (fun L => L.setFld (r 0x14) 0 9 2) (wr 0x40040200 7 on)
    let free := la (fun L => L.storeWords 0 [0x1000, 0x80000000]) own
    let tx := la (fun L => L.storeWords 0 [0x1000, 0x80000040]) (wr (r 0x20) 2 own)
    let sc := la (fun L => L.setEth 1 { L.ethSt 1 with scan := true }) tx
    (tx.power = 0 ∧ tx.laneA.flag (r 0) 0 = true ∧ own.laneA.servesAll .network 0 16 = true ∧
      bitOf (own.laneA.word 4) 31 = false ∧ tx.laneA.flag (r 4) 0 = true ∧ sc.power = 0 ∧ sc.laneA.running = true ∧
      sc.laneA.flag (r 4) 0 = true) ∧
    (rw_ 0x104 1 on).power ≠ 0 ∧ (rw_ 0x104 1 on).laneA.flag (r 0) 0 = true ∧ on.laneA.running = true ∧ on.power ≤ 1 ∧ on.laneA.flag (r 0) 0 = true ∧ on.laneA.flag (r 4) 0 = true ∧
    s1.laneA.flag (r 4) 0 = false ∧ 1 < (rw_ 0x104 2 s1).power ∧ s1.laneA.flag (r 0) 0 = false ∧ free.power = 0 ∧
    free.laneA.macTakes 1 f = true ∧ f.fcsOk = true ∧ f.lenOk = true ∧ free.laneA.servesAll .network 0 16 = true ∧
    (free.laneA.rd (r 0x10)).toNat + 16 * free.laneA.fld (r 0x18) 0 8 = 0 ∧ bitOf (free.laneA.word (0 + 4)) 31 = true ∧
    free.laneA.servesAll .network ((free.laneA.word 0).toNat / 16 * 16) 1536 = true ∧ f.data.length ≤ 1536 ∧
    0 + 16 ≤ (free.laneA.word 0).toNat / 16 * 16 ∧ free.laneA.fld (r 0x14) 0 9 ≤ 256 ∧
    bitOf (own.laneA.word (0 + 4)) 31 = false ∧ (wr 0x40040200 2 own).laneA.servesAll .network 0 16 = false ∧
    (rw_ 0x104 1 on).power = 1 ∧ on.laneA.macTakes 1 { f with data := [1, 2, 3, 4, 5, 6] } = false ∧
    (tx.laneA.rd (r 0x1C)).toNat + 16 * tx.laneA.fld (r 0x24) 0 8 = 0 ∧ tx.laneA.servesAll .network 0 16 = true ∧
    bitOf (tx.laneA.word (0 + 4)) 31 = true ∧ bitOf (tx.laneA.word (0 + 4)) 28 = false ∧
    tx.laneA.servesAll .network ((tx.laneA.word 0).toNat / 16 * 16) (fieldNat (tx.laneA.word (0 + 4)) 0 11) = true ∧
    (sc.laneA.ethSt 1).scan = true ∧ (if 0 + 1 < sc.laneA.fld (r 0x20) 0 9 then 0 + 1 else 0) ≠ 0 ∧
    sc.laneA.fld (r 0x20) 0 9 ≤ 256 ∧ sc.laneA.servesAll .network 16 16 = true ∧
    bitOf (sc.laneA.word (16 + 4)) 31 = false ∧ (on.laneA.ethSt 1).scan = false := by
  intro r f on own free tx sc
  repeat' apply And.intro
  all_goals decide +kernel

/-- A link up and down, empty and with a command for a unit that runs and one that is frozen; stamps early and late. -/
theorem test_hyps_switch_links :
    let c : PulseCmd := ⟨207, 100000000, 1, .level true, none, none⟩
    let up := la (fun L => { L.wr 0x400F0040 1 with link := [.cmd c] }) s1
    let z := un 207 (fun p => { p with frozen := true }) up
    up.laneA.linkUp = true ∧ s1.laneA.linkUp = false ∧ s1.laneA.link = [] ∧ up.laneA.link = .cmd c :: [] ∧
    ((up.die.unit c.unit).frozen && up.steer c.unit == laneNo .a) = false ∧ z.laneA.link = .cmd c :: [] ∧
    ((z.die.unit c.unit).frozen && z.steer c.unit == laneNo .a) = true ∧ c.act = .level true ∧
    s1.die.replica ≤ c.at_ ∧ ({ c with at_ := 99999999 }).at_ < s1.die.replica ∧ s1.laneA.alive = true ∧
    State.reset.laneA.alive = false := by
  intro c up z
  repeat' apply And.intro
  all_goals decide +kernel

/-- A model that passes the checks and one that does not; a meter table likewise; a cycle due and one that has run. -/
theorem test_hyps_section_tables :
    let b := wr 0x40070014 0x100 (wr 0x40070018 0x200 (wr 0x4007001C 0x300 (wr 0x40040200 4 s1)))
    let l := fun (s : State) => la (fun L => L.setFlag 0x40070004 2 true) s
    let good := l (la (fun L => L.storeWords 0 [0, 0, 0, 10]) (wr 0x40070020 0x10101 b))
    let m := fun (n : Word) => la (fun L => L.setFlag 0x40070168 2 true) (wr 0x40070164 n b)
    let rows := fun (s : State) => (List.range (s.laneA.fld 0x40070164 8 5)).map
      (fun i => s.laneA.secWords ((s.laneA.rd 0x40070160).toNat + 32 * i) 8)
    let due := la (fun L => L.setFlag 0x40070000 0 true) s1
    bitOf 2 1 = true ∧ bitOf 1 1 = false ∧ due.laneA.running = true ∧ due.power = 0 ∧
    due.laneA.flag 0x40080000 0 = false ∧ due.laneA.lt < due.laneA.ms + 72000 ∧
    (let f := la (fun L => { L.setFlag 0x40080000 0 true with fus := { L.fus with t0 := L.ms } }) due
     f.laneA.fus.t0 = f.laneA.ms) ∧ ¬(at_ 100072000).laneA.lt < (at_ 100072000).laneA.ms + 72000 ∧
    due.laneA.flag 0x40070000 0 = true ∧
    due.laneA.sec.t0 < due.laneA.ms ∧ ¬s1.laneA.flag 0x40070000 0 = true ∧
    s1.laneA.flag 0x40070004 2 = false ∧ good.laneA.flag 0x40070004 2 = true ∧
    good.loadError .a good.laneA.readTables = none ∧ (l b).laneA.flag 0x40070004 2 = true ∧
    (l b).loadError .a (l b).laneA.readTables = some (1, 0) ∧ (m 0).laneA.flag 0x40070168 2 = true ∧
    (m 0).laneA.mtrError (rows (m 0)) = none ∧ (m 0x100).laneA.mtrError (rows (m 0x100)) = some (2, 0) := by
  intro b l good m rows due
  repeat' apply And.intro
  all_goals decide +kernel

/-- Input 15 disabled, enabled, late, with a clock and without; stale and not; pressures late, in time and overdue. -/
theorem test_hyps_section_inputs :
    let d := fun (w : List Word) => la (fun L => { L with sec := { L.sec with bin := [(15, w)] } }) s1
    let on := d [0x8000, 1000, 1]
    let nox := d [0x9000, 1000, 1]
    let st := fun (b : BinSt) => la (fun L => { L with sec := { L.sec with bins := [(15, b)] } }) on
    let pr := fun (n : Nat) => la (fun L => { L.setFlag 0x40070000 0 true with sec := { L.sec with
      prs := some (0, 0)
      prsAt := n } }) (wr 0x40070130 0x64000000 s1)
    fieldNat 15 0 4 = 15 ∧ binEn (s1.laneA.binD 15) = false ∧ binEn (on.laneA.binD 15) = true ∧
    (on.laneA.binSt 15).stamp = none ∧ ((st { BinSt.reset with stamp := some 0 }).laneA.binSt 15).stamp = some 0 ∧
    (st BinSt.reset).laneA.rd64 0x4007007C ≤ 0 ∧ binNoxs (nox.laneA.binD 15) = true ∧
    binNoxs (on.laneA.binD 15) = false ∧ on.laneA.xsrcOk (df (on.laneA.binD 15) 0 7 5) 1000 = false ∧
    (wr 0x40020100 2 on).laneA.xsrcOk (df (on.laneA.binD 15) 0 7 5) 1000 = true ∧
    (on.laneA.binSt (15 : Fin 16)).at_ + df (on.laneA.binD (15 : Fin 16)) 2 0 8 * (wd (on.laneA.binD (15 : Fin 16)) 1).toNat * 100 ≤ on.laneA.lt ∧
    on.laneA.flag 0x40070098 (15 : Fin 16).val = false ∧ ¬binEn (s1.laneA.binD (15 : Fin 16)) = true ∧
    (pr 0).laneA.sec.prsWait.getLast? = none ∧ (pr 0).laneA.sec.prs.map Prod.fst = some 0 ∧
    (pr 0).laneA.rd64 0x40070124 ≤ 0 ∧ 0 < (wr 0x40070124 1 (pr 0)).laneA.rd64 0x40070124 ∧
    (pr 0).laneA.flag 0x40070000 0 = true ∧ (pr 0).laneA.sec.prsStale = false ∧
    (pr 0).laneA.sec.prsAt + (pr 0).laneA.fld 0x40070130 24 8 * 1000000 ≤ (pr 0).laneA.lt ∧
    ¬(pr 1).laneA.sec.prsAt + (pr 1).laneA.fld 0x40070130 24 8 * 1000000 ≤ (pr 1).laneA.lt := by
  intro d on nox st pr
  repeat' apply And.intro
  all_goals decide +kernel

/-- Paging enabled and not, the reference tile at home; a tile asked for, in time and overdue, in the window. -/
theorem test_hyps_paging :
    let r := fun (n : Nat) => la (fun L => { L with sec := { L.sec with asked := [⟨0, 0, 0, 30, n, false⟩] } })
      (wr 0x400700C0 1 s1)
    let T := s1.laneA.refTile
    (la (fun L => L.setFlag 0x40070000 4 true) s1).laneA.flag 0x40070000 4 = true ∧ s1.laneA.flag 0x40070000 4 = false ∧
    -32760 ≤ T.1 ∧ T.1 ≤ 32759 ∧ -32760 ≤ T.2 ∧ T.2 ≤ 32759 ∧ T.1 - 8 ≤ T.1 ∧ T.1 < T.1 + 8 ∧ T.2 - 8 ≤ T.2 + 7 ∧
    T.2 + 7 < T.2 + 8 ∧ s1.laneA.sec.asked.find? (fun t => t.slot == 30 && !t.late) = none ∧
    (r 0).laneA.sec.asked.find? (fun t => t.slot == (30 : Fin 31).val && !t.late) = some ⟨0, 0, 0, 30, 0, false⟩ ∧
    0 + ((wr 0x4007004C 1000 (r 0)).laneA.rd 0x4007004C).toNat * 100000 ≤ (r 0).laneA.lt ∧
    ¬1 + ((wr 0x4007004C 1000 (r 1)).laneA.rd 0x4007004C).toNat * 100000 ≤ (r 1).laneA.lt ∧
    (r 0).laneA.inWindow 0 0 = true ∧ (r 0).laneA.tileState (tileSlot 0 0) = 1 ∧
    (wr 0x4007004C 1000 (r 0)).laneA.inWindow 0 0 = true ∧
    (wr 0x4007004C 1000 (r 0)).laneA.tileState (tileSlot 0 0) = 1 ∧
    (wr 0x4007004C 1000 (r 0)).laneA.answered 30 = false := by
  intro r T
  repeat' apply And.intro
  all_goals decide +kernel

/-- Each OP; a layer with a map whose header is wrong; each change that waits for a cycle. -/
theorem test_hyps_layers :
    let y := fun (v : Layer) => la (fun L => L.setLayer 3 v) s1
    fieldNat 7 0 2 = 3 ∧ fieldNat 7 2 2 = 1 ∧ fieldNat 11 2 2 = 2 ∧ fieldNat 3 2 2 ≠ 1 ∧ fieldNat 3 2 2 ≠ 2 ∧
    (s1.laneA.layer (3 : Fin 4)).check = none ∧ ((y ⟨none, some 0, 0⟩).laneA.layer (3 : Fin 4)).check = some 0 ∧
    (5 ∈ (y ⟨none, some 0, 0⟩).laneA.mapFaults 0) ∧ ((y ⟨none, none, 1⟩).laneA.layer (3 : Fin 4)).next = 1 ∧
    ((y ⟨none, some 0, 2⟩).laneA.layer (3 : Fin 4)).next = 2 ∧ (s1.laneA.layer (3 : Fin 4)).next = 0 := by
  intro y
  refine ⟨?_, ?_, ?_, ?_, ?_, ?_, ?_, ?_, ?_, ?_, ?_⟩
  case refine_8 => simp only [Lane.mapFaults]; rw [if_pos (by decide +kernel)]; decide
  all_goals decide +kernel

/-- A map of one cell whose header is right has no fault once its signature verifies: that alone is opaque here. -/
theorem test_hyps_map_verifies :
    let M := { s1.laneA.wr 0x4007000C 9 with
      keys := [(1, [4])]
      flash := Flash.write [] 0 ((([1, 9, 0, 0, 0x10001, 0, 1] ++ List.replicate 9 0 : List Word).flatMap wordBytes)) }
    Config.ecdsaVerify (Tab.get M.keys [] (fieldNat (M.flashWord (0x10000000 + 24)) 0 8))
      (Config.sha384 (M.flashBytes 0x10000000 (mapBody M 0x10000000)))
      (M.flashBytes (0x10000000 + mapBody M 0x10000000) 96) = true → M.mapFaults 0x10000000 = [] := by
  intro M h
  simp only [Lane.mapFaults, h]
  decide +kernel

/-- A window open and closed; the last nozzle's delay learned for the first time, again, out of bounds, missed, frozen;
tolerances overdue and not. -/
theorem test_hyps_learner :
    let noz := fun (s : State) => la (fun L => { L with sec := { L.sec with noz := [(207, [0, 0, 0, 0, 0, 0, 0, 0x20000])] } }) s
    let s := noz (wr 0x40070104 0x00640001 (wr 0x40070100 1 (wr 0x40040200 4 s1)))
    let t := la (fun L => L.setNz 207 { L.nz 207 with lrn := [0x01000064, 0, 1, 0] }) s
    let w : SigWin := ⟨false, 99900000, none, false, false⟩
    let o := s1.modDie (fun d => { d with sig := [(207, [w])] })
    let f := fun (n : Nat) => la (fun L => { L with sec := { L.sec with
      flowBad := [(63, some n)]
      mtrBad := [(23, some n)] } }) s1
    Tab.get o.die.sig [] 207 = [w] ∧ Tab.get s1.die.sig [] 207 = [] ∧ o.sigResult 207 w [1] = none ∧
    o.sigResult 207 w [1, 0] = some (0, 20) ∧ w.te + 2000 * 1 < w.te + fieldNat (o.sigCfg 207) 8 8 * 100000 ∧
    w.te + 2000 * 1 ≤ o.die.replica ∧ o.sigResult 207 { w with cut := some 99901000 } [1] = some (1, 0) ∧
    99901000 < w.te + fieldNat (o.sigCfg 207) 8 8 * 100000 ∧ 99901000 ≤ w.te + 2000 * [(1 : Rat)].length ∧
    (let z := la (fun L => { L with sec := { L.sec with noz := [(207, [0, 0, 0, 0x80000000, 207])] } }) s1
     z.laneA.running = true ∧ z.laneA.nozzleOf 207 = some 207) ∧
    s1.laneA.nozzleOf 207 = none ∧ s.laneA.flag 0x40070100 0 = true ∧ s.laneA.flag 0x40070100 1 = false ∧
    db (s.laneA.nozD 207) 7 17 = true ∧ s.laneA.servesAll .section_ (16 * 207) 16 = true ∧
    s.laneA.sec.lrnBase = 0 ∧ ((s.laneA.fld 0x40070104 0 16 * 100 : Nat) : Int) ≤ 100 ∧
    (10000 : Int) ≤ ((s.laneA.fld 0x40070104 16 16 * 100 : Nat) : Int) ∧
    fieldNat (wd (s.laneA.lrn 207) 0) 24 8 = 0 ∧ fieldNat (wd (s.laneA.lrn 207) 2) 0 16 = 0 ∧
    ¬fieldNat (wd (t.laneA.lrn 207) 2) 0 16 = 0 ∧ (99 : Int) < ((s.laneA.fld 0x40070104 0 16 * 100 : Nat) : Int) ∧
    ((s.laneA.fld 0x40070104 16 16 * 100 : Nat) : Int) < 10001 ∧ db (s1.laneA.nozD 207) 7 17 = false ∧
    (wr 0x40070100 2 s).laneA.flag 0x40070100 1 = true ∧
    Tab.get (f 0).laneA.sec.flowBad none (63 : Fin 64) = some 0 ∧
    0 + df ((f 0).laneA.sectD (63 : Fin 64)) 2 8 8 * 1000000 < (f 0).laneA.lt ∧ (63 : Fin 64).val ∉ (f 0).laneA.sec.flowSaid ∧
    Tab.get (f 0).laneA.sec.mtrBad none (23 : Fin 24) = some 0 ∧
    0 + df ((f 0).laneA.mtrD (23 : Fin 24)) 2 24 8 * 1000000 < (f 0).laneA.lt ∧ (23 : Fin 24).val ∉ (f 0).laneA.sec.mtrSaid ∧
    Tab.get s1.laneA.sec.flowBad none (63 : Fin 64) = none ∧ Tab.get s1.laneA.sec.mtrBad none (23 : Fin 24) = none := by
  intro noz s t o f
  repeat' apply And.intro
  all_goals decide +kernel

/-- Slot 31 closed, with its own clock and without, each outcome of its tests; stale; inertial pairs.  (Whether two samples
differ rests on the opaque Config.estimate.) -/
theorem test_hyps_fusion_inputs :
    let c := srcCfg 31
    let t := fun (n : Word) => wr 0x40080048 n
    let nox := wr c 0x91 s1
    let own := wr c 0x11 s1
    let tick := wr 0x40020100 2 own
    let sl := fun (s : State) => la (fun L => { L with fus := { L.fus with slots := [(31, { FusSlot.reset with last := some 5 })] } }) s
    let d := fun (n : Nat) (w : List Word) => la (fun L => { L with fus := { L.fus with
      diff := n
      imu := [(1, (100000000, w))] } }) s1
    (wr c 0x40091 s1).laneA.flag c 18 = true ∧ (wr c 0x90 s1).laneA.srcKind 31 = 0 ∧ 5 < (wr c 0x96 s1).laneA.srcKind 31 ∧
    s1.laneA.flag 0x40080000 0 = false ∧ s1.laneA.flag 0x40080000 1 = false ∧ nox.laneA.flag c 7 = true ∧
    (wr 0x40080000 3 s1).laneA.flag 0x40080000 0 = true ∧ (wr 0x40080000 3 s1).laneA.flag 0x40080000 1 = true ∧
    (wr c 0x93 s1).laneA.srcKind 31 = 3 ∧ (wr c 0x95 s1).laneA.srcKind 31 = 5 ∧
    (nox.laneA.lt - (t 100000000 nox).laneA.rd64 0x40080048 < nox.laneA.fld 0x40080008 0 8 * 100000) ∧
    (la (fun L => L.setFlag 0x40070000 0 true) s1).laneA.flag 0x40070000 0 = true ∧ s1.laneA.flag 0x40070000 0 = false ∧
    fieldNat 31 0 5 = 31 ∧ s1.laneA.flag c 4 = false ∧ nox.laneA.flag c 4 = true ∧ nox.laneA.srcKind 31 = 1 ∧
    nox.laneA.flag c 18 = false ∧ nox.laneA.srcOwnClock 31 = false ∧ own.laneA.srcOwnClock 31 = true ∧
    own.laneA.flag (0x40020100 + 32 * own.laneA.fld c 8 5) 1 = false ∧ own.laneA.srcKind 31 = 1 ∧
    tick.laneA.flag (0x40020100 + 32 * tick.laneA.fld c 8 5) 1 = true ∧ tick.laneA.flag c 4 = true ∧
    nox.laneA.lt < (t 100000001 nox).laneA.rd64 0x40080048 ∧ (t 5 nox).laneA.rd64 0x40080048 ≤ nox.laneA.lt ∧
    ((sl (t 5 nox)).laneA.slot 31).last = some 5 ∧ (sl (t 5 nox)).laneA.rd64 0x40080048 ≤ 5 ∧
    (s1.laneA.slot 31).last = none ∧
    (t 5 nox).laneA.fld 0x40080008 0 8 * 100000 ≤ nox.laneA.lt - (t 5 nox).laneA.rd64 0x40080048 ∧
    ¬(t 100000000 nox).laneA.fld 0x40080008 0 8 * 100000 ≤ nox.laneA.lt - (t 100000000 nox).laneA.rd64 0x40080048 ∧
    (wr c 0x94 s1).laneA.srcKind 31 = 4 ∧ nox.laneA.srcStale (31 : Fin 32) = false ∧
    (nox.laneA.slot (31 : Fin 32)).at_ + max 1 (nox.laneA.fld c 24 8) * nox.laneA.srcPer (31 : Fin 32) * 100 ≤ nox.laneA.lt ∧
    State.reset.laneA.alive = false ∧ s1.laneA.alive = true ∧ s1.power = 0 ∧ s1.laneLink = true ∧
    (s1.lane (other .a)).alive = true ∧ ({ s1 with laneLink := false } : State).laneLink = false ∧
    (let d := fun (n : Nat) (w : List Word) => wr 0x40080000 1 (d n w)
     let w := (List.replicate 6 0 : List Word)
     let o := Tab.get (d 9 w).laneA.fus.imu (0, []) 1
     (d 9 w).laneA.flag 0x40080000 0 = true ∧ o.2 ≠ [] ∧ (d 9 w).laneA.lt ≤ o.1 + 150000 ∧ (d 9 w).laneA.fus.excl = none ∧
       9 ≤ (d 9 w).laneA.fus.diff ∧ (d 8 w).laneA.fus.diff < 9) := by
  intro c t nox own tick sl d
  repeat' apply And.intro
  all_goals decide +kernel

/-- Each cycle due and not, with the replay bank and without. -/
theorem test_hyps_fusion_cycles :
    let on := wr 0x40080000 3 s1
    let b := wr 0x40040200 2 on
    on.laneA.running = true ∧ on.power = 0 ∧ on.laneA.flag 0x40080000 0 = true ∧
    on.laneA.fus.t0 < (on.laneA.lt - 20000) / 100000 * 100000 ∧ ¬s1.laneA.flag 0x40080000 0 = true ∧
    on.laneLink = true ∧ ({ on with laneLink := false } : State).laneLink = false ∧ on.laneA.fus.calLoad = false ∧
    on.laneA.fus.orgPend = false ∧ b.laneA.replayBank = true ∧ on.laneA.replayBank = false ∧
    on.laneA.flag 0x40080000 1 = true ∧
    (let p := on.laneA.fld 0x40080008 24 8 * 100000
     on.laneA.fus.pcEnd < (on.laneA.lt - 200000) / p * p) ∧ ¬s1.laneA.flag 0x40080000 1 = true ∧
    b.laneA.flag 0x40080000 1 = true ∧ b.laneA.fus.calLoad = false := by
  intro on b
  repeat' apply And.intro
  all_goals decide +kernel

/-- A calibration set of zeros with sigmas of 1. -/
def calWords : List Word := [1, 92, 0, 0, 0, 0, 0, 0] ++ (List.replicate 92 ([0, 0x3F800000, 0] : List Word)).flatten
/-- A load of the bytes `bs` is asked for, in a bank of the fusion engine. -/
def calState_ (bs : List Byte) : State := la (fun L => { L with
  sram := Memory.write [] 0 bs
  fus := { L.fus with calLoad := true } }) (wr 0x40040200 2 s1)
theorem cal_sram (bs : List Byte) : (calState_ bs).laneA.sram = Memory.write [] 0 bs := rfl
def calState : State := calState_ (calWords.flatMap wordBytes)

theorem test_cal_set : calState.laneA.calSet = calWords := by
  have hs : calState.laneA.servesAll .fusion 0 1136 = true := by decide +kernel
  have hl : (calWords.flatMap wordBytes).length = 1136 := by decide +kernel
  have h := Memory.read_write [] 0 (calWords.flatMap wordBytes)
  rw [hl] at h
  have hm : calState.laneA.sram = Memory.write [] 0 (calWords.flatMap wordBytes) := cal_sram _
  rw [Lane.calSet, show (calState.laneA.rd 0x40080408).toNat = 0 by decide +kernel, Lane.engRead, if_pos hs,
    Lane.bytes, hm, h]
  exact bytesWord_flatMap calWords 284 (by decide +kernel)

/-- A calibration set that passes and one that does not; a parameter refined and not, frozen and not. -/
theorem test_hyps_calibration :
    let b := wr 0x40040200 2 s1
    let r := wr 0x40080418 0x08000000 (wr 0x40080400 1 s1)
    bitOf 2 1 = true ∧ bitOf 4 2 = true ∧ bitOf 4 1 = false ∧ bitOf 2 2 = false ∧ calState.laneA.fus.calLoad = true ∧
    calState.laneA.calRefusals calState.laneA.calSet = [] ∧ b.laneA.calRefusals b.laneA.calSet ≠ [] ∧
    b.laneA.alive = true ∧ b.laneA.waiting 2 59 = [] ∧ s1.laneA.calRefined (91 : Fin 92) = false ∧
    r.laneA.calRefined (91 : Fin 92) = true ∧ r.laneA.calFlag (91 : Fin 92) = false ∧
    (la (fun L => L.setCalFlag 91 true) r).laneA.calFlag (91 : Fin 92) = true := by
  intro b r
  rw [test_cal_set]
  repeat' apply And.intro
  all_goals decide +kernel

/-- An update due with the bank and without, the class off and on; a track whose last detection is a second old. -/
theorem test_hyps_tracks :
    let on := wr 0x40090000 1 s1
    let pc := la (fun L => { L.wr 0x40080000 2 with fus := { L.fus with pcTov := 100000000 } }) on
    let own := la (fun L => { L with trk := { L.trk with freeDue := true } }) (wr 0x40040200 5 on)
    let pb := wr 0x40040200 5 pc
    let tr : Track := ⟨1, 1, false, false, 0, 0, 0, 0, 0, 0, 0, 0, [], 0, false⟩
    let t := la (fun L => L.setTrack 255 (some tr)) pc
    on.laneA.running = true ∧ on.power = 0 ∧ on.laneA.flag 0x40090000 0 = true ∧ on.laneA.flag 0x40080000 1 = false ∧
    ¬on.laneA.trk.freeDue = true ∧ own.laneA.trk.freeDue = true ∧ own.laneA.ownedBy 5 (own.laneA.rd 0x4009000C).toNat 0x8000 = true ∧
    own.laneA.copyFree (own.laneA.fld 0x40080008 24 8 * 100000) = true ∧ own.laneA.flag 0x40080000 1 = false ∧
    pb.laneA.copyFree (pb.laneA.fld 0x40080008 24 8 * 100000) = true ∧ pb.laneA.trk.tov < pb.laneA.fus.pcTov ∧
    (let r := la (fun L => { L with trk := { L.trk with relAt := 100000000 } }) pb
     r.laneA.copyFree (r.laneA.fld 0x40080008 24 8 * 100000) = false) ∧
    bitOf 2 1 = true ∧ bitOf 3 1 = true ∧ bitOf 1 1 = false ∧ s1.laneA.flag 0x40090004 16 = false ∧
    (match execTrackClear .a 2 s1 with
      | .next t => !(t.laneA.flag 0x40090000 0)
      | _ => false) = true ∧
    (match execTrackClear .a 3 s1 with
      | .next t => t.laneA.flag 0x40090000 0
      | _ => false) = true ∧ ¬s1.laneA.flag 0x40090000 0 = true ∧ pc.laneA.flag 0x40080000 1 = true ∧
    pc.laneA.flag 0x40090000 0 = true ∧ pc.laneA.trk.tov < pc.laneA.fus.pcTov ∧
    pc.laneA.ownedBy 5 (pc.laneA.rd 0x4009000C).toNat 0x8000 = false ∧
    (wr 0x40040200 5 pc).laneA.ownedBy 5 (pc.laneA.rd 0x4009000C).toNat 0x8000 = true ∧
    on.laneA.fus.pcTov ≤ on.laneA.trk.tov ∧ t.laneA.track (255 : Fin 256) = some tr ∧
    tr.tAssoc + 100000000 ≤ t.laneA.fus.pcTov ∧ s1.laneA.track (255 : Fin 256) = none := by
  intro on pc tr t
  repeat' apply And.intro
  all_goals decide +kernel

/-- Bias wanted and not, removed for a short and not; antennas open and not; each change of interference. -/
theorem test_hyps_antennas :
    let w := wr 0x400A0014 0x08000001 s1
    let sh := { w with ant := [(1, ⟨false, true, 0⟩)] }
    let op := { w with ant := [(1, ⟨true, false, 0⟩)] }
    let j := fun (n : Word) => wr 0x400A001C n w
    w.biasOn (1 : Fin 2) = true ∧ s1.biasOn (1 : Fin 2) = false ∧ (sh.antenna (1 : Fin 2)).short = true ∧
    sh.biasWanted (1 : Fin 2) = true ∧ (w.antenna (1 : Fin 2)).short = false ∧ (op.antenna (1 : Fin 2)).opn = true ∧
    op.biasOn (1 : Fin 2) = true ∧ (w.antenna (1 : Fin 2)).opn = decide (2 < 2) ∧ s1.laneA.alive = true ∧ s1.power = 0 ∧
    State.reset.laneA.alive = false ∧ (j 0x070000).laneA.fld 0x400A001C (8 * (2 : Fin 3).val) 8 < (j 0).laneA.fld 0x400A0014 24 8 ∧
    (j 0).laneA.fld 0x400A0014 24 8 ≤ min 255 ((4 * max 0 (200 : Int)) / 100).toNat ∧
    (wr 0x400A0014 0x09000001 (j 0x090000)).laneA.fld 0x400A0014 24 8 ≤ (j 0x090000).laneA.fld 0x400A001C (8 * (2 : Fin 3).val) 8 ∧
    min 255 ((4 * max 0 (0 : Int)) / 100).toNat + 8 < (wr 0x400A0014 0x09000001 w).laneA.fld 0x400A0014 24 8 ∧
    min 255 ((4 * max 0 (175 : Int)) / 100).toNat < w.laneA.fld 0x400A0014 24 8 ∧
    ¬(bitOf 1 0 = true ∧ bitOf 1 1 = true) := by
  intro w sh op j
  repeat' apply And.intro
  all_goals decide +kernel

/-- Each bit of the control word; a station selected and none; a park burst under way and none. -/
theorem test_hyps_basebands :
    let st := la (fun L => L.modGns (fun g => { g with stn := some 4095 })) s1
    let pk := rw_ 0x104 8 s1
    bitOf 1 0 = true ∧ s1.laneA.flag 0x400A0000 0 = false ∧ (wr 0x400A0000 1 s1).laneA.flag 0x400A0000 0 = true ∧
    bitOf 0 0 = false ∧ bitOf 16 4 = true ∧ bitOf 0 4 = false ∧ (wr 0x400A0000 1 st).laneA.flag 0x400A0000 0 = true ∧ bitOf 17 0 = true ∧ st.laneA.gns.stn = some 4095 ∧ bitOf 32 5 = true ∧
    bitOf 0 5 = false ∧ (wr 0x40040200 2 s1).laneA.servesAll .gnss ((s1.laneA.rd 0x400A00B8).toNat) 0x8000 = false ∧
    s1.rind.flag 0x104 3 = false ∧ pk.rind.flag 0x104 3 = true ∧ pk.control = some .a ∧
    (s1.modRind (fun r => { r with none_ := true })).control = none ∧
    ([(0, 1), (1, 2), (2, 3)] : List (Fin 4 × Fin 64)).length < 4 := by
  intro st pk
  repeat' apply And.intro
  all_goals decide +kernel

/-- Queue P with room for one word and none; a frame that is whole and one that is not; frames of each kind; an epoch. -/
theorem test_hyps_corrections :
    let g := fun (f : Gns → Gns) => la (fun L => (L.modGns f).setFlag 0x400A0000 0 true) s1
    let head : List Byte := [0xD3, 0, 0]
    let crc := crc24 head
    let fr := head ++ [BitVec.ofNat 8 (crc / 65536), BitVec.ofNat 8 (crc / 256), BitVec.ofNat 8 crc]
    let w := (g (fun x => { x with part := fr ++ [0, 0] })).laneA.gns
    let arp : List Byte := [0xD3, 0, 3, 0x3E, 0xDF, 0xFF]
    let e : GnsEpoch := ⟨100000000, [], [], none⟩
    let full := fun (n : Nat) => (g (fun x => { x with part := List.replicate n 0 })).laneA.gns.pBytes
    full 2044 ≤ 2044 ∧ 2044 < full 2045 ∧ w.dropped = false ∧ w.part.length = (fieldNat 6 0 11 + 3) / 4 * 4 ∧
    frameOk (w.part.take 6) 6 = true ∧ ¬s1.laneA.gns.part.length = (fieldNat 6 0 11 + 3) / 4 * 4 ∧
    s1.laneA.gns.frames = [] ∧ s1.laneA.flag 0x400A0000 0 = false ∧
    (g (fun x => { x with frames := [(false, arp)] })).laneA.gns.frames = (false, arp) :: [] ∧
    (g id).laneA.flag 0x400A0000 0 = true ∧ isArp (msgType arp) = true ∧ (g id).laneA.gns.stn = none ∧
    (g id).laneA.fld 0x400A0004 0 3 = 0 ∧ msgStation arp = 4095 ∧ isArp (msgType fr) = false ∧
    isMsm (msgType fr) = false ∧ isEph (msgType fr) = false ∧ isMsm (msgType [0xD3, 0, 3, 0x43, 0x20, 0]) = true ∧
    (g (fun x => { x with stn := some 5 })).laneA.gns.stn = some 5 ∧ (5 : Nat) ≠ msgStation arp ∧
    (g id).laneA.running = true ∧ (g id).power = 0 ∧ e.epoch / (g id).laneA.epochTicks * (g id).laneA.epochTicks = e.epoch ∧
    (g id).laneA.gns.epoch < e.epoch ∧ e.epoch ≤ (g id).laneA.lt ∧ (g id).laneA.lt ≤ e.epoch + 800000 ∧
    ¬s1.laneA.flag 0x400A0000 0 = true := by
  intro g head crc fr w arp e full
  repeat' apply And.intro
  all_goals decide +kernel

/-- Each bit of CTRL; stops of each cause; samples early and late; times run out and not; each request of a mode. -/
theorem test_hyps_line_keeping :
    let k := fun (f : Lkp → Lkp) => la (fun L => L.modLkp f) s1
    let stop := la (fun L => (L.modLkp (fun k => { k with cause := 5 })).setFlag lkStat 10 true) s1
    let i := fun (n : Nat) => k (fun x => { x with imp := some (0, n) })
    let d := fun (n : Nat) => k (fun x => { x with drAt := some n })
    let q := fun (n : Nat) => k (fun x => { x with req := some n })
    let on := fun (n : Nat) => la (fun L => L.setFld lkStat 0 2 2) (q n)
    bitOf 3 4 = false ∧ bitOf 3 5 = false ∧ s1.laneA.flag lkStat 10 = false ∧ stop.laneA.flag lkStat 10 = true ∧
    stop.laneA.lkp.cause = 5 ∧ (la (fun L => L.modLkp (fun k => { k with cause := 1 })) stop).laneA.lkp.cause = 1 ∧
    s1.laneA.fld lkStat 5 2 = 0 ∧ (i 0).laneA.lkp.imp = some (0, 0) ∧ (i 0).laneA.rd64 (lkReg 0x88) ≤ 0 ∧
    0 < (wr (lkReg 0x88) 1 (i 0)).laneA.rd64 (lkReg 0x88) ∧ s1.laneA.lkp.imp = none ∧ s1.laneA.running = true ∧
    ((i 90000000).laneA.lkp.imp.map Prod.snd).getD 0 + 10000000 ≤ s1.laneA.lt ∧
    s1.laneA.lt < ((i 90000001).laneA.lkp.imp.map Prod.snd).getD 0 + 10000000 ∧ State.reset.laneA.running = false ∧
    (d 0).laneA.lkp.drAt = some 0 ∧
    0 + max 1 ((wr (lkReg 8) 0 (d 0)).laneA.fld (lkReg 8) 16 8) * 100000000 ≤ (d 0).laneA.lt ∧
    s1.laneA.lkp.drAt = none ∧ s1.laneA.lkp.req = none ∧ (q 0).laneA.lkp.req = some 0 ∧ (q 3).laneA.lkp.req = some 3 ∧
    (q 3).laneA.lkMode = 0 ∧ (q 3).laneA.actBad (q 3).laneA.actTable = true ∧ (on 2).laneA.lkp.req = some 2 ∧
    (on 2).laneA.lkMode ≠ 0 ∧ (on 2).laneA.fld lkStat 5 2 = 0 := by
  intro k stop i d q on
  repeat' apply And.intro
  all_goals decide +kernel

/-- The vehicle stands; whether one that moves is slow rests on the opaque sine and cosine of its heading. -/
theorem test_hyps_standing : absR s1.laneA.veh.fwd < 1 / 20 := by
  have e : s1.laneA.veh.ve = 0 := by decide +kernel
  have n : s1.laneA.veh.vn = 0 := by decide +kernel
  rw [Veh.fwd, e, n, Rat.zero_mul, Rat.zero_mul]
  decide +kernel

/-- A cycle due and not, in time and past the bound of the solve. -/
theorem test_hyps_line_keeping_cycles :
    (let z : LkSolve := ⟨100000000, 1, 0, none, [], [], [], [], []⟩
     let b := la (fun L => L.modLkp (fun k => { k with
       t0 := 100000000
       solve := some z })) (at_ 100076000)
     b.lkDue .a = false ∧ b.lkOver .a = true ∧ b.lkStuck .a = true) ∧ State.reset.lkStuck .a = false ∧
    s1.lkDue .a = true ∧ State.reset.lkDue .a = false ∧ s1.lkOver .a = false ∧ (at_ 100076000).lkOver .a = true ∧
    (at_ 100076000).lkDue .a = true ∧ (at_ 100075999).lkOver .a = false := by decide +kernel

/-- The last loop at a boundary with each pending output and enable, off it, sampled in time, late and at 25 us. -/
theorem test_hyps_loops :
    let p : Tab Word := [(0, 1), (3, 100)]
    let s := fun (f : LoopSt → LoopSt) => la (fun L => L.setLoop 63 (f { LoopSt.reset with
      run := true
      p := p })) s1
    let x := fun (f : LoopSt → LoopSt) => (s f).laneA.loop (63 : Fin 64)
    let sn : LoopSnap := ⟨99997500, [], [], 0, false, 0⟩
    s1.lpeRuns .a = true ∧ (x id).run = true ∧ (x id).enAt < s1.laneA.lt ∧ (x id).at_ ≠ s1.laneA.lt ∧
    s1.laneA.lt % (loopPer (x id).p * 1000) = loopOfs (x id).p * 1000 ∧ ¬(s1.laneA.loop (63 : Fin 64)).run = true ∧
    (x (fun y => { y with pend := some 5 })).pend = some 5 ∧ (x id).pend = none ∧ ((s id).laneA.lpe.dueAt 63 100000000).1 = [] ∧
    loopEn (x id).p = true ∧ loopEn (x (fun y => { y with p := [(3, 100)] })).p = false ∧ (x id).flag = false ∧
    (x id).snap = none ∧ (x (fun y => { y with snap := some sn })).snap = some sn ∧ s1.laneA.lt ≤ sn.at_ + 2500 ∧
    supEn (x id).p = false ∧ loopUnit (x id).p = none ∧ ({ sn with at_ := 99997499 }).at_ + 2500 < s1.laneA.lt ∧
    sn.at_ + 2500 ≤ s1.laneA.lt ∧ s1.laneA.lt < ({ sn with at_ := 99997501 }).at_ + 2500 ∧
    (x (fun y => { y with flag := true, act := 2 })).flag = true ∧ 2 ≤ (x (fun y => { y with flag := true, act := 2 })).act ∧
    loopHold (x (fun y => { y with p := [(32, 1)] })).p = true ∧ State.reset.control = none ∧ s1.control = some .a ∧
    s1.lpeRuns (other .a) = true ∧ s1.laneLink = true ∧ s1.laneA.lt % 100000 = 0 ∧
    (s1.lpeRuns .a && s1.lpeRuns (other .a) && ({ s1 with laneLink := false } : State).laneLink && decide (s1.laneA.lt % 100000 = 0)) = false ∧
    ((x id).run && ((s id).laneB.loop 63).run) = false := by
  intro p s x sn
  repeat' apply And.intro
  all_goals decide +kernel

/-- The port of lane A is served. -/
def hs : State := wr 0x40130000 1 s1
/-- A frame of session 0 after its opcode: `n` bytes of payload. -/
def frame0 (pay : List Byte) : List Byte := [0] ++ natBytes pay.length 2 ++ [0, 0, 0, 0] ++ pay

/-- The port away, busy, a frame that fails its first check, and one that passes. -/
theorem test_hyps_frames :
    let b := la (fun L => { L with host := { L.host with busy := true } }) hs
    State.reset.hostServed .a = false ∧ hs.hostServed .a = true ∧ hs.laneA.host.busy = false ∧ b.hostServed .a = true ∧
    b.laneA.host.busy = true ∧ hs.laneA.frameResult (mkFrame 0x21 []) = 9 ∧
    hs.laneA.frameResult (mkFrame 0x21 (frame0 [])) = 0 ∧ hs.laneA.frameResult (mkFrame 0x20 (frame0 [])) = 2 ∧
    hs.laneA.frameResult (mkFrame 0x55 (frame0 [])) = 1 ∧ opLen 0x55 = none ∧ (0x55 : Byte) ≠ 1 ∧ (0x55 : Byte) ≠ 2 ∧
    (0x55 : Byte).toNat = 0x55 := by
  intro b
  repeat' apply And.intro
  all_goals decide +kernel

/-- A frame of an open session whose tag is the session's own for its next request passes every check. -/
theorem test_hyps_session_frame :
    let x : Sess := ⟨6, 0, 0, [], [], [], []⟩
    let L := { hs.laneA with host := { hs.laneA.host with sess := [(4, some x)] } }
    let head : List Byte := [0x21, 0, 0, 0, 4, 0, 7, 0]
    let f := head.drop 1 ++ Config.gcmTag x.kHD (sessNonce x.ivHD (x.n + 1)) head []
    L.sess (mkFrame 0x21 f).ses = some x ∧ (mkFrame 0x21 f).ses ≠ 0 ∧ L.frameResult (mkFrame 0x21 f) = 0 := by
  intro x L head f
  refine ⟨by decide +kernel, by decide +kernel, ?_⟩
  have hb : (mkFrame 0x21 f).all.drop (8 + (mkFrame 0x21 f).len) =
    Config.gcmTag x.kHD (sessNonce x.ivHD (x.n + 1)) ((mkFrame 0x21 f).all.take 8) (mkFrame 0x21 f).body := rfl
  rw [Lane.frameResult, if_neg (by decide +kernel), if_neg (by decide +kernel), if_neg (by decide +kernel),
    if_pos (by decide +kernel), show L.sess (mkFrame 0x21 f).ses = some x by decide +kernel]
  simp only [hb, ne_eq, not_true_eq_false, if_false]
  decide +kernel

/-- Requests of each opcode that the port takes, with what decides their answers at its bounds. -/
theorem test_hyps_requests :
    let t := fun (op : Nat) (pay : List Byte) => hs.laneA.frameResult (mkFrame op (frame0 pay))
    let body := fun (op : Nat) (pay : List Byte) => hs.laneA.clearBody (mkFrame op (frame0 pay))
    let si := fun (hk : Byte) => (List.replicate 128 0 ++ [hk] ++ List.replicate 99 0 : List Byte)
    let crc := crc24 [0xD3, 0, 0]
    let fr := [0xD3, 0, 0, BitVec.ofNat 8 (crc / 65536), BitVec.ofNat 8 (crc / 256), BitVec.ofNat 8 crc]
    let m := wr 0x40130014 33 (wr 0x40130018 1 (wr 0x40040200 1 hs))
    let o := wr 0x40130024 1 (wr 0x40040200 1 hs)
    let ev := la (fun L => { L with ev := { L.ev with q := [⟨1, false, 0, 0, 0, 5⟩] } }) hs
    let h := fun (n : Nat) => la (fun L => L.modGns (fun g => { g with frames := [(true, List.replicate n 0)] })) hs
    t 0x10 (si 0xFF) = 0 ∧ hs.laneA.hostProof (body 0x10 (si 0xFF)) = true ∧ hs.laneA.hostProof (body 0x10 (si 0)) = false ∧
    (mkFrame 0x10 (frame0 (si 0xFF))).ses = 0 ∧ (∀ b ∈ ((body 0x10 (si 0xFF)).drop 129).take 3, b = 0) ∧
    hs.laneA.freeSess = some 1 ∧ t 0x11 [] = 0 ∧ t 0x20 [65, 0, 0, 0] = 0 ∧ 64 < bytesNat (body 0x20 [65, 0, 0, 0]) ∧
    bytesNat (body 0x20 [0, 0, 0, 0]) < 1 ∧ 1 ≤ bytesNat (body 0x20 [64, 0, 0, 0]) ∧
    bytesNat (body 0x20 [64, 0, 0, 0]) ≤ 64 ∧
    (hs.laneA.ev.q.takeWhile (fun e => decide (e.stamp < (6#64).toNat))).take 64 = [] ∧
    (ev.laneA.ev.q.takeWhile (fun e => decide (e.stamp < (6#64).toNat))).take 64 ≠ [] ∧ t 0x21 [] = 0 ∧ t 0x22 [] = 0 ∧
    t 0x30 [] = 0 ∧ (wr 0x40040200 1 hs).laneA.msgSlot 0x40130010 0 = some 0 ∧ m.laneA.msgSlot 0x40130010 33 = some 1024 ∧
    m.laneA.fld 0x40130014 0 6 % 32 = m.laneA.fld 0x40130018 0 6 % 32 ∧
    m.laneA.fld 0x40130014 0 6 ≠ m.laneA.fld 0x40130018 0 6 ∧ t 0x31 [] = 0 ∧
    hs.laneA.fld 0x40130024 0 6 = hs.laneA.fld 0x40130028 0 6 ∧ o.laneA.fld 0x40130024 0 6 ≠ o.laneA.fld 0x40130028 0 6 ∧
    o.laneA.msgSlot 0x40130020 0 = some 0 ∧ bitOf (o.laneA.word 0) 16 = false ∧ t 0x40 fr = 0 ∧
    2048 < (h 2043).laneA.gns.hBytes + (body 0x40 fr).length ∧ (h 2042).laneA.gns.hBytes + (body 0x40 fr).length ≤ 2048 ∧
    frameOk (body 0x40 fr) (body 0x40 fr).length = true ∧ t 0x50 [] = 0 ∧
    ringUsed (hs.laneA.rd 0x4007003C) (hs.laneA.rd 0x40070040) = 0 ∧
    ringUsed ((wr 0x4007003C 1 hs).laneA.rd 0x4007003C) (hs.laneA.rd 0x40070040) ≠ 0 ∧ t 0x51 [] = 0 ∧
    hs.laneA.tileSlotDone = none ∧ (wr 0x40070044 1 hs).laneA.tileSlotDone = some 0x40000 ∧
    (wr 0x40070044 1 (wr 0x40040204 4 hs)).laneA.servesAll .section_ 0x40000 8256 = true ∧ t 0x60 [] = 0 ∧
    hs.laneA.vault.idx ≤ hs.laneA.vault.taken ∧
    (la (fun L => L.modVault (fun v => { v with idx := 1 })) hs).laneA.vault.taken < 1 := by
  intro t body si crc fr m o ev h
  repeat' apply And.intro
  all_goals decide +kernel

/-- A response kept and none, busy and not, a pulse owed, a session silent for 30 s and one that is not open. -/
theorem test_hyps_responses :
    let r : Resp := ⟨0x21, [1], 4, 0⟩
    let h := fun (f : HostSt → HostSt) => la (fun L => { L with host := f L.host }) hs
    let x : Sess := ⟨0, 0, 0, [], [], [], []⟩
    let late := la (fun L => { L with host := { L.host with sess := [(4, some x)] } }) (at_ 3000000000)
    hs.hostServed .a = true ∧ hs.laneA.host.busy = false ∧ hs.laneA.host.resp = none ∧
    (h (fun y => { y with resp := some r })).laneA.host.resp = some r ∧ r.act = 4 ∧ ({ r with act := 0 }).act = 0 ∧
    (h (fun y => { y with busy := true })).laneA.host.busy = true ∧
    (h (fun y => { y with restart := true })).laneA.host.restart = true ∧ hs.laneA.host.restartAt = none ∧
    hs.hrdy .a = true ∧ (la (fun L => { L with ev := { L.ev with owed := true } }) hs).laneA.ev.owed = true ∧
    hs.laneA.ev.owed = false ∧ late.laneA.sess ((3 : Fin 4).val + 1) = some x ∧ x.at_ + 3000000000 ≤ late.laneA.lt ∧
    hs.laneA.sess ((3 : Fin 4).val + 1) = none := by
  intro r h x late
  repeat' apply And.intro
  all_goals decide +kernel

/-- An update frame of each kind in RUN and in the loader, with each outcome; a restart due and not. -/
theorem test_hyps_updates :
    let fr := fun (k : Byte) (w : List Byte) => mkFrame 0x70 (frame0 ([k, 0, 0, 0] ++ w))
    let ld := la (fun L => { L with phase := .loader }) hs
    let beg := (natBytes 528 4 ++ natBytes 0 4 : List Byte)
    let dat := (natBytes 0 4 ++ [9] : List Byte)
    let calm := rw_ 0x200 2 (rw_ 0x220 0 (s1.modRind (fun r => { r with none_ := true })))
    let u := fun (n : Nat) => la (fun L => { L with host := { L.host with upd := some ⟨528, n, none⟩ } }) ld
    let due := la (fun L => { L with host := { L.host with
      restart := true
      restartAt := some 100000000 } }) s1
    hs.laneA.frameResult (fr 1 beg) = 0 ∧ (hs.laneA.clearBody (fr 1 beg)).getD 0 0 = BitVec.ofNat 8 1 ∧
    (∀ b ∈ ((hs.laneA.clearBody (fr 1 beg)).drop 1).take 3, b = 0) ∧ (hs.laneA.clearBody (fr 1 beg)).length = 12 ∧
    calm.beginCode .a 528 0 true ≠ 0 ∧ calm.beginCode .a 528 0 false = 0 ∧ calm.beginCode .a 0x1F00000 0 false = 0 ∧
    calm.beginCode .a 527 0 false ≠ 0 ∧ calm.beginCode .a 0x1F00001 0 false ≠ 0 ∧
    hs.laneA.frameResult (fr 2 dat) = 0 ∧ 9 ≤ (hs.laneA.clearBody (fr 2 dat)).length ∧ hs.laneA.running = true ∧
    ld.laneA.frameResult (fr 2 dat) = 0 ∧ ld.hostServed .a = true ∧ (u 0).laneA.running = false ∧
    (u 0).laneA.updOf 0 = some ⟨528, 0, none⟩ ∧ bytesNat (((u 0).laneA.clearBody (fr 2 dat)).drop 4 |>.take 4) = 0 ∧
    0 + ((u 0).laneA.clearBody (fr 2 dat)).length - 8 ≤ 528 ∧ (u 0).lowSupply 21000 [21000, 5999] = false ∧
    0 ≠ (Upd.mk 528 1 none).got ∧ (u 528).laneA.frameResult (fr 3 []) = 0 ∧ ((u 528).laneA.clearBody (fr 3 [])).length = 4 ∧
    (Upd.mk 528 528 none).total ≤ (Upd.mk 528 528 none).got ∧ (Upd.mk 528 527 none).got < (Upd.mk 528 527 none).total ∧
    (u 528).laneA.updOf 0 = some ⟨528, 528, none⟩ ∧ hs.laneA.frameResult (fr 4 []) = 0 ∧
    s1.isActive .a = true ∧ s1.isActive .b = false ∧ s1.laneA.flag 0x40140004 5 = false ∧
    due.laneA.host.restartAt = some 100000000 ∧ due.laneA.running = true ∧ due.laneA.host.restart = true ∧
    (100000000 : Nat) ≤ due.laneA.lt ∧ s1.laneA.host.restartAt = none := by
  intro fr ld beg dat calm u due
  repeat' apply And.intro
  all_goals decide +kernel

/-- In RUN without a transition, locked, without a key, with one; each register that GO may write. -/
theorem test_hyps_management :
    let m := fun (f : Mgmt → Mgmt) => s1.modRind (fun r => { r with mgmt := f r.mgmt })
    let lock := m (fun x => { x with lockUntil := some 100000000 })
    let key := m (fun x => { x with key := some [1] })
    let a := fun (n v : Word) => rw_ 0x74 v (rw_ 0x70 n key)
    s1.power = 0 ∧ s1.rind.trans = none ∧
    (∀ i, i < (List.replicate 8 0 : List Byte).length / 4 → ((0x80 : BitVec 16).toNat + 4 * i) % 65536 ≠ 0x88) ∧
    (0x74 : BitVec 16).toNat = 0x74 ∧ (0x88 : BitVec 16).toNat = 0x88 ∧ ([1, 2, 3, 4] : List Byte).length = 4 ∧
    lock.rind.mgmt.lockUntil.isSome = true ∧ s1.rind.mgmt.lockUntil = none ∧ s1.rind.mgmt.key = none ∧
    key.rind.mgmt.key = some [1] ∧ key.rind.mgmt.lockUntil = none ∧ key.rind.fld 0x8C 8 4 + 1 < 8 ∧
    8 ≤ (rw_ 0x8C 0x700 key).rind.fld 0x8C 8 4 + 1 ∧ (a 0 0).rind.fld 0x70 0 16 = 0 ∧ (a 0x90 3).rind.fld 0x70 0 16 = 0x90 ∧
    fieldNat ((a 0x90 3).rind.rd 0x74) 0 2 = 3 ∧ fieldNat ((a 0x90 0).rind.rd 0x74) 0 2 = 0 ∧
    fieldNat ((a 0x90 2).rind.rd 0x74) 0 2 = 2 ∧ (a 0x90 2).isActive .b = false ∧ (a 0x90 2).laneOff .b = false ∧
    (a 0x98 3).rind.fld 0x70 0 16 = 0x98 ∧ fieldNat ((a 0x98 3).rind.rd 0x74) 0 2 ≠ 0 ∧
    lock.rind.mgmt.lockUntil = some 100000000 ∧ (100000000 : Nat) ≤ lock.die.replica := by
  intro m lock key a
  repeat' apply And.intro
  all_goals decide +kernel

/-- Word `w` of a tag of bytes, and the rind whose MG_TAG holds it. -/
def tagWord (b : Nat → Byte) (w : Nat) : Word := bytesWord [b (4 * w), b (4 * w + 1), b (4 * w + 2), b (4 * w + 3)]
def tagRind (b : Nat → Byte) : Rind :=
  s1.rind.wr 0x78 (tagWord b 0) |>.wr 0x7C (tagWord b 1) |>.wr 0x80 (tagWord b 2) |>.wr 0x84 (tagWord b 3)

theorem tagWord_bytes (b : Nat → Byte) (w : Nat) :
    wordBytes (tagWord b w) = [b (4 * w), b (4 * w + 1), b (4 * w + 2), b (4 * w + 3)] := by
  rw [tagWord]
  generalize b (4 * w) = x, b (4 * w + 1) = y, b (4 * w + 2) = z, b (4 * w + 3) = u
  simp only [wordBytes, bytesWord, bytesNat, List.cons.injEq, and_true]
  refine ⟨?_, ?_, ?_, ?_⟩ <;> apply BitVec.eq_of_toNat_eq <;>
    simp only [BitVec.extractLsb'_toNat, BitVec.toNat_ofNat, Nat.shiftRight_eq_div_pow] <;>
    have := x.isLt <;> have := y.isLt <;> have := z.isLt <;> have := u.isLt <;> omega

theorem tagRind_given (b : Nat → Byte) : (tagRind b).mgGiven = (List.range 16).map b := by
  have e : (tagRind b).mgGiven = wordBytes (tagWord b 0) ++ (wordBytes (tagWord b 1) ++
      (wordBytes (tagWord b 2) ++ (wordBytes (tagWord b 3) ++ []))) := by
    simp only [Rind.mgGiven, tagRind, Rind.rd_wr, show (List.range 4) = [0, 1, 2, 3] by decide, List.flatMap_cons,
      List.flatMap_nil]
    rfl
  rw [e, tagWord_bytes, tagWord_bytes, tagWord_bytes, tagWord_bytes]
  rfl

theorem tagRind_tag (b c : Nat → Byte) : (tagRind b).mgTag [1] = (tagRind c).mgTag [1] := by
  simp only [Rind.mgTag, tagRind, Rind.rd_wr]
  rfl

/-- A tag that holds and one that does not, whatever tag the key gives. -/
theorem test_hyps_management_tag :
    ∃ b c, (tagRind b).mgGiven = (tagRind b).mgTag [1] ∧ (tagRind c).mgGiven ≠ (tagRind c).mgTag [1] := by
  obtain ⟨g, hg⟩ : ∃ g, (tagRind fun _ => 0).mgTag [1] = (List.range 16).map g := ⟨_, rfl⟩
  have first : ∀ f : Nat → Byte, ((List.range 16).map f).getD 0 0 = f 0 := fun _ => rfl
  refine ⟨g, fun i => g i + 1, ?_, fun h => ?_⟩
  · rw [tagRind_given, tagRind_tag g fun _ => 0, hg]
  · rw [tagRind_given, tagRind_tag _ fun _ => 0, hg] at h
    have e := congrArg (fun l => l.getD 0 0) h
    simp only [first] at e
    generalize g 0 = x at e
    revert x
    decide

/-! ### The whole machine -/

/-- A queue with a command and one without; states of which the invariants hold, and a step from each kind of queue. -/
theorem test_hyps_machine :
    (s1.power = 0 ∧ s1.rind.trans = none) ∧ (rw_ 0x104 1 s1).runOn.laneWakes .a = false ∧
    (rw_ 0x104 1 s1).runOn.laneWakes .b = false ∧ s1.tcxo = true ∧
    ({ s1 with rind := { s1.rind with vlogOk := false } } : State).tcxo = false ∧ s1.standsBy .a = false ∧
    s1.laneA.ownRate = 0 ∧ s1.laneA.flag 0x40080000 0 = false ∧ s1.laneA.flag 0x40080000 1 = false ∧
    (s1.withCommand (.heartbeat .a)).pending = .heartbeat .a :: [] ∧ s1.pending = [] ∧
    (∃ t, step s1 = .next t) ∧ (∃ t, step (s1.withCommand (.heartbeat .b)) = .next t) :=
  ⟨by decide +kernel, by decide +kernel, by decide +kernel, by decide +kernel, by decide +kernel, by decide +kernel,
    by decide +kernel, by decide +kernel, by decide +kernel, rfl, rfl, ⟨_, rfl⟩, ⟨_, rfl⟩⟩

/-- A module with a bridge on and a DIRECT channel meets the invariants. -/
theorem test_hyps_invariants :
    let s := (un 231 (fun p => { p with gh := true }) s1).modRind (fun r => { r with steer := [(207, 2)] })
    NoShootThrough s ∧ LegalSteering s ∧ CanonicalMemory s := by
  intro s
  refine ⟨fun u => ?_, fun u => ?_, fun l => ?_⟩
  · have e : s.die.unit u = if 231 = u then { Machine.PUnit.reset true with gh := true }
        else Machine.PUnit.reset (isBridge u) := by
      by_cases h : 231 = u
      · subst h; decide +kernel
      · rw [if_neg h]
        show Tab.get [(231, _)] _ u = _
        simp [Tab.get, h]
    rw [e]
    split
    · unfold GatesApart; decide
    · cases isBridge u <;> (unfold GatesApart; decide)
  · have e : s.steer u = if 207 = u then 2 else 0 := by
      show Tab.get [(207, 2)] 0 u = _
      by_cases h : 207 = u <;> simp [Tab.get, h]
    rw [e]
    split <;> omega
  · cases l <;> decide +kernel

/-- A well-formed instruction of a context, a word that spells it, and one without a second master's write. -/
theorem test_hyps_words :
    issuerOf (.add .a 3 5 6 7) = some (.a, 3) ∧ (Instr.add .a 3 5 6 7).wf = true ∧ noClash (.sw .a 0 9 10 (-4) []) ∧
    decodeKfx .a 3 0x00730500#32 ≠ none := by
  refine ⟨rfl, by decide, rfl, by decide⟩

/-! ### Worked examples of the spec, and one step of some commands -/

/-- The program of 06_instruction_reference.md, "An edge at 500 us from now": the words of its table. -/
theorem test_example_words :
    [0x0001AC05#32, 0x0000CE49, 0x0D41CE11, 0x00398C00, 0x90398F00, 0x003DAD00, 0x04400A01, 0x00314006,
      0x0001900D].map (decodeKfx .a 1) =
    [some (.ltrd .a 1 12 13), some (.lhi .a 1 14 6), some (.ori .a 1 14 14 848), some (.add .a 1 12 12 14),
      some (.sltu .a 1 15 12 14), some (.add .a 1 13 13 15), some (.addi .a 1 10 0 272), some (.edge .a 1 10 12),
      some (.wtlt .a 1 16 12)] := by decide +kernel
/-- R15's worked example: the difference of 0x0000_0100 and 0xFFFF_FF00 is +512. -/
theorem test_example_stamps : serialDiff 0x00000100 0xFFFFFF00 = 512 := by decide
/-- The shelter belt of 04_time_base.md: 15 ns and 5.0e-9 at loss, 1,000 ns at 98.99 s (R89). -/
theorem test_example_holdover :
    let L := { s1.laneA with
      lt := 9899000000
      time := { s1.laneA.time with
        u0 := 15
        sigma := 5 / 1000000000 } }
    9998 / 10 < L.holdU ∧ L.holdU < 10002 / 10 := by decide +kernel

/-- The state after a command. -/
def after (i : Instr) (s : State) : State :=
  match exec i s with
  | .next t => t
  | _ => State.reset

/-- add wraps, and its destination may be a source (R142). -/
theorem test_add_wraps :
    (((after (.add .a 1 5 5 6) (x1 5 0xFFFFFFFF (x1 6 2 s1))).ctxOf .a 1).rx 5) = 1 := by decide +kernel
/-- x0 stays zero (R108). -/
theorem test_x0 : (((after (.addi .a 1 0 0 5) s1).ctxOf .a 1).rx 0) = 0 := by decide +kernel
/-- A step runs the command in front and takes it off the queue: a register write takes effect. -/
theorem test_step_write :
    (match step (s1.withCommand (.registerWrite .a 0x40020048 ⟨1000, 0⟩)) with
      | .next t => decide (t.laneA.rd 0x40020048 = 1000 ∧ t.pending = [])
      | _ => false) = true := by decide +kernel
/-- A register command at an address of no block stops (R116). -/
theorem test_no_address : exec (.registerWrite .a 0x50000000 ⟨0, 0⟩) s1 = .fault .noAddress := rfl

/-- A switch that turns off while its backoff runs and after it has ended; a DIRECT channel with its input at 1 over a
release of RESET_N. -/
theorem test_hyps_backoffs :
    let n : Fin 208 := 207
    let x := fun (t : Nat) => sw 207 (fun w => { w with
      inp := true
      ph := 2
      backoff := some t }) s1
    let r := { s1 with
      rind := { s1.rind with
        resetLow := true
        steer := [(207, 2)] }
      die := (sw 207 (fun w => { w with inp := true }) s1).die }
    (x 5).inputLine n = false ∧ ((x 5).die.swt n).inp = true ∧ ¬ (x 5).die.replica < 5 ∧
    (x 200000000).die.replica < 200000000 ∧ r.rind.resetLow = true ∧ r.steer 207 = 2 ∧ (r.die.swt 207).ph = 0 ∧
    (r.die.swt 207).tlatch = false ∧ (r.die.swt 207).locked = false ∧ (r.die.swt 207).backoff = none ∧
    (r.die.swt 207).defer = false := by
  intro n x r
  repeat' apply And.intro
  all_goals decide +kernel

/-- An entry to CAVE with a DIRECT channel on; a wake and a write while such an entry is under way. -/
theorem test_hyps_cave_entries :
    let d := { s1 with
      rind := { s1.rind with steer := [(200, 2)] }
      die := (sw 200 (fun w => { w with ph := 2 }) s1).die }
    let e := { d with rind := { d.rind with trans := some 5 } }
    let src : BitVec 13 := 4096
    fieldNat (5 : Word) 0 3 = 5 ∧ d.power ≠ 5 ∧ d.steer 200 = 2 ∧ (d.die.swt 200).ph = 2 ∧
    (∀ n, n < 208 → d.steer n ≠ 2 → ¬((d.die.swt n).ph = 1 ∨ (d.die.swt n).ph = 2)) ∧
    d.rind.rd 0x10C = 0 ∧ e.rind.trans = some 5 ∧ e.power = 0 ∧ (rw_ 0x104 3 e).power ≠ 0 ∧
    src.toNat &&& ((e.rind.rd 0x108).toNat ||| 4096) &&& (if e.power ≤ 3 then 8191 else 4095) ≠ 0 := by
  intro d e src
  repeat' apply And.intro
  all_goals decide +kernel

/-- A due command of an entry that a cancel names, and of one that none does; a layer whose check fails while its
deactivation waits. -/
theorem test_hyps_cancelled_commands :
    let c : PulseCmd := ⟨206, 100000000, 1, .level true, some 9, none⟩
    let k : Cancel := { handle := 9, ent := CurdE.reset, done := false }
    let m := fun (h : Nat) => la (fun L => { L with spx := { L.spx with cancels := [{ k with handle := h }] } })
      (port [c] s1)
    let y := la (fun L => L.setLayer 3 ⟨some 0, some 0, 1⟩) s1
    (m 9).die.cmds.get .a = [c] ∧ c.at_ ≤ (m 9).die.replica ∧
    ((m 9).laneA.spx.cancels.any (fun k => c.curd == some k.handle)) = true ∧
    (∀ k, k ∈ (m 8).laneA.spx.cancels → c.curd ≠ some k.handle) ∧
    (y.laneA.layer (3 : Fin 4)).check = some 0 ∧ (y.laneA.layer (3 : Fin 4)).next = 1 ∧ y.laneA.mapFaults 0 = [5] := by
  intro c k m y
  refine ⟨?_, ?_, ?_, ?_, ?_, ?_, ?_⟩
  case refine_7 => simp only [Lane.mapFaults]; rw [if_pos (by decide +kernel)]
  all_goals decide +kernel

/-- A selected station with four and five fixed ambiguities; a lane without actuators and one with twelve. -/
theorem test_hyps_fixed_and_actuators :
    let st := fun (xs : List Nat) => la (fun L => L.modGns (fun g => { g with
      stn := some 1
      fixed := xs })) s1
    let ac := la (fun L => L.modLkp (fun k => { k with acts := List.replicate 12 [] })) s1
    (st [1, 2, 3, 4]).laneA.gns.fixed.length < 5 ∧ 5 ≤ (st [1, 2, 3, 4, 5]).laneA.gns.fixed.length ∧
    (st []).laneA.gns.stn = some 1 ∧ s1.laneA.lkActs = [] ∧ ac.laneA.lkp.acts.length ≤ 12 := by
  intro st ac
  repeat' apply And.intro
  all_goals decide +kernel

end Sys2Proof.Tests
end

section
/-!
SUPPORT. Registers field by field: what a write under the access codes (R9, R10), the hardware's setting of W1C bits
(R12) and a clearing read leave in each field of a register whose fields lie apart.
-/

namespace Sys2Proof.Machine

/-! ### Registers whose fields lie apart -/

/-- The field lies in the word, and holds the ends of its range. -/
def Fld.fits (f : Fld) : Bool :=
  decide (f.lo + f.w ≤ 32) && f.lim.all (fun r => decide (r.1 < 2 ^ f.w) && decide (r.2 < 2 ^ f.w))

/-- Two fields share no bit. -/
def Fld.apart (f g : Fld) : Bool := decide (f.lo + f.w ≤ g.lo) || decide (g.lo + g.w ≤ f.lo)

/-- The fields fit and lie apart, each from every other. -/
def laidOut (fs : List Fld) : Bool := fs.all Fld.fits && decide (fs.Pairwise (fun f g => f.apart g = true))

theorem Fld.apart_iff (f g : Fld) : f.apart g = true ↔ f.lo + f.w ≤ g.lo ∨ g.lo + g.w ≤ f.lo := by
  simp [Fld.apart]

theorem Fld.apart_comm (f g : Fld) : f.apart g = g.apart f := Bool.or_comm ..

theorem Fld.fits_le {f : Fld} (h : f.fits = true) : f.lo + f.w ≤ 32 := by
  simp only [Fld.fits, Bool.and_eq_true, decide_eq_true_eq] at h
  exact h.1

theorem Fld.fits_lim {f : Fld} {a b : Nat} (h : f.fits = true) (hl : f.lim = some (a, b)) :
    a < 2 ^ f.w ∧ b < 2 ^ f.w := by
  simp only [Fld.fits, hl, Option.all, Bool.and_eq_true, decide_eq_true_eq] at h
  exact h.2

theorem laidOut_nil : laidOut [] = true := rfl

theorem laidOut_cons {g : Fld} {fs : List Fld} :
    laidOut (g :: fs) = true ↔ g.fits = true ∧ (∀ f ∈ fs, g.apart f = true) ∧ laidOut fs = true := by
  simp only [laidOut, List.all_cons, Bool.and_eq_true, decide_eq_true_eq, List.pairwise_cons]
  tauto

theorem fits_of_laidOut {fs : List Fld} {f : Fld} (h : laidOut fs = true) (hf : f ∈ fs) : f.fits = true := by
  rw [laidOut, Bool.and_eq_true, List.all_eq_true] at h
  exact h.1 f hf

/-- The fields of a lane register lie apart where those of every register of its block do. -/
theorem laidOut_laneFlds {a : Nat} (h : (blockRegs a).all (fun r => laidOut r.flds) = true) :
    laidOut (laneFlds a) = true := by
  unfold laneFlds
  split
  · next r hr => exact List.all_eq_true.1 h r (List.mem_of_find?_eq_some hr)
  · exact laidOut_nil

/-! ### Updates that go field by field -/

/-- An update of a word for each field: it leaves every field apart from its own alone, and what it makes of its
own field hangs on that field alone. -/
def FieldWise (F : Word → Fld → Word) : Prop :=
  (∀ x f g, f.apart g = true → g.fits = true → fieldNat (F x f) g.lo g.w = fieldNat x g.lo g.w) ∧
  (∀ x y f, f.fits = true → fieldNat x f.lo f.w = fieldNat y f.lo f.w →
    fieldNat (F x f) f.lo f.w = fieldNat (F y f) f.lo f.w)

/-- Updates of other fields leave a field alone. -/
theorem FieldWise.foldl_apart {F : Word → Fld → Word} (h : FieldWise F) {fs : List Fld} {f : Fld}
    (hf : f.fits = true) (ha : ∀ g ∈ fs, g.apart f = true) (x : Word) :
    fieldNat (fs.foldl F x) f.lo f.w = fieldNat x f.lo f.w := by
  induction fs generalizing x with
  | nil => rfl
  | cons g fs ih =>
    rw [List.foldl_cons, ih (fun k hk => ha k (List.mem_cons_of_mem g hk)), h.1 x g f (ha g List.mem_cons_self) hf]

/-- A field of a register reads, after the updates of all of its fields, what its own update makes of it. -/
theorem FieldWise.foldl {F : Word → Fld → Word} (h : FieldWise F) {fs : List Fld} {f : Fld}
    (hl : laidOut fs = true) (hf : f ∈ fs) (x : Word) :
    fieldNat (fs.foldl F x) f.lo f.w = fieldNat (F x f) f.lo f.w := by
  have hw := fits_of_laidOut hl hf
  induction fs generalizing x with
  | nil => exact absurd hf List.not_mem_nil
  | cons g fs ih =>
    obtain ⟨-, hg, hfs⟩ := laidOut_cons.1 hl
    rw [List.foldl_cons]
    rcases List.mem_cons.1 hf with rfl | hf
    · exact h.foldl_apart hw (fun k hk => Fld.apart_comm f k ▸ hg k hk) (F x f)
    · rw [ih hfs hf]
      exact h.2 _ _ f hw (h.1 x g f (hg f hf) hw)

theorem fieldNat_setFieldNat_apart (x : Word) {f g : Fld} (v : Nat) (h : f.apart g = true) (hg : g.fits = true) :
    fieldNat (setFieldNat x f.lo f.w v) g.lo g.w = fieldNat x g.lo g.w :=
  fieldNat_setFieldNat_ne x f.lo f.w v g.lo g.w (Fld.fits_le hg) ((Fld.apart_iff f g).1 h)

/-- A field reads a number that fits in it as it was set. -/
theorem fieldNat_setFieldNat_of_lt (x : Word) {lo w v : Nat} (h : lo + w ≤ 32) (hv : v < 2 ^ w) :
    fieldNat (setFieldNat x lo w v) lo w = v := by
  rw [fieldNat_setFieldNat_self x lo w v h, Nat.mod_eq_of_lt hv]

/-- The bits of a `w`-bit number inverted. -/
theorem xor_ones {n w : Nat} (h : n < 2 ^ w) : n ^^^ (2 ^ w - 1) = 2 ^ w - 1 - n := by
  apply Nat.eq_of_testBit_eq
  intro i
  rw [Nat.testBit_xor, Nat.testBit_two_pow_sub_one, Nat.sub_sub, Nat.add_comm 1 n, Nat.testBit_two_pow_sub_succ h]
  by_cases hi : i < w
  · simp [hi]
  · have : n.testBit i = false :=
      Nat.testBit_lt_two_pow (lt_of_lt_of_le h (Nat.pow_le_pow_right two_pos (Nat.le_of_not_lt hi)))
    simp [hi, this]

/-! ### Writes -/

/-- What a write of `v` over `old` makes of one field (R9, R10). -/
theorem Fld.fieldNat_write {f : Fld} (hf : f.fits = true) (e : Bool) (old v x : Word) :
    fieldNat (f.write e old v x) f.lo f.w =
      match f.acc, f.lim with
      | .rw, some (lo, hi) => max lo (min hi (fieldNat v f.lo f.w))
      | .rw, none => fieldNat v f.lo f.w
      | .w1c, _ => fieldNat old f.lo f.w &&& (2 ^ f.w - 1 - fieldNat v f.lo f.w)
      | .w1s, _ => fieldNat old f.lo f.w ||| fieldNat v f.lo f.w
      | .rwl, _ => if e then fieldNat x f.lo f.w else fieldNat v f.lo f.w
      | .ro, _ | .wo, _ | .rc, _ => fieldNat x f.lo f.w := by
  have hw := Fld.fits_le hf
  have hv := fieldNat_lt v f.lo f.w
  have ho := fieldNat_lt old f.lo f.w
  unfold Fld.write
  cases hacc : f.acc with
  | rw =>
    cases hlim : f.lim with
    | none => exact fieldNat_setFieldNat_of_lt x hw hv
    | some r =>
      obtain ⟨ha, hb⟩ := Fld.fits_lim (a := r.1) (b := r.2) hf hlim
      exact fieldNat_setFieldNat_of_lt x hw (max_lt ha (lt_of_le_of_lt (min_le_left _ _) hb))
  | w1c =>
    dsimp only
    rw [xor_ones hv]
    exact fieldNat_setFieldNat_of_lt x hw (Nat.and_lt_two_pow _ (by omega))
  | w1s => exact fieldNat_setFieldNat_of_lt x hw (Nat.or_lt_two_pow ho hv)
  | rwl =>
    cases e with
    | true => rfl
    | false => exact fieldNat_setFieldNat_of_lt x hw hv
  | ro | wo | rc => rfl

/-- A write changes its own field alone. -/
theorem Fld.fieldNat_write_apart {f g : Fld} (e : Bool) (old v x : Word) (h : f.apart g = true)
    (hg : g.fits = true) : fieldNat (f.write e old v x) g.lo g.w = fieldNat x g.lo g.w := by
  unfold Fld.write
  cases f.acc with
  | rw | w1c | w1s => exact fieldNat_setFieldNat_apart x _ h hg
  | rwl =>
    cases e with
    | true => rfl
    | false => exact fieldNat_setFieldNat_apart x _ h hg
  | ro | wo | rc => rfl

theorem fieldWise_write (e : Bool) (old v : Word) : FieldWise (fun x f => f.write e old v x) := by
  refine ⟨fun x f g => Fld.fieldNat_write_apart e old v x, fun x y f hf h => ?_⟩
  show fieldNat (f.write e old v x) f.lo f.w = fieldNat (f.write e old v y) f.lo f.w
  rw [Fld.fieldNat_write hf, Fld.fieldNat_write hf, h]

/-- What a field of a register reads after a write under the access codes (R9, R10). -/
theorem fieldNat_fldsWrite {fs : List Fld} {f : Fld} (hl : laidOut fs = true) (hf : f ∈ fs) (e : Bool)
    (old v : Word) : fieldNat (fldsWrite fs e old v) f.lo f.w = fieldNat (f.write e old v old) f.lo f.w :=
  (fieldWise_write e old v).foldl hl hf old

/-- The W1C bits that the hardware sets in the cycle of a write read 1; every other bit stays (R12). -/
theorem fieldNat_hardSet {fs : List Fld} {f : Fld} (hl : laidOut fs = true) (hf : f ∈ fs) (same x : Word) :
    fieldNat (hardSet fs same x) f.lo f.w =
      if f.acc = .w1c then fieldNat x f.lo f.w ||| fieldNat same f.lo f.w else fieldNat x f.lo f.w := by
  have own : ∀ (y : Word) (g : Fld), g.fits = true →
      fieldNat (setFieldNat y g.lo g.w (fieldNat y g.lo g.w ||| fieldNat same g.lo g.w)) g.lo g.w =
        fieldNat y g.lo g.w ||| fieldNat same g.lo g.w := fun y g hg =>
    fieldNat_setFieldNat_of_lt y (Fld.fits_le hg) (Nat.or_lt_two_pow (fieldNat_lt y g.lo g.w) (fieldNat_lt same g.lo g.w))
  refine (FieldWise.foldl ⟨fun y g k hgk hk => ?_, fun y z g hg h => ?_⟩ hl hf x).trans ?_
  · cases g.acc with
    | w1c => exact fieldNat_setFieldNat_apart y _ hgk hk
    | rw | ro | wo | w1s | rc | rwl => rfl
  · cases g.acc with
    | w1c => exact (own y g hg).trans (h ▸ (own z g hg).symm)
    | rw | ro | wo | w1s | rc | rwl => exact h
  · cases f.acc with
    | w1c => exact own x f (fits_of_laidOut hl hf)
    | rw | ro | wo | w1s | rc | rwl => rfl

/-- A read clears the RC fields alone (R9). -/
theorem fieldNat_fldsAfterRead {fs : List Fld} {f : Fld} (hl : laidOut fs = true) (hf : f ∈ fs) (x : Word) :
    fieldNat (fldsAfterRead fs x) f.lo f.w = if f.acc = .rc then 0 else fieldNat x f.lo f.w := by
  have own : ∀ (y : Word) (g : Fld), g.fits = true → fieldNat (setFieldNat y g.lo g.w 0) g.lo g.w = 0 :=
    fun y g hg => fieldNat_setFieldNat_of_lt y (Fld.fits_le hg) (Nat.two_pow_pos g.w)
  refine (FieldWise.foldl ⟨fun y g k hgk hk => ?_, fun y z g hg h => ?_⟩ hl hf x).trans ?_
  · cases g.acc with
    | rc => exact fieldNat_setFieldNat_apart y _ hgk hk
    | rw | ro | wo | w1c | w1s | rwl => rfl
  · cases g.acc with
    | rc => exact (own y g hg).trans (own z g hg).symm
    | rw | ro | wo | w1c | w1s | rwl => exact h
  · cases f.acc with
    | rc => exact own x f (fits_of_laidOut hl hf)
    | rw | ro | wo | w1c | w1s | rwl => rfl

/-! ### Changes of one register of a lane -/

theorem OnlyLaneRegs.refl (l : LaneId) (as : List Nat) (s : State) : OnlyLaneRegs l as s s :=
  ⟨OnlyLane.refl l s, fun _ _ => rfl, rfl⟩

theorem OnlyLaneRegs.trans {l : LaneId} {as : List Nat} {s t u : State} (h : OnlyLaneRegs l as s t)
    (k : OnlyLaneRegs l as t u) : OnlyLaneRegs l as s u := by
  obtain ⟨h1, h2, h3⟩ := h
  obtain ⟨k1, k2, k3⟩ := k
  exact ⟨h1.trans k1, fun a ha => (k2 a ha).trans (h2 a ha), k3.trans h3⟩

/-- A lane that writes one of its registers changes nothing else. -/
theorem OnlyLaneRegs.modLane_wr (l : LaneId) (a : Nat) (s : State) (g : Lane → Word) :
    OnlyLaneRegs l [a] s (s.modLane l (fun L => L.wr a (g L))) := by
  refine ⟨OnlyLane.modLane l s _, fun k hk => ?_, ?_⟩
  · rw [State.reg, State.lane_modLane, Lane.rd_wr_ne _ _ (fun h => hk (List.mem_singleton.2 h))]
    rfl
  · rw [State.lane_modLane]
    rfl

theorem State.reg_modLane_wr (s : State) (l : LaneId) (a : Nat) (g : Lane → Word) :
    (s.modLane l (fun L => L.wr a (g L))).reg l a = g (s.lane l) := by
  rw [State.reg, State.lane_modLane, Lane.rd_wr_self]

theorem OnlyLaneRegs.plainW (l : LaneId) (a : Nat) (v : Word) (s : State) : OnlyLaneRegs l [a] s (s.plainW l a v) :=
  OnlyLaneRegs.modLane_wr l a s (fun L => fldsWrite (laneFlds a) L.enrolled (L.rd a) v)

theorem State.reg_plainW (s : State) (l : LaneId) (a : Nat) (v : Word) :
    (s.plainW l a v).reg l a = fldsWrite (laneFlds a) (s.lane l).enrolled (s.reg l a) v :=
  State.reg_modLane_wr s l a (fun L => fldsWrite (laneFlds a) L.enrolled (L.rd a) v)

/-- What the hardware sets of a register outside the rind's changes that register alone. -/
theorem OnlyLaneRegs.setSame (l : LaneId) {a : Nat} (same : Word) (s : State) (h : a < 0x400F8000 ∨ 0x40100000 ≤ a) :
    OnlyLaneRegs l [a] s (s.setSame l a same) := by
  unfold State.setSame
  split
  · exact OnlyLaneRegs.refl l [a] s
  · rw [if_neg (by omega)]
    exact OnlyLaneRegs.modLane_wr l a s (fun L => hardSet (laneFlds a) same (L.rd a))

/-- What the hardware sets of a register outside the rind's: its W1C bits (R12). -/
theorem State.fieldNat_setSame (s : State) (l : LaneId) {a : Nat} (same : Word) {f : Fld}
    (h : a < 0x400F8000 ∨ 0x40100000 ≤ a) (hl : laidOut (laneFlds a) = true) (hf : f ∈ laneFlds a) :
    fieldNat ((s.setSame l a same).reg l a) f.lo f.w =
      if f.acc = .w1c then fieldNat (s.reg l a) f.lo f.w ||| fieldNat same f.lo f.w
      else fieldNat (s.reg l a) f.lo f.w := by
  unfold State.setSame
  split
  · next h0 =>
    subst h0
    simp [fieldNat]
  · rw [if_neg (by omega), State.reg_modLane_wr]
    exact fieldNat_hardSet hl hf same (s.reg l a)

/-! ### The blocks whose registers have no action of their own -/

/-- The blocks EVT, SPX, SEC, TRK and HST by the upper half of their addresses. -/
def plainReadBlocks : List Nat := [0x4005, 0x4006, 0x4007, 0x4009, 0x4013]

theorem plainReadBlocks_bounds {a : Nat} (h : a / 0x10000 ∈ plainReadBlocks) :
    (0x40050000 ≤ a ∧ a < 0x40080000) ∨ (0x40090000 ≤ a ∧ a < 0x400A0000) ∨ (0x40130000 ≤ a ∧ a < 0x40140000) := by
  simp only [plainReadBlocks, List.mem_cons, List.not_mem_nil, or_false] at h
  omega

theorem inBlocks_of_plainReadBlocks {a : Nat} (h4 : a % 4 = 0) (h : a / 0x10000 ∈ plainReadBlocks) :
    inBlocks a = true := by
  have hb := plainReadBlocks_bounds h
  simp only [inBlocks, Bool.and_eq_true, decide_eq_true_eq, beq_iff_eq]
  omega

theorem laidOut_plainReadBlocks {a : Nat} (h : a / 0x10000 ∈ plainReadBlocks) : laidOut (laneFlds a) = true := by
  apply laidOut_laneFlds
  simp only [plainReadBlocks, List.mem_cons, List.not_mem_nil, or_false] at h
  unfold blockRegs
  rcases h with h | h | h | h | h <;> rw [h] <;> decide

/-- A write in EVT, SPX, TRK but for TRK.CTRL, or HST is a write under the access codes alone. -/
theorem State.busWrite_plain (s : State) (l : LaneId) (c : Nat) {a : Nat} (v : Word)
    (h : a / 0x10000 ∈ [0x4005, 0x4006, 0x4009, 0x4013]) (hc : a ≠ 0x40090000) :
    s.busWrite l c a v = s.plainW l a v := by
  simp only [List.mem_cons, List.not_mem_nil, or_false] at h
  unfold State.busWrite
  rcases h with h | h | h | h <;> rw [h]
  · rfl
  · rfl
  · simp only [if_neg hc]
    rfl
  · rfl

/-- A read in EVT, SPX, SEC, TRK or HST clears the RC fields alone. -/
theorem State.busRead_plain (s : State) (l : LaneId) (c : Nat) {a : Nat} (h : a / 0x10000 ∈ plainReadBlocks) :
    (s.busRead l c a).2 = s.modLane l (fun L => L.plainAfter a) := by
  have hb := plainReadBlocks_bounds h
  have hconf : isConflictCount a = false := by
    simp only [isConflictCount, Bool.and_eq_false_iff, decide_eq_false_iff_not]
    omega
  have hafter : ∀ L : Lane, L.busAfter l c a = L.plainAfter a := by
    intro L
    unfold Lane.busAfter
    repeat rw [if_neg (by omega)]
  simp only [State.busRead, hconf, hafter, Bool.false_eq_true, if_false]

/-! ### The register commands -/

/-- A register write with the hardware's setting in the same cycle changes that register alone. -/
theorem OnlyLaneRegs.plainW_setSame (l : LaneId) {a : Nat} (v same : Word) (s : State)
    (h : a < 0x400F8000 ∨ 0x40100000 ≤ a) : OnlyLaneRegs l [a] s ((s.plainW l a v).setSame l a same) :=
  (OnlyLaneRegs.plainW l a v s).trans (OnlyLaneRegs.setSame l same (s.plainW l a v) h)

/-- What a field reads after a register write with the hardware's setting in the same cycle (R9, R10, R12). -/
theorem State.fieldNat_plainW_setSame (s : State) (l : LaneId) {a : Nat} (v same : Word) {f : Fld}
    (h : a < 0x400F8000 ∨ 0x40100000 ≤ a) (hl : laidOut (laneFlds a) = true) (hf : f ∈ laneFlds a) :
    fieldNat (((s.plainW l a v).setSame l a same).reg l a) f.lo f.w =
      if f.acc = .w1c then
        fieldNat (f.write (s.lane l).enrolled (s.reg l a) v (s.reg l a)) f.lo f.w ||| fieldNat same f.lo f.w
      else fieldNat (f.write (s.lane l).enrolled (s.reg l a) v (s.reg l a)) f.lo f.w := by
  rw [State.fieldNat_setSame _ _ _ h hl hf, State.reg_plainW, fieldNat_fldsWrite hl hf]

/-- R9, R10, R12: the register commands in the blocks whose registers have no action of their own. -/
theorem registersFollowTheirAccessCodes_claim : Sys2Proof.Claims.RegistersFollowTheirAccessCodes := by
  intro s l a v h f
  refine ⟨fun h4 hblk hctrl => ?_, fun h4 hblk => ?_⟩
  · have hr : a.toNat / 0x10000 ∈ plainReadBlocks := by
      simp only [plainReadBlocks, List.mem_cons, List.not_mem_nil, or_false] at hblk ⊢
      tauto
    have hb := plainReadBlocks_bounds hr
    refine ⟨(s.plainW l a.toNat v).setSame l a.toNat h, ?_, OnlyLaneRegs.plainW_setSame l v h s (by omega), fun hf => ?_⟩
    · show execRegisterWrite l a ⟨v, h⟩ s = _
      rw [execRegisterWrite, if_pos (inBlocks_of_plainReadBlocks h4 hr), State.busWrite_plain s l 0 v hblk hctrl]
    · have hl := laidOut_plainReadBlocks hr
      rw [State.fieldNat_plainW_setSame s l v h (by omega) hl hf, Fld.fieldNat_write (fits_of_laidOut hl hf)]
      cases f.acc with
      | rw =>
        cases f.lim with
        | none | some => rfl
      | ro | wo | w1c | w1s | rc | rwl => rfl
  · refine ⟨s.modLane l (fun L => L.plainAfter a.toNat), ?_, ?_, fun hf => ?_⟩
    · show execRcRead l a s = _
      rw [execRcRead, if_pos (inBlocks_of_plainReadBlocks h4 hblk), State.busRead_plain s l 0 hblk]
    · exact OnlyLaneRegs.modLane_wr l a.toNat s (fun L => fldsAfterRead (laneFlds a.toNat) (L.rd a.toNat))
    · rw [← fieldNat_fldsAfterRead (laidOut_plainReadBlocks hblk) hf]
      exact congrArg (fieldNat · f.lo f.w)
        (State.reg_modLane_wr s l a.toNat (fun L => fldsAfterRead (laneFlds a.toNat) (L.rd a.toNat)))

/-! ### Reads of the time -/

theorem Ctx.get_ltLatch_latch (x : Ctx) (i k : Nat) (v : Word) :
    Tab.get (x.latch i v).ltLatch 0 k = if k = i then v else Tab.get x.ltLatch 0 k := Tab.get_set ..

/-- What a read of GT_LO latches for the reading context: the high word of GNSS time and the tick, or zeros before any
mapping (R78, R93). -/
def Lane.gtLatch (L : Lane) (x : Ctx) : Ctx :=
  match L.gnssTime with
  | some g => ((x.latch 1 (hiWord (g % 2 ^ 64).toNat)).latch 2 (loWord L.lt)).latch 3 (hiWord L.lt)
  | none => ((x.latch 1 0).latch 2 0).latch 3 0

theorem Lane.readGtLo_snd (L : Lane) (c : Nat) : (L.readGtLo c).2 = L.modCtx c L.gtLatch := by
  unfold Lane.readGtLo Lane.gtLatch
  cases L.gnssTime <;> rfl

theorem Lane.readGtLo_fst_some {L : Lane} {g : Nat} (c : Nat) (h : L.gnssTime = some (g : Int)) (hg : g < 2 ^ 64) :
    (L.readGtLo c).1 = BitVec.ofNat 32 g := by
  have hn : ((g : Int) % 2 ^ 64).toNat = g := by omega
  simp only [Lane.readGtLo, h, hn, loWord]

theorem Lane.readGtLo_fst_none {L : Lane} (c : Nat) (h : L.gnssTime = none) : (L.readGtLo c).1 = 0 := by
  simp only [Lane.readGtLo, h]

/-- The latches of the time block that a context reads back (R93, R100). -/
theorem State.busWord_ltLatch (s : State) (l : LaneId) (c : Nat) :
    s.busWord l c 0x40020004 = Tab.get (s.ctxOf l c).ltLatch 0 0 ∧
    s.busWord l c 0x40020024 = Tab.get (s.ctxOf l c).ltLatch 0 1 ∧
    s.busWord l c 0x40020028 = Tab.get (s.ctxOf l c).ltLatch 0 2 ∧
    s.busWord l c 0x4002002C = Tab.get (s.ctxOf l c).ltLatch 0 3 := ⟨rfl, rfl, rfl, rfl⟩

/-- A read of GT_LO changes nothing of its context but the latches. -/
theorem Lane.gtLatch_rest (L : Lane) (x : Ctx) : { L.gtLatch x with ltLatch := [] } = { x with ltLatch := [] } := by
  unfold Lane.gtLatch
  cases L.gnssTime <;> rfl

/-- NOW_HI is no latch of GT_LO. -/
theorem Lane.gtLatch_now (L : Lane) (x : Ctx) : Tab.get (L.gtLatch x).ltLatch 0 0 = Tab.get x.ltLatch 0 0 := by
  unfold Lane.gtLatch
  cases L.gnssTime with
  | some | none => simp only [Ctx.get_ltLatch_latch]; rfl

theorem Lane.gtLatch_some {L : Lane} {g : Nat} (x : Ctx) (h : L.gnssTime = some (g : Int)) (hg : g < 2 ^ 64) :
    Tab.get (L.gtLatch x).ltLatch 0 1 = BitVec.ofNat 32 (g / 2 ^ 32) ∧
    Tab.get (L.gtLatch x).ltLatch 0 2 = BitVec.ofNat 32 L.lt ∧
    Tab.get (L.gtLatch x).ltLatch 0 3 = BitVec.ofNat 32 (L.lt / 2 ^ 32) := by
  have hn : ((g : Int) % 2 ^ 64).toNat = g := by omega
  simp only [Lane.gtLatch, h, hn, Ctx.get_ltLatch_latch]
  exact ⟨rfl, rfl, rfl⟩

theorem Lane.gtLatch_none {L : Lane} (x : Ctx) (h : L.gnssTime = none) :
    Tab.get (L.gtLatch x).ltLatch 0 1 = 0 ∧ Tab.get (L.gtLatch x).ltLatch 0 2 = 0 ∧
    Tab.get (L.gtLatch x).ltLatch 0 3 = 0 := by
  simp only [Lane.gtLatch, h, Ctx.get_ltLatch_latch]
  exact ⟨rfl, rfl, rfl⟩

/-- R93: a read of NOW_LO. -/
theorem nowLoRead_latches (s : State) (l : LaneId) (c : CtxNo) :
    ∃ t, exec (.nowLoRead l c) s = .next t ∧ OnlyCtx l c s t ∧
      t.busWord l c 0x40020004 = BitVec.ofNat 32 ((s.lane l).lt / 2 ^ 32) ∧
      (s.busRead l c 0x40020000).1 = BitVec.ofNat 32 (s.lane l).lt ∧
      { t.ctxOf l c with ltLatch := [] } = { s.ctxOf l c with ltLatch := [] } ∧
      ∀ i, 0 < i → Tab.get (t.ctxOf l c).ltLatch 0 i = Tab.get (s.ctxOf l c).ltLatch 0 i := by
  obtain ⟨hw, -⟩ := State.busWord_ltLatch
    (s.modLane l (fun L => L.modCtx c (fun x => x.latch 0 (hiWord (s.lane l).lt)))) l c
  refine ⟨s.modLane l (fun L => L.modCtx c (fun x => x.latch 0 (hiWord (s.lane l).lt))), ?_,
    OnlyCtx.modCtx l c s _, ?_, rfl, ?_, fun i hi => ?_⟩
  · rfl
  · rw [hw, State.ctxOf_modLane, Ctx.get_ltLatch_latch, if_pos rfl]
    rfl
  · rw [State.ctxOf_modLane]
    rfl
  · rw [State.ctxOf_modLane, Ctx.get_ltLatch_latch, if_neg (by omega)]

/-- R78, R93: a read of GT_LO. -/
theorem gtLoRead_latches (s : State) (l : LaneId) (c : CtxNo) :
    ∃ t, exec (.gtLoRead l c) s = .next t ∧ OnlyCtx l c s t ∧
      { t.ctxOf l c with ltLatch := [] } = { s.ctxOf l c with ltLatch := [] } ∧
      t.busWord l c 0x40020004 = s.busWord l c 0x40020004 ∧
      (∀ g : Nat, (s.lane l).gnssTime = some (g : Int) → g < 2 ^ 64 →
        (s.busRead l c 0x40020020).1 = BitVec.ofNat 32 g ∧
        t.busWord l c 0x40020024 = BitVec.ofNat 32 (g / 2 ^ 32) ∧
        t.busWord l c 0x40020028 = BitVec.ofNat 32 (s.lane l).lt ∧
        t.busWord l c 0x4002002C = BitVec.ofNat 32 ((s.lane l).lt / 2 ^ 32)) ∧
      ((s.lane l).gnssTime = none → (s.busRead l c 0x40020020).1 = 0 ∧ t.busWord l c 0x40020024 = 0 ∧
        t.busWord l c 0x40020028 = 0 ∧ t.busWord l c 0x4002002C = 0) := by
  have hval : (s.busRead l c 0x40020020).1 = ((s.lane l).readGtLo c).1 := rfl
  have hexec : exec (.gtLoRead l c) s = .next (s.modLane l (fun L => L.modCtx c (s.lane l).gtLatch)) :=
    congrArg (fun L => Host.Outcome.next (s.setLane l L)) ((s.lane l).readGtLo_snd c)
  obtain ⟨h0, h1, h2, h3⟩ := State.busWord_ltLatch (s.modLane l (fun L => L.modCtx c (s.lane l).gtLatch)) l c
  rw [State.ctxOf_modLane] at h0 h1 h2 h3
  refine ⟨_, hexec, OnlyCtx.modCtx l c s _, ?_, ?_, fun g hg hlt => ?_, fun hn => ?_⟩
  · rw [State.ctxOf_modLane]
    exact (s.lane l).gtLatch_rest (s.ctxOf l c)
  · rw [h0, Lane.gtLatch_now]
    exact (State.busWord_ltLatch s l c).1.symm
  · rw [h1, h2, h3, hval]
    exact ⟨Lane.readGtLo_fst_some c hg hlt, Lane.gtLatch_some (s.ctxOf l c) hg hlt⟩
  · rw [h1, h2, h3, hval]
    exact ⟨Lane.readGtLo_fst_none c hn, Lane.gtLatch_none (s.ctxOf l c) hn⟩

/-- Settles O27: the fields of a register lie apart, so that a write and a clearing read act on each of them alone; the
reads of the time latch words of the same tick for their context. -/
theorem registersFollowTheirAccessCodes : Obligations.RegistersFollowTheirAccessCodes :=
  ⟨registersFollowTheirAccessCodes_claim, fun s l c => ⟨nowLoRead_latches s l c, gtLoRead_latches s l c⟩⟩

end Sys2Proof.Machine
end

section
/-!
SUPPORT. The state after reset, part by part.
-/

namespace Sys2Proof.Machine

theorem PUnit.reset_off (b : Bool) : (PUnit.reset b).line = false ∧ (PUnit.reset b).gh = false ∧
    (PUnit.reset b).gl = false ∧ (PUnit.reset b).run = false := ⟨rfl, rfl, rfl, rfl⟩

/-- Both lanes start from the reset lane; they differ in the seed of the free values alone. -/
theorem State.lane_reset (l : LaneId) :
    State.reset.lane l = { Lane.reset with free := if l = .b then 0x800000 else 0 } := by
  cases l <;> rfl

theorem State.ctxOf_reset (l : LaneId) (c : Nat) : State.reset.ctxOf l c = Ctx.reset := by
  rw [State.ctxOf, State.lane_reset]
  rfl

/-- Every x register of a context that was never written reads 0. -/
theorem Ctx.rx_reset (r : Nat) : Ctx.reset.rx r = 0 := by
  unfold Ctx.rx
  split <;> rfl

/-- No byte of SRAM and no byte of flash is listed after reset. -/
theorem State.memory_reset (l : LaneId) (a : Nat) :
    State.reset.byte l a = 0 ∧ Flash.get (State.reset.lane l).flash a = 0xFF := by
  rw [State.byte, State.lane_reset]
  exact ⟨rfl, rfl⟩

/-- Every register of a lane holds its reset value (R11). -/
theorem State.reg_reset (l : LaneId) (a : Nat) : State.reset.reg l a = fldsReset (laneFlds a) := by
  rw [State.reg, State.lane_reset]
  rfl

/-- Settles O3: every table of the reset state is empty, so each read gives the table's default, which is the reset
value of what it holds. -/
theorem resetLeavesTheModuleAtRest : Obligations.ResetLeavesTheModuleAtRest := by
  have units : ∀ u, State.reset.die.unit u = PUnit.reset (isBridge u) := fun _ => rfl
  have switches : ∀ n, State.reset.die.swt n = Sw.reset := fun _ => rfl
  refine ⟨rfl, rfl, rfl, rfl, rfl, rfl, rfl, fun _ => rfl, fun u => ?_, fun n => ?_, fun l => ⟨?_, ?_, ?_, fun c => ?_, ?_⟩,
    State.reg_reset, fun _ => rfl⟩
  · rw [units]
    exact PUnit.reset_off (isBridge u)
  · rw [switches]
    exact ⟨rfl, rfl⟩
  · rw [State.lane_reset]
    rfl
  · rw [State.lane_reset]
    rfl
  · rw [State.lane_reset]
    rfl
  · rw [State.ctxOf_reset]
    exact ⟨rfl, Ctx.rx_reset, rfl⟩
  · exact State.memory_reset l

end Sys2Proof.Machine
end

