-- ==== Sys2Proof/Proofs/StepFront.lean ====
section
/-!
SUPPORT. A step and the queue of commands.
-/

namespace Sys2Proof.Machine

/-- Settles O1: with a command in front `step` is `exec` on the queue's rest, and the table of words spells no command. -/
theorem stepRunsTheFrontCommand : Obligations.StepRunsTheFrontCommand := by
  unfold Obligations.StepRunsTheFrontCommand
  refine ⟨fun s c rest h => ?_, fun s c => rfl, fun s nbits w => ⟨rfl, rfl⟩⟩
  rw [step, h]

end Sys2Proof.Machine
end

