-- ==== Sys2Proof/Proofs/Changes.lean ====
section
/-!
SUPPORT. What a change of one lane's register or a raised event leaves behind.
-/

namespace Sys2Proof.Machine

theorem Lane.flag_setFlag_self (L : Lane) (a : Nat) {i : Nat} (b : Bool) (h : i < 32) :
    (L.setFlag a i b).flag a i = b := by
  rw [Lane.flag, Lane.rd_setFlag, if_pos rfl, bitOf_setBit _ _ _ _ h, if_pos rfl]

theorem Lane.rd_setFlag_ne (L : Lane) {a k : Nat} (i : Nat) (b : Bool) (h : a ≠ k) :
    (L.setFlag k i b).rd a = L.rd a := by rw [Lane.rd_setFlag, if_neg h]

@[simp] theorem Two.get_set_self {α : Type} (p : Two α) (l : LaneId) (x : α) : (p.set l x).get l = x := by
  cases l <;> rfl
@[simp] theorem Two.get_other_set {α : Type} (p : Two α) (l : LaneId) (x : α) :
    (p.set l x).get (other l) = p.get (other l) := by
  cases l <;> rfl

theorem OnlyRegs.setFlag {l : LaneId} {a i : Nat} {b : Bool} {L : Lane} {s t : State}
    (h : t.lane l = L.setFlag a i b) (hL : ∀ k, L.rd k = (s.lane l).rd k) : OnlyRegs l [a] s t := by
  intro k hk
  rw [State.reg, h, Lane.rd_setFlag_ne L i b (by simpa using hk), hL]; rfl

theorem SameMemory.of_lane {l : LaneId} {s t : State} (h : (t.lane l).sram = (s.lane l).sram)
    (k : (t.lane l).flash = (s.lane l).flash) : SameMemory l s t :=
  ⟨fun a => by rw [State.byte, h, State.byte], k⟩

/-! ### What an event leaves behind -/

theorem Lane.bitAt_post {L : Lane} {n : Nat} (h : L.halted = true ∨ L.waiting 2 n = []) :
    (L.post n).bitAt 0x40030040 n = true := by
  have hw : (if L.halted then [] else L.waiting 2 n) = [] := by
    rcases h with h | h
    · rw [h, if_pos rfl]
    · rw [h, ite_self]
  rw [Lane.post, hw]
  exact Lane.flag_setFlag_self L _ true (Nat.mod_lt n (by decide))

theorem Lane.ev_finishAll (L : Lane) (cs : List Nat) (v : Word) :
    (cs.foldl (fun M c => M.finishWait c v) L).ev = L.ev := by
  induction cs generalizing L with
  | nil => rfl
  | cons c cs ih => rw [List.foldl_cons, ih]; rfl

theorem Lane.ev_post (L : Lane) (n : Nat) : (L.post n).ev = L.ev := by
  unfold Lane.post
  generalize (if L.halted then [] else L.waiting 2 n) = ws
  cases ws with
  | nil => rfl
  | cons c cs => exact Lane.ev_finishAll L (c :: cs) 0

/-- An event that the host's mask lets through joins a queue that has room. -/
theorem Lane.q_enqueue {L : Lane} {n : Nat} (d0 d1 : Nat) (d2 : Word)
    (hm : bitOf (L.rd (0x40050000 + 4 * (n / 32))) (n % 32) = true) (hq : L.ev.q.length < 256) :
    (L.enqueue n d0 d1 d2).ev.q = putEntry L.ev.q ⟨n, L.ev.lost, d0 % 256, d1 % 65536, d2, L.lt⟩ := by
  rw [Lane.enqueue, if_pos hm]
  exact congrArg (fun M : Lane => M.ev.q) (if_neg (by simpa using hq))

theorem mem_evRegs_of_lt {n : Nat} (h : n < 160) : 0x40030040 + 4 * (n / 32) ∈ evRegs := by
  have : n / 32 < 5 := by omega
  generalize n / 32 = k at this
  interval_cases k <;> decide

/-- Registers of a lane, beside those an event changes, keep their value. -/
theorem Lane.rd_raise_of_notMem (L : Lane) {n a : Nat} (d0 d1 : Nat) (d2 : Word) (hn : n < 160) (ha : a ∉ evRegs) :
    (L.raise n d0 d1 d2).rd a = L.rd a :=
  Lane.rd_raise L n d0 d1 a d2 (fun h => ha (h ▸ mem_evRegs_of_lt hn)) (fun h => ha (h ▸ by decide))

/-- What `Raises` and `Pends` ask for, of a lane alone. -/
theorem Lane.raise_raises (L : Lane) {n : Nat} (d0 d1 : Nat) (d2 : Word) (hn : n < 160) (ha : L.alive = true) :
    (L.halted = true ∨ L.waiting 2 n = [] → (L.raise n d0 d1 d2).bitAt 0x40030040 n = true) ∧
    (bitOf (L.rd (0x40050000 + 4 * (n / 32))) (n % 32) = true → L.ev.q.length < 256 →
      (L.raise n d0 d1 d2).ev.q = putEntry L.ev.q ⟨n, L.ev.lost, d0 % 256, d1 % 65536, d2, L.lt⟩) := by
  rw [Lane.raise, if_pos ha]
  refine ⟨fun h => ?_, fun hm hq => ?_⟩
  · rw [Lane.bitAt, Lane.flag, Lane.rd_enqueue _ _ _ _ _ _ (by omega)]
    exact Lane.bitAt_post h
  · have hr : (L.post n).rd (0x40050000 + 4 * (n / 32)) = L.rd (0x40050000 + 4 * (n / 32)) :=
      Lane.rd_post L n _ (by omega)
    have hl : (L.post n).lt = L.lt := Lane.sameBulk_lt (Lane.sameBulk_post L n)
    have he := Lane.q_enqueue (L := L.post n) d0 d1 d2 (by rwa [hr]) (by rwa [Lane.ev_post])
    rwa [Lane.ev_post, hl] at he

/-- Raising an event on one lane is all that `RaisesOnly` says. -/
theorem RaisesOnly.modLane_raise (l : LaneId) {n : Nat} (d0 d1 : Nat) (d2 : Word) (s : State) (hn : n < 160) :
    RaisesOnly l n d0 d1 d2 [] s (s.modLane l (fun L => L.raise n d0 d1 d2)) := by
  refine ⟨OnlyLane.modLane l s _, ?_, fun a ha => ?_, fun h => ?_⟩
  · rw [SameBulk, State.lane_modLane]
    exact Lane.sameBulk_raise ..
  · rw [State.reg, State.lane_modLane]
    exact Lane.rd_raise_of_notMem _ _ _ _ hn ha
  · rw [State.lane_modLane]
    exact Lane.raise_raises _ _ _ _ hn h

end Sys2Proof.Machine
end

