-- ==== Sys2Proof/Proofs/LaneViews.lean ====
section
/-!
SUPPORT. The lane link and the lanes' views of ownership.
-/

namespace Sys2Proof.Machine

/-! ### The lane link -/

theorem laneLinkDown_clears (s : State) (l : LaneId) :
    ∃ t, exec .laneLinkDown s = .next t ∧ t.laneLink = false ∧ t.die = s.die ∧ t.rind = s.rind ∧
      t.peerOk l = false ∧ (t.lane l).flag 0x40140004 3 = false ∧
      (t.lane l).time.peerGood = 0 ∧ OnlyRegs l [0x40140004] s t ∧ SameMemory l s t := by
  refine ⟨_, rfl, rfl, rfl, rfl, rfl, ?_, ?_, ?_, ?_⟩
  · rw [State.lane_bothLanes]
    exact Lane.flag_setFlag_self _ _ _ (by decide)
  · rw [State.lane_bothLanes]
    rfl
  · refine OnlyRegs.setFlag (State.lane_bothLanes ..) fun k => ?_
    cases l <;> rfl
  · refine SameMemory.of_lane ?_ ?_ <;> rw [State.lane_bothLanes] <;> cases l <;> rfl

theorem laneLinkUp_sets (s : State) (l : LaneId) :
    ∃ t, exec .laneLinkUp s = .next t ∧ t.laneLink = (s.laneA.alive && s.laneB.alive) ∧ t.die = s.die ∧
      t.rind = s.rind ∧ (t.lane l).flag 0x40140004 3 = (s.laneA.alive && s.laneB.alive) ∧
      OnlyRegs l [0x40140004] s t ∧ SameMemory l s t := by
  refine ⟨_, rfl, rfl, rfl, rfl, ?_, ?_, ?_⟩
  · rw [State.lane_bothLanes]
    exact Lane.flag_setFlag_self _ _ _ (by decide)
  · refine OnlyRegs.setFlag (State.lane_bothLanes ..) fun k => ?_
    cases l <;> rfl
  · refine SameMemory.of_lane ?_ ?_ <;> rw [State.lane_bothLanes] <;> cases l <;> rfl


/-- Handing over edges to the partner leaves none unsent and notes whether the configurations match. -/
def Lane.mirrorSent (same : Bool) (L : Lane) : Lane :=
  { L with spx := { L.spx with unsent := [] } }.setFlag 0x40140004 4 same

/-- What lane `L` takes over from the active lane `A` in the mirror's millisecond. -/
def Lane.mirrorTaken (A L : Lane) : Lane :=
  { L.takeMirror A.spx.unsent with time := { L.time with
    map := if L.time.map.isNone then A.time.map else L.time.map
    rate := A.time.rate } }

theorem execLaneLinkMirror_eq {s : State} {l : LaneId} (hk : s.laneLink = true) (ha : s.laneA.alive = true)
    (hb : s.laneB.alive = true) (hc : s.control = some l) :
    execLaneLinkMirror s =
      .next ((s.modLane (other l) (Lane.mirrorTaken (s.lane l))).bothLanes (Lane.mirrorSent s.same)) := by
  rw [execLaneLinkMirror, hk, ha, hb, hc]
  rfl

/-- An edge in a mirror keeps channel, instant and level of the edge sent. -/
theorem Lane.takeMirror_edges (L : Lane) (hs : List EdgeH) :
    (L.takeMirror hs).spx.mirror.map (fun h => (h.ch, h.at_, h.level)) =
      (L.spx.mirror ++ hs).map (fun h => (h.ch, h.at_, h.level)) := by
  rw [Lane.takeMirror, List.map_append, List.map_append, List.map_map]
  congr 1
  refine List.map_congr_left fun h _ => ?_
  dsimp only [Function.comp_apply]
  split <;> rfl

theorem laneLinkMirror_carries {s : State} {l : LaneId} (hk : s.laneLink = true) (ha : s.laneA.alive = true)
    (hb : s.laneB.alive = true) (hc : s.control = some l) :
    ∃ t, exec .laneLinkMirror s = .next t ∧ t.die = s.die ∧ t.rind = s.rind ∧
      (∀ m, (t.lane m).spx.unsent = [] ∧ (t.lane m).flag 0x40140004 4 = s.same ∧
        OnlyRegs m [0x40140004] s t ∧ SameMemory m s t) ∧
      (t.lane l).spx.mirror = (s.lane l).spx.mirror ∧
      ((t.lane (other l)).spx.mirror.map (fun h => (h.ch, h.at_, h.level))) =
        ((s.lane (other l)).spx.mirror ++ (s.lane l).spx.unsent).map (fun h => (h.ch, h.at_, h.level)) ∧
      (s.lane (other l)).time.map.or (s.lane l).time.map = (t.lane (other l)).time.map := by
  have hl : ∀ f g, ((s.modLane (other l) f).bothLanes g).lane l = g (s.lane l) := fun f g => by
    rw [State.lane_bothLanes, State.modLane, State.lane_setLane_ne _ _ (ne_other l)]
  have ho : ∀ f g, ((s.modLane (other l) f).bothLanes g).lane (other l) = g (f (s.lane (other l))) := fun f g => by
    rw [State.lane_bothLanes, State.lane_modLane]
  refine ⟨_, execLaneLinkMirror_eq hk ha hb hc, by rw [State.die_bothLanes, State.die_modLane],
    by rw [State.rind_bothLanes, State.rind_modLane], fun m => ?_, ?_, ?_, ?_⟩
  · obtain rfl | rfl : m = l ∨ m = other l := by cases m <;> cases l <;> decide
    · refine ⟨?_, ?_, OnlyRegs.setFlag (hl ..) fun _ => rfl, SameMemory.of_lane ?_ ?_⟩ <;> rw [hl]
      · rfl
      · exact Lane.flag_setFlag_self _ _ _ (by decide)
      · rfl
      · rfl
    · refine ⟨?_, ?_, OnlyRegs.setFlag (ho ..) fun _ => rfl, SameMemory.of_lane ?_ ?_⟩ <;> rw [ho]
      · rfl
      · exact Lane.flag_setFlag_self _ _ _ (by decide)
      · rfl
      · rfl
  · rw [hl]
    rfl
  · rw [ho]
    exact Lane.takeMirror_edges ..
  · rw [ho]
    show _ = if (s.lane (other l)).time.map.isNone then (s.lane l).time.map else (s.lane (other l)).time.map
    cases (s.lane (other l)).time.map <;> rfl

/-! ### Views of ownership -/

/-- The view a lane takes from the register (R539). -/
def State.viewNow (s : State) : View := View.mk s.rind.act s.rind.none_ (s.rind.fld 0x10 16 16) s.rind.steer

theorem State.isActive_iff (s : State) (l : LaneId) : s.isActive l = true ↔ s.control = some l := by
  rw [State.isActive, beq_iff_eq]

/-- A view's record of who is active, as the model compares it. -/
theorem View.mine_iff (v : View) (l : LaneId) : (!v.none_ && v.act == l) = true ↔ v.none_ = false ∧ v.act = l := by
  rw [Bool.and_eq_true, Bool.not_eq_true', beq_iff_eq]

theorem State.isActive_viewNow (s : State) (l : LaneId) :
    (!s.viewNow.none_ && s.viewNow.act == l) = s.isActive l := by
  rw [Bool.eq_iff_iff, View.mine_iff, State.isActive_iff, State.control]
  show s.rind.none_ = false ∧ s.rind.act = l ↔ _
  cases s.rind.none_ with
  | false => simp
  | true => simp

theorem firstWhere_range {p : Nat → Bool} {n u : Nat} (hu : u < n) (hp : p u = true)
    (hlt : ∀ k, k < u → p k = false) :
    firstWhere p (List.range n) = some u := by
  rw [firstWhere, List.find?_range_eq_some]
  exact ⟨hp, List.mem_range.2 hu, fun k hk => by rw [hlt k hk]; rfl⟩

/-- A view that agrees with the register in every unit shows no unit that differs. -/
theorem firstWhere_steer_none (s : State) (us : List Nat) :
    firstWhere (fun u => Tab.get s.rind.steer 0 u != s.steer u) us = none := by
  rw [firstWhere, List.find?_eq_none]
  intro u _
  rw [State.steer, bne_self_eq_false]
  decide

theorem ownershipDisagree_role {s : State} {l : LaneId}
    (h : ((s.lane l).host.view.none_ = false ∧ (s.lane l).host.view.act = l) ∧ s.control ≠ some l ∨
      ¬((s.lane l).host.view.none_ = false ∧ (s.lane l).host.view.act = l) ∧ s.control = some l) :
    ∃ t, exec (.ownershipDisagree l) s = .next t ∧
      RaisesOnly l 86 1 0 (BitVec.ofNat 32 (s.rind.fld 0x10 16 16)) [] s t := by
  refine ⟨_, ?_, RaisesOnly.modLane_raise l 1 0 _ s (by decide)⟩
  show execOwnershipDisagree l s = _
  rw [execOwnershipDisagree]
  refine congrArg _ (if_pos ?_)
  rw [bne_iff_ne, Ne, Bool.eq_iff_iff, View.mine_iff, State.isActive_iff]
  tauto

theorem execOwnershipDisagree_agreed {s : State} {l : LaneId}
    (h : (!(s.lane l).host.view.none_ && (s.lane l).host.view.act == l) = s.isActive l) :
    execOwnershipDisagree l s =
      .next (match firstWhere (fun u => Tab.get (s.lane l).host.view.steer 0 u != s.steer u) (List.range 232) with
        | some u => s.modLane l (fun L => L.raise 86 2 u (BitVec.ofNat 32 (s.rind.fld 0x10 16 16)))
        | none => s) := by
  rw [execOwnershipDisagree]
  refine congrArg _ ((if_neg ?_).trans ?_)
  · rw [h, bne_self_eq_false]
    decide
  · rfl

theorem ownershipDisagree_unit {s : State} {l : LaneId} {u : Nat}
    (h : ((s.lane l).host.view.none_ = false ∧ (s.lane l).host.view.act = l) ↔ s.control = some l)
    (hu : u < 232) (hne : Tab.get (s.lane l).host.view.steer 0 u ≠ s.steer u)
    (hlt : ∀ k, k < u → Tab.get (s.lane l).host.view.steer 0 k = s.steer k) :
    ∃ t, exec (.ownershipDisagree l) s = .next t ∧
      RaisesOnly l 86 2 u (BitVec.ofNat 32 (s.rind.fld 0x10 16 16)) [] s t := by
  refine ⟨_, ?_, RaisesOnly.modLane_raise l 2 u _ s (by decide)⟩
  show execOwnershipDisagree l s = _
  rw [execOwnershipDisagree_agreed (by rw [Bool.eq_iff_iff, View.mine_iff, State.isActive_iff]; exact h),
    firstWhere_range hu (by simpa using hne) fun k hk => by simpa using hlt k hk]

theorem execOwnershipDisagree_settled {s : State} {l : LaneId} (hv : (s.lane l).host.view = s.viewNow) :
    execOwnershipDisagree l s = .next s := by
  rw [execOwnershipDisagree_agreed (by rw [hv]; exact State.isActive_viewNow s l), hv,
    show firstWhere (fun u => Tab.get s.viewNow.steer 0 u != s.steer u) (List.range 232) = none from
      firstWhere_steer_none s _]

/-- What a lane does with a view of the register: one out of reset takes it over. -/
def Lane.adopt (v : View) (L : Lane) : Lane := if L.alive then L.modHost (fun h => { h with view := v }) else L

theorem Lane.adopt_alive {L : Lane} (v : View) (h : L.alive = true) :
    L.adopt v = { L with host := { L.host with view := v } } := if_pos h

theorem ownershipViewAdopt_settles {s : State} {l : LaneId} (ha : (s.lane l).alive = true) :
    ∃ t, exec (.ownershipViewAdopt l) s = .next t ∧ OnlyLane l s t ∧ (t.lane l).regs = (s.lane l).regs ∧
      SameMemory l s t ∧ (t.lane l).host.view = s.viewNow ∧ exec (.ownershipDisagree l) t = .next t := by
  have hl : (s.modLane l (Lane.adopt s.viewNow)).lane l =
      { s.lane l with host := { (s.lane l).host with view := s.viewNow } } := by
    rw [State.lane_modLane, Lane.adopt_alive _ ha]
  have hr : (s.modLane l (Lane.adopt s.viewNow)).viewNow = s.viewNow := by
    rw [State.viewNow, State.rind_modLane]; rfl
  have hv : ((s.modLane l (Lane.adopt s.viewNow)).lane l).host.view = s.viewNow := by rw [hl]
  refine ⟨s.modLane l (Lane.adopt s.viewNow), rfl, OnlyLane.modLane .., ?_, SameMemory.of_lane ?_ ?_, hv,
    execOwnershipDisagree_settled (hv.trans hr.symm)⟩ <;> rw [hl]

/-- Settles O39 from the link's three commands and the two on the view. -/
theorem lanesShareTheirViews : Obligations.LanesShareTheirViews := by
  intro s l
  refine ⟨laneLinkDown_clears s l, laneLinkUp_sets s l, laneLinkMirror_carries, fun h => ?_,
    ownershipViewAdopt_settles, ownershipDisagree_role, fun u h hu => ownershipDisagree_unit h hu⟩
  show execLaneLinkMirror s = _
  rw [execLaneLinkMirror, h]
  rfl

end Sys2Proof.Machine
end

