-- ==== Sys2Proof/Proofs/SwitchLinks.lean ====
section
/-!
SUPPORT. The switch links: frames, stamps at arrival, and the loss of a link.
-/

namespace Sys2Proof.Machine

/-! ### Frames of a switch link -/

theorem execSwitchLinkFrame_crc {s : State} {l : LaneId} (toDie : Bool) (h : (s.lane l).linkUp = true) :
    execSwitchLinkFrame l toDie false s = .next (s.modLane l (fun L => L.setFlag 0x400F0040 2 true)) := by
  rw [execSwitchLinkFrame, h]
  rfl

theorem execSwitchLinkFrame_down {s : State} {l : LaneId} (toDie crcOk : Bool) (h : (s.lane l).linkUp = false) :
    execSwitchLinkFrame l toDie crcOk s = .next s := by
  rw [execSwitchLinkFrame, h]
  rfl

theorem execSwitchLinkFrame_empty {s : State} {l : LaneId} (h : (s.lane l).link = []) :
    execSwitchLinkFrame l true true s = .next s := by
  rw [execSwitchLinkFrame, h]
  cases (s.lane l).linkUp <;> rfl

/-- The oldest command of the link leaves it and arrives at its port. -/
theorem execSwitchLinkFrame_cmd {s : State} {l : LaneId} {c : PulseCmd} {rest : List LinkMsg}
    (hu : (s.lane l).linkUp = true) (h : (s.lane l).link = .cmd c :: rest) :
    execSwitchLinkFrame l true true s =
      .next ((s.modLane l (fun L => { L with link := rest })).arriveCmd l c) := by
  rw [execSwitchLinkFrame, h, hu]
  rfl

/-- The port's unit is frozen by a debug halt of the lane that steers it (R421). -/
def State.frozenFor (s : State) (l : LaneId) (u : Nat) : Bool := (s.die.unit u).frozen && s.steer u == laneNo l

theorem State.frozenFor_modLane (s : State) (l m : LaneId) (f : Lane → Lane) (u : Nat) :
    (s.modLane m f).frozenFor l u = s.frozenFor l u := by
  rw [State.frozenFor, State.die_modLane, State.steer, State.rind_modLane]
  rfl

theorem State.arriveCmd_stored {s : State} {l : LaneId} {c : PulseCmd} (h : s.frozenFor l c.unit = false) :
    s.arriveCmd l c =
      s.modDie (fun d => { d with cmds := d.cmds.set l (d.cmds.get l ++ [c.arrive d.replica]) }) :=
  if_neg (by rw [← State.frozenFor, h]; decide)

theorem State.arriveCmd_discarded {s : State} {l : LaneId} {c : PulseCmd} (h : s.frozenFor l c.unit = true) :
    s.arriveCmd l c = s.modLane l (fun L => L.bump (if isBridge c.unit then 0x400E0014 else 0x400D0014)) :=
  if_pos h

theorem switchLinkFrame_stores {s : State} {l : LaneId} {c : PulseCmd} {rest : List LinkMsg}
    (hu : (s.lane l).linkUp = true) (h : (s.lane l).link = .cmd c :: rest) (hf : s.frozenFor l c.unit = false) :
    ∃ t, exec (.switchLinkFrame l true true) s = .next t ∧ t.lane l = { s.lane l with link := rest } ∧
      t.lane (other l) = s.lane (other l) ∧ t.rind = s.rind ∧
      t.die.cmds.get l = s.die.cmds.get l ++ [c.arrive s.die.replica] ∧
      { t.die with cmds := s.die.cmds } = s.die := by
  refine ⟨_, execSwitchLinkFrame_cmd hu h, ?_⟩
  rw [State.arriveCmd_stored (by rw [State.frozenFor_modLane, hf]), State.lane_modDie, State.lane_modDie,
    State.lane_modLane, State.lane_other_modLane, State.rind_modDie, State.rind_modLane]
  refine ⟨rfl, rfl, rfl, ?_, ?_⟩ <;> rw [State.die_modDie, State.die_modLane]
  exact Two.get_set_self ..

theorem switchLinkFrame_discards {s : State} {l : LaneId} {c : PulseCmd} {rest : List LinkMsg}
    (hu : (s.lane l).linkUp = true) (h : (s.lane l).link = .cmd c :: rest) (hf : s.frozenFor l c.unit = true) :
    ∃ t, exec (.switchLinkFrame l true true) s = .next t ∧ OnlyLane l s t ∧ (t.lane l).link = rest ∧
      OnlyRegs l [0x400E0014, 0x400D0014] s t := by
  refine ⟨_, execSwitchLinkFrame_cmd hu h, ?_⟩
  rw [State.arriveCmd_discarded (by rw [State.frozenFor_modLane, hf])]
  refine ⟨(OnlyLane.modLane ..).trans (OnlyLane.modLane ..), ?_, fun a ha => ?_⟩
  · rw [State.lane_modLane, State.lane_modLane]
    rfl
  · rw [State.reg, State.lane_modLane, State.lane_modLane, Lane.rd_bump, if_neg]
    · rfl
    · rintro rfl
      revert ha
      cases isBridge c.unit <;> decide

/-! ### The stamp of a level command -/

theorem PulseCmd.arrive_level {c : PulseCmd} {a : Bool} (h : c.act = .level a) (now : Nat) :
    c.arrive now =
      if c.at_ < now then { c with at_ := (now / 100 + 1) * 100, late := some c.at_ } else c := by
  rw [PulseCmd.arrive, h]

theorem PulseCmd.arrive_late {c : PulseCmd} {a : Bool} {now : Nat} (h : c.act = .level a) (hn : c.at_ < now) :
    (c.arrive now).late = some c.at_ ∧ now < (c.arrive now).at_ ∧ (c.arrive now).at_ % 100 = 0 ∧
      (c.arrive now).at_ ≤ now + 100 := by
  rw [PulseCmd.arrive_level h, if_pos hn]
  refine ⟨rfl, ?_, ?_, ?_⟩ <;> dsimp only <;> omega

/-! ### The link goes down -/

/-- What the loss of the link does to one entry of the queue of edges (R174): a pending one whose time has not passed
resolves as a silent drain. -/
def Lane.dropPending (L : Lane) (e : Nat) : Lane :=
  if (L.ent e).st = 1 ∧ L.lt ≤ (L.ent e).at_ then
    ((L.markEdge (mkHandle e (L.ent e).gen) 7).freeEnt e 3).bump 0x40060010
  else L

theorem Lane.spxLinkDown_eq (L : Lane) : L.spxLinkDown =
    { (List.range 1024).foldl Lane.dropPending L with
      spx := { ((List.range 1024).foldl Lane.dropPending L).spx with cancels := [] } } := by
  rw [Lane.spxLinkDown]
  generalize List.range 1024 = es
  rfl

/-- What the loss of the link leaves of a lane: its time, its memory, its frames and the link's status. -/
structure LinkFrame (L M : Lane) : Prop where
  lt : M.lt = L.lt
  sram : M.sram = L.sram
  link : M.link = L.link
  stat : M.rd 0x400F0040 = L.rd 0x400F0040

theorem LinkFrame.refl (L : Lane) : LinkFrame L L := ⟨rfl, rfl, rfl, rfl⟩

theorem LinkFrame.trans {L M N : Lane} (h : LinkFrame L M) (k : LinkFrame M N) : LinkFrame L N :=
  ⟨k.lt.trans h.lt, k.sram.trans h.sram, k.link.trans h.link, k.stat.trans h.stat⟩

theorem LinkFrame.spx (L : Lane) (x : Spx) : LinkFrame L { L with spx := x } := ⟨rfl, rfl, rfl, rfl⟩

theorem LinkFrame.wr (L : Lane) {a : Nat} (v : Word) (h : a ≠ 0x400F0040) : LinkFrame L (L.wr a v) :=
  ⟨Lane.lt_wr .., Lane.sram_wr .., Lane.link_wr .., Lane.rd_wr_ne L v h.symm⟩

theorem LinkFrame.dropPending (L : Lane) (e : Nat) : LinkFrame L (L.dropPending e) := by
  rw [Lane.dropPending, Lane.bump, Lane.freeEnt, Lane.setFld, Lane.setEnt, Lane.markEdge, Lane.mapEdges]
  split
  · exact (LinkFrame.spx L _).trans ((LinkFrame.spx _ _).trans
      ((LinkFrame.wr _ _ (by decide)).trans (LinkFrame.wr _ _ (by decide))))
  · exact LinkFrame.refl L

theorem LinkFrame.foldl_dropPending (L : Lane) (es : List Nat) : LinkFrame L (es.foldl Lane.dropPending L) := by
  induction es generalizing L with
  | nil => exact LinkFrame.refl L
  | cons e es ih => exact (LinkFrame.dropPending L e).trans (ih _)

/-- Entry `k` is not pending before its time. -/
def Lane.ranOut (L : Lane) (k : Nat) : Prop := (L.ent k).st = 1 → (L.ent k).at_ < L.lt

theorem Lane.ent_dropPending (L : Lane) (e k : Nat) : (L.dropPending e).ent k =
    if k = e ∧ (L.ent e).st = 1 ∧ L.lt ≤ (L.ent e).at_ then { L.ent e with st := 0, res := 3, drainAt := none }
    else L.ent k := by
  rw [Lane.dropPending]
  by_cases h : (L.ent e).st = 1 ∧ L.lt ≤ (L.ent e).at_
  · rw [if_pos h]
    show Tab.get (Tab.set L.spx.ents CurdE.reset e _) CurdE.reset k = _
    rw [Tab.get_set]
    by_cases hk : k = e
    · rw [if_pos hk, if_pos ⟨hk, h⟩]
      rfl
    · rw [if_neg hk, if_neg fun c => hk c.1]
      rfl
  · rw [if_neg h, if_neg fun c => h c.2]

theorem Lane.ranOut_dropPending_self (L : Lane) (e : Nat) : (L.dropPending e).ranOut e := by
  intro h
  rw [Lane.ent_dropPending] at h ⊢
  rw [(LinkFrame.dropPending L e).lt]
  split at h
  · cases h
  · next hn => rw [if_neg hn]; omega

theorem Lane.ranOut_dropPending {L : Lane} {k : Nat} (e : Nat) (h : L.ranOut k) : (L.dropPending e).ranOut k := by
  intro hs
  rw [Lane.ent_dropPending] at hs ⊢
  rw [(LinkFrame.dropPending L e).lt]
  split at hs
  · cases hs
  · next hn => rw [if_neg hn]; exact h hs

theorem Lane.ranOut_foldl {L : Lane} {k : Nat} (es : List Nat) (h : k ∈ es ∨ L.ranOut k) :
    (es.foldl Lane.dropPending L).ranOut k := by
  induction es generalizing L with
  | nil => exact h.resolve_left (List.not_mem_nil)
  | cons e es ih =>
    refine ih ?_
    obtain h | h := h
    · obtain rfl | h := List.mem_cons.1 h
      · exact .inr (Lane.ranOut_dropPending_self L k)
      · exact .inl h
    · exact .inr (Lane.ranOut_dropPending e h)

/-- The lane with its link cut off, before the pending edges resolve. -/
def Lane.unlinked (L : Lane) : Lane := ({ L with link := [] }).setFlag 0x400F0040 0 false

/-- What the loss of the link makes of the lane: every entry has run out, and no cancel is under way. -/
theorem State.lane_spxLinkDown (s : State) (l : LaneId) : ∃ M,
    ((s.linkDown l).modLane l Lane.spxLinkDown).lane l = { M with spx := { M.spx with cancels := [] } } ∧
      LinkFrame (s.lane l).unlinked M ∧ ∀ e, e < 1024 → M.ranOut e := by
  refine ⟨(List.range 1024).foldl Lane.dropPending (s.lane l).unlinked, ?_, LinkFrame.foldl_dropPending _ _,
    fun e he => Lane.ranOut_foldl _ (.inl (List.mem_range.2 he))⟩
  rw [State.lane_modLane, State.linkDown, State.lane_modDie, State.lane_modLane, Lane.spxLinkDown_eq, Lane.unlinked]

theorem execSwitchLinkTrained_alive {s : State} {l : LaneId} (h : (s.lane l).alive = true) :
    execSwitchLinkTrained l s = .next (s.modLane l (fun L => L.setFlag 0x400F0040 0 true)) := congrArg _ (if_pos h)

theorem execSwitchLinkTrained_off {s : State} {l : LaneId} (h : (s.lane l).alive = false) :
    execSwitchLinkTrained l s = .next s := congrArg _ (if_neg (by rw [h]; decide))

theorem switchLinkDown_drops (s : State) (l : LaneId) :
    ∃ t, exec (.switchLinkDown l) s = .next t ∧ t.lane (other l) = s.lane (other l) ∧ t.rind = s.rind ∧
      (t.lane l).flag 0x400F0040 0 = false ∧ (t.lane l).link = [] ∧ (t.lane l).sram = (s.lane l).sram ∧
      (∀ m, m ∈ t.die.cmds.get l ↔ m ∈ s.die.cmds.get l ∧ (m.late ≠ none ∨ m.at_ ≤ s.die.replica)) ∧
      t.die.cmds.get (other l) = s.die.cmds.get (other l) ∧ { t.die with cmds := s.die.cmds } = s.die ∧
      (t.lane l).spx.cancels = [] ∧
      (∀ e, e < 1024 → ((t.lane l).ent e).st = 1 → ((t.lane l).ent e).at_ < (s.lane l).lt) := by
  obtain ⟨M, hM, frame, out⟩ := State.lane_spxLinkDown s l
  have die : ((s.linkDown l).modLane l Lane.spxLinkDown).die =
      { s.die with
        cmds := s.die.cmds.set l
          ((s.die.cmds.get l).filter (fun c => c.late.isSome || decide (c.at_ ≤ s.die.replica))) } := by
    rw [State.die_modLane, State.linkDown, State.die_modDie, State.die_modLane]
  refine ⟨_, rfl, ?_, ?_, ?_, ?_, ?_, fun m => ?_, ?_, ?_, ?_, fun e he => ?_⟩
  · rw [State.lane_other_modLane, State.linkDown, State.lane_modDie, State.lane_other_modLane]
  · rw [State.rind_modLane, State.linkDown, State.rind_modDie, State.rind_modLane]
  · rw [hM]
    exact (congrArg (bitOf · 0) frame.stat).trans (Lane.flag_setFlag_self _ _ _ (by decide))
  · rw [hM]
    exact frame.link
  · rw [hM]
    exact frame.sram
  · rw [die]
    dsimp only
    rw [Two.get_set_self, List.mem_filter, Bool.or_eq_true, Option.isSome_iff_ne_none, decide_eq_true_iff]
  · rw [die]
    exact Two.get_other_set ..
  · rw [die]
  · rw [hM]
  · rw [hM]
    intro h
    exact frame.lt ▸ out e he h

/-- Settles O50 from the link's frames, the stamp of a command that arrives, and the link's loss. -/
theorem switchLinksCarryFrames : Obligations.SwitchLinksCarryFrames := by
  intro s l toDie c rest
  refine ⟨fun hu => ⟨_, execSwitchLinkFrame_crc toDie hu, OnlyLaneRegs.modLane_wr .., ?_⟩,
    fun hd => ⟨execSwitchLinkFrame_down _ _ hd, execSwitchLinkFrame_down _ _ hd⟩, execSwitchLinkFrame_empty,
    switchLinkFrame_stores, switchLinkFrame_discards, fun a h hn => ?_, fun a h hn => PulseCmd.arrive_late h hn,
    fun ha => ⟨_, execSwitchLinkTrained_alive ha, OnlyLaneRegs.modLane_wr .., ?_⟩, execSwitchLinkTrained_off,
    switchLinkDown_drops s l⟩
  · rw [State.lane_modLane]
    exact Lane.flag_setFlag_self _ _ _ (by decide)
  · rw [PulseCmd.arrive_level h, if_neg (by omega)]
  · rw [State.lane_modLane]
    exact Lane.flag_setFlag_self _ _ _ (by decide)

end Sys2Proof.Machine
end

