-- ==== Sys2Proof/Proofs/DuePer.lean ====
section
/-!
SUPPORT. A register write of PER below the register's least value.
-/

namespace Sys2Proof.Machine

/-- A write of 0 to PER of channel 0, stored on lane A's port with a stamp that has come. -/
def zeroPer : PulseCmd := ⟨0, 0, 0, .reg (perAddr 0) 0, none, none⟩

/-- The module after reset with `zeroPer` as the one stored command. -/
def zeroPerStored : State := State.reset.modDie (fun d => { d with cmds := ⟨[zeroPer], []⟩ })

/-- The write applies: the command leaves the queue and the register's fields are written. -/
theorem execPulseRegisterApply_zeroPer : execPulseRegisterApply .a zeroPerStored =
    .next ((zeroPerStored.modDie (fun d => { d with cmds := d.cmds.set .a [] })).runCmd .a zeroPer) := by
  have h : zeroPerStored.takeDue .a true = some (zeroPer, []) := by decide
  rw [execPulseRegisterApply, h]

/-- PER of the port's image is clamped to its least value. -/
theorem image_zeroPer : fieldNat
    (((zeroPerStored.modDie (fun d => { d with cmds := d.cmds.set .a [] })).runCmd .a zeroPer).die.image .a
      (perAddr 0)) 0 20 = 20 := by
  decide

/-- Refutes O40: the clause on PER says that the port's image takes the field written, but the register holds 20 to
1048575 (R408) and a write of 0 leaves 20 in it. -/
theorem not_dueCommandsAndForces : ¬ Obligations.DueCommandsAndForces := by
  rintro ⟨execute, -⟩
  obtain ⟨-, -, -, -, writesPer, -⟩ := execute zeroPerStored .a zeroPer []
  have first : zeroPerStored.die.cmds.get .a = [zeroPer] ∧ zeroPer.at_ ≤ zeroPerStored.die.replica ∧
      zeroPerStored.ladderIdle zeroPer.unit = false := by decide
  obtain ⟨stored, due, runs⟩ := first
  obtain ⟨t, ht, -, -, hper, -⟩ :=
    writesPer 0 ⟨stored, due, runs, fun d hd => absurd hd List.not_mem_nil⟩ (by decide) rfl rfl
  obtain rfl := Host.Outcome.next.inj ((execPulseRegisterApply_zeroPer).symm.trans ht)
  exact absurd (image_zeroPer.symm.trans hper) (by decide)

end Sys2Proof.Machine
end

