-- ==== Sys2Proof/Proofs/SteeringTables.lean ====
section
/-!
SUPPORT. Tables of steering settings, and the choices and runs of updates that leave a table alone.
-/

namespace Sys2Proof.Machine

/-! ### Tables of steering settings -/

/-- R20, R538: the settings that `LegalSteering` admits, said of the rind's table. -/
def LegalTab (t : Tab Nat) : Prop := ∀ u, Tab.get t 0 u ≤ 2 ∧ (Tab.get t 0 u = 2 → 192 ≤ u ∧ u < 208)

theorem legalSteering_iff (s : State) : LegalSteering s ↔ LegalTab s.rind.steer := Iff.rfl

theorem LegalTab.nil : LegalTab [] := fun _ => ⟨Nat.zero_le 2, fun h => by cases h⟩

theorem laneNo_le (l : LaneId) : laneNo l ≤ 1 := by cases l <;> decide

theorem LegalTab.set {t : Tab Nat} {k v : Nat} (h : LegalTab t) (hv : v ≤ 2) (hd : v = 2 → 192 ≤ k ∧ k < 208) :
    LegalTab (Tab.set t 0 k v) := by
  intro u
  rw [Tab.get_set]
  split
  · next hu => exact ⟨hv, hu ▸ hd⟩
  · exact h u

/-- A unit steered to the port of a lane. -/
theorem LegalTab.set_lane {t : Tab Nat} (k : Nat) (l : LaneId) (h : LegalTab t) : LegalTab (Tab.set t 0 k (laneNo l)) :=
  have := laneNo_le l
  h.set (by omega) (by omega)

theorem LegalTab.foldl {α : Type} {f : Tab Nat → α → Tab Nat} (hf : ∀ t x, LegalTab t → LegalTab (f t x))
    {t : Tab Nat} (xs : List α) (h : LegalTab t) : LegalTab (xs.foldl f t) := by
  induction xs generalizing t with
  | nil => exact h
  | cons x xs ih => exact ih (hf t x h)

theorem LegalTab.foldl_set_lane {t : Tab Nat} (l : LaneId) (us : List Nat) (h : LegalTab t) :
    LegalTab (us.foldl (fun t u => Tab.set t 0 u (laneNo l)) t) :=
  LegalTab.foldl (fun _ u k => k.set_lane u l) us h

theorem LegalTab.steerAll {r : Rind} (l : LaneId) (h : LegalTab r.steer) : LegalTab (r.steerAll l).steer := by
  unfold Rind.steerAll
  generalize List.range 232 = us
  refine LegalTab.foldl (fun t u k => ?_) us h
  split
  · exact k
  · exact k.set_lane u l

/-! ### Operations on the rind that leave the steering alone -/

@[simp] theorem Rind.steer_advanceSeq (r : Rind) : r.advanceSeq.steer = r.steer := rfl

@[simp] theorem Rind.steer_noControl (r : Rind) (now : Nat) : (r.noControl now).steer = r.steer := by
  unfold Rind.noControl
  split <;> simp

@[simp] theorem Rind.steer_ite (p : Prop) [Decidable p] (q r : Rind) :
    (if p then q else r).steer = if p then q.steer else r.steer := apply_ite Rind.steer p q r

theorem Rind.steer_foldl_wr {α : Type} (a : α → Nat) (v : α → Word) (xs : List α) (r : Rind) :
    (xs.foldl (fun (r : Rind) x => r.wr (a x) (v x)) r).steer = r.steer := by
  induction xs generalizing r with
  | nil => rfl
  | cons x xs ih => rw [List.foldl_cons, ih, Rind.steer_wr]

@[simp] theorem Rind.steer_mgRes (r : Rind) (ok fail : Bool) (code : Nat) : (r.mgRes ok fail code).steer = r.steer := by
  simp [Rind.mgRes]

theorem LegalTab.toHome {r : Rind} (now : Nat) (h : LegalTab r.steer) : LegalTab (r.toHome now).steer := by
  rw [Rind.toHome, Rind.steer_advanceSeq, Rind.steer_noControl]
  exact h.steerAll _

/-! ### Operations that leave the steering alone -/

/-- A choice between two states. -/
@[simp] theorem State.steer_ite (p : Prop) [Decidable p] (s t : State) :
    (if p then s else t).rind.steer = if p then s.rind.steer else t.rind.steer := by split <;> rfl

theorem LegalTab.ite {p : Prop} [Decidable p] {s t : State} (hs : LegalTab s.rind.steer) (ht : LegalTab t.rind.steer) :
    LegalTab (if p then s else t).rind.steer := by
  split
  · exact hs
  · exact ht

/-- A run of updates, one for each element of a list. -/
@[simp] theorem State.steer_foldl {α : Type} (f : State → α → State)
    (hf : ∀ s x, (f s x).rind.steer = s.rind.steer) (xs : List α) (s : State) : (xs.foldl f s).rind.steer = s.rind.steer := by
  induction xs generalizing s with
  | nil => rfl
  | cons x xs ih => rw [List.foldl_cons, ih, hf]

end Sys2Proof.Machine
end

