-- ==== Sys2Proof/Proofs/SteeringUnits.lean ====
section
/-!
SUPPORT. What the operations on lanes, edges, pulse units and load switches do to the steering: nothing.
-/

namespace Sys2Proof.Machine

/-! ### Lanes and faults -/

@[simp] theorem State.steer_raiseBoth (s : State) (n d0 d1 : Nat) (d2 : Word) :
    (s.raiseBoth n d0 d1 d2).rind.steer = s.rind.steer := by
  simp [State.raiseBoth]

@[simp] theorem State.steer_giveUp (s : State) (l : LaneId) (cause : Nat) (reason : Nat) :
    (s.giveUp l cause reason).rind.steer = s.rind.steer := by
  simp [State.giveUp]

@[simp] theorem State.steer_linkDown (s : State) (l : LaneId) : (s.linkDown l).rind.steer = s.rind.steer := by
  simp [State.linkDown]

@[simp] theorem State.steer_peerLost (s : State) (l : LaneId) : (s.peerLost l).rind.steer = s.rind.steer := by
  simp [State.peerLost]

@[simp] theorem State.steer_cutLinks (s : State) (l : LaneId) : (s.cutLinks l).rind.steer = s.rind.steer := by
  simp [State.cutLinks]

@[simp] theorem State.steer_laneReset (s : State) (l : LaneId) (give : Nat) (cause : Nat) :
    (s.laneReset l give cause).rind.steer = s.rind.steer := by
  simp [State.laneReset]

@[simp] theorem State.steer_laneFault (s : State) (l : LaneId) (cause : Nat) :
    (s.laneFault l cause).rind.steer = s.rind.steer := by
  simp [State.laneFault]

/-! ### Instructions that issue -/

@[simp] theorem State.steer_takeFault (s : State) (l : LaneId) (c : Nat) (cause : Nat) (addr : Option Word) :
    (s.takeFault l c cause addr).rind.steer = s.rind.steer := by
  simp [State.takeFault]

/-- What an instruction's own effect may do to the steering: nothing that `LegalTab` forbids. -/
def IRes.StaysLegal : IRes → Prop
  | .ok t => LegalTab t.rind.steer
  | .fault _ _ | .hold => True

theorem LegalTab.issue {s : State} {body : IRes} (l : LaneId) (c : CtxNo) (wf priv : Bool) (h : LegalTab s.rind.steer)
    (hb : body.StaysLegal) : LegalTab (s.issue l c wf priv body).rind.steer := by
  unfold State.issue
  split
  · split
    · rwa [State.steer_takeFault]
    · split
      · exact h
      · split
        · rwa [State.steer_takeFault]
        · split
          · rwa [State.steer_takeFault]
          · split
            · exact hb
            · rwa [State.steer_takeFault]
            · exact h
  · exact h

theorem IRes.StaysLegal.onCtx {s : State} (l : LaneId) (c : Nat) (f : Ctx → Ctx) (h : LegalTab s.rind.steer) :
    (s.onCtx l c f).StaysLegal := by
  simpa [IRes.StaysLegal, State.onCtx] using h

theorem IRes.StaysLegal.onLane {s : State} (l : LaneId) (c : Nat) (f : Lane → Lane) (h : LegalTab s.rind.steer) :
    (s.onLane l c f).StaysLegal := by
  simpa [IRes.StaysLegal, State.onLane] using h

theorem LegalTab.alu {s : State} (l : LaneId) (c : CtxNo) (rd : RegNo) (f : Ctx → Word) (h : LegalTab s.rind.steer) :
    LegalTab (s.alu l c rd f).rind.steer :=
  h.issue l c true false (IRes.StaysLegal.onCtx l c _ h)

/-! ### The speculation engine -/

@[simp] theorem State.steer_stampEnt (s : State) (l : LaneId) (e : Nat) :
    (s.stampEnt l e).rind.steer = s.rind.steer := by
  simp [State.stampEnt]

@[simp] theorem State.steer_fireDue (s : State) (l : LaneId) (e : Nat) :
    (s.fireDue l e).rind.steer = s.rind.steer := by
  simp [State.fireDue]

@[simp] theorem State.steer_dueEnt (s : State) (l : LaneId) (e : Nat) : (s.dueEnt l e).rind.steer = s.rind.steer := by
  simp [State.dueEnt]

@[simp] theorem State.steer_spxSet (s : State) (l : LaneId) (h : Nat) :
    (s.spxSet l h).2.rind.steer = s.rind.steer := by
  fun_cases State.spxSet <;> simp +zetaDelta

@[simp] theorem State.steer_spxDrain (s : State) (l : LaneId) (h : Nat) :
    (s.spxDrain l h).2.rind.steer = s.rind.steer := by
  fun_cases State.spxDrain <;> simp +zetaDelta

@[simp] theorem State.steer_spxState (s : State) (l : LaneId) (h : Nat) :
    (s.spxState l h).2.rind.steer = s.rind.steer := by
  unfold State.spxState
  split <;> simp

@[simp] theorem State.steer_curdRan (s : State) (l : LaneId) (curd : Option Nat) :
    (s.curdRan l curd).rind.steer = s.rind.steer := by
  fun_cases State.curdRan <;> simp

@[simp] theorem State.steer_cancelAt (s : State) (l : LaneId) (h : Nat) :
    (s.cancelAt l h).rind.steer = s.rind.steer := by
  unfold State.cancelAt
  split <;> simp

@[simp] theorem State.steer_directEdge (s : State) (l : LaneId) (ch : Nat) (level : Bool) (t : Nat) :
    (s.directEdge l ch level t).rind.steer = s.rind.steer := by
  simp [State.directEdge]

/-! ### Pulse units -/

@[simp] theorem State.steer_passStamp (s : State) (pad stamp : Nat) :
    (s.passStamp pad stamp).rind.steer = s.rind.steer := by
  simp [State.passStamp]

@[simp] theorem State.steer_unitEvent (s : State) (e u : Nat) (d2 : Nat) :
    (s.unitEvent e u d2).rind.steer = s.rind.steer := by
  simp [State.unitEvent]

@[simp] theorem State.steer_countHeld (s : State) (u : Nat) : (s.countHeld u).rind.steer = s.rind.steer := by
  simp [State.countHeld]

@[simp] theorem State.steer_settleLine (s : State) (u : Nat) : (s.settleLine u).rind.steer = s.rind.steer := by
  fun_cases State.settleLine <;> simp

@[simp] theorem State.steer_settleGates (s : State) (u : Nat) : (s.settleGates u).rind.steer = s.rind.steer := by
  fun_cases State.settleGates <;> simp

@[simp] theorem State.steer_settle (s : State) (u : Nat) : (s.settle u).rind.steer = s.rind.steer := by
  simp [State.settle]

@[simp] theorem State.steer_setPartial (s : State) (u : Nat) : (s.setPartial u).rind.steer = s.rind.steer := by
  simp [State.setPartial]

@[simp] theorem State.steer_setDclamp (s : State) (u : Nat) : (s.setDclamp u).rind.steer = s.rind.steer := by
  simp [State.setDclamp]

@[simp] theorem State.steer_transfer (s : State) (u : Nat) (per : Bool) :
    (s.transfer u per).rind.steer = s.rind.steer := by
  simp [State.transfer]

@[simp] theorem State.steer_lateHalf (s : State) (u : Nat) (isPer : Bool) :
    (s.lateHalf u isPer).rind.steer = s.rind.steer := by
  simp [State.lateHalf]

@[simp] theorem State.steer_channelPeriod (s : State) (n : Nat) (first : Bool) :
    (s.channelPeriod n first).rind.steer = s.rind.steer := by
  simp [State.channelPeriod]

@[simp] theorem State.steer_bridgeRef (s : State) (u : Nat) (h : Bool) :
    (s.bridgeRef u h).rind.steer = s.rind.steer := by
  simp [State.bridgeRef]

@[simp] theorem State.steer_bridgePeriod (s : State) (u : Nat) : (s.bridgePeriod u).rind.steer = s.rind.steer := by
  simp [State.bridgePeriod]

@[simp] theorem State.steer_startWave (s : State) (u : Nat) : (s.startWave u).rind.steer = s.rind.steer := by
  simp [State.startWave]

@[simp] theorem State.steer_toLevel (s : State) (u : Nat) (on : Bool) :
    (s.toLevel u on).rind.steer = s.rind.steer := by
  simp [State.toLevel]

@[simp] theorem State.steer_bridgeEn (s : State) (u : Nat) (on : Bool) :
    (s.bridgeEn u on).rind.steer = s.rind.steer := by
  fun_cases State.bridgeEn <;> simp

@[simp] theorem State.steer_setGroup (s : State) (l : LaneId) (u per dut : Nat) :
    (s.setGroup l u per dut).rind.steer = s.rind.steer := by
  simp [State.setGroup]

@[simp] theorem State.steer_commitUnit (s : State) (l : LaneId) (u : Nat) :
    (s.commitUnit l u).rind.steer = s.rind.steer := by
  simp [State.commitUnit]

@[simp] theorem State.steer_forceUnit (s : State) (u v : Nat) : (s.forceUnit u v).rind.steer = s.rind.steer := by
  simp [State.forceUnit]

@[simp] theorem State.steer_tripUnit (s : State) (u src : Nat) : (s.tripUnit u src).rind.steer = s.rind.steer := by
  unfold State.tripUnit
  dsimp only
  split
  · split <;> simp
  · simp

@[simp] theorem State.steer_clearTrip (s : State) (u : Nat) : (s.clearTrip u).rind.steer = s.rind.steer := by
  simp [State.clearTrip]

@[simp] theorem State.steer_writeShadow (s : State) (l : LaneId) (u : Nat) (isPer : Bool) (v : Nat) :
    (s.writeShadow l u isPer v).rind.steer = s.rind.steer := by
  simp [State.writeShadow]

@[simp] theorem State.steer_obeyCfg (s : State) (u : Nat) (old nv v : Word) :
    (s.obeyCfg u old nv v).rind.steer = s.rind.steer := by
  simp [State.obeyCfg]

@[simp] theorem State.steer_applyReg (s : State) (l : LaneId) (a : Nat) (v : Word) :
    (s.applyReg l a v).rind.steer = s.rind.steer := by
  unfold State.applyReg
  dsimp only
  split
  · simp
  · split <;> simp

@[simp] theorem State.steer_actOn (s : State) (u : Nat) (a : PulseAct) : (s.actOn u a).rind.steer = s.rind.steer := by
  fun_cases State.actOn <;> simp

@[simp] theorem State.steer_actShadow (s : State) (l : LaneId) (u : Nat) (a : PulseAct) :
    (s.actShadow l u a).rind.steer = s.rind.steer := by
  fun_cases State.actShadow <;> simp

@[simp] theorem State.steer_laneImage (s : State) (l : LaneId) (c : PulseCmd) :
    (s.laneImage l c).rind.steer = s.rind.steer := by
  simp [State.laneImage]

@[simp] theorem State.steer_runCmd (s : State) (l : LaneId) (c : PulseCmd) :
    (s.runCmd l c).rind.steer = s.rind.steer := by
  unfold State.runCmd
  dsimp only
  split
  · simp
  · split <;> simp

@[simp] theorem State.steer_obeyCmd (s : State) (u : Nat) (c : PulseCmd) :
    (s.obeyCmd u c).rind.steer = s.rind.steer := by
  fun_cases State.obeyCmd <;> simp

@[simp] theorem State.steer_obeyPort (s : State) (u : Nat) (l : LaneId) :
    (s.obeyPort u l).1.rind.steer = s.rind.steer := by
  unfold State.obeyPort
  dsimp only
  split <;> simp

/-- Units that obey a port one after another, with the count of outputs that changed. -/
theorem State.steer_obeyAll (l : LaneId) (us : List Nat) (acc : State × Nat) :
    (us.foldl (fun (acc : State × Nat) u =>
      let r := acc.1.obeyPort u l
      (r.1, acc.2 + b2n r.2)) acc).1.rind.steer = acc.1.rind.steer := by
  induction us generalizing acc with
  | nil => rfl
  | cons u us ih => rw [List.foldl_cons, ih, State.steer_obeyPort]

/-! ### Load switches -/

@[simp] theorem State.steer_setSw (s : State) (n : Nat) (w : Sw) : (s.setSw n w).rind.steer = s.rind.steer := by
  simp [State.setSw]

@[simp] theorem State.steer_setBank (s : State) (k : Nat) (b : BankSup) :
    (s.setBank k b).rind.steer = s.rind.steer := by
  simp [State.setBank]

@[simp] theorem State.steer_markHold (s : State) (n : Nat) : (s.markHold n).rind.steer = s.rind.steer := by
  simp [State.markHold]

@[simp] theorem State.steer_openWindow (s : State) (n : Nat) (auto : Bool) :
    (s.openWindow n auto).rind.steer = s.rind.steer := by
  simp [State.openWindow]

@[simp] theorem State.steer_softOff (s : State) (n : Nat) : (s.softOff n).rind.steer = s.rind.steer := by
  simp [State.softOff]

@[simp] theorem State.steer_follow (s : State) (n : Nat) : (s.follow n).rind.steer = s.rind.steer := by
  simp [State.follow]

@[simp] theorem State.steer_directOff (s : State) : s.directOff.rind.steer = s.rind.steer := by
  simp [State.directOff]

@[simp] theorem State.steer_directFollow (s : State) : s.directFollow.rind.steer = s.rind.steer := by
  simp [State.directFollow]

@[simp] theorem State.steer_chEvent (s : State) (e d0 n : Nat) : (s.chEvent e d0 n).rind.steer = s.rind.steer := by
  simp [State.chEvent]

@[simp] theorem State.steer_lockout (s : State) (n : Nat) (byEnergy : Bool) :
    (s.lockout n byEnergy).rind.steer = s.rind.steer := by
  simp [State.lockout]

@[simp] theorem State.steer_cut (s : State) (n kind : Nat) : (s.cut n kind).rind.steer = s.rind.steer := by
  simp [State.cut]

@[simp] theorem State.steer_deferCh (s : State) (n : Nat) : (s.deferCh n).rind.steer = s.rind.steer := by
  simp [State.deferCh]

@[simp] theorem State.steer_openSig (s : State) (n : Nat) (on skip : Bool) :
    (s.openSig n on skip).rind.steer = s.rind.steer := by
  simp [State.openSig]

@[simp] theorem State.steer_beginRetry (s : State) (n : Nat) : (s.beginRetry n).rind.steer = s.rind.steer := by
  simp [State.beginRetry]

@[simp] theorem State.steer_lclr (s : State) (l : LaneId) (n : Nat) : (s.lclr l n).rind.steer = s.rind.steer := by
  simp [State.lclr]

@[simp] theorem State.steer_thermalClear (s : State) (l : LaneId) (n : Nat) :
    (s.thermalClear l n).rind.steer = s.rind.steer := by
  simp [State.thermalClear]

end Sys2Proof.Machine
end

