-- ==== Sys2Proof/Proofs/SteeringPower.lean ====
section
/-!
SUPPORT. What control, clocks, the section cycle, the supply and the power states do to the steering.
-/

namespace Sys2Proof.Machine

/-! ### Control and the arbiters -/

@[simp] theorem State.steer_refreshReady (s : State) (l : LaneId) : (s.refreshReady l).rind.steer = s.rind.steer := by
  simp [State.refreshReady]

@[simp] theorem State.steer_afterSafe (s : State) (l : LaneId) : (s.afterSafe l).rind.steer = s.rind.steer := by
  simp [State.afterSafe]

@[simp] theorem State.steer_sendKey (s : State) : s.sendKey.rind.steer = s.rind.steer := by
  fun_cases State.sendKey <;> simp

theorem LegalTab.takeControl {s : State} (l : LaneId) (gap : Nat) (h : LegalTab s.rind.steer) :
    LegalTab (s.takeControl l gap).rind.steer := by
  unfold State.takeControl
  dsimp only
  rw [State.steer_sendKey, State.rind_modLane, State.rind_modLane]
  rw [State.steer_afterSafe, State.steer_obeyAll]
  simpa [Rind.advanceSeq] using h.foldl_set_lane l _

@[simp] theorem State.steer_moved (s : State) (d0 : Nat) : (s.moved d0).rind.steer = s.rind.steer := by
  simp [State.moved]

theorem LegalTab.takeover {s : State} (l : LaneId) (h : LegalTab s.rind.steer) :
    LegalTab (s.takeover l).rind.steer := by
  simpa [State.takeover] using h.takeControl l _

@[simp] theorem State.steer_abandonPlan (s : State) : s.abandonPlan.rind.steer = s.rind.steer := by
  unfold State.abandonPlan
  dsimp only
  split
  · split <;> simp
  · rfl

theorem LegalTab.takeover_ite {s : State} (l : LaneId) (b : Bool) (h : LegalTab s.rind.steer) :
    LegalTab (if b then s.takeover l else s).rind.steer := LegalTab.ite (h.takeover l) h

theorem LegalTab.arbitrate {s : State} (h : LegalTab s.rind.steer) : LegalTab s.arbitrate.rind.steer := by
  have plan : LegalTab s.abandonPlan.rind.steer := by rwa [State.steer_abandonPlan]
  unfold State.arbitrate
  dsimp only
  split
  · split
    · split
      · exact plan.takeover _
      · simpa using plan
    · split
      · simpa using plan
      · exact plan
  · split
    · exact plan.takeover_ite _ _
    · exact LegalTab.ite (plan.takeover _) (plan.takeover_ite _ _)

@[simp] theorem State.steer_sendChecks (s : State) (l : LaneId) (us : List Nat) :
    (s.sendChecks l us).rind.steer = s.rind.steer := by
  simp [State.sendChecks]

@[simp] theorem State.steer_proofSwap (s : State) :
    s.proofSwap.1.rind.steer = s.rind.steer := by
  unfold State.proofSwap
  split
  · simp
  · split <;> simp

/-! ### Clocks -/

@[simp] theorem State.steer_runOn (s : State) : s.runOn.rind.steer = s.rind.steer := by
  simp [State.runOn]

@[simp] theorem State.steer_payCoast (s : State) (l : LaneId) : (s.payCoast l).rind.steer = s.rind.steer := by
  simp [State.payCoast]

@[simp] theorem State.steer_stopTcxo (s : State) : s.stopTcxo.rind.steer = s.rind.steer := by
  simp [State.stopTcxo]

@[simp] theorem State.steer_startTcxo (s : State) : s.startTcxo.rind.steer = s.rind.steer := by
  simp [State.startTcxo]

@[simp] theorem State.steer_clocked (s : State) (f : State → State) :
    (s.clocked f).rind.steer = (f s).rind.steer := by
  simp [State.clocked]

/-! ### The section model -/

@[simp] theorem State.steer_checkModel (s : State) (l : LaneId) : (s.checkModel l).rind.steer = s.rind.steer := by
  fun_cases State.checkModel <;> simp

/-! ### The section cycle -/

@[simp] theorem State.steer_takeHeld (s : State) (l : LaneId) : (s.takeHeld l).rind.steer = s.rind.steer := by
  simp [State.takeHeld]

@[simp] theorem State.steer_policy (s : State) (l : LaneId) (polys : List (Bool × Poly)) (t0 : Nat)
    (cs : List (Nat × Bool)) (e : SecEdge) :
    (s.policy l polys t0 cs e).rind.steer = s.rind.steer := by
  fun_cases State.policy <;> simp +zetaDelta

@[simp] theorem State.steer_nozzleCycle (s : State) (l : LaneId) (polys : List (Bool × Poly)) (t0 : Nat) (acc : Said)
    (n : Nat) : (s.nozzleCycle l polys t0 acc n).1.rind.steer = s.rind.steer := by
  simp [State.nozzleCycle]

@[simp] theorem State.steer_paint (s : State) (l : LaneId) (t0 : Nat) : (s.paint l t0).rind.steer = s.rind.steer := by
  simp [State.paint]

/-! ### Supply and power states -/

@[simp] theorem State.steer_holdLane (s : State) (l : LaneId) (cause : Nat) :
    (s.holdLane l cause).rind.steer = s.rind.steer := by
  simp [State.holdLane]

@[simp] theorem State.steer_outputsOff (s : State) : s.outputsOff.rind.steer = s.rind.steer := by
  simp [State.outputsOff]

theorem LegalTab.loseVlog {s : State} (h : LegalTab s.rind.steer) : LegalTab s.loseVlog.rind.steer := by
  rw [State.loseVlog, State.rind_modRind]
  exact LegalTab.toHome _ (by simpa using h)

@[simp] theorem State.steer_supplyExit (s : State) : s.supplyExit.rind.steer = s.rind.steer := by
  simp [State.supplyExit]

theorem LegalTab.caveEdge {s : State} (was : Bool) (h : LegalTab s.rind.steer) :
    LegalTab (s.caveEdge was).rind.steer := by
  unfold State.caveEdge
  split
  · exact h
  · split
    · rwa [State.steer_directOff]
    · rw [State.steer_directFollow]
      split
      · exact h.steerAll _
      · exact h

theorem LegalTab.goPower {s : State} (t : Nat) (h : LegalTab s.rind.steer) : LegalTab (s.goPower t).rind.steer := by
  unfold State.goPower
  split
  · simpa using h
  · rw [State.steer_clocked]
    exact LegalTab.caveEdge _ (by simpa using h)

theorem LegalTab.writePower {s : State} (w : PwrWriter) (v : Word) (h : LegalTab s.rind.steer) :
    LegalTab (s.writePower w v).rind.steer := by
  refine LegalTab.ite h (LegalTab.ite ?_ (LegalTab.goPower _ ?_))
  · simpa using h
  · simpa using h

@[simp] theorem State.steer_payWake (s : State) (l : LaneId) : (s.payWake l).rind.steer = s.rind.steer := by
  simp [State.payWake]

@[simp] theorem State.steer_lanesDown (s : State) (p t : Nat) : (s.lanesDown p t).rind.steer = s.rind.steer := by
  simp [State.lanesDown]

@[simp] theorem State.steer_enterPower (s : State) (p t : Nat) : (s.enterPower p t).rind.steer = s.rind.steer := by
  simp [State.enterPower]

theorem LegalTab.wakeBy {s : State} (src : Nat) (h : LegalTab s.rind.steer) : LegalTab (s.wakeBy src).rind.steer := by
  refine LegalTab.ite h ?_
  rw [State.steer_ite, State.steer_ite, State.rind_bothLanes, ite_self, State.steer_payWake, State.steer_payWake,
    ite_self, State.steer_clocked]
  exact LegalTab.caveEdge _ (by simpa using h)

/-! ### CAN -/

@[simp] theorem State.steer_canDrain (s : State) (l : LaneId) (c n : Nat) (fresh : Bool) :
    (s.canDrain l c n fresh).rind.steer = s.rind.steer := by
  induction n generalizing s fresh with
  | zero => rfl
  | succ n ih =>
    unfold State.canDrain
    dsimp only
    split
    · rfl
    · split
      · rw [ih, State.rind_modLane]
      · split
        · rw [ih, State.rind_modLane]
        · rfl

@[simp] theorem State.steer_canRequest (s : State) (l : LaneId) (c : Nat) (v : Word) :
    (s.canRequest l c v).rind.steer = s.rind.steer := by
  unfold State.canRequest
  split
  · simp
  · refine State.steer_foldl _ (fun t j => ?_) _ _
    split
    · rfl
    · dsimp only
      split <;> simp

@[simp] theorem State.steer_txrWrite (s : State) (l : LaneId) (c : Nat) (v : Word) :
    (s.txrWrite l c v).rind.steer = s.rind.steer := by
  simp [State.txrWrite]

@[simp] theorem State.steer_canCtrl (s : State) (l : LaneId) (c : Nat) (v : Word) :
    (s.canCtrl l c v).rind.steer = s.rind.steer := by
  simp [State.canCtrl]

@[simp] theorem State.steer_canDone (s : State) (l : LaneId) (c src : Nat) (sent : Bool) (att : Nat) (ts : Word) :
    (s.canDone l c src sent att ts).rind.steer = s.rind.steer := by
  simp [State.canDone]

@[simp] theorem State.steer_canConfig (s : State) (l : LaneId) (c which : Nat) (v : Word) :
    (s.canConfig l c which v).rind.steer = s.rind.steer := by
  fun_cases State.canConfig <;> simp

@[simp] theorem State.steer_canInitWrite (s : State) (l : LaneId) (c a : Nat) (v : Word) :
    (s.canInitWrite l c a v).rind.steer = s.rind.steer := by
  simp [State.canInitWrite]

theorem LegalTab.canWake {s : State} (b : Nat) (ok : Bool) (f : CanFrame) (dlc : Nat) (h : LegalTab s.rind.steer) :
    LegalTab (s.canWake b ok f dlc).rind.steer := by
  unfold State.canWake
  dsimp only
  split
  · exact h
  · split
    · split
      · exact LegalTab.wakeBy _ (by simpa using h)
      · simpa using h
    · split
      · exact LegalTab.wakeBy _ (by simpa using h)
      · simpa using h

/-! ### Antennas -/

@[simp] theorem State.steer_setAnt (s : State) (a : Nat) (x : AntSt) : (s.setAnt a x).rind.steer = s.rind.steer := by
  simp [State.setAnt]

end Sys2Proof.Machine
end

