-- ==== Sys2Proof/Proofs/SteeringPorts.lean ====
section
/-!
SUPPORT. What engines, boot, the host and management ports, register writes, loads and stores do to the steering.
-/

namespace Sys2Proof.Machine

/-! ### Engine commands -/

/-- What an engine makes of a command leaves the steering alone. -/
def XRes.KeepsSteer (s : State) (r : XRes) : Prop := ∀ v t, r = some (v, t) → t.rind.steer = s.rind.steer

theorem XRes.KeepsSteer.refused (s : State) : XRes.KeepsSteer s none := fun _ _ h => by cases h

theorem XRes.KeepsSteer.taken {s t : State} (v : Word) (h : t.rind.steer = s.rind.steer) :
    XRes.KeepsSteer s (some (v, t)) := by
  rintro v' t' ⟨⟩
  exact h

theorem LegalTab.xIssue {s : State} (l : LaneId) (c : CtxNo) (rd : RegNo) (wf full : Bool) (i : Instr) {r : XRes}
    (h : LegalTab s.rind.steer) (hr : r.KeepsSteer s) : LegalTab (s.xIssue l c rd wf full i r).rind.steer := by
  refine h.issue l c wf false ?_
  split
  · simpa [IRes.StaysLegal] using h
  · split
    · trivial
    · next v t =>
      rw [IRes.StaysLegal, State.rind_modLane, hr v t rfl]
      exact h

theorem XRes.KeepsSteer.ite {s : State} {p : Prop} [Decidable p] {q r : XRes} (hq : q.KeepsSteer s)
    (hr : r.KeepsSteer s) : XRes.KeepsSteer s (if p then q else r) := by
  split
  · exact hq
  · exact hr

theorem XRes.KeepsSteer.edge (s : State) (l : LaneId) (c : Nat) (rs1 rs2 : RegNo) :
    (s.xEdge l c rs1 rs2).KeepsSteer s := by
  unfold State.xEdge
  dsimp only
  cases edgeDesc (((s.lane l).ctx c).rx rs1) with
  | none => exact XRes.KeepsSteer.refused s
  | some d => exact XRes.KeepsSteer.taken _ (by simp)

theorem XRes.KeepsSteer.pair (s : State) (l : LaneId) (c : Nat) (rs1 rs2 rs3 : RegNo) :
    (s.xPair l c rs1 rs2 rs3).KeepsSteer s :=
  XRes.KeepsSteer.ite (XRes.KeepsSteer.taken _ (by simp)) (XRes.KeepsSteer.refused s)

theorem XRes.KeepsSteer.curd (s : State) (l : LaneId) (c : Nat) (rs1 rs2 rs3 : RegNo) :
    (s.xCurd l c rs1 rs2 rs3).KeepsSteer s := by
  unfold State.xCurd
  dsimp only
  split
  · exact XRes.KeepsSteer.refused s
  · split
    · exact XRes.KeepsSteer.refused s
    · exact XRes.KeepsSteer.taken _ (by simp)

theorem XRes.KeepsSteer.handle (s : State) (l : LaneId) (c : Nat) (rs1 : RegNo) {f : State → Nat → Nat × State}
    (hf : ∀ t h, (f t h).2.rind.steer = t.rind.steer) : (s.xHandle l c rs1 f).KeepsSteer s := by
  unfold State.xHandle
  dsimp only
  split
  · exact XRes.KeepsSteer.refused s
  · exact XRes.KeepsSteer.taken _ (by simp [hf])

theorem XRes.KeepsSteer.mat (s : State) (l : LaneId) (c op : Nat) (rs1 rs2 : RegNo) (rs3 : Nat) (nb : Bool) :
    (s.xMat l c op rs1 rs2 rs3 nb).KeepsSteer s :=
  XRes.KeepsSteer.ite (XRes.KeepsSteer.refused s) (XRes.KeepsSteer.taken _ (by simp))

/-! ### Loops -/

@[simp] theorem State.steer_loopCtl (s : State) (l : LaneId) (k : Nat) (v : Word) :
    (s.loopCtl l k v).rind.steer = s.rind.steer := by
  unfold State.loopCtl
  dsimp only
  split
  · split <;> simp
  · simp

theorem XRes.KeepsSteer.lpwr (s : State) (l : LaneId) (c : Nat) (rs1 rs2 : RegNo) (p : Nat) :
    (s.xLpwr l c rs1 rs2 p).KeepsSteer s := by
  unfold State.xLpwr
  dsimp only
  split
  · exact XRes.KeepsSteer.refused s
  · split
    · exact XRes.KeepsSteer.taken _ (by simp)
    · exact XRes.KeepsSteer.taken _ (by simp)

theorem XRes.KeepsSteer.lprd (s : State) (l : LaneId) (c : Nat) (rs1 : RegNo) (p : Nat) :
    (s.xLprd l c rs1 p).KeepsSteer s := by
  unfold State.xLprd
  dsimp only
  split
  · exact XRes.KeepsSteer.refused s
  · exact XRes.KeepsSteer.taken _ (by simp)

theorem XRes.KeepsSteer.lphold (s : State) (l : LaneId) (c : Nat) (rs1 rs2 : RegNo) :
    (s.xLphold l c rs1 rs2).KeepsSteer s := by
  unfold State.xLphold
  dsimp only
  split
  · exact XRes.KeepsSteer.refused s
  · exact XRes.KeepsSteer.taken _ (by simp)

@[simp] theorem State.steer_loopBoundary (s : State) (l : LaneId) (k : Nat) (sense : Option Word) :
    (s.loopBoundary l k sense).rind.steer = s.rind.steer := by
  simp [State.loopBoundary]

@[simp] theorem State.steer_loopEvaluate (s : State) (l : LaneId) (k : Nat) (sn : LoopSnap) :
    (s.loopEvaluate l k sn).rind.steer = s.rind.steer := by
  simp [State.loopEvaluate]

/-! ### Counters, images and boot -/

@[simp] theorem State.steer_setMcnt (s : State) (i : Nat) (v : Word) : (s.setMcnt i v).rind.steer = s.rind.steer := by
  simp [State.setMcnt]

@[simp] theorem State.steer_cntRef (s : State) (l : LaneId) : (s.cntRef l).rind.steer = s.rind.steer := by
  simp [State.cntRef]

@[simp] theorem State.steer_commitFloor (s : State) (l : LaneId) : (s.commitFloor l).rind.steer = s.rind.steer := by
  simp [State.commitFloor]

@[simp] theorem State.steer_writeCfgFloor (s : State) (l : LaneId) (v : Word) :
    (s.writeCfgFloor l v).rind.steer = s.rind.steer := by
  simp [State.writeCfgFloor]

@[simp] theorem State.steer_cfgWr (s : State) (l : LaneId) : (s.cfgWr l).rind.steer = s.rind.steer := by
  simp [State.cfgWr]

@[simp] theorem State.steer_reportCopies (s : State) (l : LaneId) : (s.reportCopies l).rind.steer = s.rind.steer := by
  simp [State.reportCopies]

@[simp] theorem State.steer_showCopies (s : State) (l : LaneId) : (s.showCopies l).rind.steer = s.rind.steer := by
  simp [State.showCopies]

@[simp] theorem State.steer_placeCfg (s : State) (l : LaneId) : (s.placeCfg l).rind.steer = s.rind.steer := by
  simp [State.placeCfg]

@[simp] theorem State.steer_startImage (s : State) (l : LaneId) : (s.startImage l).rind.steer = s.rind.steer := by
  simp [State.startImage]

@[simp] theorem State.steer_reportVlog (s : State) (l : LaneId) : (s.reportVlog l).rind.steer = s.rind.steer := by
  simp [State.reportVlog]

@[simp] theorem State.steer_startLoader (s : State) (l : LaneId) : (s.startLoader l).rind.steer = s.rind.steer := by
  simp [State.startLoader]

@[simp] theorem State.steer_bootLane (s : State) (l : LaneId) : (s.bootLane l).rind.steer = s.rind.steer := by
  simp [State.bootLane]

/-! ### The host port -/

@[simp] theorem Ans.st_fail (s : State) (r : Nat) : (Ans.fail s r).st = s := rfl
@[simp] theorem Ans.st_ok (s : State) (pay : List Byte) : (Ans.ok s pay).st = s := rfl

@[simp] theorem State.steer_answer (s : State) (l : LaneId) (f : Frame) (body : State → List Byte → Ans)
    (hb : ∀ t pay, (body t pay).st.rind.steer = t.rind.steer) : (s.answer l f body).rind.steer = s.rind.steer := by
  unfold State.answer
  dsimp only
  split
  · simp
  · split
    · exact hb _ _
    · simp [hb]

@[simp] theorem State.steer_command (s : State) (l : LaneId) (op : Nat) (f : List Byte)
    (body : State → List Byte → Ans) (hb : ∀ t pay, (body t pay).st.rind.steer = t.rind.steer) :
    (s.command l op f body).rind.steer = s.rind.steer := by
  fun_cases State.command <;> simp [hb]

@[simp] theorem State.steer_direct (s : State) (l : LaneId) (f : Lane → Lane) :
    (s.direct l f).rind.steer = s.rind.steer := by
  simp [State.direct]

@[simp] theorem State.steer_openSess (s : State) (l : LaneId) (n : Nat) (pay : List Byte) :
    (s.openSess l n pay).st.rind.steer = s.rind.steer := by
  simp [State.openSess]

@[simp] theorem State.steer_sessInit (s : State) (l : LaneId) (ses : Nat) (pay : List Byte) :
    (s.sessInit l ses pay).st.rind.steer = s.rind.steer := by
  fun_cases State.sessInit <;> simp

@[simp] theorem State.steer_evRead (s : State) (l : LaneId) (stamp : Nat) (pay : List Byte) :
    (s.evRead l stamp pay).st.rind.steer = s.rind.steer := by
  fun_cases State.evRead <;> simp +zetaDelta

@[simp] theorem State.steer_msgWrite (s : State) (l : LaneId) (pay : List Byte) :
    (s.msgWrite l pay).st.rind.steer = s.rind.steer := by
  unfold State.msgWrite
  dsimp only
  split
  · rw [Ans.st_fail, State.rind_modLane]
  · split
    · rfl
    · simp

/-- One position of MSG_READ; `next` reads on past a slot that may not pass. -/
def State.msgStep (s : State) (l : LaneId) (next : State → Ans) : Ans :=
  let L := s.lane l
  let rd := L.fld 0x40130028 0 6
  if L.fld 0x40130024 0 6 = rd then Ans.fail s 7
  else match L.msgSlot 0x40130020 rd with
    | none => Ans.fail (s.modLane l (fun L => L.msgRefused 0x40130020 rd)) 8
    | some a =>
      let w := L.word a
      if bitOf w 16 && !L.flag 0x40130000 1 then
        next (s.modLane l (fun L => (L.setFld 0x40130028 0 6 (rd + 1)).bump 0x40130040))
      else
        { Ans.ok s (L.bytes (a + 4) (min 1020 (fieldNat w 0 11))) with act := 2, flags := b2n (bitOf w 16) }

set_option maxRecDepth 2000 in -- comparing the two unfolded bodies nests past the default depth
theorem State.msgRead_succ (s : State) (l : LaneId) (n : Nat) :
    s.msgRead l (n + 1) = s.msgStep l (fun t => t.msgRead l n) := rfl

theorem State.steer_msgStep (s : State) (l : LaneId) {next : State → Ans}
    (hn : ∀ t, (next t).st.rind.steer = t.rind.steer) : (s.msgStep l next).st.rind.steer = s.rind.steer := by
  unfold State.msgStep
  dsimp only
  split
  · rw [Ans.st_fail]
  · split
    · rw [Ans.st_fail, State.rind_modLane]
    · split
      · rw [hn, State.rind_modLane]
      · rw [Ans.st_ok]

@[simp] theorem State.steer_msgRead (s : State) (l : LaneId) (n : Nat) :
    (s.msgRead l n).st.rind.steer = s.rind.steer := by
  induction n generalizing s with
  | zero => exact congrArg (fun t : State => t.rind.steer) (Ans.st_fail s 7)
  | succ n ih =>
    rw [State.msgRead_succ]
    exact s.steer_msgStep l ih

@[simp] theorem State.steer_corrH (s : State) (l : LaneId) (pay : List Byte) :
    (s.corrH l pay).st.rind.steer = s.rind.steer := by
  fun_cases State.corrH <;> simp

@[simp] theorem State.steer_tileTake (s : State) (l : LaneId) :
    (s.tileTake l).st.rind.steer = s.rind.steer := by
  fun_cases State.tileTake <;> simp +zetaDelta

@[simp] theorem State.steer_tileReq (s : State) (l : LaneId) :
    (s.tileReq l).st.rind.steer = s.rind.steer := by
  fun_cases State.tileReq <;> simp

@[simp] theorem State.steer_tileAns (s : State) (l : LaneId) (pay : List Byte) :
    (s.tileAns l pay).st.rind.steer = s.rind.steer := by
  fun_cases State.tileAns <;> simp

@[simp] theorem State.steer_ldgRead (s : State) (l : LaneId) :
    (s.ldgRead l).st.rind.steer = s.rind.steer := by
  fun_cases State.ldgRead <;> simp +zetaDelta

@[simp] theorem steer_updAns (s : State) (l : LaneId) (code : Nat) :
    (updAns s l code).st.rind.steer = s.rind.steer := by
  simp [updAns]

@[simp] theorem State.steer_updBegin (s : State) (l : LaneId) (ses : Nat) (pay : List Byte) (low : Bool) :
    (s.updBegin l ses pay low).st.rind.steer = s.rind.steer := by
  fun_cases State.updBegin <;> simp

@[simp] theorem State.steer_updData (s : State) (l : LaneId) (ses : Nat) (pay : List Byte) (low : Bool) :
    (s.updData l ses pay low).st.rind.steer = s.rind.steer := by
  fun_cases State.updData <;> simp

@[simp] theorem State.steer_restartLane (s : State) (l : LaneId) : (s.restartLane l).rind.steer = s.rind.steer := by
  simp [State.restartLane]

@[simp] theorem State.steer_updEnd (s : State) (l : LaneId) (ses : Nat) :
    (s.updEnd l ses).st.rind.steer = s.rind.steer := by
  fun_cases State.updEnd <;> simp +zetaDelta

@[simp] theorem State.steer_upd (s : State) (l : LaneId) (ses : Nat) (pay : List Byte) (low : Bool) :
    (s.upd l ses pay low).st.rind.steer = s.rind.steer := by
  fun_cases State.upd <;> simp

@[simp] theorem State.steer_updRow (s : State) (l : LaneId) (f : List Byte) (sub : Nat) (low : Bool) :
    (s.updRow l f sub low).rind.steer = s.rind.steer := by
  simp [State.updRow]

/-! ### The management port -/

@[simp] theorem State.steer_writeLaneOff (s : State) (v : Word) : (s.writeLaneOff v).1.rind.steer = s.rind.steer := by
  unfold State.writeLaneOff
  split
  · rfl
  · simp

@[simp] theorem State.steer_writeSnap (s : State) (v : Word) : (s.writeSnap v).rind.steer = s.rind.steer := by
  unfold State.writeSnap
  split
  · rfl
  · exact Rind.steer_foldl_wr _ _ _ _

theorem LegalTab.protectedWrite {s : State} (a : Nat) (v : Word) (h : LegalTab s.rind.steer) :
    LegalTab (s.protectedWrite a v).1.rind.steer := by
  fun_cases State.protectedWrite <;> simp [h, h.writePower]

@[simp] theorem State.steer_mgFail (s : State) : s.mgFail.rind.steer = s.rind.steer := by
  simp [State.mgFail]

theorem LegalTab.mgGo {s : State} (h : LegalTab s.rind.steer) : LegalTab s.mgGo.rind.steer := by
  unfold State.mgGo
  dsimp only
  split
  · simpa using h
  · split
    · simpa using h
    · split
      · simpa using LegalTab.protectedWrite _ _ (by simpa using h)
      · simpa using h

theorem LegalTab.mgmtWord {s : State} (a : Nat) (v : Word) (h : LegalTab s.rind.steer) :
    LegalTab (s.mgmtWord a v).rind.steer := by
  fun_cases State.mgmtWord <;> simp [h, h.mgGo]

theorem LegalTab.rindWrite {s : State} (l : LaneId) (a : Nat) (v : Word) (h : LegalTab s.rind.steer) :
    LegalTab (s.rindWrite l a v).rind.steer := by
  fun_cases State.rindWrite <;> simp [h, h.writePower]

/-! ### Late commands and trip pads -/

@[simp] theorem State.steer_countLate (s : State) (l : LaneId) (c : PulseCmd) :
    (s.countLate l c).rind.steer = s.rind.steer := by
  simp [State.countLate]

@[simp] theorem State.steer_seePads (s : State) (u src stamp : Nat) :
    (s.seePads u src stamp).rind.steer = s.rind.steer := by
  rw [State.seePads, State.rind_bothLanes, State.rind_modDie]
  exact State.steer_foldl _ (fun t k => by simp) _ _

/-! ### Switch links -/

@[simp] theorem State.steer_arriveCmd (s : State) (l : LaneId) (c : PulseCmd) :
    (s.arriveCmd l c).rind.steer = s.rind.steer := by
  simp [State.arriveCmd]

@[simp] theorem State.steer_arriveReg (s : State) (l : LaneId) (a : Nat) (v : Word) :
    (s.arriveReg l a v).rind.steer = s.rind.steer := by
  simp [State.arriveReg]

@[simp] theorem State.steer_arriveMsg (s : State) (l : LaneId) (m : LinkMsg) :
    (s.arriveMsg l m).rind.steer = s.rind.steer := by
  fun_cases State.arriveMsg <;> simp

@[simp] theorem State.steer_directReq (s : State) (l : LaneId) (j : Nat) (on : Bool) :
    (s.directReq l j on).rind.steer = s.rind.steer := by
  simp [State.directReq]

/-! ### Line keeping -/

@[simp] theorem State.steer_lkCycle (s : State) (l : LaneId) (late : Bool) :
    (s.lkCycle l late).rind.steer = s.rind.steer := by
  simp [State.lkCycle]

/-! ### Register writes -/

@[simp] theorem State.steer_plainW (s : State) (l : LaneId) (a : Nat) (v : Word) :
    (s.plainW l a v).rind.steer = s.rind.steer := by
  simp [State.plainW]

@[simp] theorem State.steer_imageW (s : State) (l : LaneId) (a : Nat) (v : Word) :
    (s.imageW l a v).rind.steer = s.rind.steer := by
  simp [State.imageW]

@[simp] theorem State.steer_busSys (s : State) (l : LaneId) (c a : Nat) (v : Word) :
    (s.busSys l c a v).rind.steer = s.rind.steer := by
  simp [State.busSys]

@[simp] theorem State.steer_busCan (s : State) (l : LaneId) (a : Nat) (v : Word) :
    (s.busCan l a v).rind.steer = s.rind.steer := by
  simp [State.busCan]

@[simp] theorem State.steer_busPulse (s : State) (l : LaneId) (a : Nat) (v : Word) :
    (s.busPulse l a v).rind.steer = s.rind.steer := by
  fun_cases State.busPulse <;> simp

theorem LegalTab.busSwd {s : State} (l : LaneId) (a : Nat) (v : Word) (h : LegalTab s.rind.steer) :
    LegalTab (s.busSwd l a v).rind.steer := by
  fun_cases State.busSwd <;> simp [h, h.rindWrite]

@[simp] theorem State.steer_busTrust (s : State) (l : LaneId) (a : Nat) (v : Word) :
    (s.busTrust l a v).rind.steer = s.rind.steer := by
  simp [State.busTrust]

theorem LegalTab.busWrite {s : State} (l : LaneId) (c a : Nat) (v : Word) (h : LegalTab s.rind.steer) :
    LegalTab (s.busWrite l c a v).rind.steer := by
  fun_cases State.busWrite <;> simp [h, h.busSwd]

@[simp] theorem State.steer_busRead (s : State) (l : LaneId) (c a : Nat) :
    (s.busRead l c a).2.rind.steer = s.rind.steer := by
  simp [State.busRead]

@[simp] theorem State.steer_setSame (s : State) (l : LaneId) (a : Nat) (same : Word) :
    (s.setSame l a same).rind.steer = s.rind.steer := by
  unfold State.setSame
  split
  · rfl
  · split
    · rw [State.rind_modRind, Rind.steer_wr]
    · rw [State.rind_modLane]

/-! ### Loads and stores -/

theorem IRes.StaysLegal.loadFrom {s : State} (l : LaneId) (c a n : Nat) (put : List Byte → Ctx → Ctx)
    (h : LegalTab s.rind.steer) : (s.loadFrom l c a n put).StaysLegal := by
  fun_cases State.loadFrom <;> simp [IRes.StaysLegal, State.landed, h]

theorem IRes.StaysLegal.load {s : State} (l : LaneId) (c a n : Nat) (wordOp : Bool) (put : List Byte → Ctx → Ctx)
    (h : LegalTab s.rind.steer) : (s.load l c a n wordOp put).StaysLegal := by
  unfold State.load
  split
  · trivial
  · exact IRes.StaysLegal.loadFrom l c a n put h

theorem LegalTab.loadIns {s : State} (l : LaneId) (c : CtxNo) (wf : Bool) (rs1 : RegNo) (off : BitVec 14) (n : Nat)
    (wordOp : Bool) (put : List Byte → Ctx → Ctx) (h : LegalTab s.rind.steer) :
    LegalTab (s.loadIns l c wf rs1 off n wordOp put).rind.steer :=
  h.issue l c wf false (IRes.StaysLegal.load l c _ n wordOp put h)

theorem IRes.StaysLegal.storeSram {s : State} (l : LaneId) (c a : Nat) (bs : List Byte) (clash : List Clash)
    (h : LegalTab s.rind.steer) : (s.storeSram l c a bs clash).StaysLegal := by
  fun_cases State.storeSram <;> simp [IRes.StaysLegal, h]

theorem IRes.StaysLegal.storeTo {s : State} (l : LaneId) (c a : Nat) (bs : List Byte) (clash : List Clash)
    (h : LegalTab s.rind.steer) : (s.storeTo l c a bs clash).StaysLegal := by
  unfold State.storeTo
  dsimp only
  split
  · exact IRes.StaysLegal.storeSram l c a bs clash h
  · simpa [IRes.StaysLegal] using h
  · exact LegalTab.busWrite _ _ _ _ (by simpa using h)
  · trivial
  · trivial

theorem LegalTab.storeIns {s : State} (l : LaneId) (c : CtxNo) (wf : Bool) (rs1 : RegNo) (off : BitVec 14) (n : Nat)
    (wordOp : Bool) (get : Ctx → Nat) (clash : List Clash) (h : LegalTab s.rind.steer) :
    LegalTab (s.storeIns l c wf rs1 off n wordOp get clash).rind.steer := by
  refine h.issue l c wf false ?_
  split
  · trivial
  · exact IRes.StaysLegal.storeTo _ _ _ _ _ h

@[simp] theorem State.steer_xRefuse (s : State) (l : LaneId) (c : Nat) :
    (s.xRefuse l c).rind.steer = s.rind.steer := by
  simp [State.xRefuse]

/-! ### A step without a command -/

theorem LegalTab.tick {s : State} (h : LegalTab s.rind.steer) : LegalTab s.tick.rind.steer := by
  unfold State.tick
  split
  · simpa using h
  · exact LegalTab.wakeBy _ (by simpa using h)

end Sys2Proof.Machine
end

