-- ==== Sys2Proof/Proofs/SteeringCommands.lean ====
section
/-!
SUPPORT. The commands whose effect on the steering needs a case split.
-/

namespace Sys2Proof.Machine

/-- The next state, where there is one, has a legal table of steering settings. -/
def LeavesLegal (o : Host.Outcome State Fault Refusal) : Prop := ∀ t, o = .next t → LegalTab t.rind.steer

theorem LeavesLegal.next {t : State} (h : LegalTab t.rind.steer) : LeavesLegal (.next t) := by
  rintro u ⟨⟩
  exact h

theorem LeavesLegal.fault (f : Fault) : LeavesLegal (.fault f) := fun _ h => by cases h

theorem LegalTab.modLane {s : State} (l : LaneId) (f : Lane → Lane) (h : LegalTab s.rind.steer) :
    LegalTab (s.modLane l f).rind.steer := by rwa [State.rind_modLane]

theorem LegalTab.of_eq {s t : State} (h : LegalTab s.rind.steer) (k : t.rind.steer = s.rind.steer) :
    LegalTab t.rind.steer := by rwa [k]

/-! ### Registers -/

theorem LeavesLegal.registerWrite {s : State} (l : LaneId) (addr : Word) (v : SyncWord) (h : LegalTab s.rind.steer) :
    LeavesLegal (execRegisterWrite l addr v s) := by
  unfold execRegisterWrite
  split
  · exact .next ((h.busWrite l 0 addr.toNat v.value).of_eq (State.steer_setSame ..))
  · exact .fault _

theorem LeavesLegal.rcRead {s : State} (l : LaneId) (addr : Word) (h : LegalTab s.rind.steer) :
    LeavesLegal (execRcRead l addr s) := by
  unfold execRcRead
  split
  · exact .next (h.of_eq (State.steer_busRead ..))
  · exact .fault _

/-! ### Instructions with more than one outcome -/

theorem LeavesLegal.illegalEncoding {s : State} (l : LaneId) (c : CtxNo) (w : Word) (h : LegalTab s.rind.steer) :
    LeavesLegal (execIllegalEncoding l c w s) :=
  .next (LegalTab.ite (h.issue _ _ _ _ trivial) h)

theorem IRes.StaysLegal.ite {p : Prop} [Decidable p] {a b : IRes} (ha : a.StaysLegal) (hb : b.StaysLegal) :
    (if p then a else b).StaysLegal := by
  split
  · exact ha
  · exact hb

theorem IRes.StaysLegal.fault (k : Nat) (a : Option Word) : (IRes.fault k a).StaysLegal := trivial

theorem LeavesLegal.jlr {s : State} (l : LaneId) (c : CtxNo) (rd rs1 : RegNo) (imm : BitVec 14)
    (h : LegalTab s.rind.steer) : LeavesLegal (execJlr l c rd rs1 imm s) :=
  .next (h.issue _ _ _ _ (.ite (.fault _ _) (h.modLane _ _)))

theorem LeavesLegal.brk {s : State} (l : LaneId) (c : CtxNo) (h : LegalTab s.rind.steer) :
    LeavesLegal (execBrk l c s) :=
  .next (h.issue _ _ _ _ (.ite (h.modLane _ _) (.fault _ _)))

theorem LeavesLegal.relinq {s : State} (l : LaneId) (c : CtxNo) (rs1 : RegNo) (h : LegalTab s.rind.steer) :
    LeavesLegal (execRelinq l c rs1 s) :=
  .next (h.issue _ _ _ _ (.ite ((h.modLane _ _).of_eq (State.steer_giveUp ..)) (.fault _ _)))

theorem LeavesLegal.lkacq {s : State} (l : LaneId) (c : CtxNo) (rd : RegNo) (tm : Bool) (rs2 : RegNo) (n : BitVec 8)
    (h : LegalTab s.rind.steer) : LeavesLegal (execLkacq l c rd tm rs2 n s) :=
  .next (h.issue _ _ _ _ (.ite (.fault _ _) (h.modLane _ _)))

theorem LeavesLegal.lkrel {s : State} (l : LaneId) (c : CtxNo) (n : BitVec 8) (h : LegalTab s.rind.steer) :
    LeavesLegal (execLkrel l c n s) :=
  .next (h.issue _ _ _ _ (.ite (.onLane _ _ _ h) (.fault _ _)))

/-! ### Engine commands -/

/-- What an engine makes of a command that waits leaves the steering alone. -/
theorem XRes.KeepsSteer.answer {s : State} {l : LaneId} {c : Nat} {i : Instr} {full : Bool} {r : XRes}
    (h : s.xAnswer l c i = some (full, r)) : r.KeepsSteer s := by
  unfold State.xAnswer at h
  dsimp only at h
  split at h <;> cases h
  · exact .edge s l c _ _
  · exact .pair s l c _ _ _
  · exact .curd s l c _ _ _
  · exact .handle s l c _ (fun t k => t.steer_spxSet l k)
  · exact .handle s l c _ (fun t k => t.steer_spxDrain l k)
  · exact .handle s l c _ (fun t k => t.steer_spxState l k)
  · exact .lpwr s l c _ _ _
  · exact .lprd s l c _ _
  · exact .lphold s l c _ _
  all_goals exact .mat s l c _ _ _ _ _

theorem LeavesLegal.engineCommandAccept {s : State} (l : LaneId) (c : CtxNo) (h : LegalTab s.rind.steer) :
    LeavesLegal (execEngineCommandAccept l c s) := by
  refine .next ?_
  split
  · exact h
  · split
    · exact h
    · exact h
    · exact h.of_eq (State.steer_xRefuse ..)
    · next v t k => exact (h.of_eq (XRes.KeepsSteer.answer k v t rfl)).modLane _ _

/-! ### Engines, pads and banks -/

theorem LeavesLegal.sectionEngineCycle {s : State} (l : LaneId) (h : LegalTab s.rind.steer) :
    LeavesLegal (execSectionEngineCycle l s) := by
  have nozzles : ∀ polys t0 (ns : List Nat) (acc : State × Said),
      (ns.foldl (fun a n => a.1.nozzleCycle l polys t0 a.2 n) acc).1.rind.steer = acc.1.rind.steer := by
    intro polys t0 ns
    induction ns with
    | nil => exact fun _ => rfl
    | cons n ns ih => exact fun acc => (ih _).trans (State.steer_nozzleCycle ..)
  refine .next (LegalTab.ite ?_ h)
  refine h.of_eq ?_
  rw [State.rind_modLane, State.steer_paint, State.rind_modLane, nozzles, State.rind_modLane, State.steer_takeHeld,
    State.rind_modLane, State.steer_checkModel]

theorem LeavesLegal.bankRestoreStep {s : State} (k : BankNo) (h : LegalTab s.rind.steer) :
    LeavesLegal (execBankRestoreStep k s) := by
  refine .next (LegalTab.ite h ?_)
  dsimp only
  split
  · exact h.of_eq (by simp)
  · exact h.of_eq (by simp)

theorem LeavesLegal.parkBurstEnd {s : State} (sats : List (Fin 4 × Fin 64)) (h : LegalTab s.rind.steer) :
    LeavesLegal (execParkBurstEnd sats s) := by
  refine .next (LegalTab.ite ?_ h)
  dsimp only
  split
  · exact h.of_eq (by simp)
  · exact h.of_eq (by simp)

theorem LeavesLegal.cancelArrival {s : State} (l : LaneId) (k : BitVec 22) (h : LegalTab s.rind.steer) :
    LeavesLegal (execCancelArrival l k s) := by
  refine .next ?_
  split
  · exact LegalTab.ite ((h.modLane _ _).of_eq (State.steer_cancelAt ..)) h
  · exact h

theorem LeavesLegal.drainLateCancel {s : State} (l : LaneId) (k : BitVec 22) (h : LegalTab s.rind.steer) :
    LeavesLegal (execDrainLateCancel l k s) := by
  refine .next ?_
  split
  · exact h
  · exact h.modLane _ _

theorem LeavesLegal.signatureWindowEnd {s : State} (n : ChNo) (i0 : Rat) (xs : List Rat) (h : LegalTab s.rind.steer) :
    LeavesLegal (execSignatureWindowEnd n i0 xs s) := by
  refine .next ?_
  split
  · exact h
  · split
    · exact h
    · refine h.of_eq ((State.steer_foldl _ (fun t l => ?_) _ _).trans (by rw [State.rind_modDie]))
      split
      · rfl
      · simp

theorem LeavesLegal.noneTimeout {s : State} (h : LegalTab s.rind.steer) : LeavesLegal (execNoneTimeout s) := by
  refine .next (LegalTab.ite (h.of_eq ?_) h)
  rw [State.rind_modRind, Rind.steer_setFlag, State.steer_foldl _ (fun t n => by rw [State.rind_modDie]),
    State.steer_foldl _ (fun t n => by simp), State.rind_modDie]

/-! ### The host port and the management port -/

theorem LeavesLegal.ownRead {s : State} (l : LaneId) (f : List Byte) (h : LegalTab s.rind.steer) :
    LeavesLegal (execOwnRead l f s) :=
  .next (h.of_eq (State.steer_command _ _ _ _ _ (fun _ _ => by rw [Ans.st_ok])))

theorem LeavesLegal.visRead {s : State} (l : LaneId) (f : List Byte) (h : LegalTab s.rind.steer) :
    LeavesLegal (execVisRead l f s) :=
  .next (h.of_eq (State.steer_command _ _ _ _ _ (fun _ _ => by rw [Ans.st_ok])))

theorem LeavesLegal.unknownOpcode {s : State} (l : LaneId) (op : Byte) (f : List Byte) (h : LegalTab s.rind.steer) :
    LeavesLegal (execUnknownOpcode l op f s) :=
  .next (LegalTab.ite h (h.of_eq (State.steer_command _ _ _ _ _ (fun _ _ => by rw [Ans.st_fail]))))

theorem LegalTab.foldl_mgmtWord {s : State} (addr : Nat) (es : List (Word × Nat)) (h : LegalTab s.rind.steer) :
    LegalTab (es.foldl (fun (t : State) (e : Word × Nat) =>
      t.mgmtWord ((addr + 4 * e.2) % 65536) e.1) s).rind.steer := by
  induction es generalizing s with
  | nil => exact h
  | cons e es ih => exact ih (h.mgmtWord _ _)

theorem LeavesLegal.mgmtRead {s : State} (addr : BitVec 16) (n : Nat) (h : LegalTab s.rind.steer) :
    LeavesLegal (execMgmtRead addr n s) :=
  .next ((h.wakeBy 1024).of_eq (by rw [State.rind_modRind]))

/-! ### Supply and reset -/

theorem LeavesLegal.resetNAssert {s : State} (h : LegalTab s.rind.steer) : LeavesLegal (execResetNAssert s) := by
  have off : LegalTab ((s.holdLane .a 1).holdLane .b 1).outputsOff.rind.steer := h.of_eq (by simp)
  refine .next (LegalTab.ite h ?_)
  dsimp only
  generalize ((s.holdLane .a 1).holdLane .b 1).outputsOff = t at off ⊢
  rw [State.rind_modRind]
  exact LegalTab.toHome _ off

theorem LeavesLegal.vlogLoss {s : State} (h : LegalTab s.rind.steer) : LeavesLegal (execVlogLoss s) :=
  .next (LegalTab.ite (h.loseVlog.of_eq (State.steer_clocked ..)) h)

theorem LeavesLegal.holdStoreEmpty {s : State} (h : LegalTab s.rind.steer) : LeavesLegal (execHoldStoreEmpty s) :=
  .next (LegalTab.ite h (by
    rw [State.rind_bothLanes, Rind.kept, Rind.steer_wr]
    exact LegalTab.nil))

theorem LeavesLegal.vlogPowerUp {s : State} (strap : Fin 4) (h : LegalTab s.rind.steer) :
    LeavesLegal (execVlogPowerUp strap s) := by
  refine .next (LegalTab.ite h ?_)
  rw [State.steer_clocked]
  dsimp only
  rw [State.steer_directFollow, State.rind_modDie, State.steer_supplyExit, State.rind_modRind]
  refine LegalTab.ite (p := s.rind.holdEmpty = true) ?_ ?_
  · rw [State.rind_modRind, Rind.steer_setFlag]
    exact LegalTab.nil
  · rw [State.rind_modRind]
    exact h.steerAll _

/-! ### Steering -/

/-- DIRECT or the port of a lane, as a setting of an H-class channel. -/
theorem LegalTab.set_direct {t : Tab Nat} (j : DirNo) (p : Prop) [Decidable p] (l : LaneId) (h : LegalTab t) :
    LegalTab (Tab.set t 0 (192 + j.val) (if p then 2 else laneNo l)) := by
  split
  · exact h.set le_rfl (fun _ => by omega)
  · exact h.set_lane _ l

theorem LeavesLegal.directApply {s : State} (j : DirNo) (agree : Bool) (h : LegalTab s.rind.steer) :
    LeavesLegal (execDirectApply j agree s) := by
  have cleared : LegalTab (s.modRind (fun r => { r with dirReq := Tab.set r.dirReq 0 j 0 })).rind.steer := by
    rwa [State.rind_modRind]
  refine .next (LegalTab.ite h (LegalTab.ite cleared (LegalTab.ite cleared ?_)))
  rw [State.steer_raiseBoth, State.steer_ite, State.steer_obeyPort, ite_self, State.rind_modRind, Rind.steer_setFld]
  exact LegalTab.set_direct j _ _ cleared

theorem LeavesLegal.arbiterProposal {s : State} (agree : Bool) (h : LegalTab s.rind.steer) :
    LeavesLegal (execArbiterProposal agree s) :=
  .next (LegalTab.ite (h.arbitrate.of_eq (by rw [State.rind_modRind])) (h.of_eq (by rw [State.rind_modRind])))

theorem LeavesLegal.homeReadyTimeout {s : State} (h : LegalTab s.rind.steer) :
    LeavesLegal (execHomeReadyTimeout s) := by
  refine .next (LegalTab.ite ?_ h)
  split
  · exact LegalTab.ite (h.takeover _) h
  · exact h

theorem LeavesLegal.plannedHandover {s : State} (h : LegalTab s.rind.steer) : LeavesLegal (execPlannedHandover s) := by
  refine .next ?_
  split
  · next p _ =>
    refine LegalTab.ite (h.of_eq (State.steer_abandonPlan _)) (LegalTab.ite h (LegalTab.ite ?_ ?_))
    · exact (h.takeControl p.toLane 0).of_eq (by simp)
    · exact (h.takeControl p.toLane 0).of_eq (by simp)
  · exact h

theorem LeavesLegal.proofSwapEnd {s : State} (confirmed : Bool) (h : LegalTab s.rind.steer) :
    LeavesLegal (execProofSwapEnd confirmed s) := by
  refine .next ?_
  split
  · next p v _ _ =>
    refine LegalTab.ite h (LegalTab.ite (h.of_eq (State.steer_abandonPlan _)) ?_)
    exact (h.takeControl p.toLane 0).of_eq (by simp)
  · exact h

/-! ### Commands that read something before they act -/

theorem LeavesLegal.switchLinkFrame {s : State} (l : LaneId) (toDie crcOk : Bool) (h : LegalTab s.rind.steer) :
    LeavesLegal (execSwitchLinkFrame l toDie crcOk s) := by
  refine .next (LegalTab.ite h (LegalTab.ite (h.modLane _ _) (LegalTab.ite ?_ h)))
  split
  · exact h
  · exact (h.modLane _ _).of_eq (State.steer_arriveMsg ..)

theorem LeavesLegal.laneLinkMirror {s : State} (h : LegalTab s.rind.steer) : LeavesLegal (execLaneLinkMirror s) := by
  refine .next (LegalTab.ite ?_ h)
  rw [State.rind_bothLanes]
  split
  · exact h
  · exact h.modLane _ _

theorem LeavesLegal.timingFixReturn {s : State} (gt : Nat) (h : LegalTab s.rind.steer) :
    LeavesLegal (execTimingFixReturn gt s) := by
  refine .next ?_
  split
  · exact h
  · split
    · exact h.of_eq (by rw [State.rind_bothLanes])
    · exact h

theorem LeavesLegal.tpLeadingEdge {s : State} (l : LaneId) (n : Fin 2) (h : LegalTab s.rind.steer) :
    LeavesLegal (execTpLeadingEdge l n s) := by
  refine .next (LegalTab.ite ?_ h)
  split
  · exact h.modLane _ _
  · exact h

theorem LeavesLegal.deferredTurnOnStep {s : State} (k : BankNo) (h : LegalTab s.rind.steer) :
    LeavesLegal (execDeferredTurnOnStep k s) := by
  refine .next (LegalTab.ite h ?_)
  split
  · exact h
  · exact h.of_eq (by simp)

theorem LeavesLegal.ownershipDisagree {s : State} (l : LaneId) (h : LegalTab s.rind.steer) :
    LeavesLegal (execOwnershipDisagree l s) := by
  refine .next (LegalTab.ite (h.modLane _ _) ?_)
  split
  · exact h.modLane _ _
  · exact h

theorem LeavesLegal.scrub {s : State} (l : LaneId) (a : SramWord) (err : Fin 3) (h : LegalTab s.rind.steer) :
    LeavesLegal (execScrub l a err s) := by
  refine .next (LegalTab.ite ?_ h)
  split
  · exact h
  · exact h.modLane _ _
  · exact h.of_eq (by simp)

theorem LeavesLegal.canBusError {s : State} (l : LaneId) (c : Fin 4) (tec : Fin 512) (rec_ : Fin 256) (brs : Bool)
    (h : LegalTab s.rind.steer) : LeavesLegal (execCanBusError l c tec rec_ brs s) := by
  refine .next (LegalTab.ite ?_ h)
  split
  · exact h.modLane _ _
  · exact h.modLane _ _
  · exact h

/-! ### Commands of the rind -/

theorem LegalTab.modRind {s : State} {f : Rind → Rind} (h : LegalTab s.rind.steer)
    (hf : (f s.rind).steer = s.rind.steer) : LegalTab (s.modRind f).rind.steer := by rwa [State.rind_modRind, hf]

theorem LeavesLegal.xt32Fail {s : State} (h : LegalTab s.rind.steer) : LeavesLegal (execXt32Fail s) := by
  refine .next (LegalTab.ite h (LegalTab.of_eq (h.modRind ?_) (State.steer_raiseBoth ..)))
  rw [Rind.steer_setFlag]

theorem LeavesLegal.xt32Restore {s : State} (h : LegalTab s.rind.steer) : LeavesLegal (execXt32Restore s) :=
  .next (h.modRind (Rind.steer_setFlag ..))

theorem LeavesLegal.arbiterDisagreement {s : State} (h : LegalTab s.rind.steer) :
    LeavesLegal (execArbiterDisagreement s) := by
  refine .next ?_
  split
  · refine LegalTab.ite (h.modRind ?_) h
    rw [Rind.steer_bumpFld, Rind.steer_setFlag]
  · exact h

theorem LeavesLegal.proofAgeHour {s : State} (h : LegalTab s.rind.steer) : LeavesLegal (execProofAgeHour s) := by
  refine .next (LegalTab.ite (h.modRind ?_) h)
  rw [Rind.steer_bumpFld, Rind.steer_bumpFld]

end Sys2Proof.Machine
end

