-- ==== Sys2Proof/Proofs/SteeringLegal.lean ====
section
/-!
SUPPORT. Every command, and so every step, leaves the steering settings legal.
-/

namespace Sys2Proof.Machine

/-- A command leaves a legal table of steering settings legal. -/
theorem exec_leavesLegal {s : State} (i : Instr) (h : LegalTab s.rind.steer) : LeavesLegal (exec i s) := by
  cases i
  case add | sub | and | or | xor | sll | srl | sra | slt | sltu | min | max | minu | maxu | clz | mul | mulh
    | mulhu | div | divu | rem | remu | addi | andi | ori | xori | slti | sltiu | lhi | rdflg =>
    exact .next (h.alu _ _ _ _)
  case fadd | fsub | fmul | fdiv | fsqrt | fmin | fmax | fneg | fabs | fma | fms | fnma | fnms | feq | flt |
    fle | ftoi | ftou | itof | utof | fmvx | fmvf | vadd | vsub | vmul | vmac | vmin | vmax | vabs | vneg |
    vfadd | vfsub | vfmul | vfma | vfmin | vfmax | vsplt | vins | vext | vsum | vdot | vtof | vtoq | slli |
    srli | srai | wrflg | ltrd =>
    exact .next (h.issue _ _ _ _ (.onCtx _ _ _ h))
  case yield | exit | haltInstruction | evpost =>
    exact .next (h.issue _ _ _ _ (.onLane _ _ _ h))
  case lb | lbu | lh | lhu | lw | ldp | flw | vld =>
    exact .next (h.loadIns _ _ _ _ _ _ _ _)
  case sb | sh | sw | sdp | fsw | vst =>
    exact .next (h.storeIns _ _ _ _ _ _ _ _ _)
  case wdogKick | tpSuppress | xsubGo | xsrcCfgWrite | tpCfgWrite | nowLoRead | gtLoRead | start | halt |
    resume | kill | contextFileWrite | confirmDeadline | ledgerBlockSeal | binSubGo | boomInputStale |
    pageEnable | pageTimeout | rxVerifyComplete | fieldWrite | prsSubGo | pressureStale | flowToleranceExpiry
    | meterToleranceExpiry | orgGo | fusionSubmit | fusionSourceStale | notchWrite | corrPData | corrPGo |
    correctionFrame | lkpModeRequest | stopReq | stopClr | impSubGo | impStale | drTimeout | rateTimeout |
    countWrite | rateRead | zcapRead | canModeRequest | txuAbort | flush | busOffRecovery | canDominantTimeout
    | canDetectDwell | canDetectTimeout | ethLinkChange | ethFrameRx | txKick | ethTxComplete | responseReady
    | attentionPulseEnd | sessionTimeout | ownershipViewAdopt | handoverComplete | fillComplete | enrGo |
    enrolmentComplete | dbgChalRead | debugResponse | debugLockExpiry | cfgWriteComplete | pdWr |
    pdWriteComplete | dominantFaultClear | compensationSlot =>
    exact .next (h.modLane _ _)
  case ctxc | beq | bne | blt | bge | bltu | bgeu | jal | wtlt | wtev | qput | qget | wtflt | mwait =>
    exact .next (h.issue _ _ _ _ (h.modLane _ _))
  case imuSample | switchLinkTrained | switchLinkDown | resetNRelease | bankForcedOff | bankRestoreStart |
    laneResetRelease | bootComplete | parkBurst | softwareReset | watchdogExpiry | holdoverEntry | slewEnd |
    peerOffsetMeasure | ctxCmdNoEffect | schedulerDispatch | deadlineMiss | waitComplete | waitTimeout |
    debugHalt | debugResume | matrixCommandComplete | curdFire | secLoad | rxActivate | rxDeactivate |
    meterLoad | fusionNcCycle | fusionPcCycle | trackUpdate | trackClear | calLoad | calSnap | gnssStart |
    gnssEpoch | antennaShort | antennaBiasRetry | antennaOpen | jamMeasure | stnReset | aidClr | lkpCycle |
    lkpSolveLate | loopBoundary | channelPeriodStart | channelDutyEnd | bridgePeriodStart | bridgeMidPeriod |
    bridgeDutyEnd | deadTimeExpiry | commit | forceWrite | trip | tclr | unitFreeze | unitRelease | turnOn |
    turnOff | inrushWindowEnd | heatUpdate | energyCut | backoffReset | cutsAgeOut | reAgeOut | lclr |
    thermalClear | thermalSample | bankBudgetSample | currentSenseSample | directRequest | dirinChange |
    encoderEvent | encoderIndex | absFrameEnd | canTxenChange | canFrameRx | canConfigWrite | txuReq | txrWr |
    canTxComplete | statusFrame | fetch | sessInit | sessFin | evRead | msgWrite | msgRead | corrFrame |
    tileTake | tileReq | tileAns | ldgRead | updBegin | updData | updEnd | updQuery | attentionPulse |
    bankOwnerWrite | bankPowerWrite | heartbeat | heartbeatMissed | proofRequest | commitImageFloor |
    cfgFloorWrite | cfgWr | laneLinkDown | laneLinkUp | laneMonitorFire | tpTrailingEdge | bootstrapRefreshEnd =>
    exact .next (h.of_eq (by simp))
  case pulseCommandExecute | pwrTransitionComplete | timingFixAcquired | loopEvaluation | loopOverrun |
    loopMirror | pulseRegisterApply | shutdownComplete | fastCut | retry | absFrameStart | loaderRestart |
    mgLockExpiry =>
    exact .next (h.of_eq (by split <;> simp))
  case registerWrite => exact .registerWrite _ _ _ h
  case rcRead => exact .rcRead _ _ h
  case sectionEngineCycle => exact .sectionEngineCycle _ h
  case resetNAssert => exact .resetNAssert h
  case bankRestoreStep => exact .bankRestoreStep _ h
  case vlogLoss => exact .vlogLoss h
  case holdStoreEmpty => exact .holdStoreEmpty h
  case vlogPowerUp => exact .vlogPowerUp _ h
  case parkBurstEnd => exact .parkBurstEnd _ h
  case engineCommandAccept => exact .engineCommandAccept _ _ h
  case illegalEncoding => exact .illegalEncoding _ _ _ h
  case jlr => exact .jlr _ _ _ _ _ h
  case brk => exact .brk _ _ h
  case relinq => exact .relinq _ _ _ h
  case lkacq => exact .lkacq _ _ _ _ _ _ h
  case lkrel => exact .lkrel _ _ _ h
  case cancelArrival => exact .cancelArrival _ _ h
  case drainLateCancel => exact .drainLateCancel _ _ h
  case signatureWindowEnd => exact .signatureWindowEnd _ _ _ h
  case directApply => exact .directApply _ _ h
  case ownRead => exact .ownRead _ _ h
  case visRead => exact .visRead _ _ h
  case mgmtRead => exact .mgmtRead _ _ h
  case arbiterProposal => exact .arbiterProposal _ h
  case noneTimeout => exact .noneTimeout h
  case homeReadyTimeout => exact .homeReadyTimeout h
  case plannedHandover => exact .plannedHandover h
  case proofSwapEnd => exact .proofSwapEnd _ h
  case unknownOpcode => exact .unknownOpcode _ _ _ h
  case switchLinkFrame => exact .switchLinkFrame _ _ _ h
  case laneLinkMirror => exact .laneLinkMirror h
  case timingFixReturn => exact .timingFixReturn _ h
  case tpLeadingEdge => exact .tpLeadingEdge _ _ h
  case deferredTurnOnStep => exact .deferredTurnOnStep _ h
  case ownershipDisagree => exact .ownershipDisagree _ h
  case scrub => exact .scrub _ _ _ h
  case canBusError => exact .canBusError _ _ _ _ _ h
  case xt32Fail => exact .xt32Fail h
  case xt32Restore => exact .xt32Restore h
  case arbiterDisagreement => exact .arbiterDisagreement h
  case proofAgeHour => exact .proofAgeHour h
  case edge => exact .next (h.xIssue _ _ _ _ _ _ (.edge s _ _ _ _))
  case pair => exact .next (h.xIssue _ _ _ _ _ _ (.pair s _ _ _ _ _))
  case curd => exact .next (h.xIssue _ _ _ _ _ _ (.curd s _ _ _ _ _))
  case setEdge => exact .next (h.xIssue _ _ _ _ _ _ (.handle s _ _ _ (fun t k => t.steer_spxSet _ k)))
  case drain => exact .next (h.xIssue _ _ _ _ _ _ (.handle s _ _ _ (fun t k => t.steer_spxDrain _ k)))
  case crdst => exact .next (h.xIssue _ _ _ _ _ _ (.handle s _ _ _ (fun t k => t.steer_spxState _ k)))
  case lpwr => exact .next (h.xIssue _ _ _ _ _ _ (.lpwr s _ _ _ _ _))
  case lprd => exact .next (h.xIssue _ _ _ _ _ _ (.lprd s _ _ _ _))
  case lphold => exact .next (h.xIssue _ _ _ _ _ _ (.lphold s _ _ _ _))
  case mmul | mmult | madd | msub | mscal | mchol | msolve =>
    exact .next (h.xIssue _ _ _ _ _ _ (.mat s _ _ _ _ _ _ _))
  case pwrTargetWrite => exact .next (h.writePower _ _)
  case wake | canWakeDominant => exact .next (h.wakeBy _)
  case canWakeFrame => exact .next (h.canWake _ _ _ _)
  case mgGo => exact .next h.mgGo
  case mgmtWrite => exact .next ((h.wakeBy _).foldl_mgmtWord _ _)

/-- Settles O6: a step is a tick or a command on the queue's rest, and both leave the table legal. -/
theorem steeringStaysLegal : Obligations.SteeringStaysLegal := by
  intro s t h hst
  rw [legalSteering_iff] at h ⊢
  rw [step] at hst
  split at hst
  · exact LeavesLegal.next h.tick t hst
  · next c rest _ => exact exec_leavesLegal (s := { s with pending := rest }) c h t hst

end Sys2Proof.Machine
end

