-- ==== Sys2Proof/Proofs/FieldReads.lean ====
section
/-!
SUPPORT. Fields and flags of registers after an update, runs of updates, and filtered tables.
-/

namespace Sys2Proof.Machine

/-! ### Fields and flags of registers -/

theorem Lane.fld_setFld_self (L : Lane) (a : Nat) {lo w : Nat} (v : Nat) (h : lo + w ≤ 32) :
    (L.setFld a lo w v).fld a lo w = v % 2 ^ w := by
  rw [Lane.fld, Lane.rd_setFld, if_pos rfl, fieldNat_setFieldNat_self _ _ _ _ h]

theorem Lane.fld_of_rd {L M : Lane} {a : Nat} (h : M.rd a = L.rd a) (lo w : Nat) : M.fld a lo w = L.fld a lo w := by
  rw [Lane.fld, h, Lane.fld]

theorem Lane.flag_of_rd {L M : Lane} {a : Nat} (h : M.rd a = L.rd a) (i : Nat) : M.flag a i = L.flag a i := by
  rw [Lane.flag, h, Lane.flag]

/-- A field reads the same where another field of its register is set, apart from it. -/
theorem Lane.fld_setFld_apart (L : Lane) (a : Nat) {lo w lo' w' : Nat} (v : Nat) (h' : lo' + w' ≤ 32)
    (h : lo + w ≤ lo' ∨ lo' + w' ≤ lo) : (L.setFld a lo w v).fld a lo' w' = L.fld a lo' w' := by
  rw [Lane.fld, Lane.rd_setFld, if_pos rfl, fieldNat_setFieldNat_ne _ _ _ _ _ _ h' h, Lane.fld]

theorem Lane.fld_setFlag_apart (L : Lane) (a : Nat) {i lo w : Nat} (b : Bool) (hw : lo + w ≤ 32)
    (h : i < lo ∨ lo + w ≤ i) : (L.setFlag a i b).fld a lo w = L.fld a lo w := by
  rw [Lane.fld, Lane.rd_setFlag, if_pos rfl, fieldNat_setBit_ne _ _ _ _ _ hw h, Lane.fld]

theorem Lane.flag_setFld_apart (L : Lane) (a : Nat) {lo w i : Nat} (v : Nat) (hi : i < 32)
    (h : i < lo ∨ lo + w ≤ i) : (L.setFld a lo w v).flag a i = L.flag a i := by
  rw [Lane.flag, Lane.rd_setFld, if_pos rfl, bitOf_setFieldNat_ne _ _ _ _ _ hi h, Lane.flag]

theorem Rind.flag_setFlag (r : Rind) (a k i : Nat) {j : Nat} (b : Bool) (hj : j < 32) :
    (r.setFlag k i b).flag a j = if a = k ∧ j = i then b else r.flag a j := by
  rw [Rind.flag, Rind.rd_setFlag]
  by_cases ha : a = k
  · subst ha
    rw [if_pos rfl, bitOf_setBit _ _ _ _ hj]
    simp only [true_and, Rind.flag]
  · rw [if_neg ha, if_neg fun h => ha h.1, Rind.flag]

theorem Rind.flag_setFlag_self (r : Rind) (a : Nat) {i : Nat} (b : Bool) (h : i < 32) :
    (r.setFlag a i b).flag a i = b := by rw [Rind.flag_setFlag _ _ _ _ _ h, if_pos ⟨rfl, rfl⟩]

theorem Rind.rd_setFlag_ne (r : Rind) {a k : Nat} (i : Nat) (b : Bool) (h : a ≠ k) :
    (r.setFlag k i b).rd a = r.rd a := by rw [Rind.rd_setFlag, if_neg h]

theorem Rind.fld_of_rd {q r : Rind} {a : Nat} (h : q.rd a = r.rd a) (lo w : Nat) : q.fld a lo w = r.fld a lo w := by
  rw [Rind.fld, h, Rind.fld]

theorem Rind.flag_of_rd {q r : Rind} {a : Nat} (h : q.rd a = r.rd a) (i : Nat) : q.flag a i = r.flag a i := by
  rw [Rind.flag, h, Rind.flag]

/-! ### Runs of updates -/

/-- What one update, with any number, leaves alone, a run of them leaves alone. -/
theorem foldl_keeps {α σ β : Type} (p : σ → β) {f : σ → α → σ} (hf : ∀ s x, p (f s x) = p s) (xs : List α) (s : σ) :
    p (xs.foldl f s) = p s := by
  induction xs generalizing s with
  | nil => rfl
  | cons x xs ih => rw [List.foldl_cons, ih, hf]

/-- What the update with `x` brings about for `x`, and no update undoes, holds after a run for each of its numbers. -/
theorem foldl_brings {α σ : Type} {Q : α → σ → Prop} {f : σ → α → σ} (self : ∀ s x, Q x (f s x))
    (keep : ∀ s x y, Q y s → Q y (f s x)) {xs : List α} {s : σ} {y : α} (h : y ∈ xs ∨ Q y s) :
    Q y (xs.foldl f s) := by
  induction xs generalizing s with
  | nil => exact h.resolve_left List.not_mem_nil
  | cons x xs ih =>
    refine ih ?_
    obtain h | h := h
    · obtain rfl | h := List.mem_cons.1 h
      · exact .inr (self s y)
      · exact .inl h
    · exact .inr (keep s x y h)

/-- What a table reads once the entries that `p` refuses are gone. -/
theorem Tab.get_filter {α : Type} (t : Tab α) (d : α) (p : Nat → Bool) (k : Nat) :
    Tab.get (t.filter (fun e => p e.1)) d k = if p k then Tab.get t d k else d := by
  induction t with
  | nil => exact (ite_self _).symm
  | cons e t ih =>
    obtain ⟨j, v⟩ := e
    rw [List.filter_cons, Tab.get_cons]
    by_cases hj : j = k
    · subst hj
      cases hp : p j with
      | true => simp [Tab.get_cons]
      | false => simp [ih, hp]
    · rw [if_neg hj]
      split
      · rw [Tab.get_cons, if_neg hj, ih]
      · exact ih

end Sys2Proof.Machine
end

