-- ==== Sys2Proof/Proofs/EventFrames.lean ====
section
/-!
SUPPORT. What raising an event leaves of a lane.
-/

namespace Sys2Proof.Machine

/-! ### Waits and the bits of CTX.EPEND -/

theorem Lane.waiting_eq_nil (L : Lane) (k a : Nat) : L.waiting k a = [] ↔
    ∀ c, c < 128 → (L.ctx c).st = .waiting → (L.ctx c).wait.kind = k → (L.ctx c).wait.arg ≠ a := by
  rw [Lane.waiting, allBelow, List.filter_eq_nil_iff]
  simp only [List.mem_range, Bool.and_eq_true, beq_iff_eq, not_and, and_imp, ne_eq]

/-- A context that waits in `M` waits in `L` for the same, so no wait is new. -/
theorem Lane.waiting_nil_of_ctx {L M : Lane} (h : ∀ c, M.ctx c = L.ctx c ∨ (M.ctx c).st ≠ .waiting) {k a : Nat}
    (hw : L.waiting k a = []) : M.waiting k a = [] := by
  rw [Lane.waiting_eq_nil] at hw ⊢
  intro c hc hs
  obtain h | h := h c
  · rw [h] at hs ⊢
    exact hw c hc hs
  · exact absurd hs h

theorem Lane.bitAt_setBitOf_true {L : Lane} {base n : Nat} (m : Nat) (h : L.bitAt base n = true) :
    (L.setBitOf base m true).bitAt base n = true := by
  rw [Lane.bitAt, Lane.flag, Lane.setBitOf, Lane.rd_setFlag]
  split
  · next e =>
    rw [bitOf_setBit _ _ _ _ (Nat.mod_lt n (by decide)), ← e]
    split
    · rfl
    · exact h
  · exact h

/-! ### What raising an event may change -/

/-- What events leave of a lane: contexts that waited may be ready, bits of CTX.EPEND may be set, the host's queue and its
count of losses may have grown. -/
structure EventFrame (L M : Lane) : Prop where
  bulk : L.sameBulk M
  ctx : ∀ c, M.ctx c = L.ctx c ∨ (L.ctx c).st = .waiting ∧ (M.ctx c).st = .ready
  rd : ∀ a, a ∉ evRegs → M.rd a = L.rd a
  pends : ∀ n, n < 160 → L.bitAt 0x40030040 n = true → M.bitAt 0x40030040 n = true

theorem EventFrame.refl (L : Lane) : EventFrame L L :=
  ⟨Lane.sameBulk_refl L, fun _ => .inl rfl, fun _ _ => rfl, fun _ _ h => h⟩

theorem EventFrame.trans {L M N : Lane} (h : EventFrame L M) (k : EventFrame M N) : EventFrame L N := by
  refine ⟨Lane.sameBulk_trans h.bulk k.bulk, fun c => ?_, fun a ha => (k.rd a ha).trans (h.rd a ha),
    fun n hn hb => k.pends n hn (h.pends n hn hb)⟩
  obtain hM | ⟨hw, hr⟩ := h.ctx c
  · rw [← hM]
    exact k.ctx c
  · obtain hN | ⟨hw', -⟩ := k.ctx c
    · exact .inr ⟨hw, hN ▸ hr⟩
    · exact absurd (hr.symm.trans hw') (by decide)

theorem EventFrame.waiting_nil {L M : Lane} (h : EventFrame L M) {k a : Nat} (hw : L.waiting k a = []) :
    M.waiting k a = [] := by
  refine Lane.waiting_nil_of_ctx (fun c => (h.ctx c).imp_right ?_) hw
  rintro ⟨-, hr⟩ hs
  exact absurd (hr.symm.trans hs) (by decide)

theorem EventFrame.ctx_of_not_waiting {L M : Lane} (h : EventFrame L M) {c : Nat} (hc : (L.ctx c).st ≠ .waiting) :
    M.ctx c = L.ctx c := (h.ctx c).resolve_right fun k => hc k.1

/-- Contexts that wait and are made ready one after another. -/
theorem Lane.ctx_finishAll (L : Lane) (cs : List Nat) (v : Word) (hcs : ∀ c ∈ cs, (L.ctx c).st = .waiting) (d : Nat) :
    (cs.foldl (fun M c => M.finishWait c v) L).ctx d = L.ctx d ∨
      (L.ctx d).st = .waiting ∧ ((cs.foldl (fun M c => M.finishWait c v) L).ctx d).st = .ready := by
  by_cases hd : d ∈ cs
  · refine .inr ⟨hcs d hd, ?_⟩
    refine foldl_brings (Q := fun (c : Nat) (M : Lane) => (M.ctx c).st = .ready) (fun M c => ?_) (fun M c e h => ?_) (.inl hd)
    · rw [Lane.finishWait, Lane.ctx_modCtx_self]
      rfl
    · by_cases he : e = c
      · subst he
        rw [Lane.finishWait, Lane.ctx_modCtx_self]
        rfl
      · rwa [Lane.ctx_finishWait_ne _ _ he]
  · refine .inl ?_
    clear hcs
    induction cs generalizing L with
    | nil => rfl
    | cons c cs ih =>
      rw [List.mem_cons, not_or] at hd
      rw [List.foldl_cons, ih _ hd.2, Lane.ctx_finishWait_ne _ _ hd.1]

theorem Lane.mem_waiting {L : Lane} {k a c : Nat} (h : c ∈ L.waiting k a) : (L.ctx c).st = .waiting := by
  rw [Lane.waiting, allBelow, List.mem_filter] at h
  simp only [Bool.and_eq_true, beq_iff_eq] at h
  exact h.2.1.1

/-- Posting a number makes the contexts that wait on it ready, or sets its bit. -/
theorem Lane.post_cases (L : Lane) (n : Nat) : L.post n = L.setBitOf 0x40030040 n true ∨
    L.post n = (L.waiting 2 n).foldl (fun M c => M.finishWait c 0) L := by
  unfold Lane.post
  cases L.halted with
  | true => exact .inl rfl
  | false =>
    rw [if_neg (by decide)]
    generalize L.waiting 2 n = ws
    cases ws with
    | nil => exact .inl rfl
    | cons c cs => exact .inr rfl

theorem EventFrame.post (L : Lane) {n : Nat} (hn : n < 160) : EventFrame L (L.post n) := by
  refine ⟨Lane.sameBulk_post L n, ?_, fun a ha => Lane.rd_post L n a fun h => ha (h ▸ mem_evRegs_of_lt hn), ?_⟩
  · intro c
    obtain h | h := Lane.post_cases L n <;> rw [h]
    · exact .inl rfl
    · exact Lane.ctx_finishAll L _ 0 (fun _ => Lane.mem_waiting) c
  · intro m _ hb
    obtain h | h := Lane.post_cases L n <;> rw [h]
    · exact Lane.bitAt_setBitOf_true n hb
    · rw [Lane.bitAt, Lane.flag, Lane.rd_finishAll]
      exact hb

theorem Lane.ctx_enqueue (L : Lane) (n d0 d1 : Nat) (d2 : Word) (c : Nat) : (L.enqueue n d0 d1 d2).ctx c = L.ctx c := by
  unfold Lane.enqueue
  split
  · dsimp only
    split <;> rfl
  · rfl

theorem EventFrame.enqueue (L : Lane) (n d0 d1 : Nat) (d2 : Word) : EventFrame L (L.enqueue n d0 d1 d2) := by
  refine ⟨Lane.sameBulk_enqueue .., fun c => .inl (Lane.ctx_enqueue ..), fun a ha => ?_, fun m hm hb => ?_⟩
  · exact Lane.rd_enqueue _ _ _ _ _ _ fun h => ha (h ▸ by decide)
  · rwa [Lane.bitAt, Lane.flag, Lane.rd_enqueue _ _ _ _ _ _ (by omega)]

theorem EventFrame.raise (L : Lane) {n : Nat} (d0 d1 : Nat) (d2 : Word) (hn : n < 160) :
    EventFrame L (L.raise n d0 d1 d2) := by
  rw [Lane.raise]
  split
  · exact (EventFrame.post L hn).trans (EventFrame.enqueue ..)
  · exact EventFrame.refl L

theorem Lane.raise_off {L : Lane} (n d0 d1 : Nat) (d2 : Word) (h : L.alive = false) : L.raise n d0 d1 d2 = L :=
  if_neg (by rw [h]; decide)

/-- The bit of a raised event's number, where no context waits on it. -/
theorem Lane.bitAt_raise {L : Lane} {n : Nat} (d0 d1 : Nat) (d2 : Word) (hn : n < 160) (ha : L.alive = true)
    (hw : L.waiting 2 n = []) : (L.raise n d0 d1 d2).bitAt 0x40030040 n = true :=
  (Lane.raise_raises L d0 d1 d2 hn ha).1 (.inr hw)

/-- A lane whose registers and event queue are those that the event leaves has raised it. -/
theorem Raises.of_lane {s t : State} {l : LaneId} {n d0 d1 : Nat} {d2 : Word} (hn : n < 160)
    (hr : (t.lane l).regs = ((s.lane l).raise n d0 d1 d2).regs) (he : (t.lane l).ev = ((s.lane l).raise n d0 d1 d2).ev) :
    Raises l n d0 d1 d2 s t := by
  intro ha
  obtain ⟨hb, hq⟩ := Lane.raise_raises (s.lane l) d0 d1 d2 hn ha
  have hrd : ∀ a, (t.lane l).rd a = ((s.lane l).raise n d0 d1 d2).rd a := fun a => by rw [Lane.rd, hr, Lane.rd]
  refine ⟨fun h => ?_, fun hm hl => he ▸ hq hm hl⟩
  rw [Lane.bitAt, Lane.flag, hrd]
  exact hb h

end Sys2Proof.Machine
end

