-- ==== Sys2Proof/Proofs/LaneResets.lean ====
section
/-!
SUPPORT. A lane that is held in reset, that gives up control, and that resets.
-/

namespace Sys2Proof.Machine

/-! ### A lane held in reset -/

/-- What a lane is after a reset with a cause of R73. -/
def Lane.inReset (L : Lane) (cause : Nat) : Lane := L.resetKeep.setFld 0x40000010 8 4 cause

/-- The lane without a measurement of its partner (R81). -/
def Lane.unpaired (L : Lane) : Lane := { L with time := { L.time with peerGood := 0 } }

@[simp] theorem Lane.phase_inReset (L : Lane) (cause : Nat) : (L.inReset cause).phase = .off := rfl
@[simp] theorem Lane.lt_inReset (L : Lane) (cause : Nat) : (L.inReset cause).lt = L.lt := rfl
@[simp] theorem Lane.flash_inReset (L : Lane) (cause : Nat) : (L.inReset cause).flash = L.flash := rfl
@[simp] theorem Lane.ctx_inReset (L : Lane) (cause c : Nat) : (L.inReset cause).ctx c = Ctx.reset := rfl
theorem Lane.cause_inReset (L : Lane) {cause : Nat} (h : cause < 16) : (L.inReset cause).fld 0x40000010 8 4 = cause :=
  (Lane.fld_setFld_self L.resetKeep _ _ (by decide)).trans (Nat.mod_eq_of_lt h)

/-- The state of the link does not outlive a reset. -/
theorem Lane.resetKeep_unlinked (L : Lane) : L.unlinked.resetKeep = L.resetKeep := by
  have hrd : ∀ a, a ≠ 0x400F0040 → L.unlinked.rd a = L.rd a := fun a ha => Lane.rd_setFlag_ne _ 0 false ha
  have hen : L.unlinked.enrolled = L.enrolled := Lane.flag_of_rd (hrd _ (by decide)) 0
  rw [Lane.resetKeep, hrd _ (by decide), hen]
  rfl

/-! ### The links of a lane that is reset -/

theorem State.lane_cutLinks (s : State) (l : LaneId) : (s.cutLinks l).lane l = (s.lane l).unlinked := by
  rw [State.cutLinks, State.lane_modRind, State.peerLost, State.modLane, State.lane_setLane_ne _ _ (ne_other l),
    State.linkDown, State.lane_modDie, State.lane_modLane, Lane.unlinked]

theorem State.lane_other_cutLinks (s : State) (l : LaneId) :
    (s.cutLinks l).lane (other l) = (s.lane (other l)).unpaired := by
  rw [State.cutLinks, State.lane_modRind, State.peerLost, State.lane_modLane, State.linkDown, State.lane_modDie,
    State.lane_other_modLane, Lane.unpaired]

/-- Of the die, cutting the links of a lane discards commands of its port alone. -/
theorem State.die_cutLinks (s : State) (l : LaneId) : ∃ cs, (s.cutLinks l).die = { s.die with cmds := cs } := by
  refine ⟨(s.cutLinks l).die.cmds, ?_⟩
  rw [State.cutLinks, State.die_modRind, State.peerLost, State.die_modLane, State.linkDown, State.die_modDie,
    State.die_modLane]

/-- Of the rind, cutting the links of a lane makes its CAN transceivers passive. -/
theorem State.rind_cutLinks (s : State) (l : LaneId) : ∃ tx, (s.cutLinks l).rind = { s.rind with txen := tx } := by
  refine ⟨(s.cutLinks l).rind.txen, ?_⟩
  rw [State.cutLinks, State.rind_modRind, State.peerLost, State.rind_modLane, State.linkDown, State.rind_modDie,
    State.rind_modLane]

/-! ### Holding a lane in reset -/

theorem State.lane_holdLane (s : State) (l : LaneId) (cause : Nat) :
    (s.holdLane l cause).lane l = (s.lane l).inReset cause := by
  rw [State.holdLane, State.lane_modRind, State.lane_modLane, State.lane_cutLinks, Lane.resetKeep_unlinked, Lane.inReset]

theorem State.lane_other_holdLane (s : State) (l : LaneId) (cause : Nat) :
    (s.holdLane l cause).lane (other l) = (s.lane (other l)).unpaired := by
  rw [State.holdLane, State.lane_modRind, State.lane_other_modLane, State.lane_other_cutLinks]

/-- The rind's record of a lane that is held in reset: nothing but RED_STAT, the heartbeat and the transceivers. -/
structure Rind.HoldFrame (r q : Rind) : Prop where
  rd : ∀ a, a ≠ 0x204 → q.rd a = r.rd a
  mcnt : q.mcnt = r.mcnt
  steer : q.steer = r.steer

theorem Rind.HoldFrame.trans {r q p : Rind} (h : r.HoldFrame q) (k : q.HoldFrame p) : r.HoldFrame p :=
  ⟨fun a ha => (k.rd a ha).trans (h.rd a ha), k.mcnt.trans h.mcnt, k.steer.trans h.steer⟩

theorem State.rind_holdLane (s : State) (l : LaneId) (cause : Nat) : s.rind.HoldFrame (s.holdLane l cause).rind := by
  obtain ⟨tx, h⟩ := State.rind_cutLinks s l
  rw [State.holdLane, State.rind_modRind, State.rind_modLane, h]
  exact ⟨fun a ha => by rw [Rind.rd_setFlag_ne _ _ _ ha, Rind.rd_setFlag_ne _ _ _ ha]; rfl, rfl, rfl⟩

/-- What RESET_N and a loss of VLOG make of lane `L`: it is held in reset with the cause. -/
structure HeldFrom (L : Lane) (cause : Nat) (M : Lane) : Prop where
  phase : M.phase = .off
  cause : M.fld 0x40000010 8 4 = cause
  lt : M.lt = L.lt
  flash : M.flash = L.flash
  link : M.link = []

theorem HeldFrom.inReset (L : Lane) {cause : Nat} (h : cause < 16) : HeldFrom L cause (L.inReset cause) :=
  ⟨rfl, Lane.cause_inReset L h, rfl, rfl, rfl⟩

theorem HeldFrom.unpaired {L M : Lane} {cause : Nat} (h : HeldFrom L cause M) : HeldFrom L cause M.unpaired :=
  ⟨h.phase, h.cause, h.lt, h.flash, h.link⟩

/-- Both lanes held in reset, one after the other. -/
def State.holdBoth (s : State) (cause : Nat) : State := (s.holdLane .a cause).holdLane .b cause

theorem State.heldFrom_holdBoth (s : State) {cause : Nat} (h : cause < 16) (l : LaneId) :
    HeldFrom (s.lane l) cause ((s.holdBoth cause).lane l) := by
  cases l with
  | a =>
    rw [State.holdBoth, show LaneId.a = other .b from rfl, State.lane_other_holdLane, show other .b = LaneId.a from rfl,
      State.lane_holdLane]
    exact (HeldFrom.inReset _ h).unpaired
  | b =>
    have hb : (s.holdLane .a cause).lane .b = (s.lane .b).unpaired := State.lane_other_holdLane s .a cause
    rw [State.holdBoth, State.lane_holdLane, hb]
    obtain ⟨hp, hc, hl, hf, hk⟩ := HeldFrom.inReset (s.lane .b).unpaired h
    exact ⟨hp, hc, hl, hf, hk⟩

theorem State.rind_holdBoth (s : State) (cause : Nat) : s.rind.HoldFrame (s.holdBoth cause).rind :=
  (State.rind_holdLane ..).trans (State.rind_holdLane ..)

/-! ### Giving up control -/

/-- A lane that has given up already changes its reported reason at most. -/
theorem State.giveUp_again {s : State} {l : LaneId} (cause reason : Nat) (h : (s.lane l).gaveUp = true) :
    ∃ n, s.giveUp l cause reason = s.modLane l (fun L => { L with reason := n }) := by
  have hf : (s.lane l).flag 0x40140004 5 = true := h
  rw [State.giveUp, if_pos hf]
  by_cases hc : cause = 3
  · exact ⟨reason, if_pos hc⟩
  · exact ⟨(s.lane l).reason, (if_neg hc).trans (State.setLane_self s l).symm⟩

/-- The mark of giving up on the lane itself. -/
def Lane.givenUp (L : Lane) (reason : Nat) : Lane :=
  (({ L with reason := reason }).setFlag 0x40140004 5 true).setFlag 0x40140004 0 false

/-- A lane that gives up is marked, the rind sets its GU bit (R565), and both lanes raise E84. -/
theorem State.giveUp_first {s : State} {l : LaneId} (cause reason : Nat) (h : (s.lane l).gaveUp = false) :
    ∃ f : Rind → Rind, s.giveUp l cause reason = ((s.modLane l (fun L => L.givenUp reason)).modRind f).raiseBoth 84 cause
        (laneNo l) (BitVec.ofNat 32 reason) ∧ ∀ r, (f r).flag 0x204 (4 + laneNo l) = true := by
  have hf : ¬(s.lane l).flag 0x40140004 5 = true := by rw [← Lane.gaveUp, h]; decide
  have hl := laneNo_le l
  refine ⟨_, if_neg hf, fun r => ?_⟩
  show Rind.flag (((r.setFlag 0x204 (4 + laneNo l) true).setFlag 0x204 (laneNo l) false).setFlag 0x204
    (2 + laneNo l) false) 0x204 (4 + laneNo l) = true
  rw [Rind.flag_setFlag _ _ _ _ _ (by omega), if_neg (by omega), Rind.flag_setFlag _ _ _ _ _ (by omega),
    if_neg (by omega), Rind.flag_setFlag_self _ _ _ (by omega)]

theorem State.die_giveUp (s : State) (l : LaneId) (cause reason : Nat) : (s.giveUp l cause reason).die = s.die := by
  cases h : (s.lane l).gaveUp with
  | true =>
    obtain ⟨n, e⟩ := State.giveUp_again cause reason h
    rw [e, State.die_modLane]
  | false =>
    obtain ⟨f, e, -⟩ := State.giveUp_first cause reason h
    rw [e, State.raiseBoth, State.die_bothLanes, State.die_modRind, State.die_modLane]

theorem State.lt_flash_giveUp (s : State) (l : LaneId) (cause reason : Nat) :
    ((s.giveUp l cause reason).lane l).lt = (s.lane l).lt ∧ ((s.giveUp l cause reason).lane l).flash = (s.lane l).flash := by
  cases h : (s.lane l).gaveUp with
  | true =>
    obtain ⟨n, e⟩ := State.giveUp_again cause reason h
    rw [e, State.lane_modLane]
    exact ⟨rfl, rfl⟩
  | false =>
    obtain ⟨f, e, -⟩ := State.giveUp_first cause reason h
    have bulk := Lane.sameBulk_raise ((s.lane l).givenUp reason) 84 cause (laneNo l) (BitVec.ofNat 32 reason)
    rw [e, State.raiseBoth, State.lane_bothLanes, State.lane_modRind, State.lane_modLane, Lane.sameBulk_lt bulk,
      Lane.sameBulk_flash bulk, Lane.givenUp, Lane.lt_setFlag, Lane.lt_setFlag, Lane.flash_setFlag, Lane.flash_setFlag]
    exact ⟨rfl, rfl⟩

/-! ### A lane resets -/

theorem State.lane_laneReset (s : State) (l : LaneId) (give cause : Nat) :
    (s.laneReset l give cause).lane l = ((s.giveUp l give 0).lane l).inReset cause := by
  rw [State.laneReset, State.lane_modLane, State.lane_cutLinks, Lane.resetKeep_unlinked, Lane.inReset]

theorem State.lane_other_laneReset (s : State) (l : LaneId) (give cause : Nat) :
    (s.laneReset l give cause).lane (other l) = ((s.giveUp l give 0).lane (other l)).unpaired := by
  rw [State.laneReset, State.lane_other_modLane, State.lane_other_cutLinks]

theorem State.die_laneReset (s : State) (l : LaneId) (give cause : Nat) :
    ∃ cs, (s.laneReset l give cause).die = { s.die with cmds := cs } := by
  obtain ⟨cs, h⟩ := State.die_cutLinks (s.giveUp l give 0) l
  refine ⟨cs, ?_⟩
  rw [State.laneReset, State.die_modLane, h, State.die_giveUp]

theorem State.gu_laneReset {s : State} {l : LaneId} (give cause : Nat) (h : (s.lane l).gaveUp = false) :
    (s.laneReset l give cause).rind.flag 0x204 (4 + laneNo l) = true := by
  obtain ⟨f, e, hf⟩ := State.giveUp_first give 0 h
  obtain ⟨tx, hr⟩ := State.rind_cutLinks (s.giveUp l give 0) l
  rw [State.laneReset, State.rind_modLane, hr, e, State.raiseBoth, State.rind_bothLanes, State.rind_modRind]
  exact hf _

/-- The partner of a lane that resets learns that the lane gave up. -/
theorem State.laneReset_raises {s : State} {l : LaneId} (give cause : Nat) (h : (s.lane l).gaveUp = false) :
    Raises (other l) 84 give (laneNo l) 0 s (s.laneReset l give cause) ∧
      SameMemory (other l) s (s.laneReset l give cause) := by
  obtain ⟨f, e, -⟩ := State.giveUp_first give 0 h
  have hl : (s.laneReset l give cause).lane (other l) = ((s.lane (other l)).raise 84 give (laneNo l) 0).unpaired := by
    rw [State.lane_other_laneReset, e, State.raiseBoth, State.lane_bothLanes, State.lane_modRind, State.lane_other_modLane]
    rfl
  have bulk := Lane.sameBulk_raise (s.lane (other l)) 84 give (laneNo l) 0
  have hs := Lane.sameBulk_sram bulk
  have hf := Lane.sameBulk_flash bulk
  exact ⟨Raises.of_lane (by decide) (by rw [hl]; rfl) (by rw [hl]; rfl),
    SameMemory.of_lane (by rw [hl]; exact hs) (by rw [hl]; exact hf)⟩

end Sys2Proof.Machine
end

