-- ==== Sys2Proof/Proofs/ClocksAndPads.lean ====
section
/-!
SUPPORT. The start and stop of the TCXO, and load switches that go off or follow their lines again.
-/

namespace Sys2Proof.Machine

/-! ### The start and stop of the TCXO -/

/-- The rind but for its account of the coast on the crystal (R76, R77). -/
def Rind.SameButCoast (r q : Rind) : Prop := ∃ x b k c, q = { r with xtalCoast := x, coastRC := b, xtRate := k, coast := c }

theorem Rind.SameButCoast.refl (r : Rind) : r.SameButCoast r := ⟨r.xtalCoast, r.coastRC, r.xtRate, r.coast, rfl⟩

theorem Rind.SameButCoast.trans {r q p : Rind} (h : r.SameButCoast q) (k : q.SameButCoast p) : r.SameButCoast p := by
  obtain ⟨_, _, _, _, rfl⟩ := h
  obtain ⟨x, b, n, c, rfl⟩ := k
  exact ⟨x, b, n, c, rfl⟩

theorem State.rind_payCoast (s : State) (l : LaneId) : s.rind.SameButCoast (s.payCoast l).rind := by
  rw [State.payCoast, State.rind_modRind, State.rind_modLane]
  exact ⟨_, _, _, _, rfl⟩

theorem State.die_payCoast (s : State) (l : LaneId) : (s.payCoast l).die = s.die := by
  rw [State.payCoast, State.die_modRind, State.die_modLane]

theorem State.lane_payCoast (s : State) (l : LaneId) :
    (s.payCoast l).lane l = (s.lane l).endCoast (s.rind.coast.get l) := by
  rw [State.payCoast, State.lane_modRind, State.lane_modLane]

theorem State.lane_other_payCoast (s : State) (l : LaneId) : (s.payCoast l).lane (other l) = s.lane (other l) := by
  rw [State.payCoast, State.lane_modRind, State.lane_other_modLane]

theorem State.rind_stopTcxo (s : State) : s.rind.SameButCoast s.stopTcxo.rind := ⟨_, _, _, _, rfl⟩

theorem State.lane_stopTcxo (s : State) (l : LaneId) : s.stopTcxo.lane l = (s.lane l).unpaired := by
  rw [State.stopTcxo, State.lane_bothLanes, State.lane_modRind, Lane.unpaired]

/-- As the TCXO starts, a lane that is out of reset takes LT from the replica and settles its coast. -/
def State.resumeLane (e : Die) (s : State) (l : LaneId) : State :=
  if (s.lane l).alive then
    (s.modLane l (fun L => { L with lt := e.replica, time := { L.time with sub := e.sub, last := e.replica } })).payCoast l
  else s

theorem State.startTcxo_eq (s : State) : ∃ q, s.rind.SameButCoast q ∧
    s.startTcxo = ((s.modRind (fun _ => q)).resumeLane s.die .a).resumeLane s.die .b := ⟨_, ⟨_, _, _, _, rfl⟩, rfl⟩

theorem State.die_resumeLane (e : Die) (s : State) (l : LaneId) : (s.resumeLane e l).die = s.die := by
  rw [State.resumeLane]
  split
  · rw [State.die_payCoast, State.die_modLane]
  · rfl

theorem State.rind_resumeLane (e : Die) (s : State) (l : LaneId) : s.rind.SameButCoast (s.resumeLane e l).rind := by
  rw [State.resumeLane]
  split
  · have h := State.rind_payCoast (s.modLane l (fun L =>
      { L with lt := e.replica, time := { L.time with sub := e.sub, last := e.replica } })) l
    rwa [State.rind_modLane] at h
  · exact Rind.SameButCoast.refl _

theorem State.lane_other_resumeLane (e : Die) (s : State) (l : LaneId) :
    (s.resumeLane e l).lane (other l) = s.lane (other l) := by
  rw [State.resumeLane]
  split
  · rw [State.lane_other_payCoast, State.lane_other_modLane]
  · rfl

theorem State.resumeLane_off (e : Die) {s : State} {l : LaneId} (h : (s.lane l).alive = false) : s.resumeLane e l = s :=
  if_neg (by rw [h]; decide)

theorem State.die_startTcxo (s : State) : s.startTcxo.die = s.die := by
  obtain ⟨q, -, e⟩ := State.startTcxo_eq s
  rw [e, State.die_resumeLane, State.die_resumeLane, State.die_modRind]

theorem State.rind_startTcxo (s : State) : s.rind.SameButCoast s.startTcxo.rind := by
  obtain ⟨q, hq, e⟩ := State.startTcxo_eq s
  rw [e]
  exact hq.trans ((State.rind_resumeLane ..).trans (State.rind_resumeLane ..))

/-- A lane that stays in reset takes no part in the start of the TCXO. -/
theorem State.lane_startTcxo_off {s : State} {l : LaneId} (h : (s.lane l).alive = false) :
    s.startTcxo.lane l = s.lane l := by
  obtain ⟨q, -, e⟩ := State.startTcxo_eq s
  rw [e]
  cases l with
  | a =>
    rw [State.resumeLane_off s.die (show ((s.modRind fun _ => q).lane .a).alive = false from h)]
    exact State.lane_other_resumeLane s.die (s.modRind fun _ => q) .b
  | b =>
    have ha : ((s.modRind fun _ => q).resumeLane s.die .a).lane .b = s.lane .b :=
      State.lane_other_resumeLane s.die (s.modRind fun _ => q) .a
    rw [State.resumeLane_off s.die (by rw [ha, h]), ha]

/-- What a change of the power ladder or the supply does to the TCXO leaves the die and the rest of the rind. -/
theorem State.die_clocked (s : State) (f : State → State) : (s.clocked f).die = (f s).die := by
  unfold State.clocked
  dsimp only
  split
  · rfl
  · split
    · exact State.die_startTcxo (f s)
    · rfl

theorem State.rind_clocked (s : State) (f : State → State) : (f s).rind.SameButCoast (s.clocked f).rind := by
  unfold State.clocked
  dsimp only
  split
  · exact Rind.SameButCoast.refl _
  · split
    · exact State.rind_startTcxo (f s)
    · exact State.rind_stopTcxo (f s)

/-- Where the TCXO does not run after the change, the lanes lose at most the measurement of their partner. -/
theorem State.lane_clocked_stopped {s : State} {f : State → State} (h : (f s).tcxo = false) (l : LaneId) :
    (s.clocked f).lane l = (f s).lane l ∨ (s.clocked f).lane l = ((f s).lane l).unpaired := by
  unfold State.clocked
  dsimp only
  rw [h]
  split
  · exact .inl rfl
  · exact .inr (State.lane_stopTcxo (f s) l)

/-- Where the TCXO did not run before the change, a lane in reset takes no part in its start. -/
theorem State.lane_clocked_off {s : State} {f : State → State} {l : LaneId} (hs : s.tcxo = false)
    (h : ((f s).lane l).alive = false) : (s.clocked f).lane l = (f s).lane l := by
  unfold State.clocked
  dsimp only
  split
  · rfl
  · next hne =>
    rw [hs, Bool.not_eq_false] at hne
    rw [if_pos hne]
    exact State.lane_startTcxo_off h

theorem State.tcxo_of_noVlog {s : State} (h : s.rind.vlogOk = false) : s.tcxo = false := by
  rw [State.tcxo, h, Bool.false_and]

/-! ### The load switches -/

/-- The state but for its load switches. -/
def SwitchesOnly (s t : State) : Prop := ∃ sw, t = s.modDie (fun d => { d with sw := sw })

theorem SwitchesOnly.refl (s : State) : SwitchesOnly s s := ⟨s.die.sw, rfl⟩

theorem SwitchesOnly.trans {s t u : State} (h : SwitchesOnly s t) (k : SwitchesOnly t u) : SwitchesOnly s u := by
  obtain ⟨_, rfl⟩ := h
  obtain ⟨sw, rfl⟩ := k
  exact ⟨sw, rfl⟩

theorem SwitchesOnly.setSw (s : State) (n : Nat) (w : Sw) : SwitchesOnly s (s.setSw n w) := ⟨_, rfl⟩

theorem SwitchesOnly.softOff (s : State) (n : Nat) : SwitchesOnly s (s.softOff n) := by
  unfold State.softOff
  dsimp only
  split
  · exact SwitchesOnly.setSw ..
  · exact SwitchesOnly.refl s

theorem SwitchesOnly.follow (s : State) (n : Nat) : SwitchesOnly s (s.follow n) := by
  unfold State.follow
  dsimp only
  split
  · exact SwitchesOnly.refl s
  · exact SwitchesOnly.setSw ..

theorem SwitchesOnly.foldl {α : Type} {f : State → α → State} (hf : ∀ s x, SwitchesOnly s (f s x)) (xs : List α)
    (s : State) : SwitchesOnly s (xs.foldl f s) := by
  induction xs generalizing s with
  | nil => exact SwitchesOnly.refl s
  | cons x xs ih => exact (hf s x).trans (ih _)

theorem SwitchesOnly.lane {s t : State} (h : SwitchesOnly s t) (l : LaneId) : t.lane l = s.lane l := by
  obtain ⟨sw, rfl⟩ := h
  exact State.lane_modDie ..

theorem SwitchesOnly.rind {s t : State} (h : SwitchesOnly s t) : t.rind = s.rind := by
  obtain ⟨sw, rfl⟩ := h
  rfl

theorem SwitchesOnly.die {s t : State} (h : SwitchesOnly s t) : { t.die with sw := [] } = { s.die with sw := [] } := by
  obtain ⟨sw, rfl⟩ := h
  rfl

theorem State.swt_setSw (s : State) (n m : Nat) (w : Sw) : (s.setSw n w).die.swt m = if m = n then w else s.die.swt m :=
  Tab.get_set s.die.sw Sw.reset m n w

/-- Turning a pad off leaves it neither in inrush nor on. -/
theorem State.swt_softOff_self (s : State) (n : Nat) :
    ((s.softOff n).die.swt n).ph ≠ 1 ∧ ((s.softOff n).die.swt n).ph ≠ 2 := by
  unfold State.softOff
  dsimp only
  split
  · rw [State.swt_setSw, if_pos rfl]
    exact ⟨Nat.succ_succ_ne_one 1, Nat.succ_ne_self 2⟩
  · next h => exact not_or.1 h

theorem State.swt_softOff_ne (s : State) {n m : Nat} (h : m ≠ n) : (s.softOff n).die.swt m = s.die.swt m := by
  unfold State.softOff
  dsimp only
  split
  · rw [State.swt_setSw, if_neg h]
  · rfl

/-! ### Pads that follow their lines again -/

/-- A switch that follows its line again: a pad that is off and that nothing else holds off takes a line that is on as a
rise. -/
def Sw.followed (w : Sw) : Sw :=
  if w.ph = 1 ∨ w.ph = 2 ∨ w.tlatch ∨ w.locked ∨ w.backoff.isSome ∨ w.defer then w else { w with inp := false }

theorem Sw.followed_followed (w : Sw) : w.followed.followed = w.followed := by
  unfold Sw.followed
  by_cases h : w.ph = 1 ∨ w.ph = 2 ∨ w.tlatch ∨ w.locked ∨ w.backoff.isSome ∨ w.defer
  · rw [if_pos h, if_pos h]
  · rw [if_neg h]
    exact if_neg h

theorem State.swt_follow (s : State) (n m : Nat) :
    (s.follow n).die.swt m = if m = n then (s.die.swt n).followed else s.die.swt m := by
  unfold State.follow Sw.followed
  dsimp only
  by_cases h : (s.die.swt n).ph = 1 ∨ (s.die.swt n).ph = 2 ∨ (s.die.swt n).tlatch ∨ (s.die.swt n).locked ∨
      (s.die.swt n).backoff.isSome ∨ (s.die.swt n).defer
  · rw [if_pos h, if_pos h]
    split
    · next e => rw [e]
    · rfl
  · rw [if_neg h, if_neg h]
    exact State.swt_setSw ..

/-- One DIRECT channel follows its pad again. -/
def State.followDirect (s : State) (j : Nat) : State := if s.steer (192 + j) = 2 then s.follow (192 + j) else s

theorem SwitchesOnly.followDirect (s : State) (j : Nat) : SwitchesOnly s (s.followDirect j) := by
  rw [State.followDirect]
  split
  · exact SwitchesOnly.follow ..
  · exact SwitchesOnly.refl s

theorem State.directFollow_eq (s : State) : s.directFollow = (List.range 16).foldl State.followDirect s := rfl

theorem SwitchesOnly.directFollow (s : State) : SwitchesOnly s s.directFollow :=
  SwitchesOnly.foldl SwitchesOnly.followDirect ..

theorem State.swt_followDirect_ne (s : State) {j m : Nat} (h : m ≠ 192 + j) :
    (s.followDirect j).die.swt m = s.die.swt m := by
  rw [State.followDirect]
  split
  · rw [State.swt_follow, if_neg h]
  · rfl

theorem State.swt_followDirect_self {s : State} {j : Nat} (h : s.steer (192 + j) = 2) :
    (s.followDirect j).die.swt (192 + j) = (s.die.swt (192 + j)).followed := by
  rw [State.followDirect, if_pos h, State.swt_follow, if_pos rfl]

theorem State.swt_followDirect_cases (s : State) (j m : Nat) :
    (s.followDirect j).die.swt m = s.die.swt m ∨ (s.followDirect j).die.swt m = (s.die.swt m).followed := by
  by_cases hm : m = 192 + j
  · subst hm
    by_cases h : s.steer (192 + j) = 2
    · exact .inr (State.swt_followDirect_self h)
    · exact .inl (by rw [State.followDirect, if_neg h])
  · exact .inl (State.swt_followDirect_ne s hm)

theorem State.steer_followDirect (s : State) (j u : Nat) : (s.followDirect j).steer u = s.steer u := by
  rw [State.steer, (SwitchesOnly.followDirect s j).rind, State.steer]

theorem State.swt_directFollow_of_lt (s : State) {m : Nat} (h : m < 192) : s.directFollow.die.swt m = s.die.swt m :=
  foldl_keeps (fun t : State => t.die.swt m) (fun t j => State.swt_followDirect_ne t (by omega)) (List.range 16) s

/-- A switch follows once: a second time changes nothing. -/
theorem State.swt_foldl_followDirect (s : State) (js : List Nat) (m : Nat) :
    (js.foldl State.followDirect s).die.swt m = s.die.swt m ∨
      (js.foldl State.followDirect s).die.swt m = (s.die.swt m).followed := by
  induction js generalizing s with
  | nil => exact .inl rfl
  | cons j js ih =>
    rw [List.foldl_cons]
    obtain k | k := State.swt_followDirect_cases s j m
    · exact k ▸ ih (s.followDirect j)
    · have h := ih (s.followDirect j)
      rw [k, Sw.followed_followed, or_self] at h
      exact .inr h

/-- Every DIRECT channel follows its pad again. -/
theorem State.swt_directFollow {s : State} {n : Nat} (h1 : 192 ≤ n) (h2 : n < 208) (hn : s.steer n = 2) :
    s.directFollow.die.swt n = (s.die.swt n).followed := by
  obtain ⟨j, rfl⟩ := Nat.exists_eq_add_of_le h1
  have settled : s.directFollow.steer (192 + j) = 2 →
      s.directFollow.die.swt (192 + j) = (s.directFollow.die.swt (192 + j)).followed := by
    rw [State.directFollow_eq]
    refine foldl_brings (Q := fun j (t : State) => t.steer (192 + j) = 2 → t.die.swt (192 + j) = (t.die.swt (192 + j)).followed)
      (fun t i h => ?_) (fun t i k hk h => ?_) (.inl (List.mem_range.2 (by omega)))
    · rw [State.steer_followDirect] at h
      rw [State.swt_followDirect_self h, Sw.followed_followed]
    · rw [State.steer_followDirect] at h
      by_cases hik : k = i
      · subst hik
        rw [State.swt_followDirect_self h, Sw.followed_followed]
      · rw [State.swt_followDirect_ne t (by omega)]
        exact hk h
  obtain h | h := State.swt_foldl_followDirect s (List.range 16) (192 + j) <;> rw [← State.directFollow_eq] at h
  · rw [settled (by rw [State.steer, SwitchesOnly.directFollow s |>.rind]; exact hn), h]
  · exact h

/-- A channel that nothing holds off has its input line off once it follows again. -/
theorem Sw.inp_followed {w : Sw} (hp : w.ph = 0) (ht : w.tlatch = false) (hl : w.locked = false)
    (hb : w.backoff = none) (hd : w.defer = false) : w.followed.inp = false := by
  rw [Sw.followed, if_neg (by rw [hp, ht, hl, hb, hd]; decide)]

end Sys2Proof.Machine
end

