-- ==== Sys2Proof/Proofs/HomeSteering.lean ====
section
/-!
SUPPORT. The rind without a lane in control, every unit steered to the home port.
-/

namespace Sys2Proof.Machine

/-! ### Steering to the home port -/

theorem get_foldl_steer (v : Nat) (us : List Nat) (t : Tab Nat) (u : Nat) :
    Tab.get (us.foldl (fun t u => if Tab.get t 0 u = 2 then t else Tab.set t 0 u v) t) 0 u =
      if u ∈ us ∧ Tab.get t 0 u ≠ 2 then v else Tab.get t 0 u := by
  induction us generalizing t with
  | nil => rw [if_neg fun h => List.not_mem_nil h.1]; rfl
  | cons k us ih =>
    rw [List.foldl_cons, ih]
    by_cases hk : Tab.get t 0 k = 2
    · rw [if_pos hk]
      by_cases hu : u = k
      · subst hu
        rw [if_neg (by tauto), if_neg (by tauto)]
      · simp only [List.mem_cons, hu, false_or]
    · rw [if_neg hk, Tab.get_set]
      by_cases hu : u = k
      · subst hu
        rw [if_pos rfl, ite_self, if_pos ⟨List.mem_cons_self, hk⟩]
      · rw [if_neg hu]
        simp only [List.mem_cons, hu, false_or]

/-- Steering every unit changes the steering alone. -/
theorem Rind.steerAll_eq (r : Rind) (l : LaneId) : ∃ t, r.steerAll l = { r with steer := t } := ⟨_, rfl⟩

/-- R72, R573: every unit that is not DIRECT is steered to the port of the lane. -/
theorem Rind.get_steerAll (r : Rind) (l : LaneId) {u : Nat} (h : u < 232) :
    Tab.get (r.steerAll l).steer 0 u = if Tab.get r.steer 0 u = 2 then 2 else laneNo l := by
  rw [Rind.steerAll, get_foldl_steer]
  by_cases hu : Tab.get r.steer 0 u = 2
  · rw [if_pos hu, if_neg fun h => h.2 hu, hu]
  · rw [if_neg hu, if_pos ⟨List.mem_range.2 h, hu⟩]

theorem Rind.laneNo_home (r : Rind) : laneNo (laneOfNo (r.fld 0x200 0 1)) = r.fld 0x200 0 1 := by
  have h : r.fld 0x200 0 1 < 2 := fieldNat_lt ..
  generalize r.fld 0x200 0 1 = n at h
  interval_cases n <;> rfl

/-- A proof swap in progress ends as aborted. -/
def Rind.proofAborted (r : Rind) : Rind :=
  if r.proving.isSome then (r.setFlag 0x204 8 false).setFld 0x204 9 2 3 else r

theorem Rind.noControl_eq (r : Rind) (now : Nat) : r.noControl now =
    { r.proofAborted with
      none_ := true
      noneAt := now
      everHeld := false
      plan := none
      proving := none
      toCheck := [] }.setFlag 0x204 13 false := rfl

theorem Rind.rd_proofAborted (r : Rind) {a : Nat} (h : a ≠ 0x204) : r.proofAborted.rd a = r.rd a := by
  rw [Rind.proofAborted]
  split
  · rw [Rind.rd_setFld, if_neg h, Rind.rd_setFlag_ne _ _ _ h]
  · rfl

/-- What the loss of control changes of the rind: RED_STAT, and the record of control. -/
theorem Rind.rd_noControl (r : Rind) (now : Nat) {a : Nat} (h : a ≠ 0x204) : (r.noControl now).rd a = r.rd a := by
  rw [Rind.noControl_eq, Rind.rd_setFlag_ne _ _ _ h]
  exact Rind.rd_proofAborted r h

theorem Rind.proofAborted_frame (r : Rind) : ∃ rs, r.proofAborted = { r with regs := rs } := by
  rw [Rind.proofAborted]
  split
  · exact ⟨_, rfl⟩
  · exact ⟨r.regs, rfl⟩

/-- The rind without a lane in control: its registers, its record of control and its plans apart, as it was. -/
theorem Rind.noControl_frame (r : Rind) (now : Nat) : ∃ rs, r.noControl now =
    { r with
      regs := rs
      none_ := true
      noneAt := now
      everHeld := false
      plan := none
      proving := none
      toCheck := [] } := by
  obtain ⟨rs, h⟩ := Rind.proofAborted_frame r
  rw [Rind.noControl_eq, h]
  exact ⟨_, rfl⟩

/-- The rind steered home: the same, with its steering changed too. -/
theorem Rind.toHome_frame (r : Rind) (now : Nat) : ∃ rs st, r.toHome now =
    { r with
      regs := rs
      steer := st
      none_ := true
      noneAt := now
      everHeld := false
      plan := none
      proving := none
      toCheck := [] } := by
  obtain ⟨st, h⟩ := Rind.steerAll_eq r (laneOfNo (r.fld 0x200 0 1))
  obtain ⟨rs, k⟩ := Rind.noControl_frame { r with steer := st } now
  rw [Rind.toHome, h, k]
  exact ⟨_, st, rfl⟩

theorem Rind.rd_toHome (r : Rind) (now : Nat) {a : Nat} (h : a ≠ 0x204) (h' : a ≠ 0x10) :
    (r.toHome now).rd a = r.rd a := by
  rw [Rind.toHome, Rind.advanceSeq, Rind.rd_setFld, if_neg h', Rind.rd_noControl _ _ h]
  obtain ⟨t, e⟩ := Rind.steerAll_eq r (laneOfNo (r.fld 0x200 0 1))
  rw [e]
  rfl

theorem Rind.seq_toHome (r : Rind) (now : Nat) :
    (r.toHome now).fld 0x10 16 16 = (r.fld 0x10 16 16 + 1) % 65536 := by
  have hq : ((r.steerAll (laneOfNo (r.fld 0x200 0 1))).noControl now).fld 0x10 16 16 = r.fld 0x10 16 16 := by
    obtain ⟨t, e⟩ := Rind.steerAll_eq r (laneOfNo (r.fld 0x200 0 1))
    rw [e]
    exact Rind.fld_of_rd (Rind.rd_noControl { r with steer := t } now (by decide)) 16 16
  rw [Rind.toHome, Rind.advanceSeq, hq, Rind.fld, Rind.rd_setFld, if_pos rfl,
    fieldNat_setFieldNat_self _ _ _ _ (by decide)]
  rfl

theorem Rind.steer_toHome (r : Rind) (now : Nat) {u : Nat} (h : u < 232) :
    Tab.get (r.toHome now).steer 0 u = if Tab.get r.steer 0 u = 2 then 2 else r.fld 0x200 0 1 := by
  rw [Rind.toHome, Rind.steer_advanceSeq, Rind.steer_noControl, Rind.get_steerAll _ _ h, Rind.laneNo_home]

end Sys2Proof.Machine
end

