-- ==== Sys2Proof/Proofs/ResetPin.lean ====
section
/-!
SUPPORT. RESET_N: the module held in reset, and its release (R49, R72, R573).
-/

namespace Sys2Proof.Machine

/-! ### The outputs go off -/

/-- One channel goes off with its soft-off, and its line is taken as off. -/
def State.offCh (s : State) (n : Nat) : State :=
  (s.softOff n).setSw n { (s.softOff n).die.swt n with inp := false, defer := false, retrying := false }

theorem SwitchesOnly.offCh (s : State) (n : Nat) : SwitchesOnly s (s.offCh n) :=
  (SwitchesOnly.softOff s n).trans (SwitchesOnly.setSw ..)

/-- A switch whose channel is off or going off. -/
def Sw.IsOff (w : Sw) : Prop := w.inp = false ∧ w.ph ≠ 1 ∧ w.ph ≠ 2

theorem State.isOff_offCh_self (s : State) (n : Nat) : ((s.offCh n).die.swt n).IsOff := by
  rw [State.offCh, State.swt_setSw, if_pos rfl]
  exact ⟨rfl, State.swt_softOff_self s n⟩

theorem State.isOff_offCh (s : State) (n m : Nat) (h : (s.die.swt m).IsOff) : ((s.offCh n).die.swt m).IsOff := by
  by_cases hm : m = n
  · exact hm ▸ State.isOff_offCh_self s m
  · rwa [State.offCh, State.swt_setSw, if_neg hm, State.swt_softOff_ne s hm]

/-- All channels off, before the rest of the die is reset. -/
def State.channelsOff (s : State) : State := (List.range 208).foldl State.offCh s

theorem SwitchesOnly.channelsOff (s : State) : SwitchesOnly s s.channelsOff :=
  SwitchesOnly.foldl SwitchesOnly.offCh ..

/-- The die with every unit in its reset state and nothing stored (R49, R59). -/
def Die.cleared (d : Die) : Die :=
  { d with cmds := ⟨[], []⟩, due := ⟨[], []⟩, img := ⟨[], []⟩, sh := ⟨[], []⟩, units := [],
           freezing := ⟨false, false⟩, froze := ⟨[], []⟩, forcedOff := true, safeOff := false }

theorem State.outputsOff_eq (s : State) : s.outputsOff = s.channelsOff.modDie Die.cleared := by
  rw [State.outputsOff, State.channelsOff]
  generalize List.range 208 = ns
  rfl

theorem State.lane_outputsOff (s : State) (l : LaneId) : s.outputsOff.lane l = s.lane l := by
  rw [State.outputsOff_eq, State.lane_modDie, (SwitchesOnly.channelsOff s).lane]

theorem State.rind_outputsOff (s : State) : s.outputsOff.rind = s.rind := by
  rw [State.outputsOff_eq, State.rind_modDie, (SwitchesOnly.channelsOff s).rind]

theorem State.isOff_channelsOff (s : State) {n : Nat} (h : n < 208) : (s.channelsOff.die.swt n).IsOff :=
  foldl_brings (Q := fun n (t : State) => (t.die.swt n).IsOff) State.isOff_offCh_self
    (fun t k m h => State.isOff_offCh t k m h) (.inl (List.mem_range.2 h))

theorem Die.swt_cleared (d : Die) (n : Nat) : d.cleared.swt n = d.swt n := rfl

/-! ### RESET_N -/

/-- What RESET_N going low does. -/
def State.assertReset (s : State) : State :=
  ((s.holdBoth 1).outputsOff).modRind (fun r => ({ r with resetLow := true }).toHome (s.holdBoth 1).outputsOff.die.replica)

theorem execResetNAssert_high {s : State} (h : s.rind.resetLow = false) :
    exec .resetNAssert s = .next s.assertReset := by
  show execResetNAssert s = _
  rw [execResetNAssert, if_neg (by rw [h]; decide), State.assertReset, State.holdBoth]

theorem execResetNAssert_low {s : State} (h : s.rind.resetLow = true) : exec .resetNAssert s = .next s :=
  congrArg _ (if_pos h)

/-- What RESET_N going high ends: every turn-off of its own. -/
def State.releaseReset (s : State) : State :=
  (s.modRind (fun r => { r with resetLow := false })).modDie (fun d => { d with forcedOff := !s.rind.vlogOk })

theorem execResetNRelease_low {s : State} (h : s.rind.resetLow = true) :
    exec .resetNRelease s = .next s.releaseReset.directFollow := by
  show execResetNRelease s = _
  rw [execResetNRelease, if_pos h, State.releaseReset]
  dsimp only [State.rind_modRind]

theorem State.control_none {s : State} (h : s.rind.none_ = true) : s.control = none := if_pos h

theorem State.lane_assertReset (s : State) (l : LaneId) : s.assertReset.lane l = (s.holdBoth 1).lane l := by
  rw [State.assertReset, State.lane_modRind, State.lane_outputsOff]

theorem State.die_assertReset (s : State) : s.assertReset.die = (s.holdBoth 1).channelsOff.die.cleared := by
  rw [State.assertReset, State.die_modRind, State.outputsOff_eq, State.die_modDie]

theorem State.rind_assertReset (s : State) :
    ∃ now, s.assertReset.rind = ({ (s.holdBoth 1).rind with resetLow := true }).toHome now := by
  refine ⟨(s.holdBoth 1).outputsOff.die.replica, ?_⟩
  rw [State.assertReset, State.rind_modRind, State.rind_outputsOff]

theorem Rind.HoldFrame.home {r q : Rind} (h : r.HoldFrame q) : q.fld 0x200 0 1 = r.fld 0x200 0 1 :=
  Rind.fld_of_rd (h.rd _ (by decide)) 0 1

theorem Rind.HoldFrame.seq {r q : Rind} (h : r.HoldFrame q) : q.fld 0x10 16 16 = r.fld 0x10 16 16 :=
  Rind.fld_of_rd (h.rd _ (by decide)) 16 16

/-- The die that `Die.cleared` describes holds no command and drives no output. -/
theorem Die.cleared_empty (d : Die) : d.cleared.cmds = ⟨[], []⟩ ∧ d.cleared.due = ⟨[], []⟩ ∧ d.cleared.units = [] ∧
    d.cleared.forcedOff = true := ⟨rfl, rfl, rfl, rfl⟩

theorem resetNAssert_holds {s : State} (h : s.rind.resetLow = false) : ∃ t, exec .resetNAssert s = .next t ∧
    (∀ l, (t.lane l).phase = .off ∧ (t.lane l).fld 0x40000010 8 4 = 1 ∧ (t.lane l).lt = (s.lane l).lt ∧
      (t.lane l).flash = (s.lane l).flash ∧ (t.lane l).link = []) ∧
    t.die.cmds = ⟨[], []⟩ ∧ t.die.due = ⟨[], []⟩ ∧ t.die.units = [] ∧ t.die.forcedOff = true ∧
    (∀ n, n < 208 → (t.die.swt n).inp = false ∧ (t.die.swt n).ph ≠ 1 ∧ (t.die.swt n).ph ≠ 2) ∧
    (∀ u, u < 232 → t.steer u = if s.steer u = 2 then 2 else s.rind.fld 0x200 0 1) ∧ t.control = none ∧
    t.rind.fld 0x10 16 16 = (s.rind.fld 0x10 16 16 + 1) % 65536 ∧ t.rind.resetLow = true := by
  have lanes : ∀ l, HeldFrom (s.lane l) 1 (s.assertReset.lane l) := fun l => by
    rw [State.lane_assertReset]
    exact State.heldFrom_holdBoth s (by decide) l
  have off : ∀ n, n < 208 → (s.assertReset.die.swt n).IsOff := fun n hn => by
    rw [State.die_assertReset, Die.swt_cleared]
    exact State.isOff_channelsOff (s.holdBoth 1) hn
  obtain ⟨cmds, due, units, forced⟩ := Die.cleared_empty (s.holdBoth 1).channelsOff.die
  rw [← State.die_assertReset] at cmds due units forced
  obtain ⟨now, rind⟩ := State.rind_assertReset s
  have ex := execResetNAssert_high h
  have held := State.rind_holdBoth s 1
  generalize s.assertReset = t at *
  generalize (s.holdBoth 1).rind = r at *
  obtain ⟨rs, st, frame⟩ := Rind.toHome_frame { r with resetLow := true } now
  refine ⟨t, ex, fun l => ?_, cmds, due, units, forced, off, fun u hu => ?_, State.control_none ?_, ?_, ?_⟩
  · obtain ⟨hp, hc, hl, hf, hk⟩ := lanes l
    exact ⟨hp, hc, hl, hf, hk⟩
  · rw [State.steer, rind, Rind.steer_toHome _ _ hu, State.steer, ← held.steer, ← held.home]
    rfl
  · rw [rind, frame]
  · rw [rind, Rind.seq_toHome, ← held.seq]
    rfl
  · rw [rind, frame]

theorem resetNRelease_follows {s : State} (h : s.rind.resetLow = true) : ∃ t, exec .resetNRelease s = .next t ∧
    t.rind = { s.rind with resetLow := false } ∧ t.laneA = s.laneA ∧ t.laneB = s.laneB ∧
    { t.die with sw := [], forcedOff := false } = { s.die with sw := [], forcedOff := false } ∧
    t.die.forcedOff = !s.rind.vlogOk ∧ (∀ n, n < 192 → t.die.swt n = s.die.swt n) ∧
    ∀ n, 192 ≤ n → n < 208 → s.steer n = 2 → (s.die.swt n).ph = 0 → (s.die.swt n).tlatch = false →
      (s.die.swt n).locked = false → (s.die.swt n).backoff = none → (s.die.swt n).defer = false →
      (t.die.swt n).inp = false := by
  have ex := execResetNRelease_low h
  have sw := SwitchesOnly.directFollow s.releaseReset
  have below : ∀ n, n < 192 → s.releaseReset.directFollow.die.swt n = s.die.swt n :=
    fun n hn => State.swt_directFollow_of_lt s.releaseReset hn
  have direct : ∀ n, 192 ≤ n → n < 208 → s.steer n = 2 → s.releaseReset.directFollow.die.swt n = (s.die.swt n).followed :=
    fun n h1 h2 hs => State.swt_directFollow (s := s.releaseReset) h1 h2 hs
  generalize s.releaseReset.directFollow = t at *
  refine ⟨t, ex, sw.rind, sw.lane .a, sw.lane .b, congrArg (fun d : Die => { d with forcedOff := false }) sw.die,
    congrArg Die.forcedOff sw.die, below, fun n h1 h2 hs hp ht hl hb hd => ?_⟩
  rw [direct n h1 h2 hs]
  exact Sw.inp_followed hp ht hl hb hd

theorem resetNHoldsTheModule : Sys2Proof.Claims.ResetNHoldsTheModule :=
  fun _ => ⟨resetNAssert_holds, fun h => ⟨execResetNAssert_low h, resetNRelease_follows h⟩⟩

end Sys2Proof.Machine
end

