-- ==== Sys2Proof/Proofs/Supplies.lean ====
section
/-!
SUPPORT. The loss and return of VLOG, the hold store, and the crystal (R59, R64, R69, R72).
-/

namespace Sys2Proof.Machine

theorem Rind.SameButCoast.rd {r q : Rind} (h : r.SameButCoast q) (a : Nat) : q.rd a = r.rd a := by
  obtain ⟨_, _, _, _, rfl⟩ := h
  rfl

/-! ### VLOG fails -/

/-- What the rind records of a loss of VLOG (R59): VLOG_UV, the event for each lane, no transition. -/
def Rind.vlogLost (r : Rind) : Rind :=
  ({ r with vlogOk := false, vlogRec := ⟨true, true⟩, trans := none }.setFlag 0x104 4 false).setFlag 0x110 16 true

theorem State.lane_loseVlog (s : State) (l : LaneId) : s.loseVlog.lane l = (s.holdBoth 0).lane l := by
  rw [State.loseVlog]
  exact (State.lane_modRind ..).trans (State.lane_outputsOff ..)

theorem State.die_loseVlog (s : State) : s.loseVlog.die = (s.holdBoth 0).channelsOff.die.cleared := by
  rw [State.loseVlog, ← State.holdBoth]
  rw [State.die_modRind, State.outputsOff_eq, State.die_modDie]

theorem State.rind_loseVlog (s : State) : ∃ now, s.loseVlog.rind = (s.holdBoth 0).rind.vlogLost.toHome now := by
  refine ⟨(s.holdBoth 0).outputsOff.die.replica, ?_⟩
  rw [State.loseVlog, ← State.holdBoth]
  rw [State.rind_modRind, State.rind_outputsOff, Rind.vlogLost]

/-- What the rind holds once VLOG is lost and the outputs are steered home. -/
theorem Rind.vlogLost_toHome (r : Rind) (now : Nat) :
    (r.vlogLost.toHome now).flag 0x110 16 = true ∧ (r.vlogLost.toHome now).flag 0x104 4 = false ∧
      (r.vlogLost.toHome now).vlogOk = false ∧ (r.vlogLost.toHome now).vlogRec = ⟨true, true⟩ ∧
      (r.vlogLost.toHome now).trans = none ∧ (r.vlogLost.toHome now).none_ = true ∧
      (r.vlogLost.toHome now).mcnt = r.mcnt := by
  refine ⟨?_, ?_, ?_⟩
  · rw [Rind.flag_of_rd (Rind.rd_toHome _ now (by decide) (by decide)), Rind.vlogLost, Rind.flag_setFlag_self _ _ _ (by decide)]
  · rw [Rind.flag_of_rd (Rind.rd_toHome _ now (by decide) (by decide)), Rind.vlogLost, Rind.flag_setFlag _ _ _ _ _ (by decide),
      if_neg (by decide), Rind.flag_setFlag_self _ _ _ (by decide)]
  · obtain ⟨rs, st, h⟩ := Rind.toHome_frame r.vlogLost now
    rw [h]
    exact ⟨rfl, rfl, rfl, rfl, by rw [Rind.vlogLost, Rind.mcnt_setFlag, Rind.mcnt_setFlag]⟩

theorem execVlogLoss_supplied {s : State} (h : s.rind.vlogOk = true) :
    exec .vlogLoss s = .next (s.clocked State.loseVlog) := by
  show execVlogLoss s = _
  rw [execVlogLoss, if_pos h]

theorem execVlogLoss_unsupplied {s : State} (h : s.rind.vlogOk = false) : exec .vlogLoss s = .next s := by
  show execVlogLoss s = _
  rw [execVlogLoss, if_neg (by rw [h]; decide)]

theorem vlogLoss_resets {s : State} (h : s.rind.vlogOk = true) : ∃ t, exec .vlogLoss s = .next t ∧
    (∀ l, (t.lane l).phase = .off ∧ (t.lane l).fld 0x40000010 8 4 = 0 ∧ (t.lane l).flash = (s.lane l).flash ∧
      (t.lane l).lt = (s.lane l).lt ∧ t.rind.vlogRec.get l = true) ∧
    t.rind.flag 0x110 16 = true ∧ t.rind.vlogOk = false ∧ t.rind.trans = none ∧ t.rind.flag 0x104 4 = false ∧
    t.die.units = [] ∧ t.die.cmds = ⟨[], []⟩ ∧
    t.die.forcedOff = true ∧ t.control = none ∧ t.rind.mcnt = s.rind.mcnt := by
  obtain ⟨now, hr⟩ := State.rind_loseVlog s
  obtain ⟨uv, busy, ok, rec, trans, none_, mcnt⟩ := Rind.vlogLost_toHome (s.holdBoth 0).rind now
  rw [(State.rind_holdBoth s 0).mcnt] at mcnt
  rw [← hr] at uv busy ok rec trans none_ mcnt
  obtain ⟨cmds, -, units, forced⟩ := Die.cleared_empty (s.holdBoth 0).channelsOff.die
  rw [← State.die_loseVlog, ← State.die_clocked s] at cmds units forced
  have lanes : ∀ l, HeldFrom (s.lane l) 0 ((s.clocked State.loseVlog).lane l) := fun l => by
    have held := State.heldFrom_holdBoth s (by decide : 0 < 16) l
    rw [← State.lane_loseVlog] at held
    obtain e | e := State.lane_clocked_stopped (f := State.loseVlog) (State.tcxo_of_noVlog ok) l <;> rw [e]
    · exact held
    · exact held.unpaired
  have frame := State.rind_clocked s State.loseVlog
  have ex := execVlogLoss_supplied h
  generalize s.clocked State.loseVlog = t at *
  generalize s.loseVlog.rind = r at *
  refine ⟨t, ex, fun l => ?_, (Rind.flag_of_rd (frame.rd _) 16).trans uv, ?_, ?_, (Rind.flag_of_rd (frame.rd _) 4).trans busy,
    units, cmds, forced, State.control_none ?_, ?_⟩
  · obtain ⟨hp, hc, hl, hf, -⟩ := lanes l
    refine ⟨hp, hc, hf, hl, ?_⟩
    obtain ⟨_, _, _, _, e⟩ := frame
    rw [e]
    show r.vlogRec.get l = true
    rw [rec]
    cases l <;> rfl
  all_goals
    obtain ⟨_, _, _, _, e⟩ := frame
    rw [e]
    assumption

/-! ### The hold store runs empty -/

theorem execHoldStoreEmpty_supplied {s : State} (h : s.rind.vlogOk = true) : exec .holdStoreEmpty s = .next s := by
  show execHoldStoreEmpty s = _
  rw [execHoldStoreEmpty, if_pos h]

/-- The module whose rind has lost its state (R11, R59, R74). -/
def State.holdLost (s : State) : State :=
  { s with rind := Rind.reset.kept s.rind, die := Die.reset }.bothLanes (fun L => { L with lt := 0, time := TimeSt.reset })

theorem execHoldStoreEmpty_unsupplied {s : State} (h : s.rind.vlogOk = false) :
    exec .holdStoreEmpty s = .next s.holdLost := by
  show execHoldStoreEmpty s = _
  rw [execHoldStoreEmpty, if_neg (by rw [h]; decide), State.holdLost]

theorem holdStoreEmpty_loses {s : State} (h : s.rind.vlogOk = false) : ∃ t, exec .holdStoreEmpty s = .next t ∧
    t.die = Die.reset ∧ t.rind.mcnt = s.rind.mcnt ∧ t.rind.rd 0x220 = s.rind.rd 0x220 ∧
    (∀ a, a ≠ 0x220 → t.rind.rd a = Rind.reset.rd a) ∧ t.rind.holdEmpty = true ∧ t.control = none ∧
    ∀ l, (t.lane l).lt = 0 ∧ (t.lane l).time = TimeSt.reset ∧ (t.lane l).flash = (s.lane l).flash ∧
      (t.lane l).regs = (s.lane l).regs := by
  have hr : s.holdLost.rind = Rind.reset.kept s.rind := rfl
  refine ⟨_, execHoldStoreEmpty_unsupplied h, rfl, rfl, ?_, fun a ha => ?_, rfl, rfl, fun l => ?_⟩
  · rw [hr, Rind.kept, Rind.rd_wr_self]
  · rw [hr, Rind.kept, Rind.rd_wr_ne _ _ ha]
    rfl
  · rw [State.holdLost, State.lane_bothLanes]
    cases l <;> exact ⟨rfl, rfl, rfl, rfl⟩

/-! ### VLOG returns -/

/-- The rind as VLOG returns (R72 step 1): from an empty hold store it starts anew, else it steers home. -/
def Rind.powered (strap : Fin 4) (r : Rind) : Rind :=
  if r.holdEmpty then
    { r with holdEmpty := false, steer := [], mgmt := { r.mgmt with busAddr := 0x58 + strap.val } }.setFlag 0x110 18 true
  else r.steerAll (laneOfNo (r.fld 0x200 0 1))

theorem Rind.powered_frame (strap : Fin 4) (r : Rind) : (r.powered strap).holdEmpty = false ∧
    (r.powered strap).resetLow = r.resetLow ∧ ∀ a, a ≠ 0x110 → (r.powered strap).rd a = r.rd a := by
  rw [Rind.powered]
  split
  · exact ⟨rfl, Rind.resetLow_setFlag .., fun a ha => Rind.rd_setFlag_ne _ _ _ ha⟩
  · next h =>
    obtain ⟨st, e⟩ := Rind.steerAll_eq r (laneOfNo (r.fld 0x200 0 1))
    rw [e]
    exact ⟨Bool.eq_false_iff.2 h, rfl, fun _ _ => rfl⟩

theorem Rind.steer_powered (strap : Fin 4) (r : Rind) {u : Nat} (h : u < 232) : Tab.get (r.powered strap).steer 0 u =
    if r.holdEmpty = true then 0 else if Tab.get r.steer 0 u = 2 then 2 else r.fld 0x200 0 1 := by
  rw [Rind.powered]
  split
  · rfl
  · rw [Rind.get_steerAll _ _ h, Rind.laneNo_home]

theorem Rind.powered_empty (strap : Fin 4) {r : Rind} (h : r.holdEmpty = true) :
    (r.powered strap).mgmt.busAddr = 0x58 + strap.val ∧ (r.powered strap).flag 0x110 18 = true := by
  rw [Rind.powered, if_pos h]
  exact ⟨rfl, Rind.flag_setFlag_self _ _ _ (by decide)⟩

/-- Below RUN, the return of VLOG begins an exit to RUN, by a wake where the source is enabled (R69). -/
def Rind.exitToRun (r : Rind) : Rind :=
  if r.fld 0x104 0 3 = 0 then r
  else
    let q := { r with trans := some 0 }.setFlag 0x104 4 true
    if r.flag 0x108 11 then { q with wakeOwed := ⟨true, true⟩ }.setFlag 0x10C 11 true else q

theorem State.supplyExit_eq (s : State) : s.supplyExit = s.modRind Rind.exitToRun := by
  have power : s.power = s.rind.fld 0x104 0 3 := rfl
  have exits : s.modRind Rind.exitToRun = { s with rind := s.rind.exitToRun } := rfl
  rw [exits, State.supplyExit, Rind.exitToRun, power]
  split
  · rfl
  · dsimp only
    split <;> rfl

theorem Rind.exitToRun_frame (r : Rind) : ∃ rs tr w, r.exitToRun = { r with regs := rs, trans := tr, wakeOwed := w } := by
  rw [Rind.exitToRun]
  split
  · exact ⟨r.regs, r.trans, r.wakeOwed, rfl⟩
  · dsimp only
    split <;> exact ⟨_, _, _, rfl⟩

theorem Rind.rd_exitToRun (r : Rind) {a : Nat} (h : a ≠ 0x104) (h' : a ≠ 0x10C) : r.exitToRun.rd a = r.rd a := by
  rw [Rind.exitToRun]
  split
  · rfl
  · dsimp only
    split
    · rw [Rind.rd_setFlag_ne _ _ _ h']
      exact Rind.rd_setFlag_ne _ _ _ h
    · exact Rind.rd_setFlag_ne _ _ _ h

theorem Rind.exitToRun_below {r : Rind} (h : r.fld 0x104 0 3 ≠ 0) : r.exitToRun.trans = some 0 ∧
    r.exitToRun.flag 0x104 4 = true ∧
    (r.flag 0x108 11 = true → r.exitToRun.flag 0x10C 11 = true ∧ r.exitToRun.wakeOwed = ⟨true, true⟩) := by
  have busy : ({ r with trans := some 0 }.setFlag 0x104 4 true).flag 0x104 4 = true :=
    Rind.flag_setFlag_self _ _ _ (by decide)
  rw [Rind.exitToRun, if_neg h]
  dsimp only
  split
  · refine ⟨rfl, ?_, fun _ => ⟨Rind.flag_setFlag_self _ _ _ (by decide), rfl⟩⟩
    rw [Rind.flag_setFlag _ _ _ _ _ (by decide), if_neg (by decide)]
    exact busy
  · next hn => exact ⟨rfl, busy, fun k => absurd k hn⟩

/-- What the return of VLOG does to the rind. -/
def Rind.suppliedBy (strap : Fin 4) (r : Rind) : Rind := { r.powered strap with vlogOk := true }.exitToRun

theorem Rind.suppliedBy_frame (strap : Fin 4) (r : Rind) : (r.suppliedBy strap).vlogOk = true ∧
    (r.suppliedBy strap).holdEmpty = false ∧ (r.suppliedBy strap).resetLow = r.resetLow ∧
    (r.suppliedBy strap).mgmt = (r.powered strap).mgmt ∧ (r.suppliedBy strap).steer = (r.powered strap).steer := by
  obtain ⟨he, hl, -⟩ := Rind.powered_frame strap r
  obtain ⟨_, _, _, h⟩ := Rind.exitToRun_frame { r.powered strap with vlogOk := true }
  rw [Rind.suppliedBy, h]
  exact ⟨rfl, he, hl, rfl, rfl⟩

theorem Rind.suppliedBy_below (strap : Fin 4) {r : Rind} (h : r.fld 0x104 0 3 ≠ 0) : (r.suppliedBy strap).trans = some 0 ∧
    (r.suppliedBy strap).flag 0x104 4 = true ∧
    (r.flag 0x108 11 = true → (r.suppliedBy strap).flag 0x10C 11 = true ∧ (r.suppliedBy strap).wakeOwed = ⟨true, true⟩) := by
  obtain ⟨-, -, hrd⟩ := Rind.powered_frame strap r
  have power : Rind.fld { r.powered strap with vlogOk := true } 0x104 0 3 = r.fld 0x104 0 3 :=
    Rind.fld_of_rd (hrd _ (by decide)) 0 3
  have enabled : Rind.flag { r.powered strap with vlogOk := true } 0x108 11 = r.flag 0x108 11 :=
    Rind.flag_of_rd (hrd _ (by decide)) 11
  rw [Rind.suppliedBy, ← enabled]
  exact Rind.exitToRun_below (by rwa [power])

theorem Rind.suppliedBy_empty (strap : Fin 4) {r : Rind} (h : r.holdEmpty = true) :
    (r.suppliedBy strap).mgmt.busAddr = 0x58 + strap.val ∧ (r.suppliedBy strap).flag 0x110 18 = true := by
  obtain ⟨-, -, -, hm, -⟩ := Rind.suppliedBy_frame strap r
  obtain ⟨addr, rc⟩ := Rind.powered_empty strap h
  refine ⟨by rw [hm, addr], ?_⟩
  rw [Rind.suppliedBy, Rind.flag_of_rd (Rind.rd_exitToRun _ (by decide) (by decide))]
  exact rc

/-- What VLOG_POWER_UP does but for the TCXO and the pads of DIRECT channels. -/
def State.supply (strap : Fin 4) (s : State) : State :=
  (s.modRind (Rind.suppliedBy strap)).modDie (fun d => { d with forcedOff := s.rind.resetLow })

theorem State.supply_eq (strap : Fin 4) (s : State) :
    (let p := if s.rind.holdEmpty then
        s.modRind (fun r => ({ r with
          holdEmpty := false
          steer := []
          mgmt := { r.mgmt with busAddr := 0x58 + strap.val } }).setFlag 0x110 18 true)
      else s.modRind (fun r => r.steerAll (laneOfNo (r.fld 0x200 0 1)))
    let q := (p.modRind (fun r => { r with vlogOk := true })).supplyExit
    q.modDie (fun d => { d with forcedOff := q.rind.resetLow })) = s.supply strap := by
  have powered : (if s.rind.holdEmpty then
      s.modRind (fun r => ({ r with
        holdEmpty := false
        steer := []
        mgmt := { r.mgmt with busAddr := 0x58 + strap.val } }).setFlag 0x110 18 true)
      else s.modRind (fun r => r.steerAll (laneOfNo (r.fld 0x200 0 1)))) = s.modRind (Rind.powered strap) := by
    have e : s.modRind (Rind.powered strap) = { s with rind := s.rind.powered strap } := rfl
    rw [e, Rind.powered]
    split <;> rfl
  obtain ⟨-, -, low, -, -⟩ := Rind.suppliedBy_frame strap s.rind
  dsimp only
  rw [powered, State.supplyExit_eq, State.supply, ← low]
  rfl

theorem execVlogPowerUp_supplied {s : State} (strap : Fin 4) (h : s.rind.vlogOk = true) :
    exec (.vlogPowerUp strap) s = .next s := by
  show execVlogPowerUp strap s = _
  rw [execVlogPowerUp, if_pos h]

theorem execVlogPowerUp_unsupplied {s : State} (strap : Fin 4) (h : s.rind.vlogOk = false) :
    exec (.vlogPowerUp strap) s = .next (s.clocked (fun u => (u.supply strap).directFollow)) := by
  show execVlogPowerUp strap s = _
  rw [execVlogPowerUp, if_neg (by rw [h]; decide)]
  simp only [← State.supply_eq]

theorem State.lane_supply (strap : Fin 4) (s : State) (l : LaneId) : (s.supply strap).lane l = s.lane l := by
  rw [State.supply, State.lane_modDie, State.lane_modRind]

theorem State.rind_supply (strap : Fin 4) (s : State) : (s.supply strap).rind = s.rind.suppliedBy strap := by
  rw [State.supply, State.rind_modDie, State.rind_modRind]

theorem State.die_supply (strap : Fin 4) (s : State) :
    (s.supply strap).die = { s.die with forcedOff := s.rind.resetLow } := by
  rw [State.supply, State.die_modDie, State.die_modRind]

theorem vlogPowerUp_supplies {s : State} (strap : Fin 4) (h : s.rind.vlogOk = false) :
    ∃ t, exec (.vlogPowerUp strap) s = .next t ∧ t.rind.vlogOk = true ∧ t.rind.holdEmpty = false ∧
      (∀ l, (s.lane l).alive = false → t.lane l = s.lane l) ∧
      (s.power ≠ 0 → t.rind.trans = some 0 ∧ t.rind.flag 0x104 4 = true ∧
        (s.rind.flag 0x108 11 = true → t.rind.flag 0x10C 11 = true ∧ t.rind.wakeOwed = ⟨true, true⟩)) ∧
      { t.die with sw := [], forcedOff := false } = { s.die with sw := [], forcedOff := false } ∧
      t.die.forcedOff = s.rind.resetLow ∧ (∀ n, n < 192 → t.die.swt n = s.die.swt n) ∧
      (s.rind.holdEmpty = true → t.rind.mgmt.busAddr = 0x58 + strap.val ∧ t.rind.flag 0x110 18 = true) ∧
      (∀ u, u < 232 → t.steer u = if s.rind.holdEmpty = true then 0
        else if s.steer u = 2 then 2 else s.rind.fld 0x200 0 1) := by
  have sw := SwitchesOnly.directFollow (s.supply strap)
  have below : ∀ n, n < 192 → (s.supply strap).directFollow.die.swt n = s.die.swt n := fun n hn => by
    rw [State.swt_directFollow_of_lt _ hn, State.die_supply]
    rfl
  have lanes : ∀ l, (s.lane l).alive = false →
      (s.clocked (fun u => (u.supply strap).directFollow)).lane l = s.lane l := fun l hl => by
    have same := (sw.lane l).trans (State.lane_supply strap s l)
    exact (State.lane_clocked_off (State.tcxo_of_noVlog h) (by rwa [same])).trans same
  have hd := sw.die
  rw [State.die_supply] at hd
  have frame := State.rind_clocked s (fun u => (u.supply strap).directFollow)
  rw [sw.rind, State.rind_supply] at frame
  have die := State.die_clocked s (fun u => (u.supply strap).directFollow)
  have ex := execVlogPowerUp_unsupplied strap h
  generalize s.clocked (fun u => (u.supply strap).directFollow) = t at *
  generalize (s.supply strap).directFollow = u at *
  obtain ⟨ok, held, -, mgmt, steer⟩ := Rind.suppliedBy_frame strap s.rind
  have rd := frame.rd
  obtain ⟨_, _, _, _, rind⟩ := frame
  refine ⟨t, ex, by rw [rind, ok], by rw [rind, held], lanes, fun hp => ?_, ?_, ?_, fun n hn => by rw [die, below n hn],
    fun he => ?_, fun k hk => ?_⟩
  · obtain ⟨trans, busy, wake⟩ := Rind.suppliedBy_below strap hp
    refine ⟨by rw [rind, trans], (Rind.flag_of_rd (rd _) 4).trans busy, fun hw => ?_⟩
    exact ⟨(Rind.flag_of_rd (rd _) 11).trans (wake hw).1, by rw [rind, (wake hw).2]⟩
  · rw [die]
    exact congrArg (fun d : Die => { d with forcedOff := false }) hd
  · rw [die]
    exact congrArg Die.forcedOff hd
  · obtain ⟨addr, rc⟩ := Rind.suppliedBy_empty strap he
    exact ⟨by rw [rind, addr], (Rind.flag_of_rd (rd _) 18).trans rc⟩
  · rw [State.steer, rind]
    show Tab.get (s.rind.suppliedBy strap).steer 0 k = _
    rw [steer, Rind.steer_powered strap _ hk, State.steer]

theorem suppliesFailAndReturn : Sys2Proof.Claims.SuppliesFailAndReturn := fun _ strap =>
  ⟨vlogLoss_resets, holdStoreEmpty_loses, vlogPowerUp_supplies strap,
    fun h => ⟨execVlogPowerUp_supplied strap h, execHoldStoreEmpty_supplied h⟩, execVlogLoss_unsupplied⟩

/-! ### The crystal -/

/-- The module as the crystal fails. -/
def State.xtFailed (s : State) : State :=
  (s.modRind (fun r => { r with coastRC := r.coastRC || r.xtalCoast.isSome }.setFlag 0x110 18 true)).raiseBoth 95 3 0 0

theorem execXt32Fail_first {s : State} (h : s.rind.flag 0x110 18 = false) : exec .xt32Fail s = .next s.xtFailed := by
  show execXt32Fail s = _
  rw [execXt32Fail, if_neg (by rw [h]; decide), State.xtFailed]

theorem State.lane_xtFailed (s : State) (l : LaneId) : s.xtFailed.lane l = (s.lane l).raise 95 3 0 0 := by
  rw [State.xtFailed, State.raiseBoth, State.lane_bothLanes, State.lane_modRind]

theorem State.rind_xtFailed (s : State) :
    s.xtFailed.rind = { s.rind with coastRC := s.rind.coastRC || s.rind.xtalCoast.isSome }.setFlag 0x110 18 true := by
  rw [State.xtFailed, State.raiseBoth, State.rind_bothLanes, State.rind_modRind]

theorem State.die_xtFailed (s : State) : s.xtFailed.die = s.die := by
  rw [State.xtFailed, State.raiseBoth, State.die_bothLanes, State.die_modRind]

theorem xt32Fail_raises {s : State} (l : LaneId) (h : s.rind.flag 0x110 18 = false) :
    ∃ t, exec .xt32Fail s = .next t ∧ t.rind.flag 0x110 18 = true ∧ OnlyRindRegs [0x110] s t ∧ t.die = s.die ∧
      SameMemory l s t ∧ OnlyRegs l evRegs s t ∧ Raises l 95 3 0 0 s t ∧
      ((s.lane l).alive = false → t.lane l = s.lane l) := by
  have hl := State.lane_xtFailed s l
  have hr := State.rind_xtFailed s
  have frame := EventFrame.raise (s.lane l) 3 0 0 (by decide : 95 < 160)
  refine ⟨_, execXt32Fail_first h, ?_, fun a ha => ?_, State.die_xtFailed s, SameMemory.of_lane ?_ ?_, fun a ha => ?_,
    Raises.of_lane (by decide) (by rw [hl]) (by rw [hl]), fun ha => ?_⟩
  · rw [hr, Rind.flag_setFlag_self _ _ _ (by decide)]
  · rw [hr]
    exact Rind.rd_setFlag_ne _ _ _ (fun e => ha (List.mem_singleton.2 e))
  · rw [hl, Lane.sameBulk_sram frame.bulk]
  · rw [hl, Lane.sameBulk_flash frame.bulk]
  · rw [State.reg, hl]
    exact frame.rd a ha
  · rw [hl, Lane.raise_off _ _ _ _ ha]

theorem OnlyRind.modRind (s : State) (f : Rind → Rind) : OnlyRind s (s.modRind f) := ⟨rfl, rfl, rfl, rfl, rfl, rfl, rfl⟩

/-- Setting a flag changes the registers alone. -/
theorem Rind.setFlag_regs (r : Rind) (a i : Nat) (b : Bool) : { r.setFlag a i b with regs := [] } = { r with regs := [] } := by
  rw [Rind.setFlag, Rind.wr]

theorem xt32Restore_clears (s : State) :
    ∃ t, exec .xt32Restore s = .next t ∧ t.rind.flag 0x110 18 = false ∧ OnlyRindWords [0x110] s t := by
  refine ⟨s.modRind (fun r => r.setFlag 0x110 18 false), rfl, ?_, OnlyRind.modRind s _, fun a ha => ?_, ?_⟩ <;>
    rw [State.rind_modRind]
  · exact Rind.flag_setFlag_self _ _ _ (by decide)
  · exact Rind.rd_setFlag_ne _ _ _ (fun e => ha (List.mem_singleton.2 e))
  · exact Rind.setFlag_regs ..

theorem theCrystalFailsAndReturns : Sys2Proof.Claims.TheCrystalFailsAndReturns :=
  fun s l => ⟨xt32Fail_raises l, xt32Restore_clears s⟩

/-- Settles O30 from what RESET_N, the supplies and the crystal do. -/
theorem resetsAndSupplies : Obligations.ResetsAndSupplies :=
  ⟨resetNHoldsTheModule, suppliesFailAndReturn, theCrystalFailsAndReturns⟩

end Sys2Proof.Machine
end

