-- ==== Sys2Proof/Proofs/LaneSelfResets.lean ====
section
/-!
SUPPORT. Lanes that reset themselves: software reset, watchdog and lane monitor (R73, R124, R565).
-/

namespace Sys2Proof.Machine

/-- Lane `l` has been reset for a cause of R73 4 to 8, giving up control where it had not (R73, R565). -/
def LaneWasReset (l : LaneId) (cause : Nat) (s t : State) : Prop :=
  (t.lane l).phase = .off ∧ (t.lane l).fld 0x40000010 8 4 = cause ∧ (t.lane l).flash = (s.lane l).flash ∧
    (t.lane l).lt = (s.lane l).lt ∧ (∀ d, t.ctxOf l d = Ctx.reset) ∧ t.die.units = s.die.units ∧ t.die.sw = s.die.sw ∧
    t.rind.steer = s.rind.steer ∧
    ((s.lane l).gaveUp = false → t.rind.flag 0x204 (4 + laneNo l) = true ∧
      Raises (other l) 84 1 (laneNo l) 0 s t ∧ SameMemory (other l) s t)

theorem LaneWasReset.laneReset (s : State) (l : LaneId) {cause : Nat} (h : cause < 16) :
    LaneWasReset l cause s (s.laneReset l 1 cause) := by
  obtain ⟨lt, flash⟩ := State.lt_flash_giveUp s l 1 0
  obtain ⟨cs, die⟩ := State.die_laneReset s l 1 cause
  refine ⟨?_, ?_, ?_, ?_, fun d => ?_, by rw [die], by rw [die], State.steer_laneReset .., fun hg => ?_⟩
  · rw [State.lane_laneReset, Lane.phase_inReset]
  · rw [State.lane_laneReset, Lane.cause_inReset _ h]
  · rw [State.lane_laneReset, Lane.flash_inReset, flash]
  · rw [State.lane_laneReset, Lane.lt_inReset, lt]
  · rw [State.ctxOf, State.lane_laneReset, Lane.ctx_inReset]
  · exact ⟨State.gu_laneReset 1 cause hg, State.laneReset_raises 1 cause hg⟩

/-- What the watchdog's expiry marks on the lane (R124). -/
def Lane.expired (L : Lane) : Lane := L.setFlag 0x40000018 31 true

/-- The mark of an expiry stands on a lane that was reset. -/
theorem LaneWasReset.expired {l : LaneId} {cause : Nat} {s t : State} (h : LaneWasReset l cause s t) :
    LaneWasReset l cause s (t.modLane l Lane.expired) := by
  obtain ⟨phase, why, flash, lt, ctxs, units, sw, steer, gave⟩ := h
  have rd : ∀ a, a ≠ 0x40000018 → (t.lane l).expired.rd a = (t.lane l).rd a := fun a ha => Lane.rd_setFlag_ne _ _ _ ha
  refine ⟨?_, ?_, ?_, ?_, fun d => ?_, by rwa [State.die_modLane], by rwa [State.die_modLane], by rwa [State.rind_modLane],
    fun hg => ?_⟩
  · rw [State.lane_modLane, Lane.expired, Lane.phase_setFlag, phase]
  · rw [State.lane_modLane, Lane.fld_of_rd (rd _ (by decide)), why]
  · rw [State.lane_modLane, Lane.expired, Lane.flash_setFlag, flash]
  · rw [State.lane_modLane, Lane.expired, Lane.lt_setFlag, lt]
  · rw [State.ctxOf, State.lane_modLane, Lane.expired, Lane.ctx_setFlag]
    exact ctxs d
  · obtain ⟨gu, raised, memory, flash⟩ := gave hg
    refine ⟨by rwa [State.rind_modLane], ?_, fun a => ?_, by rwa [State.lane_other_modLane]⟩
    · rwa [Raises, State.lane_other_modLane]
    · rw [State.byte, State.lane_other_modLane]
      exact memory a

theorem execSoftwareReset_zero {s : State} {l : LaneId} (h : (s.lane l).alive = true) :
    exec (.softwareReset l 0) s = .next (s.laneReset l 1 6) := by
  show execSoftwareReset l 0 s = _
  rw [execSoftwareReset, if_pos ⟨rfl, h⟩]

theorem execSoftwareReset_ignored (s : State) (l : LaneId) {c : CtxNo} (h : c ≠ 0) :
    exec (.softwareReset l c) s = .next s := by
  show execSoftwareReset l c s = _
  rw [execSoftwareReset, if_neg (fun k => h (Fin.ext k.1))]

theorem execWatchdogExpiry_due {s : State} {l : LaneId} (h : s.coresRun l = true) (hd : (s.lane l).wdogDue ≤ (s.lane l).lt) :
    exec (.watchdogExpiry l) s = .next ((s.laneReset l 1 4).modLane l Lane.expired) := by
  show execWatchdogExpiry l s = _
  rw [execWatchdogExpiry, if_pos ⟨h, hd⟩]
  rfl

theorem execWatchdogExpiry_kicked {s : State} {l : LaneId}
    (h : s.coresRun l = false ∨ (s.lane l).lt < (s.lane l).wdogDue) : exec (.watchdogExpiry l) s = .next s := by
  show execWatchdogExpiry l s = _
  rw [execWatchdogExpiry, if_neg]
  rintro ⟨hr, hd⟩
  obtain h | h := h
  · exact absurd (hr.symm.trans h) (by decide)
  · omega

theorem execLaneMonitorFire_alive {s : State} {l : LaneId} (h : (s.lane l).alive = true) :
    exec (.laneMonitorFire l) s = .next (s.laneReset l 1 5) := by
  show execLaneMonitorFire l s = _
  rw [execLaneMonitorFire, if_pos h]

/-- The watchdog with the written period, run from now, before EXPIRED clears. -/
def Lane.rewound (L : Lane) : Lane := { L with wdogPer := max 10 (L.fld 0x40000018 0 16) }.restartWdog

theorem Lane.kick_eq (L : Lane) : L.kick = L.rewound.setFlag 0x40000018 31 false := rfl

/-- Restarting the watchdog changes its two counts alone. -/
theorem Lane.rewound_frame (L : Lane) : ∃ due per, L.rewound = { L with wdogDue := due, wdogPer := per } := ⟨_, _, rfl⟩

theorem wdogKick_restarts (s : State) (l : LaneId) (v : Word) :
    ∃ t, exec (.wdogKick l v) s = .next t ∧ OnlyLane l s t ∧ OnlyRegs l [0x40000018] s t ∧
      (t.lane l).flag 0x40000018 31 = false ∧ (t.lane l).fld 0x40000018 0 16 = (s.lane l).fld 0x40000018 0 16 ∧
      (t.lane l).wdogDue = (s.lane l).lt + max 10 ((s.lane l).fld 0x40000018 0 16) * 100000 ∧
      (∀ d, t.ctxOf l d = s.ctxOf l d) ∧ SameMemory l s t := by
  have hl : (s.modLane l Lane.kick).lane l = (s.lane l).rewound.setFlag 0x40000018 31 false := by
    rw [State.lane_modLane, Lane.kick_eq]
  have due : (s.lane l).rewound.wdogDue = (s.lane l).lt + max 10 ((s.lane l).fld 0x40000018 0 16) * 100000 := by
    rw [Lane.rewound, Lane.restartWdog]
  obtain ⟨n, p, frame⟩ := Lane.rewound_frame (s.lane l)
  rw [frame] at hl due
  refine ⟨s.modLane l Lane.kick, rfl, OnlyLane.modLane .., OnlyRegs.setFlag hl fun _ => rfl, ?_, ?_, ?_, fun d => ?_,
    SameMemory.of_lane ?_ ?_⟩
  · rw [hl, Lane.flag_setFlag_self _ _ _ (by decide)]
  · rw [hl, Lane.fld_setFlag_apart _ _ _ (by decide) (by decide)]
    rfl
  · rw [hl, Lane.wdogDue_setFlag, due]
  · rw [State.ctxOf, hl, Lane.ctx_setFlag]
    rfl
  · rw [hl, Lane.sram_setFlag]
  · rw [hl, Lane.flash_setFlag]

theorem lanesResetThemselves : Sys2Proof.Claims.LanesResetThemselves := by
  intro s l c v
  refine ⟨fun h => ⟨_, execSoftwareReset_zero h, LaneWasReset.laneReset s l (by decide)⟩,
    fun h => execSoftwareReset_ignored s l h, fun h hd => ⟨⟨_, execWatchdogExpiry_due h hd,
      (LaneWasReset.laneReset s l (by decide)).expired⟩, fun t ht => ?_⟩, execWatchdogExpiry_kicked, wdogKick_restarts s l v,
    fun h => ⟨_, execLaneMonitorFire_alive h, LaneWasReset.laneReset s l (by decide)⟩⟩
  obtain rfl := Host.Outcome.next.inj ((execWatchdogExpiry_due h hd).symm.trans ht)
  rw [State.lane_modLane]
  exact Lane.flag_setFlag_self _ _ _ (by decide)

end Sys2Proof.Machine
end

