-- ==== Sys2Proof/Proofs/LaneStarts.lean ====
section
/-!
SUPPORT. A lane that leaves reset, its time base and its banks (R48, R72, R75, R556).
-/

namespace Sys2Proof.Machine

/-! ### The time base of a lane that starts -/

/-- The registers of LT that a lane's start may set: STAT, UNC, GT_UNC and TP_STAT. -/
def timeRegs : List Nat := [0x4002000C, 0x40020014, 0x40020030, 0x40020058, 0x4002005C]

/-- What the start of a lane's time base leaves of it (R75 to R78, R89). -/
structure TimeFrame (L M : Lane) : Prop where
  phase : M.phase = L.phase
  lt : M.lt = L.lt
  sram : M.sram = L.sram
  rd : ∀ a, a ∉ timeRegs → a ∉ evRegs → M.rd a = L.rd a
  waits : ∀ n, L.waiting 2 n = [] → M.waiting 2 n = []
  pends : ∀ n, n < 160 → L.bitAt 0x40030040 n = true → M.bitAt 0x40030040 n = true

theorem TimeFrame.refl (L : Lane) : TimeFrame L L :=
  ⟨rfl, rfl, rfl, fun _ _ _ => rfl, fun _ h => h, fun _ _ h => h⟩

theorem TimeFrame.trans {L M N : Lane} (h : TimeFrame L M) (k : TimeFrame M N) : TimeFrame L N :=
  ⟨k.phase.trans h.phase, k.lt.trans h.lt, k.sram.trans h.sram, fun a h1 h2 => (k.rd a h1 h2).trans (h.rd a h1 h2),
    fun n hn => k.waits n (h.waits n hn), fun n hn hb => k.pends n hn (h.pends n hn hb)⟩

theorem EventFrame.time {L M : Lane} (h : EventFrame L M) : TimeFrame L M :=
  ⟨Lane.sameBulk_phase h.bulk, Lane.sameBulk_lt h.bulk, Lane.sameBulk_sram h.bulk, fun a _ => h.rd a,
    fun _ => h.waiting_nil, h.pends⟩

theorem TimeFrame.time (L : Lane) (t : TimeSt) : TimeFrame L { L with time := t } :=
  ⟨rfl, rfl, rfl, fun _ _ _ => rfl, fun _ h => h, fun _ _ h => h⟩

theorem TimeFrame.free (L : Lane) (n : Nat) : TimeFrame L { L with free := n } :=
  ⟨rfl, rfl, rfl, fun _ _ _ => rfl, fun _ h => h, fun _ _ h => h⟩

theorem lt_epend_of_mem_timeRegs {a : Nat} (h : a ∈ timeRegs) : a < 0x40030040 := by
  simp only [timeRegs, List.mem_cons, List.not_mem_nil, or_false] at h
  omega

theorem TimeFrame.wr (L : Lane) {a : Nat} (v : Word) (h : a ∈ timeRegs) : TimeFrame L (L.wr a v) := by
  have low := lt_epend_of_mem_timeRegs h
  refine ⟨Lane.phase_wr .., Lane.lt_wr .., Lane.sram_wr .., fun k hk _ => Lane.rd_wr_ne _ _ (fun e => hk (e ▸ h)),
    fun _ hn => hn, fun n _ hb => ?_⟩
  rwa [Lane.bitAt, Lane.flag, Lane.rd_wr_ne _ _ (by omega)]

theorem TimeFrame.joinTime (L P : Lane) (up : Bool) : TimeFrame L (L.joinTime P up) := by
  unfold Lane.joinTime
  dsimp only
  split
  · exact TimeFrame.refl L
  · split
    · exact (TimeFrame.time L _).trans ((TimeFrame.wr _ _ (by decide)).trans ((TimeFrame.wr _ _ (by decide)).trans
        ((TimeFrame.wr _ _ (by decide)).trans (TimeFrame.wr _ _ (by decide)))))
    · exact (TimeFrame.time L _).trans ((TimeFrame.free _ _).trans ((TimeFrame.wr _ _ (by decide)).trans
        ((TimeFrame.wr _ _ (by decide)).trans ((TimeFrame.wr _ _ (by decide)).trans
          (EventFrame.raise _ 1 0 0 (by decide)).time))))

theorem TimeFrame.endCoast (L : Lane) (e : Coast) : TimeFrame L (L.endCoast e) := by
  unfold Lane.endCoast
  split
  · exact TimeFrame.refl L
  · split
    · exact (TimeFrame.wr L _ (by decide)).trans (TimeFrame.wr _ _ (by decide))
    · exact TimeFrame.wr L _ (by decide)

/-! ### A lane that leaves reset -/

/-- The lane as its boot ROM begins, its clock started: out of reset with LT, and MODE and SLEPT sampled. -/
def Lane.sampled (L P : Lane) (up : Bool) (t0 : Nat × Rat) (mode : Fin 8) : Lane :=
  ((({ L with phase := Phase.boot, lt := t0.1, time := { L.time with sub := t0.2, last := t0.1 } }).joinTime P up).setFld
    0x40000010 0 3 mode).setFlag 0x40000010 12 (L.fld 0x40000010 8 4 == 2)

/-- The SRAM that a lane has as it starts: what bank 23 kept through SLEEP, or zeros (R550, R551, R556). -/
def startSram (slept : Bool) (m : List Host.Cell) : List Host.Cell :=
  if slept then m.filter (fun e => decide (0x5C0000 ≤ e.1)) else []

/-- The lane with its SRAM as it starts. -/
def Lane.powered (L : Lane) (slept : Bool) : Lane := { L with sram := startSram slept L.sram }

theorem Lane.phase_powered (L : Lane) (slept : Bool) : (L.powered slept).phase = L.phase := rfl
theorem Lane.lt_powered (L : Lane) (slept : Bool) : (L.powered slept).lt = L.lt := rfl
theorem Lane.rd_powered (L : Lane) (slept : Bool) (a : Nat) : (L.powered slept).rd a = L.rd a := rfl
theorem Lane.sram_powered (L : Lane) (slept : Bool) : (L.powered slept).sram = startSram slept L.sram := rfl
theorem Lane.waiting_powered (L : Lane) (slept : Bool) (k n : Nat) : (L.powered slept).waiting k n = L.waiting k n := rfl

/-- The lane before its banks are tested. -/
def Lane.untested (L P : Lane) (up : Bool) (t0 : Nat × Rat) (mode : Fin 8) : Lane :=
  (L.sampled P up t0 mode).powered (L.fld 0x40000010 8 4 == 2)

theorem Lane.phase_sampled (L P : Lane) (up : Bool) (t0 : Nat × Rat) (mode : Fin 8) :
    (L.sampled P up t0 mode).phase = .boot := by
  rw [Lane.sampled, Lane.phase_setFlag, Lane.phase_setFld, (TimeFrame.joinTime _ P up).phase]

theorem Lane.lt_sampled (L P : Lane) (up : Bool) (t0 : Nat × Rat) (mode : Fin 8) :
    (L.sampled P up t0 mode).lt = t0.1 := by
  rw [Lane.sampled, Lane.lt_setFlag, Lane.lt_setFld, (TimeFrame.joinTime _ P up).lt]

theorem Lane.sram_sampled (L P : Lane) (up : Bool) (t0 : Nat × Rat) (mode : Fin 8) :
    (L.sampled P up t0 mode).sram = L.sram := by
  rw [Lane.sampled, Lane.sram_setFlag, Lane.sram_setFld, (TimeFrame.joinTime _ P up).sram]

theorem Lane.mode_sampled (L P : Lane) (up : Bool) (t0 : Nat × Rat) (mode : Fin 8) :
    (L.sampled P up t0 mode).fld 0x40000010 0 3 = mode.val := by
  rw [Lane.sampled, Lane.fld_setFlag_apart _ _ _ (by decide) (by decide), Lane.fld_setFld_self _ _ _ (by decide)]
  exact Nat.mod_eq_of_lt mode.isLt

theorem Lane.slept_sampled (L P : Lane) (up : Bool) (t0 : Nat × Rat) (mode : Fin 8) :
    (L.sampled P up t0 mode).flag 0x40000010 12 = (L.fld 0x40000010 8 4 == 2) := by
  rw [Lane.sampled, Lane.flag_setFlag_self _ _ _ (by decide)]

theorem Lane.waits_sampled (L P : Lane) (up : Bool) (t0 : Nat × Rat) (mode : Fin 8) {n : Nat} (h : L.waiting 2 n = []) :
    (L.sampled P up t0 mode).waiting 2 n = [] :=
  (TimeFrame.joinTime { L with phase := Phase.boot, lt := t0.1, time := { L.time with sub := t0.2, last := t0.1 } } P up).waits n h

/-- The lane with its banks tested; on the wake from SLEEP no test runs. -/
def Lane.started (L P : Lane) (up : Bool) (t0 : Nat × Rat) (mode : Fin 8) (tests : List (SramNo × BitVec 9)) : Lane :=
  if L.fld 0x40000010 8 4 == 2 then L.untested P up t0 mode
  else tests.foldl Lane.bankTested (L.untested P up t0 mode)

/-- What holds where a lane may leave reset (R48, R72). -/
def MayStart (s : State) (l : LaneId) : Prop :=
  (s.lane l).phase = .off ∧ s.rind.vlogOk = true ∧ s.rind.resetLow = false ∧ s.laneOff l = false ∧ s.tcxo = true

/-- The module as lane `l` leaves reset, before the lane settles its coast. -/
def State.startLane (s : State) (l : LaneId) (mode : Fin 8) (tests : List (SramNo × BitVec 9)) : State :=
  (s.modRind (fun r => r.setFlag 0x204 (4 + laneNo l) false)).modLane l
    (fun L => L.started (s.lane (other l)) (s.counts (other l)) (s.startLT l) mode tests)

theorem execLaneResetRelease_may {s : State} {l : LaneId} (mode : Fin 8) (tests : List (SramNo × BitVec 9))
    (h : MayStart s l) : exec (.laneResetRelease l mode tests) s = .next ((s.startLane l mode tests).payCoast l) := by
  obtain ⟨off, vlog, low, on, tcxo⟩ := h
  show execLaneResetRelease l mode tests s = _
  rw [execLaneResetRelease, if_pos ⟨off, vlog, by rw [low]; decide, by rw [on]; decide, tcxo⟩]
  rfl

theorem execLaneResetRelease_not {s : State} {l : LaneId} (mode : Fin 8) (h : ¬MayStart s l) :
    exec (.laneResetRelease l mode []) s = .next s := by
  show execLaneResetRelease l mode [] s = _
  rw [execLaneResetRelease, if_neg]
  rintro ⟨off, vlog, low, on, tcxo⟩
  exact h ⟨off, vlog, Bool.eq_false_iff.2 low, Bool.eq_false_iff.2 on, tcxo⟩

/-- What lane `l` is after the start: its time base settled, else as started. -/
theorem State.timeFrame_startLane (s : State) (l : LaneId) (mode : Fin 8) (tests : List (SramNo × BitVec 9)) :
    TimeFrame ((s.lane l).started (s.lane (other l)) (s.counts (other l)) (s.startLT l) mode tests)
      (((s.startLane l mode tests).payCoast l).lane l) := by
  rw [State.lane_payCoast, State.startLane, State.lane_modLane, State.lane_modRind]
  exact TimeFrame.endCoast ..

theorem Memory.get_startSram (slept : Bool) (m : List Host.Cell) (a : Nat) :
    Memory.get (startSram slept m) a = if slept = true ∧ 0x5C0000 ≤ a then Memory.get m a else 0 := by
  cases slept with
  | false => rfl
  | true =>
    refine (Tab.get_filter m 0 (fun k => decide (0x5C0000 ≤ k)) a).trans ?_
    simp only [decide_eq_true_eq, true_and]
    rfl

theorem Lane.started_nil (L P : Lane) (up : Bool) (t0 : Nat × Rat) (mode : Fin 8) :
    L.started P up t0 mode [] = L.untested P up t0 mode := ite_self _

theorem Lane.phase_untested (L P : Lane) (up : Bool) (t0 : Nat × Rat) (mode : Fin 8) :
    (L.untested P up t0 mode).phase = .boot := by rw [Lane.untested, Lane.phase_powered, Lane.phase_sampled]

theorem Lane.lt_untested (L P : Lane) (up : Bool) (t0 : Nat × Rat) (mode : Fin 8) :
    (L.untested P up t0 mode).lt = t0.1 := by rw [Lane.untested, Lane.lt_powered, Lane.lt_sampled]

theorem Lane.mode_untested (L P : Lane) (up : Bool) (t0 : Nat × Rat) (mode : Fin 8) :
    (L.untested P up t0 mode).fld 0x40000010 0 3 = mode.val := by
  rw [Lane.untested, Lane.fld_of_rd (Lane.rd_powered ..), Lane.mode_sampled]

theorem Lane.slept_untested (L P : Lane) (up : Bool) (t0 : Nat × Rat) (mode : Fin 8) :
    (L.untested P up t0 mode).flag 0x40000010 12 = (L.fld 0x40000010 8 4 == 2) := by
  rw [Lane.untested, Lane.flag_of_rd (Lane.rd_powered ..), Lane.slept_sampled]

theorem Lane.sram_untested (L P : Lane) (up : Bool) (t0 : Nat × Rat) (mode : Fin 8) :
    (L.untested P up t0 mode).sram = startSram (L.fld 0x40000010 8 4 == 2) L.sram := by
  rw [Lane.untested, Lane.sram_powered, Lane.sram_sampled]

theorem Lane.waits_untested (L P : Lane) (up : Bool) (t0 : Nat × Rat) (mode : Fin 8) {n : Nat} (h : L.waiting 2 n = []) :
    (L.untested P up t0 mode).waiting 2 n = [] := by
  rw [Lane.untested, Lane.waiting_powered, Lane.waits_sampled _ _ _ _ _ h]

/-- What leaving reset leaves of the die, the rind and the other lane. -/
theorem State.startLane_outside (s : State) (l : LaneId) (mode : Fin 8) (tests : List (SramNo × BitVec 9)) :
    ((s.startLane l mode tests).payCoast l).die = s.die ∧
      ((s.startLane l mode tests).payCoast l).rind.flag 0x204 (4 + laneNo l) = false ∧
      ((s.startLane l mode tests).payCoast l).lane (other l) = s.lane (other l) := by
  have hn := laneNo_le l
  refine ⟨?_, ?_, ?_⟩
  · rw [State.die_payCoast, State.startLane, State.die_modLane, State.die_modRind]
  · rw [Rind.flag_of_rd ((State.rind_payCoast _ l).rd _), State.startLane, State.rind_modLane, State.rind_modRind,
      Rind.flag_setFlag_self _ _ _ (by omega)]
  · rw [State.lane_other_payCoast, State.startLane, State.lane_other_modLane, State.lane_modRind]

theorem laneResetRelease_starts {s : State} {l : LaneId} (mode : Fin 8) (h : MayStart s l) :
    ∃ t, exec (.laneResetRelease l mode []) s = .next t ∧ (t.lane l).phase = .boot ∧
      (t.lane l).lt = (if s.counts (other l) = true then (s.lane (other l)).lt else s.die.replica) ∧
      (t.lane l).fld 0x40000010 0 3 = mode.val ∧ t.die = s.die ∧
      t.rind.flag 0x204 (4 + laneNo l) = false ∧ t.lane (other l) = s.lane (other l) ∧
      ((s.lane l).fld 0x40000010 8 4 ≠ 2 → ∀ a, t.byte l a = 0) ∧
      ((s.lane l).fld 0x40000010 8 4 = 2 → (t.lane l).flag 0x40000010 12 = true ∧
        ∀ a, t.byte l a = if 0x5C0000 ≤ a then s.byte l a else 0) := by
  have run := execLaneResetRelease_may mode [] h
  have frame := State.timeFrame_startLane s l mode []
  obtain ⟨die, reset, partner⟩ := State.startLane_outside s l mode []
  have start : (s.startLT l).1 = if s.counts (other l) = true then (s.lane (other l)).lt else s.die.replica :=
    apply_ite Prod.fst ..
  rw [Lane.started_nil] at frame
  generalize (s.startLane l mode []).payCoast l = t at *
  have phase := Lane.phase_untested (s.lane l) (s.lane (other l)) (s.counts (other l)) (s.startLT l) mode
  have lt := Lane.lt_untested (s.lane l) (s.lane (other l)) (s.counts (other l)) (s.startLT l) mode
  have pins := Lane.mode_untested (s.lane l) (s.lane (other l)) (s.counts (other l)) (s.startLT l) mode
  have slept := Lane.slept_untested (s.lane l) (s.lane (other l)) (s.counts (other l)) (s.startLT l) mode
  have sram := Lane.sram_untested (s.lane l) (s.lane (other l)) (s.counts (other l)) (s.startLT l) mode
  generalize (s.lane l).untested (s.lane (other l)) (s.counts (other l)) (s.startLT l) mode = U at *
  have rd : (t.lane l).rd 0x40000010 = U.rd 0x40000010 := frame.rd _ (by decide) (by decide)
  have mem : ∀ a, t.byte l a = if ((s.lane l).fld 0x40000010 8 4 == 2) = true ∧ 0x5C0000 ≤ a then s.byte l a else 0 :=
    fun a => by rw [State.byte, frame.sram, sram, Memory.get_startSram, State.byte]
  refine ⟨t, run, frame.phase.trans phase, frame.lt.trans (lt.trans start), (Lane.fld_of_rd rd 0 3).trans pins, die, reset,
    partner, fun hs a => ?_, fun hs => ⟨?_, fun a => ?_⟩⟩
  · rw [mem, if_neg fun k => hs (beq_iff_eq.1 k.1)]
  · rw [Lane.flag_of_rd rd, slept, hs]
    rfl
  · rw [mem, hs]
    simp only [beq_self_eq_true, true_and]

/-! ### A bank that fails its test -/

/-- The failed bank's registers as its test leaves them: its result, OWN NONE and PWR OFF in effect and as asked for. -/
def Lane.bankFailed (L : Lane) (k : SramNo) (r : BitVec 9) : Lane :=
  ((((L.setFld (0x40040200 + 4 * k.val) 7 9 r.toNat).setFld (0x40040200 + 4 * k.val) 0 3 0).setFld
    (0x40040200 + 4 * k.val) 4 2 2).setFld (0x40040100 + 4 * k.val) 0 3 0).setFld (0x40040100 + 4 * k.val) 4 2 2

theorem Lane.bankTested_failed (L : Lane) (k : SramNo) {r : BitVec 9} (h : r.getLsbD 0 = true) :
    L.bankTested (k, r) = (L.bankFailed k r).raise 83 2 k 0 := if_pos h

theorem Lane.phase_bankFailed (L : Lane) (k : SramNo) (r : BitVec 9) : (L.bankFailed k r).phase = L.phase := by
  simp only [Lane.bankFailed, Lane.phase_setFld]

theorem Lane.waiting_bankFailed (L : Lane) (k : SramNo) (r : BitVec 9) (n : Nat) (h : L.waiting 2 n = []) :
    (L.bankFailed k r).waiting 2 n = [] :=
  Lane.waiting_nil_of_ctx (fun c => .inl (by simp only [Lane.bankFailed, Lane.ctx_setFld])) h

/-- Setting the wanted owner and power leaves the register in effect. -/
theorem Lane.rd_bankFailed (L : Lane) (k : SramNo) (r : BitVec 9) :
    (L.bankFailed k r).rd (0x40040200 + 4 * k.val) =
      (((L.setFld (0x40040200 + 4 * k.val) 7 9 r.toNat).setFld (0x40040200 + 4 * k.val) 0 3 0).setFld
        (0x40040200 + 4 * k.val) 4 2 2).rd (0x40040200 + 4 * k.val) := by
  have hk := k.isLt
  rw [Lane.bankFailed, Lane.rd_setFld, if_neg (by omega), Lane.rd_setFld, if_neg (by omega)]

theorem Lane.bankPower_bankFailed (L : Lane) (k : SramNo) (r : BitVec 9) : (L.bankFailed k r).bankPower k = 2 := by
  rw [Lane.bankPower, Lane.fld_of_rd (L.rd_bankFailed k r), Lane.fld_setFld_self _ _ _ (by decide)]
  rfl

theorem Lane.owner_bankFailed (L : Lane) (k : SramNo) (r : BitVec 9) : (L.bankFailed k r).owner k = 0 := by
  rw [Lane.owner, Lane.fld_of_rd (L.rd_bankFailed k r), Lane.fld_setFld_apart _ _ _ (by decide) (by decide),
    Lane.fld_setFld_self _ _ _ (by decide)]
  rfl

theorem Lane.fails_bankFailed (L : Lane) (k : SramNo) {r : BitVec 9} (h : r.getLsbD 0 = true) :
    (L.bankFailed k r).flag (0x40040200 + 4 * k.val) 7 = true := by
  rw [Lane.flag_of_rd (L.rd_bankFailed k r), Lane.flag_setFld_apart _ _ _ (by decide) (by decide),
    Lane.flag_setFld_apart _ _ _ (by decide) (by decide), Lane.flag, Lane.rd_setFld, if_pos rfl, bitOf,
    getLsbD_setFieldNat _ _ _ _ _ (by decide), if_pos (by decide), BitVec.testBit_toNat]
  exact h

theorem statOfBank_apart (k : SramNo) : 0x40040200 + 4 * k.val ∉ timeRegs ∧ 0x40040200 + 4 * k.val ∉ evRegs := by
  revert k
  decide

theorem Lane.started_failed (L P : Lane) (up : Bool) (t0 : Nat × Rat) (mode : Fin 8) (k : SramNo) {r : BitVec 9}
    (awake : L.fld 0x40000010 8 4 ≠ 2) (h : r.getLsbD 0 = true) :
    L.started P up t0 mode [(k, r)] = ((L.untested P up t0 mode).bankFailed k r).raise 83 2 k 0 := by
  rw [Lane.started, if_neg fun e => awake (beq_iff_eq.1 e), List.foldl_cons, List.foldl_nil, Lane.bankTested_failed _ _ h]

theorem laneResetRelease_reports {s : State} {l : LaneId} (mode : Fin 8) {k : SramNo} {r : BitVec 9} (h : MayStart s l)
    (awake : (s.lane l).fld 0x40000010 8 4 ≠ 2) (hr : r.getLsbD 0 = true) :
    ∃ t, exec (.laneResetRelease l mode [(k, r)]) s = .next t ∧ (t.lane l).flag (0x40040200 + 4 * k.val) 7 = true ∧
      (t.lane l).owner k = 0 ∧ (t.lane l).bankPower k = 2 ∧
      ((s.lane l).waiting 2 83 = [] → (t.lane l).bitAt 0x40030040 83 = true) := by
  have run := execLaneResetRelease_may mode [(k, r)] h
  have frame := State.timeFrame_startLane s l mode [(k, r)]
  rw [Lane.started_failed _ _ _ _ _ _ awake hr] at frame
  generalize (s.startLane l mode [(k, r)]).payCoast l = t at *
  have phase := Lane.phase_untested (s.lane l) (s.lane (other l)) (s.counts (other l)) (s.startLT l) mode
  have waits := fun hw => Lane.waits_untested (s.lane l) (s.lane (other l)) (s.counts (other l)) (s.startLT l) mode (n := 83) hw
  generalize (s.lane l).untested (s.lane (other l)) (s.counts (other l)) (s.startLT l) mode = U at *
  obtain ⟨time, ev⟩ := statOfBank_apart k
  have rd := (frame.rd _ time ev).trans ((EventFrame.raise (U.bankFailed k r) 2 k 0 (by decide)).rd _ ev)
  refine ⟨t, run, (Lane.flag_of_rd rd 7).trans (U.fails_bankFailed k hr), (Lane.fld_of_rd rd 0 3).trans
    (U.owner_bankFailed k r), (Lane.fld_of_rd rd 4 2).trans (U.bankPower_bankFailed k r), fun hw => ?_⟩
  refine frame.pends 83 (by decide) (Lane.bitAt_raise _ _ _ (by decide) ?_ (U.waiting_bankFailed k r 83 (waits hw)))
  rw [Lane.alive, Lane.phase_bankFailed, phase]
  rfl

end Sys2Proof.Machine
end

