-- ==== Sys2Proof/Proofs/ImageStarts.lean ====
section
/-!
SUPPORT. What the start of an image keeps of its lane, and how context 0 starts (R104, R591, R610).
-/

namespace Sys2Proof.Machine

/-! ### What the start of an image keeps -/

/-- What a boot leaves of lane `l` and of the rind: its flash, no new wait of a context, the record of a loss of VLOG. -/
structure BootFrame (l : LaneId) (s t : State) : Prop where
  flash : (t.lane l).flash = (s.lane l).flash
  ctx : ∀ c, (t.lane l).ctx c = (s.lane l).ctx c ∨ ((t.lane l).ctx c).st ≠ .waiting
  record : t.rind.vlogRec = s.rind.vlogRec

theorem BootFrame.refl (l : LaneId) (s : State) : BootFrame l s s := ⟨rfl, fun _ => .inl rfl, rfl⟩

theorem BootFrame.trans {l : LaneId} {s t u : State} (h : BootFrame l s t) (k : BootFrame l t u) : BootFrame l s u := by
  refine ⟨k.flash.trans h.flash, fun c => ?_, k.record.trans h.record⟩
  obtain hc | hc := k.ctx c
  · rw [hc]
    exact h.ctx c
  · exact .inr hc

theorem BootFrame.modLane (l : LaneId) (s : State) {f : Lane → Lane} (hf : (f (s.lane l)).flash = (s.lane l).flash)
    (hc : ∀ c, (f (s.lane l)).ctx c = (s.lane l).ctx c) : BootFrame l s (s.modLane l f) := by
  refine ⟨?_, fun c => .inl ?_, by rw [State.rind_modLane]⟩
  · rw [State.lane_modLane, hf]
  · rw [State.lane_modLane, hc]

theorem BootFrame.raise (l : LaneId) (s : State) {n : Nat} (d0 d1 : Nat) (d2 : Word) (hn : n < 160) :
    BootFrame l s (s.modLane l (fun L => L.raise n d0 d1 d2)) := by
  have ev := EventFrame.raise (s.lane l) d0 d1 d2 hn
  refine ⟨?_, fun c => ?_, by rw [State.rind_modLane]⟩
  · rw [State.lane_modLane, Lane.sameBulk_flash ev.bulk]
  · rw [State.lane_modLane]
    refine (ev.ctx c).imp_right fun h => ?_
    rw [h.2]
    decide

theorem BootFrame.setMcnt (l : LaneId) (s : State) (i : Nat) (v : Word) : BootFrame l s (s.setMcnt i v) :=
  ⟨rfl, fun _ => .inl rfl, rfl⟩

theorem BootFrame.waiting_nil {l : LaneId} {s t : State} (h : BootFrame l s t) {n : Nat}
    (hw : (s.lane l).waiting 2 n = []) : (t.lane l).waiting 2 n = [] := Lane.waiting_nil_of_ctx h.ctx hw

/-! ### The copies of the configuration at the boot -/

theorem BootFrame.reportCopies (s : State) (l : LaneId) : BootFrame l s (s.reportCopies l) := by
  refine List.foldlRecOn (motive := BootFrame l s) _ _ (BootFrame.refl l s) fun t h i _ => h.trans ?_
  split
  · exact BootFrame.refl l t
  · exact BootFrame.raise l t 2 0 0 (by decide)

theorem BootFrame.showCopies (s : State) (l : LaneId) : BootFrame l s (s.showCopies l) := by
  refine List.foldlRecOn (motive := BootFrame l s) _ _ (BootFrame.refl l s) fun t h i _ => h.trans ?_
  split
  · exact BootFrame.modLane l t (by rw [Lane.flash_wr, Lane.flash_setFlag])
      (fun c => by rw [Lane.ctx_wr, Lane.ctx_setFlag])
  · exact BootFrame.refl l t

/-- Reports on the copies are events of the lane alone. -/
theorem State.eventFrame_reportCopies (s : State) (l : LaneId) :
    EventFrame (s.lane l) ((s.reportCopies l).lane l) := by
  refine List.foldlRecOn (motive := fun t : State => EventFrame (s.lane l) (t.lane l)) _ _ (EventFrame.refl _)
    fun t h i _ => ?_
  split
  · exact h
  · rw [State.lane_modLane]
    exact h.trans (EventFrame.raise _ 2 0 0 (by decide))

theorem State.die_reportCopies (s : State) (l : LaneId) : (s.reportCopies l).die = s.die := by
  refine foldl_keeps State.die (fun t i => ?_) _ s
  split
  · rfl
  · rw [State.die_modLane]

/-! ### The configuration of an image -/

/-- The lane with its keys, and its registers that tell of the configuration it gets (R606, R610). -/
def Lane.configured (L : Lane) (keys : Tab (List Byte)) (c : List Byte × Nat × Bool × Bool) (seq : Word) : Lane :=
  (((((({ L with keys := keys }).setFld 0x40160004 1 2 c.2.1).setFlag 0x40160004 3 c.2.2.1).setFlag 0x40160004 4
    c.2.2.2).wr 0x40160020 seq).wr 0x40160024 (BitVec.ofNat 32 c.1.length))

theorem Lane.flash_configured (L : Lane) (keys : Tab (List Byte)) (c : List Byte × Nat × Bool × Bool) (seq : Word) :
    (L.configured keys c seq).flash = L.flash := by
  rw [Lane.configured, Lane.flash_wr, Lane.flash_wr, Lane.flash_setFlag, Lane.flash_setFlag, Lane.flash_setFld]

theorem Lane.ctx_configured (L : Lane) (keys : Tab (List Byte)) (c : List Byte × Nat × Bool × Bool) (seq : Word) (d : Nat) :
    (L.configured keys c seq).ctx d = L.ctx d := by
  rw [Lane.configured, Lane.ctx_wr, Lane.ctx_wr, Lane.ctx_setFlag, Lane.ctx_setFlag, Lane.ctx_setFld]
  rfl

/-- The contents go to bank 22 unless it is off. -/
def Lane.place (L : Lane) (bs : List Byte) : Lane := if L.bankPower 22 = 2 then L else L.store 0x580000 bs

theorem Lane.flash_place (L : Lane) (bs : List Byte) : (L.place bs).flash = L.flash := by
  unfold Lane.place
  split <;> rfl

theorem Lane.ctx_place (L : Lane) (bs : List Byte) (c : Nat) : (L.place bs).ctx c = L.ctx c := by
  unfold Lane.place
  split <;> rfl

/-- The rind and the events after the configuration is placed: E90 for a default, else the floor may advance. -/
def State.tellCfg (s : State) (l : LaneId) (dflt : Bool) (seq : Word) : State :=
  if dflt then s.modLane l (fun L => L.raise 90 0 0 0)
  else if later seq (s.cfgFloor l) then s.setMcnt (2 + laneNo l) seq else s

theorem BootFrame.tellCfg (s : State) (l : LaneId) (dflt : Bool) (seq : Word) : BootFrame l s (s.tellCfg l dflt seq) := by
  unfold State.tellCfg
  split
  · exact BootFrame.raise l s 0 0 0 (by decide)
  · split
    · exact BootFrame.setMcnt ..
    · exact BootFrame.refl l s

theorem State.placeCfg_eq (s : State) (l : LaneId) : ∃ keys c seq, s.placeCfg l =
    (s.modLane l (fun L => (L.configured keys c seq).place c.1)).tellCfg l c.2.2.1 seq := ⟨_, _, _, rfl⟩

theorem BootFrame.placeCfg (s : State) (l : LaneId) : BootFrame l s (s.placeCfg l) := by
  obtain ⟨keys, c, seq, h⟩ := s.placeCfg_eq l
  rw [h]
  refine BootFrame.trans (BootFrame.modLane l s ?_ fun d => ?_) (BootFrame.tellCfg ..)
  · rw [Lane.flash_place, Lane.flash_configured]
  · rw [Lane.ctx_place, Lane.ctx_configured]

/-! ### The image runs -/

/-- The lane as the image starts: context 0 at the entry point, the watchdog running (R72, R104). -/
def Lane.supervised (L : Lane) : Lane := (L.startSupervisor (L.dieWord 0x100014)).restartWdog

/-- Restarting the watchdog changes when it is due alone. -/
theorem Lane.restartWdog_eq (L : Lane) : ∃ due, L.restartWdog = { L with wdogDue := due } := ⟨_, rfl⟩

/-- The image runs with context 0 at the entry point on core 0. -/
structure ImageRuns (L M : Lane) : Prop where
  phase : M.phase = .run
  ctx : M.ctx 0 = { Ctx.reset with st := .running, pc := L.dieWord 0x100014 }
  core : M.rd 0x40030080 = 0
  flash : M.flash = L.flash

theorem ImageRuns.startSupervisor (L : Lane) : ImageRuns L (L.startSupervisor (L.dieWord 0x100014)) := by
  refine ⟨?_, ?_, ?_, ?_⟩
  · rw [Lane.startSupervisor, Lane.phase_wr, Lane.phase_setCtx]
  · rw [Lane.startSupervisor, Lane.ctx_wr, Lane.ctx_setCtx_self]
  · rw [Lane.startSupervisor, Lane.rd_wr, if_pos rfl]
  · rw [Lane.startSupervisor, Lane.flash_wr, Lane.flash_setCtx]

theorem ImageRuns.supervised (L : Lane) : ImageRuns L L.supervised := by
  have h := ImageRuns.startSupervisor L
  obtain ⟨due, e⟩ := (L.startSupervisor (L.dieWord 0x100014)).restartWdog_eq
  rw [Lane.supervised, e]
  exact ⟨h.phase, h.ctx, h.core, h.flash⟩

theorem ImageRuns.event {L M N : Lane} (h : ImageRuns L M) (k : EventFrame M N) : ImageRuns L N := by
  refine ⟨(Lane.sameBulk_phase k.bulk).trans h.phase, (k.ctx_of_not_waiting ?_).trans h.ctx,
    (k.rd _ (by decide)).trans h.core, (Lane.sameBulk_flash k.bulk).trans h.flash⟩
  rw [h.ctx]
  exact (by decide : CtxSt.running ≠ .waiting)

theorem Lane.ctx_supervised_ne (L : Lane) {c : Nat} (h : c ≠ 0) : L.supervised.ctx c = L.ctx c := by
  obtain ⟨due, e⟩ := (L.startSupervisor (L.dieWord 0x100014)).restartWdog_eq
  rw [Lane.supervised, e]
  show (L.startSupervisor (L.dieWord 0x100014)).ctx c = L.ctx c
  rw [Lane.startSupervisor, Lane.ctx_wr, Lane.ctx_setCtx_ne _ _ h]
  rfl

theorem BootFrame.supervised (s : State) (l : LaneId) : BootFrame l s (s.modLane l Lane.supervised) := by
  refine ⟨?_, fun c => ?_, by rw [State.rind_modLane]⟩
  · rw [State.lane_modLane, (ImageRuns.supervised _).flash]
  · rw [State.lane_modLane]
    by_cases hc : c = 0
    · subst hc
      rw [(ImageRuns.supervised _).ctx]
      exact .inr (by decide : CtxSt.running ≠ .waiting)
    · exact .inl (Lane.ctx_supervised_ne _ hc)

/-- The lane with the image's digest, its SVN and its format of the configuration. -/
def Lane.identified (L : Lane) (digest : List Byte) (svn fmt : Word) : Lane :=
  ((L.modVault (fun v => { v with digest := digest })).wr 0x401500E0 svn).wr 0x40160014 fmt

theorem State.startImage_eq (s : State) (l : LaneId) : ∃ digest svn fmt, s.startImage l =
    ((((s.modLane l (fun L => L.identified digest svn fmt)).reportCopies l).showCopies l).placeCfg l).modLane l
      Lane.supervised := by
  refine ⟨(s.lane l).die 0x100018 48, (s.lane l).dieWord 0x100008,
    (s.lane l).dieWord ((s.lane l).dieWord 0x100010).toNat, ?_⟩
  rw [State.startImage]
  cases l <;> rfl

theorem startImage_runs (s : State) (l : LaneId) :
    BootFrame l s (s.startImage l) ∧ ImageRuns (s.lane l) ((s.startImage l).lane l) := by
  obtain ⟨digest, svn, fmt, h⟩ := s.startImage_eq l
  have before : BootFrame l s ((((s.modLane l (fun L => L.identified digest svn fmt)).reportCopies l).showCopies
      l).placeCfg l) := by
    refine (BootFrame.modLane l s ?_ fun c => ?_).trans ((BootFrame.reportCopies ..).trans ((BootFrame.showCopies ..).trans
      (BootFrame.placeCfg ..)))
    · rw [Lane.identified, Lane.flash_wr, Lane.flash_wr, Lane.modVault]
    · rw [Lane.identified, Lane.ctx_wr, Lane.ctx_wr]
      rfl
  rw [h]
  generalize (((s.modLane l (fun L => L.identified digest svn fmt)).reportCopies l).showCopies l).placeCfg l = t at *
  have run := ImageRuns.supervised (t.lane l)
  have entry : (t.lane l).dieWord 0x100014 = (s.lane l).dieWord 0x100014 := by
    rw [Lane.dieWord, Lane.die, before.flash, Lane.dieWord, Lane.die]
  refine ⟨before.trans (BootFrame.supervised t l), ?_⟩
  rw [State.lane_modLane]
  exact ⟨run.phase, entry ▸ run.ctx, run.core, run.flash.trans before.flash⟩

end Sys2Proof.Machine
end

