-- ==== Sys2Proof/Proofs/LaneBoots.lean ====
section
/-!
SUPPORT. The end of the boot: factory test, loader, or image (R48, R59, R72).
-/

namespace Sys2Proof.Machine

/-! ### The record of a loss of VLOG -/

theorem State.lane_reportVlog (s : State) (l : LaneId) : (s.reportVlog l).lane l =
    if s.rind.vlogRec.get l = true then (s.lane l).raise 92 0 0 0 else s.lane l := by
  rw [State.reportVlog]
  split
  · rw [State.lane_modRind, State.lane_modLane]
  · rfl

theorem State.eventFrame_reportVlog (s : State) (l : LaneId) : EventFrame (s.lane l) ((s.reportVlog l).lane l) := by
  rw [State.lane_reportVlog]
  split
  · exact EventFrame.raise _ 0 0 0 (by decide)
  · exact EventFrame.refl _

theorem State.die_reportVlog (s : State) (l : LaneId) : (s.reportVlog l).die = s.die := by
  rw [State.reportVlog]
  split
  · rw [State.die_modRind, State.die_modLane]
  · rfl

theorem State.reportVlog_none {s : State} {l : LaneId} (h : s.rind.vlogRec.get l = false) : s.reportVlog l = s :=
  if_neg (by rw [h]; decide)

theorem State.reportVlog_clears {s : State} {l : LaneId} (h : s.rind.vlogRec.get l = true) :
    (s.reportVlog l).rind.vlogRec.get l = false := by
  rw [State.reportVlog, if_pos h, State.rind_modRind, State.rind_modLane, Two.get_set_self]

/-! ### The loader -/

/-- The loader runs: its phase, its keys, and the update that an image has begun (R612). -/
def Lane.loading (L : Lane) (keys : Tab (List Byte)) : Lane :=
  { L with
    phase := Phase.loader
    keys := keys
    host := { L.host with upd := L.vault.begun.map (fun n => Upd.mk n 0 none) }
    vault := { L.vault with begun := none } }

theorem State.startLoader_eq (s : State) (l : LaneId) : ∃ keys, s.startLoader l =
    (s.reportCopies l).modLane l (fun L => L.loading keys) := ⟨_, rfl⟩

/-- What the loader's start leaves of its lane. -/
structure LoaderFrame (L M : Lane) : Prop where
  phase : M.phase = .loader
  sram : M.sram = L.sram
  flash : M.flash = L.flash
  ctx : ∀ c, M.ctx c = L.ctx c ∨ (M.ctx c).st ≠ .waiting
  pends : ∀ n, n < 160 → L.bitAt 0x40030040 n = true → M.bitAt 0x40030040 n = true

theorem LoaderFrame.loading {L M : Lane} (h : EventFrame L M) (keys : Tab (List Byte)) :
    LoaderFrame L (M.loading keys) := by
  have sram := Lane.sameBulk_sram h.bulk
  have flash := Lane.sameBulk_flash h.bulk
  refine ⟨rfl, sram, flash, fun c => (h.ctx c).imp_right fun k => ?_, h.pends⟩
  show (M.ctx c).st ≠ .waiting
  rw [k.2]
  decide

theorem startLoader_loads (s : State) (l : LaneId) : BootFrame l s (s.startLoader l) ∧
    LoaderFrame (s.lane l) ((s.startLoader l).lane l) ∧ (s.startLoader l).die = s.die := by
  obtain ⟨keys, h⟩ := s.startLoader_eq l
  have loads := LoaderFrame.loading (s.eventFrame_reportCopies l) keys
  rw [← State.lane_modLane (s.reportCopies l) l (fun L => L.loading keys), ← h] at loads
  refine ⟨⟨loads.flash, loads.ctx, ?_⟩, loads, ?_⟩
  · rw [h, State.rind_modLane, (BootFrame.reportCopies s l).record]
  · rw [h, State.die_modLane, State.die_reportCopies]

/-! ### The ways a boot ends -/

/-- The lane's request for a restart in the loader is used up. -/
def State.unloaded (s : State) (l : LaneId) : State :=
  s.modLane l (fun L => L.modVault (fun v => { v with loader := false }))

/-- Factory test runs. -/
def Lane.factoryTest (L : Lane) : Lane := { L with phase := Phase.factory }

/-- The active lane's key goes to the rind. -/
def State.keySent (s : State) (l : LaneId) : State := if s.isActive l then s.sendKey else s

/-- MODE asks for factory test before the lane is enrolled. -/
abbrev FactoryMode (L : Lane) : Prop := L.fld 0x40000010 0 3 = 2 ∧ L.enrolled = false

/-- MODE, or a restart for an update, asks for the loader. -/
abbrev LoaderMode (L : Lane) : Prop := L.fld 0x40000010 0 3 = 1 ∨ L.vault.loader = true

theorem not_loaderMode {L : Lane} (hm : L.fld 0x40000010 0 3 ≠ 1) (hv : L.vault.loader = false) : ¬LoaderMode L := by
  rintro (h | h)
  · exact hm h
  · exact absurd (h.symm.trans hv) (by decide)

theorem not_factoryMode_of_mode {L : Lane} (h : L.fld 0x40000010 0 3 = 1) : ¬FactoryMode L :=
  fun k => absurd (h.symm.trans k.1) (by decide)

theorem notEnrolled_iff (L : Lane) : (L.fld 0x40000010 0 3 = 2 ∧ ¬L.enrolled = true) ↔ FactoryMode L := by
  rw [FactoryMode, Bool.not_eq_true]

theorem State.bootLane_factory {s : State} {l : LaneId} (h : FactoryMode (s.lane l)) :
    s.bootLane l = ((s.unloaded l).modLane l Lane.factoryTest).reportVlog l := by
  rw [State.bootLane, if_pos ((notEnrolled_iff _).2 h), State.unloaded]
  rfl

theorem State.bootLane_loader {s : State} {l : LaneId} (hf : ¬FactoryMode (s.lane l)) (h : LoaderMode (s.lane l)) :
    s.bootLane l = ((s.unloaded l).startLoader l).reportVlog l := by
  rw [State.bootLane, if_neg (mt (notEnrolled_iff _).1 hf), if_pos h, State.unloaded]

theorem State.bootLane_image {s : State} {l : LaneId} (hf : ¬FactoryMode (s.lane l)) (hl : ¬LoaderMode (s.lane l))
    (h : s.imageCheck l = 0) :
    s.bootLane l = ((((s.unloaded l).startImage l).payWake l).keySent l).reportVlog l := by
  rw [State.bootLane, if_neg (mt (notEnrolled_iff _).1 hf), if_neg hl, if_pos h, State.unloaded, State.keySent]

theorem State.bootLane_refused {s : State} {l : LaneId} (hf : ¬FactoryMode (s.lane l)) (hl : ¬LoaderMode (s.lane l))
    (h : s.imageCheck l ≠ 0) :
    s.bootLane l = (((s.unloaded l).modLane l (fun L => L.raise 89 1 0 (BitVec.ofNat 32 (s.imageCheck l)))).startLoader
      l).reportVlog l := by
  rw [State.bootLane, if_neg (mt (notEnrolled_iff _).1 hf), if_neg hl, if_neg h, State.unloaded]

theorem execBootComplete_boot {s : State} {l : LaneId} (h : (s.lane l).phase = .boot) :
    exec (.bootComplete l) s = .next (s.bootLane l) := by
  show execBootComplete l s = _
  rw [execBootComplete, if_pos h]

theorem execBootComplete_not {s : State} {l : LaneId} (h : (s.lane l).phase ≠ .boot) :
    exec (.bootComplete l) s = .next s := by
  show execBootComplete l s = _
  rw [execBootComplete, if_neg h]

/-! ### What each way leaves -/

theorem BootFrame.unloaded (s : State) (l : LaneId) : BootFrame l s (s.unloaded l) :=
  BootFrame.modLane l s rfl fun _ => rfl

theorem State.unloaded_sram (s : State) (l : LaneId) : ((s.unloaded l).lane l).sram = (s.lane l).sram := by
  rw [State.unloaded, State.lane_modLane, Lane.modVault]

theorem State.unloaded_regs (s : State) (l : LaneId) : ((s.unloaded l).lane l).regs = (s.lane l).regs := by
  rw [State.unloaded, State.lane_modLane, Lane.modVault]

theorem State.unloaded_phase (s : State) (l : LaneId) : ((s.unloaded l).lane l).phase = (s.lane l).phase := by
  rw [State.unloaded, State.lane_modLane, Lane.modVault]

theorem State.unloaded_die (s : State) (l : LaneId) : (s.unloaded l).die = s.die := by
  rw [State.unloaded, State.die_modLane]

/-- A wake that is owed is an event of the lane, and leaves the record of a loss of VLOG. -/
theorem State.payWake_reports (s : State) (l : LaneId) : EventFrame (s.lane l) ((s.payWake l).lane l) ∧
    (s.payWake l).rind.vlogRec = s.rind.vlogRec := by
  rw [State.payWake]
  split
  · rw [State.lane_modRind, State.lane_modLane, State.rind_modRind, State.rind_modLane]
    exact ⟨EventFrame.raise _ 1 0 _ (by decide), rfl⟩
  · exact ⟨EventFrame.refl _, rfl⟩

theorem State.lane_keySent (s : State) (l m : LaneId) : (s.keySent l).lane m = s.lane m := by
  unfold State.keySent State.sendKey
  split
  · split
    · rfl
    · rw [State.lane_modRind]
  · rfl

theorem State.vlogRec_keySent (s : State) (l : LaneId) : (s.keySent l).rind.vlogRec = s.rind.vlogRec := by
  unfold State.keySent State.sendKey
  split
  · split
    · rfl
    · rw [State.rind_modRind, Rind.vlogRec_setFlag]
  · rfl

/-- The image runs once its lane has booted, and what the boot leaves of it. -/
theorem imageBoot_runs (s : State) (l : LaneId) :
    ImageRuns (s.lane l) (((((s.unloaded l).startImage l).payWake l).keySent l).lane l) ∧
      BootFrame l s ((((s.unloaded l).startImage l).payWake l).keySent l) := by
  obtain ⟨frame, run⟩ := startImage_runs (s.unloaded l) l
  have first := BootFrame.unloaded s l
  generalize (s.unloaded l).startImage l = t at *
  obtain ⟨ev, record⟩ := t.payWake_reports l
  have runs := run.event ev
  have keep : BootFrame l t ((t.payWake l).keySent l) := by
    refine ⟨?_, fun c => ?_, (State.vlogRec_keySent ..).trans record⟩
    · rw [State.lane_keySent, Lane.sameBulk_flash ev.bulk]
    · rw [State.lane_keySent]
      refine (ev.ctx c).imp_right fun h => ?_
      rw [h.2]
      decide
  have entry : ((s.unloaded l).lane l).dieWord 0x100014 = (s.lane l).dieWord 0x100014 := by
    rw [Lane.dieWord, Lane.die, first.flash, Lane.dieWord, Lane.die]
  refine ⟨?_, (first.trans frame).trans keep⟩
  rw [State.lane_keySent]
  exact ⟨runs.phase, entry ▸ runs.ctx, runs.core, runs.flash.trans first.flash⟩

/-- Every boot ends with the report of a loss of VLOG, on a lane out of reset with no wait that is new. -/
theorem State.bootLane_reports (s : State) (l : LaneId) :
    ∃ u, s.bootLane l = u.reportVlog l ∧ BootFrame l s u ∧ (u.lane l).phase ≠ .off := by
  have first := BootFrame.unloaded s l
  by_cases hf : FactoryMode (s.lane l)
  · refine ⟨_, State.bootLane_factory hf, first.trans (BootFrame.modLane l _ rfl fun _ => rfl), ?_⟩
    rw [State.lane_modLane]
    exact (by decide : Phase.factory ≠ .off)
  by_cases hl : LoaderMode (s.lane l)
  · obtain ⟨frame, loads, -⟩ := startLoader_loads (s.unloaded l) l
    refine ⟨_, State.bootLane_loader hf hl, first.trans frame, ?_⟩
    rw [loads.phase]
    decide
  by_cases hi : s.imageCheck l = 0
  · obtain ⟨run, frame⟩ := imageBoot_runs s l
    refine ⟨_, State.bootLane_image hf hl hi, frame, ?_⟩
    rw [run.phase]
    decide
  · have told := BootFrame.raise l (s.unloaded l) (n := 89) 1 0 (BitVec.ofNat 32 (s.imageCheck l)) (by decide)
    have run := State.bootLane_refused hf hl hi
    generalize (s.unloaded l).modLane l _ = u at *
    obtain ⟨frame, loads, -⟩ := startLoader_loads u l
    refine ⟨_, run, first.trans (told.trans frame), ?_⟩
    rw [loads.phase]
    decide

/-! ### The end of the boot -/

section
variable {s : State} {l : LaneId} (boot : (s.lane l).phase = .boot)
include boot

theorem bootComplete_factory (h : FactoryMode (s.lane l)) :
    ∃ t, exec (.bootComplete l) s = .next t ∧ (t.lane l).phase = .factory ∧ SameMemory l s t ∧
      (s.rind.vlogRec.get l = false → OnlyLane l s t ∧ (t.lane l).regs = (s.lane l).regs) := by
  refine ⟨_, execBootComplete_boot boot, ?_⟩
  rw [State.bootLane_factory h]
  have first := BootFrame.unloaded s l
  have only : OnlyLane l s ((s.unloaded l).modLane l Lane.factoryTest) :=
    (OnlyLane.modLane ..).trans (OnlyLane.modLane ..)
  have lane : ((s.unloaded l).modLane l Lane.factoryTest).lane l = ((s.unloaded l).lane l).factoryTest :=
    State.lane_modLane ..
  have rind : ((s.unloaded l).modLane l Lane.factoryTest).rind = s.rind := only.2.2.1
  generalize (s.unloaded l).modLane l Lane.factoryTest = u at *
  have ev := u.eventFrame_reportVlog l
  rw [lane] at ev
  refine ⟨Lane.sameBulk_phase ev.bulk, SameMemory.of_lane ((Lane.sameBulk_sram ev.bulk).trans (s.unloaded_sram l))
    ((Lane.sameBulk_flash ev.bulk).trans first.flash), fun hv => ?_⟩
  rw [State.reportVlog_none (by rw [rind, hv]), lane]
  exact ⟨only, s.unloaded_regs l⟩

theorem bootComplete_vlog (h : s.rind.vlogRec.get l = true) : ∃ t, exec (.bootComplete l) s = .next t ∧
    t.rind.vlogRec.get l = false ∧ ((s.lane l).waiting 2 92 = [] → (t.lane l).bitAt 0x40030040 92 = true) := by
  obtain ⟨u, run, frame, alive⟩ := s.bootLane_reports l
  have record : u.rind.vlogRec.get l = true := by rw [frame.record, h]
  refine ⟨_, execBootComplete_boot boot, ?_, fun hw => ?_⟩ <;> rw [run]
  · exact State.reportVlog_clears record
  · rw [State.lane_reportVlog, if_pos record]
    exact Lane.bitAt_raise 0 0 0 (by decide) (bne_iff_ne.2 alive) (frame.waiting_nil hw)

theorem bootComplete_loader (h : (s.lane l).fld 0x40000010 0 3 = 1) : ∃ t, exec (.bootComplete l) s = .next t ∧
    (t.lane l).phase = .loader ∧ SameMemory l s t ∧ t.die = s.die := by
  obtain ⟨-, loads, die⟩ := startLoader_loads (s.unloaded l) l
  have ev := ((s.unloaded l).startLoader l).eventFrame_reportVlog l
  refine ⟨_, execBootComplete_boot boot, ?_⟩
  rw [State.bootLane_loader (not_factoryMode_of_mode h) (.inl h)]
  refine ⟨(Lane.sameBulk_phase ev.bulk).trans loads.phase, SameMemory.of_lane ?_ ?_, ?_⟩
  · rw [Lane.sameBulk_sram ev.bulk, loads.sram, State.unloaded_sram]
  · rw [Lane.sameBulk_flash ev.bulk, loads.flash, (BootFrame.unloaded s l).flash]
  · rw [State.die_reportVlog, die, State.unloaded_die]

theorem bootComplete_refused (hf : ¬FactoryMode (s.lane l)) (hl : ¬LoaderMode (s.lane l)) (h : s.imageCheck l ≠ 0) :
    ∃ t, exec (.bootComplete l) s = .next t ∧ (t.lane l).phase = .loader ∧
      ((s.lane l).waiting 2 89 = [] → (t.lane l).bitAt 0x40030040 89 = true) := by
  have run := State.bootLane_refused hf hl h
  have told : ((s.unloaded l).modLane l (fun L => L.raise 89 1 0 (BitVec.ofNat 32 (s.imageCheck l)))).lane l =
      ((s.unloaded l).lane l).raise 89 1 0 (BitVec.ofNat 32 (s.imageCheck l)) := State.lane_modLane ..
  generalize (s.unloaded l).modLane l _ = u at *
  obtain ⟨-, loads, -⟩ := startLoader_loads u l
  have ev := (u.startLoader l).eventFrame_reportVlog l
  refine ⟨_, execBootComplete_boot boot, ?_⟩
  rw [run]
  refine ⟨(Lane.sameBulk_phase ev.bulk).trans loads.phase, fun hw => ev.pends 89 (by decide) (loads.pends 89 (by decide) ?_)⟩
  rw [told]
  refine Lane.bitAt_raise _ _ _ (by decide) ?_ ((BootFrame.unloaded s l).waiting_nil hw)
  rw [Lane.alive, State.unloaded_phase, boot]
  rfl

theorem bootComplete_image (hf : ¬FactoryMode (s.lane l)) (hl : ¬LoaderMode (s.lane l)) (h : s.imageCheck l = 0) :
    ∃ t, exec (.bootComplete l) s = .next t ∧ ImageRuns (s.lane l) (t.lane l) := by
  obtain ⟨run, -⟩ := imageBoot_runs s l
  refine ⟨_, execBootComplete_boot boot, ?_⟩
  rw [State.bootLane_image hf hl h]
  exact run.event (State.eventFrame_reportVlog ..)

end

theorem lanesLeaveResetAndBoot : Sys2Proof.Claims.LanesLeaveResetAndBoot := by
  intro s l mode k r
  refine ⟨laneResetRelease_starts mode, laneResetRelease_reports mode, execLaneResetRelease_not mode,
    fun boot hm he => bootComplete_factory boot ⟨hm, he⟩, bootComplete_vlog, bootComplete_loader,
    fun boot hm hf hv => bootComplete_refused boot hf (not_loaderMode hm hv), fun boot hm hf hv hi => ?_,
    execBootComplete_not⟩
  obtain ⟨t, run, image⟩ := bootComplete_image boot hf (not_loaderMode hm hv) hi
  refine ⟨t, run, image.phase, ?_⟩
  rw [State.ctxOf, image.ctx]
  exact ⟨rfl, rfl, rfl, rfl, image.core, image.flash⟩

/-- Settles O32: lanes reset themselves, leave reset into their boot ROM, and boot. -/
theorem lanesResetAndBoot : Obligations.LanesResetAndBoot := ⟨lanesResetThemselves, lanesLeaveResetAndBoot⟩

end Sys2Proof.Machine
end

