-- ==== Sys2Proof/Proofs/PassingTime.lean ====
section
/-!
SUPPORT. Register commands where the map holds no word, and the step on an empty queue.
-/

namespace Sys2Proof.Machine

/-! ### Addresses where the map holds no register word -/

theorem inBlocks_eq_false {a : Nat} (h : a % 4 ≠ 0 ∨ a < 0x40000000 ∨ 0x40180000 ≤ a) : inBlocks a = false := by
  rw [Bool.eq_false_iff]
  intro k
  simp only [inBlocks, Bool.and_eq_true, decide_eq_true_eq, beq_iff_eq] at k
  omega

theorem execRegisterWrite_outside {a : Word} (s : State) (l : LaneId) (v : SyncWord) (h : inBlocks a.toNat = false) :
    exec (.registerWrite l a v) s = .fault .noAddress := by
  show execRegisterWrite l a v s = _
  rw [execRegisterWrite, if_neg (by rw [h]; decide)]

theorem execRcRead_outside {a : Word} (s : State) (l : LaneId) (h : inBlocks a.toNat = false) :
    exec (.rcRead l a) s = .fault .noAddress := by
  show execRcRead l a s = _
  rw [execRcRead, if_neg (by rw [h]; decide)]

theorem registerCommandsOutsideTheBlocksStop : Sys2Proof.Claims.RegisterCommandsOutsideTheBlocksStop :=
  fun s l _ v h => ⟨execRegisterWrite_outside s l v (inBlocks_eq_false h), execRcRead_outside s l (inBlocks_eq_false h)⟩

/-! ### What both branches of a choice keep -/

theorem ite_keeps {σ β : Type} (p : σ → β) {c : Prop} [Decidable c] {t u : σ} {b : β} (ht : p t = b) (hu : p u = b) :
    p (if c then t else u) = b := by
  split <;> assumption

/-! ### Commands that wait still wait -/

theorem SwitchesOnly.pending {s t : State} (h : SwitchesOnly s t) : t.pending = s.pending := by
  obtain ⟨sw, rfl⟩ := h
  rfl

theorem SwitchesOnly.directOff (s : State) : SwitchesOnly s s.directOff := by
  refine SwitchesOnly.foldl (fun t j => ?_) (List.range 16) s
  split
  · exact SwitchesOnly.softOff ..
  · exact SwitchesOnly.refl t

theorem State.pending_caveEdge (s : State) (was : Bool) : (s.caveEdge was).pending = s.pending := by
  refine ite_keeps _ rfl (ite_keeps _ (SwitchesOnly.directOff s).pending ?_)
  exact (SwitchesOnly.directFollow _).pending.trans (ite_keeps _ (State.pending_modRind ..) rfl)

theorem State.pending_payCoast (s : State) (l : LaneId) : (s.payCoast l).pending = s.pending := by
  rw [State.payCoast, State.pending_modRind, State.pending_modLane]

theorem State.pending_resumeLane (e : Die) (s : State) (l : LaneId) : (s.resumeLane e l).pending = s.pending := by
  refine ite_keeps _ ?_ rfl
  rw [State.pending_payCoast, State.pending_modLane]

theorem State.pending_startTcxo (s : State) : s.startTcxo.pending = s.pending := by
  obtain ⟨q, -, e⟩ := State.startTcxo_eq s
  rw [e, State.pending_resumeLane, State.pending_resumeLane, State.pending_modRind]

theorem State.pending_clocked (s : State) (f : State → State) : (s.clocked f).pending = (f s).pending :=
  ite_keeps _ rfl (ite_keeps _ (State.pending_startTcxo (f s)) rfl)

theorem State.pending_payWake (s : State) (l : LaneId) : (s.payWake l).pending = s.pending := by
  refine ite_keeps _ ?_ rfl
  rw [State.pending_modRind, State.pending_modLane]

theorem State.pending_wakeBy (s : State) (src : Nat) : (s.wakeBy src).pending = s.pending := by
  refine ite_keeps _ rfl (ite_keeps _ (ite_keeps _ ?_ ?_) ?_)
  · rw [State.pending_bothLanes, State.pending_clocked, State.pending_caveEdge, State.pending_modRind]
  · rw [State.pending_clocked, State.pending_caveEdge, State.pending_modRind]
  · rw [State.pending_payWake, State.pending_payWake, State.pending_clocked, State.pending_caveEdge,
      State.pending_modRind]

theorem State.pending_runOn (s : State) : s.runOn.pending = s.pending := by
  refine ite_keeps _ ?_ (ite_keeps _ rfl (State.pending_modDie ..))
  rw [State.pending_modDie, State.pending_modLane, State.pending_modLane]

theorem State.pending_tick (s : State) : s.tick.pending = s.pending := by
  refine ite_keeps _ ?_ ?_
  · rw [State.pending_modLane, State.pending_modLane, State.pending_runOn]
  · rw [State.pending_wakeBy, State.pending_runOn]

/-! ### Time runs on -/

/-- The ticks of the TCXO in one step on an empty queue (R65). -/
def State.idleTicks (s : State) : Nat := if s.power = 2 then 5 else 1

theorem State.lane_runOn (s : State) (l : LaneId) : s.runOn.lane l =
    if (s.lane l).alive = true ∧ s.tcxo = true then (s.lane l).advance s.idleTicks (s.ltStep l s.idleTicks)
    else s.lane l := by
  unfold State.runOn
  cases s.tcxo with
  | true =>
    simp only [and_true]
    cases l <;> rfl
  | false =>
    simp only [Bool.false_eq_true, and_false, if_false]
    split
    · rfl
    · exact State.lane_modDie ..

theorem State.die_runOn (s : State) : s.runOn.die =
    if s.tcxo = true then s.die.advance (s.replicaStep s.idleTicks)
    else if s.rind.holdEmpty = true then s.die
    else s.die.advance s.rind.period := by
  unfold State.runOn
  split
  · rfl
  · split <;> rfl

theorem State.rind_runOn (s : State) : s.runOn.rind = s.rind := ite_keeps _ rfl (ite_keeps _ rfl rfl)

theorem State.laneLink_runOn (s : State) : s.runOn.laneLink = s.laneLink := by
  refine ite_keeps _ ?_ (ite_keeps _ rfl (State.laneLink_modDie ..))
  rw [State.laneLink_modDie, State.laneLink_modLane, State.laneLink_modLane]

/-- The replica that runs on is all that changes of the die. -/
theorem Die.advance_frame (e : Die) (d : Rat) : ∃ n q, e.advance d = { e with replica := n, sub := q } := ⟨_, _, rfl⟩

theorem State.die_runOn_frame (s : State) : ∃ n q, s.runOn.die = { s.die with replica := n, sub := q } := by
  rw [State.die_runOn]
  split
  · exact Die.advance_frame ..
  · split
    · exact ⟨_, _, rfl⟩
    · exact Die.advance_frame ..

/-- A lane that does not follow its partner and applies no rate keeps the pace of the TCXO (R79, R80). -/
theorem State.ltStep_own {s : State} {l : LaneId} (n : Nat) (h : s.standsBy l = false) (hr : (s.lane l).ownRate = 0) :
    s.ltStep l n = n := by
  rw [State.ltStep, h, hr]
  simp

/-! ### Fusion reads its wheels -/

/-- The clock and the memories of a lane. -/
def Lane.clockAndMemory (L : Lane) : Nat × List Host.Cell × List Host.Cell := (L.lt, L.sram, L.flash)

theorem Lane.clockAndMemory_raise (L : Lane) (n d0 d1 : Nat) (d2 : Word) :
    (L.raise n d0 d1 d2).clockAndMemory = L.clockAndMemory := by
  have bulk := Lane.sameBulk_raise L n d0 d1 d2
  rw [Lane.clockAndMemory, Lane.sameBulk_lt bulk, Lane.sameBulk_sram bulk, Lane.sameBulk_flash bulk, Lane.clockAndMemory]

/-- A sample that is accepted waits in the fusion engine; the clock and the memories of the lane stay. -/
theorem Lane.clockAndMemory_acceptSample (L : Lane) (i kind stamp : Nat) (d : List Word) :
    (L.acceptSample i kind stamp d).clockAndMemory = L.clockAndMemory := by
  unfold Lane.acceptSample
  extract_lets _ taken fresh _ _ _ _ _ spoken _ stored
  have hf : fresh.clockAndMemory = L.clockAndMemory :=
    ite_keeps _ (Lane.clockAndMemory_raise ((taken.setFlag _ _ _).setFlag _ _ _) ..) rfl
  have hs : spoken.clockAndMemory = L.clockAndMemory := ite_keeps _ hf hf
  have hx : stored.clockAndMemory = L.clockAndMemory := ite_keeps _ hs hs
  exact ite_keeps _ (ite_keeps _ hf hf) (ite_keeps _ hx hx)

theorem Lane.clockAndMemory_readWheels (L : Lane) : L.readWheels.clockAndMemory = L.clockAndMemory :=
  foldl_keeps Lane.clockAndMemory (fun _ _ => ite_keeps _ (Lane.clockAndMemory_acceptSample ..) rfl) (List.range 32) L

theorem Lane.clockAndMemory_wheelTick (was : Nat) (L : Lane) : (L.wheelTick was).clockAndMemory = L.clockAndMemory :=
  ite_keeps _ (Lane.clockAndMemory_readWheels L) rfl

/-- With no class of fusion running no wheel is read. -/
theorem Lane.wheelTick_idle {L : Lane} (was : Nat) (h0 : L.flag 0x40080000 0 = false) (h1 : L.flag 0x40080000 1 = false) :
    L.wheelTick was = L := by
  rw [Lane.wheelTick, h0, h1, Bool.or_false, Bool.and_false, Bool.false_and]
  rfl

/-! ### A quiet step -/

theorem State.lt_runOn (s : State) (l : LaneId) : (s.runOn.lane l).lt =
    if (s.lane l).alive = true ∧ s.tcxo = true then
      ((s.lane l).lt + ((s.lane l).time.sub + s.ltStep l s.idleTicks).floor.toNat) % 2 ^ 64
    else (s.lane l).lt := by
  rw [State.lane_runOn]
  split <;> rfl

/-- Of a lane, time that runs on leaves registers, contexts and memories. -/
theorem State.lane_runOn_frame (s : State) (l : LaneId) : (s.runOn.lane l).regs = (s.lane l).regs ∧
    (s.runOn.lane l).ctxs = (s.lane l).ctxs ∧ (s.runOn.lane l).sram = (s.lane l).sram ∧
    (s.runOn.lane l).flash = (s.lane l).flash := by
  rw [State.lane_runOn]
  split <;> exact ⟨rfl, rfl, rfl, rfl⟩

/-- A wake by the lanes alone comes to nothing while neither has a cause. -/
theorem State.sources_lanes {s : State} (ha : s.laneWakes .a = false) (hb : s.laneWakes .b = false) :
    s.sources 4096 = 0 := by
  have low : 2 ^ 12 &&& ((s.rind.rd 0x108).toNat &&& (2 ^ 12 - 1)) = 0 := by
    rw [Nat.two_pow_and, Nat.testBit_and, Nat.testBit_two_pow_sub_one]
    simp
  rw [State.sources, ha, hb]
  exact congrArg (· ||| 0) low

theorem State.wakeBy_none {s : State} {src : Nat} (h : s.sources src = 0) : s.wakeBy src = s := by
  rw [State.wakeBy, h]
  exact if_pos rfl

/-- From `s` to `t` time has passed and nothing else, but that in RUN fusion may have read its wheels. -/
structure State.TimePasses (s t : State) : Prop where
  die : t.die = s.runOn.die
  rind : t.rind = s.rind
  laneLink : t.laneLink = s.laneLink
  lane : ∀ l, t.lane l = s.runOn.lane l ∨ s.power = 0 ∧ t.lane l = (s.runOn.lane l).wheelTick (s.lane l).lt

theorem State.TimePasses.runOn (s : State) : s.TimePasses s.runOn :=
  ⟨rfl, s.rind_runOn, s.laneLink_runOn, fun _ => .inl rfl⟩

/-- In RUN, with no transition in progress, a step on an empty queue reads the wheels of both lanes. -/
theorem State.TimePasses.inRun {s : State} (h : s.power = 0 ∧ s.rind.trans = none) : s.TimePasses s.tick := by
  have run : s.tick = (s.runOn.modLane .a (Lane.wheelTick s.laneA.lt)).modLane .b (Lane.wheelTick s.laneB.lt) := by
    rw [State.tick, if_pos ⟨h.1, by rw [h.2]; rfl⟩]
  rw [run]
  refine ⟨?_, ?_, ?_, fun l => .inr ⟨h.1, ?_⟩⟩
  · rw [State.die_modLane, State.die_modLane]
  · rw [State.rind_modLane, State.rind_modLane, State.rind_runOn]
  · rw [State.laneLink_modLane, State.laneLink_modLane, State.laneLink_runOn]
  · cases l <;> rfl

theorem State.TimePasses.tick {s : State} (h : (s.power = 0 ∧ s.rind.trans = none) ∨
    (s.runOn.laneWakes .a = false ∧ s.runOn.laneWakes .b = false)) : s.TimePasses s.tick := by
  by_cases run : s.power = 0 ∧ s.rind.trans = none
  · exact .inRun run
  · obtain ⟨ha, hb⟩ := h.resolve_left run
    rw [State.tick, if_neg (by rwa [Option.isNone_iff_eq_none]), State.wakeBy_none (State.sources_lanes ha hb)]
    exact .runOn s

theorem State.TimePasses.clockAndMemory {s t : State} (h : s.TimePasses t) (l : LaneId) :
    (t.lane l).clockAndMemory = (s.runOn.lane l).clockAndMemory := by
  obtain e | ⟨-, e⟩ := h.lane l
  · rw [e]
  · rw [e, Lane.clockAndMemory_wheelTick]

theorem State.TimePasses.sameMemory {s t : State} (h : s.TimePasses t) (l : LaneId) : SameMemory l s t := by
  obtain ⟨-, -, sram, flash⟩ := s.lane_runOn_frame l
  have kept := h.clockAndMemory l
  exact SameMemory.of_lane ((congrArg (·.2.1) kept).trans sram) ((congrArg (·.2.2) kept).trans flash)

/-- Where no class of fusion runs, contexts and registers stay. -/
theorem State.TimePasses.idle {s t : State} (h : s.TimePasses t) {l : LaneId}
    (fus : s.power = 0 → (s.lane l).flag 0x40080000 0 = false ∧ (s.lane l).flag 0x40080000 1 = false) :
    (t.lane l).ctxs = (s.lane l).ctxs ∧ (t.lane l).regs = (s.lane l).regs := by
  obtain ⟨regs, ctxs, -, -⟩ := s.lane_runOn_frame l
  have same : t.lane l = s.runOn.lane l := by
    obtain e | ⟨run, e⟩ := h.lane l
    · exact e
    · obtain ⟨h0, h1⟩ := fus run
      have flag : ∀ i, (s.runOn.lane l).flag 0x40080000 i = (s.lane l).flag 0x40080000 i :=
        Lane.flag_of_rd (by rw [Lane.rd, regs, Lane.rd])
      rw [e, Lane.wheelTick_idle _ (by rw [flag, h0]) (by rw [flag, h1])]
  rw [same]
  exact ⟨ctxs, regs⟩

theorem State.TimePasses.control {s t : State} (h : s.TimePasses t) : t.control = s.control := by
  rw [State.control, h.rind, State.control]

/-- The step on an empty queue is time that runs on (R65, R74, R76), whatever else a lane that wakes the module brings about. -/
theorem emptyStepLetsTimePass : Sys2Proof.Claims.AnEmptyQueueLetsTimePass := by
  intro s empty
  refine ⟨s.tick, by rw [step, empty], (State.pending_tick s).trans empty, fun quiet => ?_⟩
  have pass := State.TimePasses.tick quiet
  obtain ⟨n, q, frame⟩ := pass.die ▸ s.die_runOn_frame
  refine ⟨by rw [frame], by rw [frame], by rw [frame], by rw [pass.rind], by rw [pass.rind], pass.control, pass.laneLink,
    fun on => ?_, fun off => ?_,
    fun l => ⟨pass.sameMemory l, ?_, State.ltStep_own _, pass.idle⟩⟩
  · rw [pass.die, State.die_runOn, if_pos on]
    rfl
  · rw [pass.die, State.die_runOn, if_neg (by rw [off]; decide)]
    split <;> rfl
  · exact (congrArg Prod.fst (pass.clockAndMemory l)).trans (s.lt_runOn l)

/-- Settles O2: no register word stands outside the blocks, and a step on an empty queue is time that runs on. -/
theorem anEmptyQueueLetsTimePass : Obligations.AnEmptyQueueLetsTimePass :=
  ⟨registerCommandsOutsideTheBlocksStop, emptyStepLetsTimePass⟩

end Sys2Proof.Machine
end

