-- ==== Sys2Proof/Proofs/DozeBanks.lean ====
section
/-!
SUPPORT. The entry to DOZE of a lane that lists a byte beyond its 24 banks of SRAM.
-/

namespace Sys2Proof.Machine

/-- An address beyond the 6 MiB of SRAM.  `bankOf` gives it a bank that does not exist, and what `bankPower` takes for that
bank's BANK_STAT is the register TXU_ABORT of CAN controller 0. -/
def pastSram : Nat := 0x33F8F * 0x40000

theorem bankStat_pastSram : 0x40040200 + 4 * bankOf pastSram = canReg 0 0x3C := by decide

/-- The module in RUN on its way to DOZE (R68): controller 0 of lane A has request 5 pending (TXU_REQ) and request 4 under
withdrawal (TXU_ABORT), and the lane lists a byte at `pastSram`. -/
def dozing : State :=
  { State.reset with
    laneA := { Lane.reset with
      phase := .run
      regs := [(canReg 0 0x38, 0x20), (canReg 0 0x3C, 0x10)]
      sram := [(pastSram, 1)] }
    rind := { Rind.reset with
      vlogOk := true
      trans := some 2 } }

theorem bankPower_dozing : (dozing.lane .a).bankPower (bankOf pastSram) = 1 := by decide

theorem byte_dozing : dozing.byte .a pastSram = 1 := by decide

/-- The withdrawal of requests on the way out of RUN (R482) makes TXU_ABORT 0x30, in which `bankPower` no longer reads RET, and
the byte is lost. -/
theorem byte_dozed : (dozing.enterPower dozing.power 2).byte .a pastSram = 0 := by decide +kernel

/-- The clause on DOZE and NAP fails of `dozing`: it does not bound its address by the 6 MiB of SRAM (R116), and past them
the power mode that it names is a register of another engine, which the transition changes before it drops the banks. -/
theorem not_powerTransitionsAndWakes : ¬Sys2Proof.Claims.PowerTransitionsAndWakes := by
  intro h
  obtain ⟨-, complete, -⟩ := h dozing 0
  obtain ⟨t, run, -, -, -, -, -, -, -, -, -, -, kept⟩ := complete 2 rfl (by decide)
  obtain rfl := Host.Outcome.next.inj run
  have byte := kept (.inl rfl) .a pastSram
  rw [if_pos bankPower_dozing, byte_dozing] at byte
  exact absurd (byte_dozed.symm.trans byte) (by decide)

/-- Refutes O31, by its clause on what SRAM keeps in DOZE and NAP, at an address beyond SRAM. -/
theorem not_powerTargetsAndWakes : ¬Obligations.PowerTargetsAndWakes :=
  fun h => not_powerTransitionsAndWakes h.2.1

end Sys2Proof.Machine
end

