-- ==== Sys2Proof/Proofs/TimeEdits.lean ====
section
/-!
SUPPORT. Changes of a lane's time base and of registers beside it, and an event raised after them.
-/

namespace Sys2Proof.Machine

/-! ### Flags and words of registers -/

theorem Lane.flag_setFlag (L : Lane) (a i : Nat) {j : Nat} (b : Bool) (hj : j < 32) :
    (L.setFlag a i b).flag a j = if j = i then b else L.flag a j := by
  rw [Lane.flag, Lane.rd_setFlag, if_pos rfl, bitOf_setBit _ _ _ _ hj, Lane.flag]

theorem bitOf_eq_testBit (x : Word) (i : Nat) : bitOf x i = (fieldNat x i 1).testBit 0 := by
  rw [testBit_fieldNat]
  rfl

/-- A bit of a register and of a word are the same where the one-bit fields are. -/
theorem bitOf_of_fieldNat {x y : Word} {i : Nat} (h : fieldNat x i 1 = fieldNat y i 1) : bitOf x i = bitOf y i := by
  rw [bitOf_eq_testBit, h, bitOf_eq_testBit]

/-- An RW field with no range reads, after a write of its register, the field of the word written. -/
theorem Lane.fieldNat_plainWrite {a lo w r : Nat} (L : Lane) (v : Word) (hl : laidOut (laneFlds a) = true)
    (hf : frw lo w r ∈ laneFlds a) : fieldNat ((L.plainWrite a v).rd a) lo w = fieldNat v lo w := by
  rw [Lane.plainWrite, Lane.rd_wr_self]
  refine (fieldNat_fldsWrite hl hf _ _ v).trans ?_
  exact Fld.fieldNat_write (fits_of_laidOut hl hf) ..

theorem loWord_pairNat (lo hi : Word) : loWord (pairNat lo hi) = lo := by
  apply BitVec.eq_of_toNat_eq
  have := lo.isLt
  simp only [loWord, pairNat, BitVec.toNat_ofNat]
  omega

theorem hiWord_pairNat (lo hi : Word) : hiWord (pairNat lo hi) = hi := by
  apply BitVec.eq_of_toNat_eq
  have := lo.isLt
  have := hi.isLt
  simp only [hiWord, pairNat, BitVec.toNat_ofNat]
  omega

theorem Lane.rd_wr64_lo (L : Lane) (a n : Nat) : (L.wr64 a n).rd a = loWord n := by
  rw [Lane.wr64, Lane.rd_wr_ne _ _ (by omega), Lane.rd_wr_self]

theorem Lane.rd_wr64_hi (L : Lane) (a n : Nat) : (L.wr64 a n).rd (a + 4) = hiWord n := Lane.rd_wr_self ..

/-- A word in range is read back as the number that it was made from. -/
theorem toInt_satInt (i : Int) : (satInt i).toInt = max (-0x80000000) (min i 0x7FFFFFFF) := by
  rw [satInt, BitVec.toInt_ofInt]
  exact Int.bmod_eq_of_le (by norm_num) (by norm_num)

/-! ### Changes of the time base -/

/-- Two lanes agree but for the registers at `as`, the time base and the count of free values drawn. -/
structure TimeEdit (as : List Nat) (L M : Lane) : Prop where
  rest : { M with regs := [], time := TimeSt.reset, free := 0 } = { L with regs := [], time := TimeSt.reset, free := 0 }
  rd : ∀ a, a ∉ as → M.rd a = L.rd a

namespace TimeEdit

variable {as : List Nat} {L M N : Lane}

theorem refl (as : List Nat) (L : Lane) : TimeEdit as L L := ⟨rfl, fun _ _ => rfl⟩

theorem trans (h : TimeEdit as L M) (k : TimeEdit as M N) : TimeEdit as L N :=
  ⟨k.rest.trans h.rest, fun a ha => (k.rd a ha).trans (h.rd a ha)⟩

theorem wr (L : Lane) {a : Nat} (v : Word) (h : a ∈ as) : TimeEdit as L (L.wr a v) :=
  ⟨rfl, fun _ hk => Lane.rd_wr_ne _ _ fun e => hk (e ▸ h)⟩

theorem wr64 (L : Lane) {a : Nat} (n : Nat) (h : a ∈ as) (h4 : a + 4 ∈ as) : TimeEdit as L (L.wr64 a n) :=
  (wr L _ h).trans (wr _ _ h4)

theorem time (L : Lane) (t : TimeSt) : TimeEdit as L { L with time := t } := ⟨rfl, fun _ _ => rfl⟩

theorem free (L : Lane) (n : Nat) : TimeEdit as L { L with free := n } := ⟨rfl, fun _ _ => rfl⟩

theorem phase (h : TimeEdit as L M) : M.phase = L.phase := (congrArg Lane.phase h.rest :)
theorem lt (h : TimeEdit as L M) : M.lt = L.lt := (congrArg Lane.lt h.rest :)
theorem halted (h : TimeEdit as L M) : M.halted = L.halted := (congrArg Lane.halted h.rest :)
theorem ctxs (h : TimeEdit as L M) : M.ctxs = L.ctxs := (congrArg Lane.ctxs h.rest :)
theorem ev (h : TimeEdit as L M) : M.ev = L.ev := (congrArg Lane.ev h.rest :)
theorem sram (h : TimeEdit as L M) : M.sram = L.sram := (congrArg Lane.sram h.rest :)
theorem flash (h : TimeEdit as L M) : M.flash = L.flash := (congrArg Lane.flash h.rest :)

theorem alive (h : TimeEdit as L M) : M.alive = L.alive := by rw [Lane.alive, h.phase, Lane.alive]

theorem waiting (h : TimeEdit as L M) (k n : Nat) : M.waiting k n = L.waiting k n := by
  simp only [Lane.waiting, Lane.ctx, h.ctxs]

theorem onlyRegs {s t : State} {l : LaneId} (h : TimeEdit as (s.lane l) (t.lane l)) : OnlyRegs l as s t := h.rd

theorem sameMemory {s t : State} {l : LaneId} (h : TimeEdit as (s.lane l) (t.lane l)) : SameMemory l s t :=
  SameMemory.of_lane h.sram h.flash

/-! ### An event after a change of the time base -/

/-- Registers, beside those edited and those an event changes, keep their value. -/
theorem rd_raise (h : TimeEdit as L M) {n : Nat} (d0 d1 : Nat) (d2 : Word) (hn : n < 160) {a : Nat}
    (ha : a ∉ as ++ evRegs) : (M.raise n d0 d1 d2).rd a = L.rd a := by
  rw [List.mem_append, not_or] at ha
  exact (Lane.rd_raise_of_notMem M d0 d1 d2 hn ha.2).trans (h.rd a ha.1)

/-- An event raised after the edit of registers below CTX.EPEND is raised as `Raises` says. -/
theorem raises {s t : State} {l : LaneId} (h : TimeEdit as (s.lane l) M) {n d0 d1 : Nat} {d2 : Word} (hn : n < 160)
    (low : ∀ a ∈ as, a < 0x40030040) (hr : (t.lane l).regs = (M.raise n d0 d1 d2).regs)
    (he : (t.lane l).ev = (M.raise n d0 d1 d2).ev) : Raises l n d0 d1 d2 s t := by
  intro ha
  have hmask : M.rd (0x40050000 + 4 * (n / 32)) = (s.lane l).rd (0x40050000 + 4 * (n / 32)) :=
    h.rd _ fun hm => absurd (low _ hm) (by omega)
  obtain ⟨hb, hq⟩ := Lane.raise_raises M d0 d1 d2 hn (h.alive.trans ha)
  have hrd : ∀ a, (t.lane l).rd a = (M.raise n d0 d1 d2).rd a := fun a => by rw [Lane.rd, hr, Lane.rd]
  rw [h.halted, h.waiting] at hb
  rw [h.ev, h.lt, hmask] at hq
  refine ⟨fun hw => ?_, fun hm hl => he ▸ hq hm hl⟩
  rw [Lane.bitAt, Lane.flag, hrd]
  exact hb hw

end TimeEdit

theorem Lane.sram_raise (L : Lane) (n d0 d1 : Nat) (d2 : Word) : (L.raise n d0 d1 d2).sram = L.sram :=
  Lane.sameBulk_sram (Lane.sameBulk_raise ..)

theorem Lane.flash_raise (L : Lane) (n d0 d1 : Nat) (d2 : Word) : (L.raise n d0 d1 d2).flash = L.flash :=
  Lane.sameBulk_flash (Lane.sameBulk_raise ..)

theorem Lane.time_raise (L : Lane) (n d0 d1 : Nat) (d2 : Word) : (L.raise n d0 d1 d2).time = L.time :=
  Lane.sameBulk_time (Lane.sameBulk_raise ..)

theorem Lane.lt_raise (L : Lane) (n d0 d1 : Nat) (d2 : Word) : (L.raise n d0 d1 d2).lt = L.lt :=
  Lane.sameBulk_lt (Lane.sameBulk_raise ..)

/-! ### What the change of one lane leaves of the other -/

theorem State.tcxo_of_rind {s t : State} (h : t.rind = s.rind) : t.tcxo = s.tcxo := by
  rw [State.tcxo, State.power, h]
  rfl

theorem OnlyLane.counts_other {l : LaneId} {s t : State} (h : OnlyLane l s t) : t.counts (other l) = s.counts (other l) := by
  obtain ⟨hlane, -, hrind, -⟩ := h
  rw [State.counts, hlane, State.tcxo_of_rind hrind, State.counts]

theorem OnlyLane.laneLink {l : LaneId} {s t : State} (h : OnlyLane l s t) : t.laneLink = s.laneLink := by
  obtain ⟨-, -, -, hlink, -⟩ := h
  exact hlink

theorem State.modLane_id {s : State} {l : LaneId} {f : Lane → Lane} (h : f (s.lane l) = s.lane l) : s.modLane l f = s := by
  rw [State.modLane, h, State.setLane_self]

end Sys2Proof.Machine
end

