-- ==== Sys2Proof/Proofs/PeersAndClocks.lean ====
section
/-!
SUPPORT. The measurement of the partner's time, and the slots of the external clocks (R80, R81, R85, R98).
-/

namespace Sys2Proof.Machine

/-! ### The partner's time -/

/-- What the monitor of a lane makes of it with the first condition `n` against READY, the partner's READY and the link's
state (R562). -/
def Lane.readied (n : Nat) (partner link : Bool) (L : Lane) : Lane :=
  let M := (((L.setFld 0x40140004 8 4 n).setFlag 0x40140004 1 (n == 0)).setFlag 0x40140004 2 partner).setFlag
    0x40140004 3 link
  if L.flag 0x40140004 1 = (n == 0) then M else M.raise 85 (if n == 0 then 2 else 1) 0 0

theorem State.refreshReady_eq (s : State) (l : LaneId) : s.refreshReady l = s.modLane l (Lane.readied (s.nrdy l)
    (s.laneLink && (s.lane (other l)).flag 0x40140004 1) s.laneLink) := rfl

theorem Lane.edit_readied (n : Nat) (partner link : Bool) (L : Lane) : ∃ M, TimeEdit [0x40140004] L M ∧ M.time = L.time ∧
    (L.readied n partner link = M ∨ ∃ d, L.readied n partner link = M.raise 85 d 0 0) := by
  refine ⟨(((L.setFld 0x40140004 8 4 n).setFlag 0x40140004 1 (n == 0)).setFlag 0x40140004 2 partner).setFlag
    0x40140004 3 link, ?_, rfl, ?_⟩
  · exact (((TimeEdit.wr _ _ (by decide)).trans (.wr _ _ (by decide))).trans (.wr _ _ (by decide))).trans
      (.wr _ _ (by decide))
  · unfold Lane.readied
    dsimp only
    split
    · exact .inl rfl
    · exact .inr ⟨_, rfl⟩

/-- What the monitor leaves of a lane: all but LNK.STAT and what an event changes. -/
theorem Lane.readied_keeps (n : Nat) (partner link : Bool) (L : Lane) :
    (L.readied n partner link).time = L.time ∧ (L.readied n partner link).sram = L.sram ∧
      (L.readied n partner link).flash = L.flash ∧
      ∀ a, a ∉ 0x40140004 :: evRegs → (L.readied n partner link).rd a = L.rd a := by
  obtain ⟨M, edit, time, h | ⟨d, h⟩⟩ := L.edit_readied n partner link <;> rw [h]
  · exact ⟨time, edit.sram, edit.flash, fun a ha => edit.rd a fun hm => ha (List.mem_append_left evRegs hm)⟩
  · exact ⟨(Lane.time_raise ..).trans time, (Lane.sram_raise ..).trans edit.sram, (Lane.flash_raise ..).trans edit.flash,
      fun a ha => edit.rd_raise d 0 0 (by decide) ha⟩

/-- PEER_OFS says 20 ns or less (R81). -/
def within20ns (ofs : Int) : Bool := decide (-80 ≤ ofs) && decide (ofs ≤ 80)

theorem within20ns_iff (ofs : Int) : within20ns ofs = true ↔ -80 ≤ ofs ∧ ofs ≤ 80 := by
  rw [within20ns, Bool.and_eq_true, decide_eq_true_eq, decide_eq_true_eq]

/-- PEER_OFS saturates far beyond the 20 ns. -/
theorem within20ns_satInt (ofs : Int) : within20ns (satInt ofs).toInt = within20ns ofs := by
  rw [Bool.eq_iff_iff, within20ns_iff, within20ns_iff, toInt_satInt]
  omega

/-- What a measurement of the partner makes of a lane (R80, R81): `linked` where the link and the partner allow one. -/
def Lane.measured (linked : Bool) (ofs : Int) (L : Lane) : Lane :=
  let L := if linked then L.wr 0x40020018 (satInt ofs) else L
  let far := linked && (decide (ofs < -4000) || decide (4000 < ofs))
  let good := if linked && decide (-80 ≤ ofs) && decide (ofs ≤ 80) then min 10 (L.time.peerGood + 1) else 0
  { L with time := { L.time with peerGood := good, peerFar := far || (L.time.peerFar && decide (good < 10)) } }

theorem Lane.edit_measured (linked : Bool) (ofs : Int) (L : Lane) : TimeEdit [0x40020018] L (L.measured linked ofs) := by
  cases linked with
  | true => exact (TimeEdit.wr L _ (by decide)).trans (.time _ _)
  | false => exact .time L _

theorem Lane.measured_linked (ofs : Int) (L : Lane) : (L.measured true ofs).rd 0x40020018 = satInt ofs ∧
    (L.measured true ofs).time.peerGood = if -80 ≤ ofs ∧ ofs ≤ 80 then min 10 (L.time.peerGood + 1) else 0 := by
  refine ⟨Lane.rd_wr_self .., ?_⟩
  show (if within20ns ofs = true then _ else _) = _
  simp only [within20ns_iff]
  rfl

theorem Lane.measured_unlinked (ofs : Int) (L : Lane) : (L.measured false ofs).rd 0x40020018 = L.rd 0x40020018 ∧
    (L.measured false ofs).time.peerGood = 0 := ⟨rfl, rfl⟩

/-- Where a lane measures its partner. -/
def State.measures (s : State) (l : LaneId) : Bool := s.laneLink && s.counts (other l)

/-- The lane once its partner is measured, and readiness follows. -/
def State.measured (s : State) (l : LaneId) (up : Bool) : State :=
  (s.modLane l (Lane.measured (s.measures l) (s.peerOfs l up))).refreshReady l

theorem execPeerOffsetMeasure_counts {s : State} {l : LaneId} (up : Bool) (h : s.counts l = true) :
    exec (.peerOffsetMeasure l up) s = .next (s.measured l up) := by
  show execPeerOffsetMeasure l up s = _
  rw [execPeerOffsetMeasure, h]
  rfl

theorem State.onlyLane_measured (s : State) (l : LaneId) (up : Bool) : OnlyLane l s (s.measured l up) :=
  (OnlyLane.modLane l s _).trans (OnlyLane.modLane l _ _)

/-- What the readiness leaves of the measurement. -/
theorem State.lane_measured (s : State) (l : LaneId) (up : Bool) :
    let M := (s.lane l).measured (s.measures l) (s.peerOfs l up)
    ((s.measured l up).lane l).time = M.time ∧ SameMemory l s (s.measured l up) ∧
      ∀ a, a ∉ 0x40140004 :: evRegs → ((s.measured l up).lane l).rd a = M.rd a := by
  have edit := (s.lane l).edit_measured (s.measures l) (s.peerOfs l up)
  have lane := State.lane_modLane s l (Lane.measured (s.measures l) (s.peerOfs l up))
  rw [State.measured, State.refreshReady_eq]
  generalize s.modLane l (Lane.measured (s.measures l) (s.peerOfs l up)) = t at *
  obtain ⟨time, sram, flash, rd⟩ := (t.lane l).readied_keeps (t.nrdy l)
    (t.laneLink && (t.lane (other l)).flag 0x40140004 1) t.laneLink
  rw [lane] at time sram flash rd
  refine ⟨?_, SameMemory.of_lane ?_ ?_, fun a ha => ?_⟩ <;> rw [State.lane_modLane, lane]
  · exact time
  · exact sram.trans edit.sram
  · exact flash.trans edit.flash
  · exact rd a ha

theorem peerOffsetMeasure_linked {s : State} {l : LaneId} (up : Bool) (hc : s.counts l = true)
    (hk : s.laneLink = true) (ho : s.counts (other l) = true) :
    let ofs := s.peerOfs l up
    ∃ t, exec (.peerOffsetMeasure l up) s = .next t ∧ OnlyLane l s t ∧ SameMemory l s t ∧
      (t.lane l).rd 0x40020018 = satInt ofs ∧ t.peerOk l = (decide (-80 ≤ ofs) && decide (ofs ≤ 80)) ∧
      (t.lane l).time.peerGood = (if -80 ≤ ofs ∧ ofs ≤ 80 then min 10 ((s.lane l).time.peerGood + 1) else 0) ∧
      OnlyRegs l ([0x40020018, 0x40140004] ++ evRegs) s t := by
  intro ofs
  have linked : s.measures l = true := by rw [State.measures, hk, ho]; rfl
  have only := s.onlyLane_measured l up
  have edit := (s.lane l).edit_measured true ofs
  obtain ⟨time, mem, rd⟩ := s.lane_measured l up
  obtain ⟨word, good⟩ := (s.lane l).measured_linked ofs
  rw [linked] at time rd
  have stands : ((s.measured l up).lane l).rd 0x40020018 = satInt ofs := (rd _ (by decide)).trans word
  refine ⟨_, execPeerOffsetMeasure_counts up hc, only, mem, stands, ?_, (congrArg TimeSt.peerGood time).trans good, ?_⟩
  · rw [State.peerOk, stands, only.laneLink, only.counts_other, hk, ho]
    exact within20ns_satInt ofs
  · intro a ha
    rw [List.cons_append, List.mem_cons, not_or] at ha
    exact (rd a ha.2).trans (edit.rd a (by simpa using ha.1))

theorem peerOffsetMeasure_unlinked {s : State} {l : LaneId} (up : Bool) (hc : s.counts l = true)
    (hk : s.laneLink = false) :
    ∃ t, exec (.peerOffsetMeasure l up) s = .next t ∧ t.peerOk l = false ∧
      (t.lane l).rd 0x40020018 = (s.lane l).rd 0x40020018 ∧ (t.lane l).time.peerGood = 0 := by
  have linked : s.measures l = false := by rw [State.measures, hk]; rfl
  obtain ⟨time, -, rd⟩ := s.lane_measured l up
  obtain ⟨word, good⟩ := (s.lane l).measured_unlinked (s.peerOfs l up)
  rw [linked] at time rd
  refine ⟨_, execPeerOffsetMeasure_counts up hc, ?_, (rd _ (by decide)).trans word, (congrArg TimeSt.peerGood time).trans good⟩
  rw [State.peerOk, (s.onlyLane_measured l up).laneLink, hk]
  rfl

theorem State.peerOk_of_partner_still {s : State} {l : LaneId} (h : s.counts (other l) = false) : s.peerOk l = false := by
  rw [State.peerOk, h, Bool.and_false]
  rfl

theorem peerOffsetMeasure_still {s : State} {l : LaneId} (up : Bool) (h : s.counts l = false) :
    exec (.peerOffsetMeasure l up) s = .next s := by
  show execPeerOffsetMeasure l up s = _
  rw [execPeerOffsetMeasure, h]
  rfl

/-! ### Slots of external clocks -/

/-- The first register of a slot. -/
def slotReg (i : Nat) : Nat := 0x40020100 + 32 * i

/-- The registers of a slot that an estimate sets. -/
def slotOutputs (a : Nat) : List Nat := (List.range 6).map (fun k => a + 8 + 4 * k)

theorem mem_slotOutputs (a : Nat) {k b : Nat} (h : k < 6) (hb : b = a + 8 + 4 * k) : b ∈ a :: slotOutputs a :=
  List.mem_cons_of_mem a (List.mem_map.2 ⟨k, List.mem_range.2 h, hb.symm⟩)

/-- The pair that a submission takes from XSUB. -/
def Lane.submitted (L : Lane) : Nat × Nat := (L.rd64 0x40020080, L.rd64 0x40020088)

/-- The pairs that a slot holds. -/
def Lane.pairs (L : Lane) (i : Nat) : List (Nat × Nat) := Tab.get L.time.pairs [] i

/-- The lane with the pairs of a slot. -/
def Lane.setPairs (L : Lane) (i : Nat) (ps : List (Nat × Nat)) : Lane :=
  { L with time := { L.time with pairs := Tab.set L.time.pairs [] i ps } }

theorem Lane.pairs_setPairs (L : Lane) (i : Nat) (ps : List (Nat × Nat)) : (L.setPairs i ps).pairs i = ps :=
  Tab.get_set_self ..

theorem Lane.xsubGo_disabled {L : Lane} {i : Nat} (h : L.flag (slotReg i) 0 = false) : L.xsubGo i = L := by
  rw [Lane.xsubGo, show L.flag (0x40020100 + 32 * i) 0 = false from h]
  rfl

/-- A submission that leaves the window short joins the pairs. -/
theorem Lane.xsubGo_short {L : Lane} {i : Nat} (h : L.flag (slotReg i) 0 = true)
    (hn : (L.pairs i).length + 1 < L.xsrcN i) : L.xsubGo i = L.setPairs i (L.submitted :: L.pairs i) := by
  have whole : (L.submitted :: L.pairs i).take (L.xsrcN i) = L.submitted :: L.pairs i :=
    List.take_of_length_le (Nat.le_of_lt hn)
  rw [Lane.xsubGo, show L.flag (0x40020100 + 32 * i) 0 = true from h, if_neg (by decide)]
  refine (if_pos ?_).trans ?_
  · exact (congrArg List.length whole).trans_lt hn
  · exact congrArg (L.setPairs i) whole

/-- A lane with an estimate of a slot: SKEW, RESID, the reference pair and VALID. -/
def Lane.estimated (L : Lane) (a : Nat) (skew resid : Word) (src ref : Nat) : Lane :=
  ((((L.wr (a + 8) skew).wr (a + 12) resid).wr64 (a + 16) src).wr64 (a + 24) ref).setFlag a 1 true

/-- A submission that fills the window gives an estimate whose reference is the pair submitted. -/
theorem Lane.xsubGo_full {L : Lane} {i : Nat} (h : L.flag (slotReg i) 0 = true)
    (hn : L.xsrcN i ≤ (L.pairs i).length + 1) : ∃ ps skew resid ref,
      L.xsubGo i = (L.setPairs i ps).estimated (slotReg i) skew resid (L.rd64 0x40020080) ref := by
  refine ⟨(L.submitted :: L.pairs i).take (L.xsrcN i), ?_⟩
  rw [Lane.xsubGo, show L.flag (0x40020100 + 32 * i) 0 = true from h, if_neg (by decide)]
  refine ⟨_, _, _, (if_neg ?_).trans rfl⟩
  show ¬((L.submitted :: L.pairs i).take (L.xsrcN i)).length < L.xsrcN i
  rw [List.length_take, List.length_cons]
  omega

theorem Lane.edit_estimated (L : Lane) (a : Nat) (skew resid : Word) (src ref : Nat) :
    TimeEdit (a :: slotOutputs a) L (L.estimated a skew resid src ref) :=
  ((((TimeEdit.wr L skew (mem_slotOutputs a (k := 0) (by decide) rfl)).trans
    (.wr _ resid (mem_slotOutputs a (k := 1) (by decide) rfl))).trans
    (.wr64 _ src (mem_slotOutputs a (k := 2) (by decide) rfl) (mem_slotOutputs a (k := 3) (by decide) rfl))).trans
    (.wr64 _ ref (mem_slotOutputs a (k := 4) (by decide) rfl) (mem_slotOutputs a (k := 5) (by decide) rfl))).trans
    (.wr _ _ List.mem_cons_self)

/-- The reference pair of an estimate: the source's time. -/
theorem Lane.source_estimated (L : Lane) (a : Nat) (skew resid : Word) (src ref : Nat) :
    (L.estimated a skew resid src ref).rd (a + 16) = loWord src ∧
      (L.estimated a skew resid src ref).rd (a + 20) = hiWord src := by
  have later : TimeEdit [a, a + 24, a + 28] (((L.wr (a + 8) skew).wr (a + 12) resid).wr64 (a + 16) src)
      (L.estimated a skew resid src ref) :=
    (TimeEdit.wr64 _ ref (by simp) (by simp)).trans (.wr _ _ (by simp))
  exact ⟨(later.rd _ (by simp)).trans (Lane.rd_wr64_lo ..), (later.rd _ (by simp)).trans (Lane.rd_wr64_hi ..)⟩

theorem exec_xsubGo {i : Fin 32} {v : Word} (s : State) (l : LaneId) (h : fieldNat v 0 5 = i.val) :
    exec (.xsubGo l v) s = .next (s.modLane l (fun L => L.xsubGo i)) := by
  rw [← h]
  rfl

theorem xsubGo_joins {s : State} {l : LaneId} {i : Fin 32} {v : Word} (hv : fieldNat v 0 5 = i.val)
    (h : (s.lane l).flag (slotReg i) 0 = true) (hn : ((s.lane l).pairs i).length + 1 < (s.lane l).xsrcN i) :
    ∃ t, exec (.xsubGo l v) s = .next t ∧ OnlyLane l s t ∧ (t.lane l).regs = (s.lane l).regs ∧ SameMemory l s t ∧
      (t.lane l).pairs i = (s.lane l).submitted :: (s.lane l).pairs i := by
  have lane : (s.modLane l (fun L => L.xsubGo i)).lane l = _ := (State.lane_modLane ..).trans (Lane.xsubGo_short h hn)
  refine ⟨_, exec_xsubGo s l hv, OnlyLane.modLane l s _, ?_, SameMemory.of_lane ?_ ?_, ?_⟩ <;> rw [lane]
  · rfl
  · rfl
  · rfl
  · exact Lane.pairs_setPairs ..

theorem xsubGo_estimates {s : State} {l : LaneId} {i : Fin 32} {v : Word} (hv : fieldNat v 0 5 = i.val)
    (h : (s.lane l).flag (slotReg i) 0 = true) (hn : (s.lane l).xsrcN i ≤ ((s.lane l).pairs i).length + 1) :
    ∃ t, exec (.xsubGo l v) s = .next t ∧ (t.lane l).flag (slotReg i) 1 = true ∧
      (t.lane l).rd (slotReg i + 16) = (s.lane l).rd 0x40020080 ∧
      (t.lane l).rd (slotReg i + 20) = (s.lane l).rd 0x40020084 ∧ OnlyRegs l (slotReg i :: slotOutputs (slotReg i)) s t := by
  obtain ⟨ps, skew, resid, ref, est⟩ := Lane.xsubGo_full h hn
  have lane : (s.modLane l (fun L => L.xsubGo i)).lane l = _ := (State.lane_modLane ..).trans est
  obtain ⟨lo, hi⟩ := ((s.lane l).setPairs i ps).source_estimated (slotReg i) skew resid ((s.lane l).rd64 0x40020080) ref
  refine ⟨_, exec_xsubGo s l hv, ?_, ?_, ?_, TimeEdit.onlyRegs ?_⟩ <;> rw [lane]
  · exact Lane.flag_setFlag_self _ _ _ (by decide)
  · exact lo.trans (loWord_pairNat ..)
  · exact hi.trans (hiWord_pairNat ..)
  · exact (TimeEdit.time _ _).trans (Lane.edit_estimated ..)

/-! ### Settings of a slot -/

theorem laneFlds_slotCfg (i : Fin 32) : laneFlds (slotReg i) = [frw 0 1, fro 1 1, frw 8 5 8, frw 16 16] := by
  revert i
  decide

theorem laneFlds_slotTick (i : Fin 32) : laneFlds (slotReg i + 4) = wRW := by
  revert i
  decide

theorem laidOut_slotCfg (i : Fin 32) : laidOut (laneFlds (slotReg i)) = true := by
  rw [laneFlds_slotCfg]
  decide

/-- A write of a whole-word RW register stores the word. -/
theorem fldsWrite_wRW (e : Bool) (old v : Word) : fldsWrite wRW e old v = v := by
  apply BitVec.eq_of_toNat_eq
  have field := Fld.fieldNat_write (f := frw 0 32) (by decide) e old v old
  have whole : ∀ x : Word, fieldNat x 0 32 = x.toNat := fun x => Nat.mod_eq_of_lt x.isLt
  rw [← whole, ← whole]
  exact field

/-- The lane with a slot's pairs gone and VALID clear (R98). -/
def Lane.forgetPairs (L : Lane) (i : Nat) : Lane := (L.setPairs i []).setFlag (slotReg i) 1 false

theorem Lane.forgetPairs_forgets (L : Lane) (i : Nat) :
    (L.forgetPairs i).flag (slotReg i) 1 = false ∧ (L.forgetPairs i).pairs i = [] :=
  ⟨Lane.flag_setFlag_self _ _ _ (by decide), Lane.pairs_setPairs ..⟩

theorem Lane.flag0_forgetPairs (L : Lane) (i : Nat) : (L.forgetPairs i).flag (slotReg i) 0 = L.flag (slotReg i) 0 :=
  Lane.flag_setFlag _ _ _ _ (by decide)

theorem Lane.edit_forgetPairs {as : List Nat} (L : Lane) {i : Nat} (h : slotReg i ∈ as) :
    TimeEdit as L (L.forgetPairs i) := (TimeEdit.time L _).trans (.wr _ _ h)

theorem Lane.xsrcWrite_tick (L : Lane) (i : Nat) (v : Word) :
    L.xsrcWrite i true v = (L.plainWrite (slotReg i + 4) v).forgetPairs i := rfl

/-- A write of CFG forgets the pairs where it changes WIN, and only there. -/
theorem Lane.xsrcWrite_cfg (L : Lane) (i : Fin 32) (v : Word) : L.xsrcWrite i false v =
    if fieldNat v 8 5 ≠ L.fld (slotReg i) 8 5 then (L.plainWrite (slotReg i) v).forgetPairs i
    else L.plainWrite (slotReg i) v := by
  have win : fieldNat ((L.plainWrite (slotReg i) v).rd (slotReg i)) 8 5 = fieldNat v 8 5 :=
    L.fieldNat_plainWrite (r := 8) v (laidOut_slotCfg i) (by rw [laneFlds_slotCfg]; decide)
  show (if (false || L.fld (slotReg i) 8 5 != fieldNat ((L.plainWrite (slotReg i) v).rd (slotReg i)) 8 5) = true
    then (L.plainWrite (slotReg i) v).forgetPairs i else L.plainWrite (slotReg i) v) = _
  rw [win, Bool.false_or]
  simp only [bne_iff_ne, ne_comm]

theorem xsrcCfgWrite_tick (s : State) (l : LaneId) (i : Fin 32) (v : Word) :
    ∃ t, exec (.xsrcCfgWrite l i true v) s = .next t ∧ OnlyLane l s t ∧ OnlyRegs l [slotReg i, slotReg i + 4] s t ∧
      (t.lane l).rd (slotReg i + 4) = v ∧ (t.lane l).flag (slotReg i) 1 = false ∧ (t.lane l).pairs i = [] ∧
      (t.lane l).flag (slotReg i) 0 = (s.lane l).flag (slotReg i) 0 := by
  have lane : (s.modLane l (fun L => L.xsrcWrite i true v)).lane l =
    ((s.lane l).plainWrite (slotReg i + 4) v).forgetPairs i := State.lane_modLane ..
  obtain ⟨valid, pairs⟩ := ((s.lane l).plainWrite (slotReg i + 4) v).forgetPairs_forgets i
  refine ⟨_, rfl, OnlyLane.modLane l s _, TimeEdit.onlyRegs ?_, ?_, ?_, ?_, ?_⟩ <;> rw [lane]
  · exact (TimeEdit.wr _ _ (by simp)).trans (Lane.edit_forgetPairs _ (by simp))
  · rw [(Lane.edit_forgetPairs _ List.mem_cons_self : TimeEdit [slotReg i] _ _).rd _ (by simp), Lane.plainWrite,
      Lane.rd_wr_self, laneFlds_slotTick, fldsWrite_wRW]
  · exact valid
  · exact pairs
  · rw [Lane.flag0_forgetPairs]
    exact Lane.flag_of_rd (Lane.rd_wr_ne _ _ (by omega)) 0

theorem xsrcCfgWrite_cfg (s : State) (l : LaneId) (i : Fin 32) (v : Word) :
    ∃ t, exec (.xsrcCfgWrite l i false v) s = .next t ∧ OnlyLane l s t ∧ OnlyRegs l [slotReg i] s t ∧
      (t.lane l).fld (slotReg i) 8 5 = fieldNat v 8 5 ∧ (t.lane l).flag (slotReg i) 0 = bitOf v 0 ∧
      (fieldNat v 8 5 ≠ (s.lane l).fld (slotReg i) 8 5 → (t.lane l).flag (slotReg i) 1 = false ∧ (t.lane l).pairs i = []) ∧
      (fieldNat v 8 5 = (s.lane l).fld (slotReg i) 8 5 → (t.lane l).time = (s.lane l).time) := by
  have lane : (s.modLane l (fun L => L.xsrcWrite i false v)).lane l = _ :=
    (State.lane_modLane ..).trans (Lane.xsrcWrite_cfg (s.lane l) i v)
  have win : ((s.lane l).plainWrite (slotReg i) v).fld (slotReg i) 8 5 = fieldNat v 8 5 :=
    Lane.fieldNat_plainWrite (r := 8) _ v (laidOut_slotCfg i) (by rw [laneFlds_slotCfg]; decide)
  have en : ((s.lane l).plainWrite (slotReg i) v).flag (slotReg i) 0 = bitOf v 0 :=
    bitOf_of_fieldNat (Lane.fieldNat_plainWrite (r := 0) _ v (laidOut_slotCfg i) (by rw [laneFlds_slotCfg]; decide))
  have edit : TimeEdit [slotReg i] (s.lane l) ((s.lane l).plainWrite (slotReg i) v) := .wr _ _ List.mem_cons_self
  refine ⟨_, rfl, OnlyLane.modLane l s _, TimeEdit.onlyRegs ?_, ?_⟩ <;> rw [lane]
  · split
    · exact edit.trans (Lane.edit_forgetPairs _ List.mem_cons_self)
    · exact edit
  · split
    · next h =>
      exact ⟨(Lane.fld_setFlag_apart _ _ _ (by decide) (by decide)).trans win, (Lane.flag0_forgetPairs ..).trans en,
        fun _ => Lane.forgetPairs_forgets .., fun k => absurd k h⟩
    · next h => exact ⟨win, en, fun k => absurd k h, fun _ => rfl⟩

/-- Settles O36 from the measurement of the partner, the submissions to a slot and the writes of its settings. -/
theorem peersAndExternalClocksAreCompared : Obligations.PeersAndExternalClocksAreCompared := by
  intro s l up v i
  refine ⟨peerOffsetMeasure_linked up, peerOffsetMeasure_unlinked up, State.peerOk_of_partner_still,
    peerOffsetMeasure_still up, fun hv h => ?_, xsubGo_joins, xsubGo_estimates, xsrcCfgWrite_tick s l i v,
    xsrcCfgWrite_cfg s l i v⟩
  exact (exec_xsubGo s l hv).trans (congrArg _ (State.modLane_id (Lane.xsubGo_disabled h)))

end Sys2Proof.Machine
end

