-- ==== Sys2Proof/Proofs/GnssTime.lean ====
section
/-!
SUPPORT. GNSS time with a timing fix, without one, and on its return (R78, R79, R89, R91).
-/

namespace Sys2Proof.Machine

theorem TimeEdit.takeRate (as : List Nat) (L : Lane) : TimeEdit as L L.useFree.takeRate :=
  ((TimeEdit.free L _).trans (.time _ _)).trans (.free _ _)

theorem TimeEdit.setPhase {as : List Nat} (L : Lane) {n : Nat} (p : Rat) (h : 0x40020058 + 4 * n ∈ as) :
    TimeEdit as L (L.setPhase n p) := ((TimeEdit.time L _).trans (.wr _ _ h)).trans (.wr _ _ h)

/-! ### The first timing fix -/

/-- What the first timing fix makes of a lane: it holds the mapping, and out of reset it is LOCKED (R78, R79). -/
def Lane.acquired (m : Int) (L : Lane) : Lane :=
  if L.alive then
    ((({ L with time := { L.time with map := some m, slew := 0 } }).setFld 0x4002000C 0 2 1).wr 0x40020030
      L.freeWord).useFree.takeRate
  else { L with time := { L.time with map := some m } }

theorem Lane.map_acquired (m : Int) (L : Lane) : (L.acquired m).time.map = some m := by
  unfold Lane.acquired
  split <;> rfl

theorem Lane.edit_acquired (m : Int) (L : Lane) : TimeEdit [0x4002000C, 0x40020030] L (L.acquired m) := by
  unfold Lane.acquired
  split
  · exact ((TimeEdit.time L _).trans ((TimeEdit.wr _ _ (by decide)).trans (.wr _ _ (by decide)))).trans (.takeRate _ _)
  · exact .time L _

theorem Lane.locked_acquired (m : Int) {L : Lane} (h : L.alive = true) : (L.acquired m).fld 0x4002000C 0 2 = 1 := by
  rw [Lane.acquired, if_pos h]
  have later : ∀ M : Lane, TimeEdit [0x40020030] M (M.wr 0x40020030 L.freeWord).useFree.takeRate := fun M =>
    (TimeEdit.wr M _ (by decide)).trans (.takeRate _ _)
  exact (Lane.fld_of_rd ((later _).rd _ (by decide)) 0 2).trans (Lane.fld_setFld_self _ _ _ (by decide))

/-- GNSS time of a lane with the mapping and nothing to slew. -/
theorem Lane.gnssTime_acquired (m : Int) {L : Lane} (h : L.alive = true) :
    (L.acquired m).gnssTime = some (m + 10 * (L.lt : Int)) := by
  rw [Lane.gnssTime, Lane.map_acquired, (L.edit_acquired m).lt]
  have slew : (L.acquired m).time.slew = 0 := by
    rw [Lane.acquired, if_pos h]
    rfl
  rw [slew]
  exact congrArg some (add_zero _)

/-- The mapping offset that a timing fix at GNSS time `gt` gives (R78). -/
def Lane.offsetAt (L : Lane) (gt : Nat) : Int := (gt : Int) - 10 * (L.lt : Int)

theorem execTimingFixAcquired_first {s : State} {x : LaneId} (gt : Nat) (hc : s.control = some x)
    (ha : (s.lane x).alive = true) (hm : (s.lane x).time.map = none) (hf : s.hasFix x = true) :
    exec (.timingFixAcquired gt) s = .next (s.bothLanes (Lane.acquired ((s.lane x).offsetAt gt))) := by
  show execTimingFixAcquired gt s = _
  rw [execTimingFixAcquired, hc]
  refine congrArg Host.Outcome.next (if_neg ?_)
  rw [ha, hm, hf]
  decide

theorem timingFixAcquired_locks {s : State} {x : LaneId} (l : LaneId) (gt : Nat) (hc : s.control = some x)
    (ha : (s.lane x).alive = true) (hm : (s.lane x).time.map = none) (hf : s.hasFix x = true) :
    ∃ t, exec (.timingFixAcquired gt) s = .next t ∧
      (t.lane l).time.map = some ((gt : Int) - 10 * ((s.lane x).lt : Int)) ∧ (t.lane x).gnssTime = some (gt : Int) ∧
      (t.lane x).fld 0x4002000C 0 2 = 1 ∧ t.die = s.die ∧ t.rind = s.rind ∧
      OnlyRegs l [0x4002000C, 0x40020030] s t ∧ SameMemory l s t := by
  have lane := fun k => State.lane_bothLanes s k (Lane.acquired ((s.lane x).offsetAt gt))
  have edit := (s.lane l).edit_acquired ((s.lane x).offsetAt gt)
  rw [← lane l] at edit
  refine ⟨_, execTimingFixAcquired_first gt hc ha hm hf, ?_, ?_, ?_, rfl, rfl, edit.onlyRegs, edit.sameMemory⟩ <;> rw [lane]
  · exact Lane.map_acquired ..
  · exact (Lane.gnssTime_acquired _ ha).trans (congrArg some (sub_add_cancel _ _))
  · exact Lane.locked_acquired _ ha

theorem timingFixAcquired_idle {s : State} {x : LaneId} (gt : Nat)
    (h : s.control = none ∨ s.control = some x ∧ ((s.lane x).time.map ≠ none ∨ s.hasFix x = false)) :
    exec (.timingFixAcquired gt) s = .next s := by
  show execTimingFixAcquired gt s = _
  rw [execTimingFixAcquired]
  obtain hc | ⟨hc, h⟩ := h
  · rw [hc]
  · rw [hc]
    refine congrArg Host.Outcome.next (if_pos ?_)
    obtain h | h := h
    · exact .inl (Option.isSome_iff_ne_none.2 h)
    · exact .inr (.inr (by rw [h]; decide))

/-! ### Holdover -/

/-- The lane in holdover, before its event (R89). -/
def Lane.holding (sigma : Rat) (L : Lane) : Lane :=
  ((({ L with time := { L.time with lossAt := L.lt, u0 := (L.rd 0x40020030).toNat, sigma := sigma } }).setFld 0x4002000C 0 2
    2).setFlag 0x40020058 1 true).setFlag 0x4002005C 1 true

/-- The registers that holdover sets: MODE and HOLDOVER of both generators. -/
def holdRegs : List Nat := [0x4002000C, 0x40020058, 0x4002005C]

theorem Lane.edit_holding (sigma : Rat) (L : Lane) : TimeEdit holdRegs L (L.holding sigma) :=
  (((TimeEdit.time L _).trans (.wr _ _ (by decide))).trans (.wr _ _ (by decide))).trans (.wr _ _ (by decide))

theorem Lane.fields_holding (sigma : Rat) (L : Lane) : (L.holding sigma).fld 0x4002000C 0 2 = 2 ∧
    (L.holding sigma).flag 0x40020058 1 = true ∧ (L.holding sigma).flag 0x4002005C 1 = true := by
  refine ⟨?_, ?_, Lane.flag_setFlag_self _ _ _ (by decide)⟩
  · have later : ∀ M : Lane, TimeEdit [0x40020058, 0x4002005C] M
        ((M.setFlag 0x40020058 1 true).setFlag 0x4002005C 1 true) := fun M =>
      (TimeEdit.wr M _ (by decide)).trans (.wr _ _ (by decide))
    exact (Lane.fld_of_rd ((later _).rd _ (by decide)) 0 2).trans (Lane.fld_setFld_self _ _ _ (by decide))
  · exact (Lane.flag_of_rd (Lane.rd_setFlag_ne _ 1 true (by decide)) 1).trans (Lane.flag_setFlag_self _ _ _ (by decide))

/-- At the loss u(t) is u0. -/
theorem Lane.holdU_at_loss {L : Lane} (h : L.time.lossAt = L.lt) : L.holdU = L.time.u0 := by
  rw [Lane.holdU, h, Nat.sub_self]
  norm_num

/-- Where a lane enters holdover: out of reset, with a mapping, and not in it. -/
def Lane.losesFix (L : Lane) : Prop := L.alive = true ∧ L.time.map ≠ none ∧ L.fld 0x4002000C 0 2 ≠ 2

theorem Lane.enterHoldover_loses (sigma : Rat) {L : Lane} (h : L.losesFix) :
    L.enterHoldover sigma = (L.holding sigma).raise 47 1 0 0 := by
  obtain ⟨ha, hm, hh⟩ := h
  rw [Lane.enterHoldover, if_pos]
  · rfl
  · rw [ha, Option.isSome_iff_ne_none.2 hm, bne_iff_ne.2 hh]
    rfl

theorem Lane.enterHoldover_stays (sigma : Rat) {L : Lane} (h : ¬L.losesFix) : L.enterHoldover sigma = L := by
  refine if_neg fun hc => h ?_
  rw [Bool.and_eq_true, Bool.and_eq_true, Option.isSome_iff_ne_none, bne_iff_ne] at hc
  obtain ⟨⟨ha, hm⟩, hh⟩ := hc
  exact ⟨ha, hm, hh⟩

theorem Lane.enterHoldover_keeps (sigma : Rat) (L : Lane) : (L.enterHoldover sigma).sram = L.sram ∧
    (L.enterHoldover sigma).flash = L.flash ∧ (L.enterHoldover sigma).time.map = L.time.map := by
  by_cases h : L.losesFix
  · rw [L.enterHoldover_loses sigma h]
    have edit := L.edit_holding sigma
    have time : ((L.holding sigma).raise 47 1 0 0).time = (L.holding sigma).time := Lane.time_raise ..
    exact ⟨(Lane.sram_raise ..).trans edit.sram, (Lane.flash_raise ..).trans edit.flash,
      (congrArg TimeSt.map time).trans rfl⟩
  · rw [L.enterHoldover_stays sigma h]
    exact ⟨rfl, rfl, rfl⟩

/-- What a lane shows as it enters holdover. -/
theorem Lane.enterHoldover_shows (sigma : Rat) {L : Lane} (h : L.losesFix) :
    (L.enterHoldover sigma).fld 0x4002000C 0 2 = 2 ∧ (L.enterHoldover sigma).flag 0x40020058 1 = true ∧
      (L.enterHoldover sigma).flag 0x4002005C 1 = true ∧
      (L.enterHoldover sigma).holdU = (((L.rd 0x40020030).toNat : Nat) : Rat) ∧
      (L.enterHoldover sigma).time.sigma = sigma := by
  rw [L.enterHoldover_loses sigma h]
  obtain ⟨mode, first, second⟩ := L.fields_holding sigma
  have rd : ∀ a, a ∉ evRegs → ((L.holding sigma).raise 47 1 0 0).rd a = (L.holding sigma).rd a := fun a ha =>
    Lane.rd_raise_of_notMem _ 1 0 0 (by decide) ha
  have time : ((L.holding sigma).raise 47 1 0 0).time = (L.holding sigma).time := Lane.time_raise ..
  refine ⟨(Lane.fld_of_rd (rd _ (by decide)) 0 2).trans mode, (Lane.flag_of_rd (rd _ (by decide)) 1).trans first,
    (Lane.flag_of_rd (rd _ (by decide)) 1).trans second, ?_, congrArg TimeSt.sigma time⟩
  rw [Lane.holdU_at_loss, time]
  · rfl
  · rw [time, Lane.lt_raise]
    rfl

/-- The lanes after HOLDOVER_ENTRY with no fix. -/
def State.heldOver (s : State) (sa sb : Rat) : State :=
  (s.modLane .a (Lane.enterHoldover sa)).modLane .b (Lane.enterHoldover sb)

theorem State.lane_heldOver (s : State) (sa sb : Rat) (l : LaneId) :
    (s.heldOver sa sb).lane l = (s.lane l).enterHoldover (if l = .a then sa else sb) := by
  cases l <;> rfl

theorem holdoverEntry_holds {s : State} (l : LaneId) (sa sb : Rat) (ha : s.hasFix .a = false) (hb : s.hasFix .b = false) :
    ∃ t, exec (.holdoverEntry sa sb) s = .next t ∧
      t.die = s.die ∧ t.rind = s.rind ∧ SameMemory l s t ∧ (t.lane l).time.map = (s.lane l).time.map ∧
      ((s.lane l).alive = true → (s.lane l).time.map ≠ none → (s.lane l).fld 0x4002000C 0 2 ≠ 2 →
        (t.lane l).fld 0x4002000C 0 2 = 2 ∧ (t.lane l).flag 0x40020058 1 = true ∧
        (t.lane l).flag 0x4002005C 1 = true ∧ (t.lane l).holdU = ((((s.lane l).rd 0x40020030).toNat : Nat) : Rat) ∧
        (t.lane l).time.sigma = (if l = .a then sa else sb) ∧ Raises l 47 1 0 0 s t) ∧
      ((s.lane l).alive = false ∨ (s.lane l).time.map = none ∨ (s.lane l).fld 0x4002000C 0 2 = 2 →
        t.lane l = s.lane l) := by
  have run : exec (.holdoverEntry sa sb) s = .next (s.heldOver sa sb) := by
    show execHoldoverEntry sa sb s = _
    rw [execHoldoverEntry, ha, hb]
    rfl
  have lane := s.lane_heldOver sa sb l
  generalize (if l = .a then sa else sb) = sigma at *
  obtain ⟨sram, flash, map⟩ := (s.lane l).enterHoldover_keeps sigma
  rw [← lane] at sram flash map
  refine ⟨_, run, rfl, rfl, SameMemory.of_lane sram flash, map, fun alive mapped mode => ?_, fun h => ?_⟩
  · have loses : (s.lane l).losesFix := ⟨alive, mapped, mode⟩
    obtain ⟨hold, first, second, unc, sig⟩ := (s.lane l).enterHoldover_shows sigma loses
    rw [← lane] at hold first second unc sig
    rw [(s.lane l).enterHoldover_loses sigma loses] at lane
    exact ⟨hold, first, second, unc, sig, ((s.lane l).edit_holding sigma).raises (by decide) (by decide)
      (congrArg Lane.regs lane) (congrArg Lane.ev lane)⟩
  · refine lane.trans ((s.lane l).enterHoldover_stays sigma ?_)
    rintro ⟨alive, mapped, mode⟩
    rw [alive] at h
    tauto

theorem holdoverEntry_fixed {s : State} (sa sb : Rat) (h : s.hasFix .a = true ∨ s.hasFix .b = true) :
    exec (.holdoverEntry sa sb) s = .next s := by
  show execHoldoverEntry sa sb s = _
  rw [execHoldoverEntry, if_pos (by rw [Bool.or_eq_true]; exact h)]

/-! ### The fix returns -/

/-- An error that is slewed and not stepped (R91): at most 1 ms. -/
def smallError (err : Rat) : Bool := decide (-1000000 ≤ err) && decide (err ≤ 1000000)

theorem smallError_iff (err : Rat) : smallError err = true ↔ -1000000 ≤ err ∧ err ≤ 1000000 := by
  rw [smallError, Bool.and_eq_true, decide_eq_true_eq, decide_eq_true_eq]

/-- The lane's time base with the error of the return: to be slewed, or taken into the mapping. -/
def Lane.errorTaken (err : Rat) (L : Lane) : Lane :=
  if smallError err then { L with time := { L.time with slew := err } }
  else { L with time := { L.time with map := L.time.map.map (fun m => m + err.floor), slew := 0 } }

/-- The lane with GT_STEP and MODE as the fix returns. -/
def Lane.remoded (small : Bool) (step : Int) (L : Lane) : Lane :=
  let L := (L.wr 0x40020034 (stepWord step)).setFld 0x4002000C 0 2 (if small then 3 else 1)
  if small then L else L.setFlag 0x4002000C 5 true

/-- The lane with HOLDOVER of its generators clear. -/
def Lane.resumed (L : Lane) : Lane := (L.setFlag 0x40020058 1 false).setFlag 0x4002005C 1 false

/-- The lane with the step added to the phase errors of its generators. -/
def Lane.rephased (step : Int) (L : Lane) : Lane :=
  (L.setPhase 0 ((L.gen 0).phase + step)).setPhase 1 ((L.gen 1).phase + step)

/-- The lane with the uncertainty and the rate that come with a fix. -/
def Lane.renewed (L : Lane) : Lane := (L.wr 0x40020030 L.freeWord).useFree.takeRate

/-- The lane's registers and generators as the fix returns, before its event. -/
def Lane.stepped (small : Bool) (step : Int) (L : Lane) : Lane := ((L.remoded small step).resumed.rephased step).renewed

/-- What the return of the fix makes of a lane. -/
def Lane.refixed (err : Rat) (step : Int) (L : Lane) : Lane :=
  if (L.errorTaken err).alive then ((L.errorTaken err).stepped (smallError err) step).raise 94 0 0 (stepWord step)
  else L.errorTaken err

theorem Lane.edit_errorTaken (as : List Nat) (err : Rat) (L : Lane) : TimeEdit as L (L.errorTaken err) := by
  unfold Lane.errorTaken
  split <;> exact .time L _

theorem Lane.time_errorTaken_small {err : Rat} (L : Lane) (h : smallError err = true) :
    (L.errorTaken err).time = { L.time with slew := err } := congrArg Lane.time (if_pos h)

theorem Lane.time_errorTaken_large {err : Rat} (L : Lane) (h : smallError err = false) :
    (L.errorTaken err).time = { L.time with map := L.time.map.map (fun m => m + err.floor), slew := 0 } :=
  congrArg Lane.time (if_neg (by rw [h]; decide))

/-- The registers that the return sets beside GT_STEP and MODE: the generators' and GT_UNC. -/
def returnRegs : List Nat := [0x40020058, 0x4002005C, 0x40020030]

theorem Lane.edit_remoded (small : Bool) (step : Int) (L : Lane) :
    TimeEdit [0x40020034, 0x4002000C] L (L.remoded small step) := by
  have mode : TimeEdit [0x40020034, 0x4002000C] L
      ((L.wr 0x40020034 (stepWord step)).setFld 0x4002000C 0 2 (if small then 3 else 1)) :=
    (TimeEdit.wr L _ (by decide)).trans (.wr _ _ (by decide))
  cases small with
  | true => exact mode
  | false => exact mode.trans (.wr _ _ (by decide))

theorem Lane.edit_stepped_remoded (small : Bool) (step : Int) (L : Lane) :
    TimeEdit returnRegs (L.remoded small step) (L.stepped small step) := by
  have resumed : ∀ M : Lane, TimeEdit returnRegs M M.resumed := fun M =>
    (TimeEdit.wr M _ (by decide)).trans (.wr _ _ (by decide))
  have rephased : ∀ M : Lane, TimeEdit returnRegs M (M.rephased step) := fun M =>
    (TimeEdit.setPhase M _ (by decide)).trans (.setPhase _ _ (by decide))
  have renewed : ∀ M : Lane, TimeEdit returnRegs M M.renewed := fun M =>
    (TimeEdit.wr M _ (by decide)).trans (.takeRate _ _)
  exact ((resumed _).trans (rephased _)).trans (renewed _)

theorem Lane.edit_stepped (small : Bool) (step : Int) (L : Lane) :
    TimeEdit ([0x40020034, 0x4002000C] ++ returnRegs) L (L.stepped small step) := by
  obtain ⟨rest, rd⟩ := L.edit_remoded small step
  obtain ⟨rest', rd'⟩ := L.edit_stepped_remoded small step
  refine ⟨rest'.trans rest, fun a ha => ?_⟩
  rw [List.mem_append, not_or] at ha
  exact (rd' a ha.2).trans (rd a ha.1)

theorem Lane.time_remoded (small : Bool) (step : Int) (L : Lane) : (L.remoded small step).time = L.time := by
  cases small <;> rfl

/-- Two lanes hold the same mapping, and slew the same error. -/
def Lane.sameMapping (L M : Lane) : Prop := M.time.map = L.time.map ∧ M.time.slew = L.time.slew

theorem Lane.sameMapping_trans {L M N : Lane} (h : L.sameMapping M) (k : M.sameMapping N) : L.sameMapping N := by
  obtain ⟨map, slew⟩ := h
  obtain ⟨map', slew'⟩ := k
  exact ⟨map'.trans map, slew'.trans slew⟩

theorem Lane.sameMapping_setPhase (L : Lane) (n : Nat) (p : Rat) : L.sameMapping (L.setPhase n p) := by
  rw [Lane.sameMapping, Lane.setPhase, Lane.time_setFlag, Lane.time_setFld]
  exact ⟨rfl, rfl⟩

theorem Lane.sameMapping_renewed (L : Lane) : L.sameMapping L.renewed := ⟨rfl, rfl⟩

/-- The steps of the return change neither mapping nor slew. -/
theorem Lane.sameMapping_stepped (small : Bool) (step : Int) (L : Lane) : L.sameMapping (L.stepped small step) := by
  have remoded : L.sameMapping (L.remoded small step).resumed := by
    have time : (L.remoded small step).resumed.time = L.time := L.time_remoded small step
    rw [Lane.sameMapping, time]
    exact ⟨rfl, rfl⟩
  have rephased : ∀ M : Lane, M.sameMapping (M.rephased step) := fun M =>
    Lane.sameMapping_trans (Lane.sameMapping_setPhase M 0 _) (Lane.sameMapping_setPhase _ 1 _)
  exact Lane.sameMapping_trans (Lane.sameMapping_trans remoded (rephased _)) (Lane.sameMapping_renewed _)

theorem Lane.step_stepped (small : Bool) (step : Int) (L : Lane) : (L.stepped small step).rd 0x40020034 = stepWord step := by
  refine ((L.edit_stepped_remoded small step).rd _ (by decide)).trans ?_
  have mode : ((L.wr 0x40020034 (stepWord step)).setFld 0x4002000C 0 2 (if small then 3 else 1)).rd 0x40020034 = stepWord step :=
    (Lane.rd_wr_ne _ _ (by decide)).trans (Lane.rd_wr_self ..)
  cases small with
  | true => exact mode
  | false => exact (Lane.rd_setFlag_ne _ 5 true (by decide)).trans mode

theorem Lane.slewing_stepped (step : Int) (L : Lane) : (L.stepped true step).fld 0x4002000C 0 2 = 3 :=
  (Lane.fld_of_rd ((L.edit_stepped_remoded true step).rd _ (by decide)) 0 2).trans
    (Lane.fld_setFld_self _ _ _ (by decide))

theorem Lane.rebased_stepped (step : Int) (L : Lane) :
    (L.stepped false step).fld 0x4002000C 0 2 = 1 ∧ (L.stepped false step).flag 0x4002000C 5 = true := by
  have rd : (L.stepped false step).rd 0x4002000C = _ := (L.edit_stepped_remoded false step).rd _ (by decide)
  refine ⟨(Lane.fld_of_rd rd 0 2).trans ?_, (Lane.flag_of_rd rd 5).trans (Lane.flag_setFlag_self _ _ _ (by decide))⟩
  exact (Lane.fld_setFlag_apart _ _ _ (by decide) (by decide)).trans (Lane.fld_setFld_self _ _ _ (by decide))

/-- The error of GNSS time that a return of the fix finds (R91). -/
def Lane.returnError (L : Lane) (gt : Nat) (old : Int) : Rat := (((gt : Int) - old : Int) : Rat) + L.time.slew

theorem execTimingFixReturn_held {s : State} {x : LaneId} {old : Int} (gt : Nat) (hc : s.control = some x)
    (hg : (s.lane x).gnssTime = some old) (hm : (s.lane x).fld 0x4002000C 0 2 = 2) (hf : s.hasFix x = true) :
    exec (.timingFixReturn gt) s =
      .next (s.bothLanes (Lane.refixed ((s.lane x).returnError gt old) ((gt : Int) - old))) := by
  show execTimingFixReturn gt s = _
  rw [execTimingFixReturn, hc]
  dsimp -zeta only
  rw [hg, hf, if_pos rfl, hm]
  rfl

theorem timingFixReturn_steps {s : State} {x : LaneId} (l : LaneId) (gt : Nat) (old : Int) (hc : s.control = some x)
    (hg : (s.lane x).gnssTime = some old) (hm : (s.lane x).fld 0x4002000C 0 2 = 2) (hf : s.hasFix x = true)
    (ha : (s.lane l).alive = true) :
    let err : Rat := (((gt : Int) - old : Int) : Rat) + (s.lane x).time.slew
    let small := -1000000 ≤ err ∧ err ≤ 1000000
    let step := BitVec.ofInt 32 (max (-0x7FFFFFFF) (min 0x7FFFFFFF ((gt : Int) - old)))
    ∃ t, exec (.timingFixReturn gt) s = .next t ∧ t.die = s.die ∧ t.rind = s.rind ∧ SameMemory l s t ∧
      (t.lane l).rd 0x40020034 = step ∧
      (small → (t.lane l).fld 0x4002000C 0 2 = 3 ∧ (t.lane l).time.map = (s.lane l).time.map ∧
        (t.lane l).time.slew = err) ∧
      (¬small → (t.lane l).fld 0x4002000C 0 2 = 1 ∧ (t.lane l).flag 0x4002000C 5 = true ∧
        (t.lane l).time.slew = 0 ∧ (t.lane l).time.map = (s.lane l).time.map.map (fun m => m + err.floor)) ∧
      Raises l 94 0 0 step s t := by
  intro err small step
  have run : exec (.timingFixReturn gt) s = .next (s.bothLanes (Lane.refixed err ((gt : Int) - old))) :=
    execTimingFixReturn_held gt hc hg hm hf
  have taken := (s.lane l).edit_errorTaken ([0x40020034, 0x4002000C] ++ returnRegs) err
  have edit := taken.trans (((s.lane l).errorTaken err).edit_stepped (smallError err) ((gt : Int) - old))
  have lane : (s.bothLanes (Lane.refixed err ((gt : Int) - old))).lane l =
      (((s.lane l).errorTaken err).stepped (smallError err) ((gt : Int) - old)).raise 94 0 0 step := by
    rw [State.lane_bothLanes, Lane.refixed, if_pos (taken.alive.trans ha)]
    rfl
  refine ⟨_, run, rfl, rfl, ?_⟩
  obtain ⟨map, slew⟩ := ((s.lane l).errorTaken err).sameMapping_stepped (smallError err) ((gt : Int) - old)
  have stepped := ((s.lane l).errorTaken err).step_stepped (smallError err) ((gt : Int) - old)
  have slewing := ((s.lane l).errorTaken err).slewing_stepped ((gt : Int) - old)
  have rebased := ((s.lane l).errorTaken err).rebased_stepped ((gt : Int) - old)
  generalize s.bothLanes (Lane.refixed err ((gt : Int) - old)) = t at *
  have rd : ∀ a, a ∉ evRegs → (t.lane l).rd a =
      (((s.lane l).errorTaken err).stepped (smallError err) ((gt : Int) - old)).rd a := fun a hn =>
    lane ▸ Lane.rd_raise_of_notMem _ 0 0 step (by decide) hn
  rw [← Lane.time_raise _ 94 0 0 step, ← lane] at map slew
  refine ⟨SameMemory.of_lane ?_ ?_, (rd _ (by decide)).trans stepped, fun hs => ?_, fun hs => ?_,
    edit.raises (by decide) (by decide) (congrArg Lane.regs lane) (congrArg Lane.ev lane)⟩
  · rw [lane, Lane.sram_raise, edit.sram]
  · rw [lane, Lane.flash_raise, edit.flash]
  · have hs : smallError err = true := (smallError_iff err).2 hs
    rw [(s.lane l).time_errorTaken_small hs] at map slew
    rw [hs] at rd
    exact ⟨(Lane.fld_of_rd (rd _ (by decide)) 0 2).trans slewing, map, slew⟩
  · have hs : smallError err = false := Bool.eq_false_iff.2 fun k => hs ((smallError_iff err).1 k)
    rw [(s.lane l).time_errorTaken_large hs] at map slew
    rw [hs] at rd
    obtain ⟨mode, flag⟩ := rebased
    exact ⟨(Lane.fld_of_rd (rd _ (by decide)) 0 2).trans mode, (Lane.flag_of_rd (rd _ (by decide)) 5).trans flag,
      slew, map⟩

/-! ### The slew ends -/

theorem slewEnd_locks {s : State} {l : LaneId} (hm : (s.lane l).fld 0x4002000C 0 2 = 3) (lo : -10 < (s.lane l).time.slew)
    (hi : (s.lane l).time.slew < 10) :
    ∃ t, exec (.slewEnd l) s = .next t ∧ OnlyLaneRegs l [0x4002000C] s t ∧ (t.lane l).fld 0x4002000C 0 2 = 1 := by
  refine ⟨s.modLane l (fun L => L.setFld 0x4002000C 0 2 1), ?_, OnlyLaneRegs.modLane_wr .., ?_⟩
  · show execSlewEnd l s = _
    exact congrArg Host.Outcome.next (if_pos ⟨hm, lo, hi⟩)
  · rw [State.lane_modLane]
    exact Lane.fld_setFld_self _ _ _ (by decide)

theorem gnssTimeFollowsItsFix : Sys2Proof.Claims.GnssTimeFollowsItsFix := fun _ l _ gt sa sb =>
  ⟨timingFixAcquired_locks l gt, timingFixAcquired_idle gt, holdoverEntry_holds l sa sb, holdoverEntry_fixed sa sb,
    fun old => timingFixReturn_steps l gt old, slewEnd_locks⟩

end Sys2Proof.Machine
end

