-- ==== Sys2Proof/Proofs/TimePulses.lean ====
section
/-!
SUPPORT. The settings, the edges and the suppression of the time pulses (R87, R88, R90, R96, R97).
-/

namespace Sys2Proof.Machine

/-- TP_CFG and TP_STAT of a generator. -/
def tpCfg (n : Nat) : Nat := 0x40020050 + 4 * n
/-- See `tpCfg`. -/
def tpStat (n : Nat) : Nat := 0x40020058 + 4 * n

theorem tpStat_ne_tpCfg (n : Fin 2) : tpStat n ≠ tpCfg n := by
  unfold tpStat tpCfg
  omega

theorem tpStat_low (n : Fin 2) : ∀ a ∈ [tpStat n], a < 0x40030040 := by
  revert n
  decide

theorem tpStat_notMem_evRegs (n : Fin 2) : tpStat n ∉ evRegs := by
  revert n
  decide

/-- LT.STAT and TP_LIMIT are no registers that the suppression of a generator changes. -/
theorem limitRegs_notMem (n : Fin 2) : 0x4002000C ∉ [tpStat n] ++ evRegs ∧ 0x40020048 ∉ [tpStat n] ++ evRegs := by
  revert n
  decide

/-! ### Generators -/

@[simp] theorem Lane.gen_setGen_self (L : Lane) (n : Nat) (g : TpGen) : (L.setGen n g).gen n = g := Tab.get_set_self ..

theorem Lane.gen_setGen_ne (L : Lane) {n m : Nat} (g : TpGen) (h : m ≠ n) : (L.setGen n g).gen m = L.gen m :=
  Tab.get_set_ne _ _ _ _ h

theorem Lane.gen_of_time {L M : Lane} (h : M.time = L.time) (n : Nat) : M.gen n = L.gen n := by
  rw [Lane.gen, h, Lane.gen]

/-- A change of one generator leaves the other. -/
theorem Lane.gen_setGen_other (L : Lane) (n : Fin 2) (g : TpGen) : (L.setGen n g).gen (1 - n.val) = L.gen (1 - n.val) :=
  L.gen_setGen_ne g (by omega)

theorem TimeEdit.setGen {as : List Nat} (L : Lane) (n : Nat) (g : TpGen) : TimeEdit as L (L.setGen n g) := .time L _

/-! ### Settings -/

theorem laneFlds_tpCfg (n : Fin 2) :
    laneFlds (tpCfg n) = [frw 0 1, frw 1 1, frw 2 4 0xF, frw 8 20 0x3E8] := by
  revert n
  decide

theorem laidOut_tpCfg (n : Fin 2) : laidOut (laneFlds (tpCfg n)) = true := by
  rw [laneFlds_tpCfg]
  decide

/-- WIDTH and PER after a write of TP_CFG are those written. -/
theorem Lane.width_plainWrite (L : Lane) (n : Fin 2) (v : Word) :
    fieldNat ((L.plainWrite (tpCfg n) v).rd (tpCfg n)) 8 20 = fieldNat v 8 20 :=
  L.fieldNat_plainWrite (r := 0x3E8) v (laidOut_tpCfg n) (by rw [laneFlds_tpCfg]; decide)

theorem Lane.period_plainWrite (L : Lane) (n : Fin 2) (v : Word) :
    fieldNat ((L.plainWrite (tpCfg n) v).rd (tpCfg n)) 2 4 = fieldNat v 2 4 :=
  L.fieldNat_plainWrite (r := 0xF) v (laidOut_tpCfg n) (by rw [laneFlds_tpCfg]; decide)

theorem tpPeriod_bounds (code : Nat) : 0 < tpPeriod code ∧ tpPeriod code ≤ 1000 := by
  by_cases h : code < 16
  · interval_cases code <;> decide
  · have beyond : ([1, 2, 4, 5, 8, 10, 20, 25, 40, 50, 100, 125, 200, 250, 500, 1000] : List Nat)[code]? = none :=
      List.getElem?_eq_none (Nat.le_of_not_lt h)
    rw [tpPeriod, beyond]
    decide

/-- The WIDTH that takes effect (R88), in a period of `1000 * tpPeriod` us. -/
theorem width_tpEffective (v : Word) : fieldNat (tpEffective v).1 8 20 =
    if fieldNat v 8 20 = 0 then 1
    else if 1000 * tpPeriod (fieldNat v 2 4) ≤ fieldNat v 8 20 then 1000 * tpPeriod (fieldNat v 2 4) - 1
    else fieldNat v 8 20 := by
  obtain ⟨-, hp⟩ := tpPeriod_bounds (fieldNat v 2 4)
  simp only [tpEffective, Nat.mul_comm (tpPeriod _) 1000]
  split
  · exact fieldNat_setFieldNat_of_lt v (by decide) (by decide)
  · split
    · exact fieldNat_setFieldNat_of_lt v (by decide) (by omega)
    · rfl

/-- A WIDTH of a period or more is clamped (R88). -/
theorem clamp_tpEffective {v : Word} (h : 1000 * tpPeriod (fieldNat v 2 4) ≤ fieldNat v 8 20) : (tpEffective v).2 = true := by
  obtain ⟨hp, -⟩ := tpPeriod_bounds (fieldNat v 2 4)
  simp only [tpEffective, Nat.mul_comm (tpPeriod _) 1000]
  rw [if_neg (by omega), if_pos h]

/-- The generator with settings in effect. -/
def TpGen.taken (g : TpGen) (v : Word) : TpGen := { g with cur := (tpEffective v).1, pending := none }

theorem Lane.time_tpTake (L : Lane) (n : Nat) (v : Word) : (L.tpTake n v).time = (L.setGen n ((L.gen n).taken v)).time := by
  unfold Lane.tpTake
  dsimp only
  split <;> rfl

theorem Lane.edit_tpTake {as : List Nat} (L : Lane) {n : Nat} (v : Word) (h : tpStat n ∈ as) :
    TimeEdit as L (L.tpTake n v) := by
  unfold Lane.tpTake
  dsimp only
  split
  · exact (TimeEdit.setGen L n _).trans (.wr _ _ h)
  · exact .setGen L n _

theorem Lane.clamp_tpTake (L : Lane) (n : Nat) {v : Word}
    (h : 1000 * tpPeriod (fieldNat v 2 4) ≤ fieldNat v 8 20) : (L.tpTake n v).flag (tpStat n) 4 = true := by
  rw [Lane.tpTake, if_pos (clamp_tpEffective h)]
  exact Lane.flag_setFlag_self _ _ _ (by decide)

/-- A leading edge of the generator is to come (R88). -/
def Lane.tpAwaits (L : Lane) (n : Nat) : Prop := bitOf (L.gen n).cur 0 = true ∧ L.time.map ≠ none

/-- Settings wait for the edge that is to come. -/
theorem Lane.tpCfgWrite_waits {L : Lane} {n : Nat} (v : Word) (h : L.tpAwaits n) : L.tpCfgWrite n v =
    (L.plainWrite (tpCfg n) v).setGen n
      { L.gen n with pending := some ((L.plainWrite (tpCfg n) v).rd (tpCfg n)) } := by
  obtain ⟨on, mapped⟩ := h
  rw [Lane.tpCfgWrite]
  refine if_neg ?_
  show ¬(!bitOf (L.gen n).cur 0 || L.time.map.isNone) = true
  rw [on, Option.isNone_eq_false_iff.2 (Option.isSome_iff_ne_none.2 mapped)]
  decide

/-- Settings act at once where no edge is to come. -/
theorem Lane.tpCfgWrite_acts {L : Lane} {n : Nat} (v : Word) (h : ¬L.tpAwaits n) : L.tpCfgWrite n v =
    (L.plainWrite (tpCfg n) v).tpTake n ((L.plainWrite (tpCfg n) v).rd (tpCfg n)) := by
  rw [Lane.tpCfgWrite]
  refine if_pos ?_
  show (!bitOf (L.gen n).cur 0 || L.time.map.isNone) = true
  rw [Lane.tpAwaits, not_and_or, Bool.not_eq_true, not_not] at h
  rw [Bool.or_eq_true, Bool.not_eq_true', Option.isNone_iff_eq_none]
  exact h

theorem tpCfgWrite_waits (s : State) (l : LaneId) (n : Fin 2) (v : Word) (h : (s.lane l).tpAwaits n) :
    ∃ t, exec (.tpCfgWrite l n v) s = .next t ∧ OnlyLane l s t ∧ OnlyRegs l [tpCfg n] s t ∧
      (t.lane l).fld (tpCfg n) 8 20 = fieldNat v 8 20 ∧
      ((t.lane l).gen n).cur = ((s.lane l).gen n).cur ∧
      ((t.lane l).gen n).pending = some ((t.lane l).rd (tpCfg n)) ∧
      (t.lane l).gen (1 - n.val) = (s.lane l).gen (1 - n.val) := by
  have lane : (s.modLane l (fun L => L.tpCfgWrite n v)).lane l = _ :=
    (State.lane_modLane ..).trans (Lane.tpCfgWrite_waits v h)
  refine ⟨_, rfl, OnlyLane.modLane l s _, TimeEdit.onlyRegs ?_, ?_, ?_, ?_, ?_⟩ <;> rw [lane]
  · exact (TimeEdit.wr _ _ List.mem_cons_self).trans (.setGen _ _ _)
  · exact Lane.width_plainWrite ..
  · rw [Lane.gen_setGen_self]
  · rw [Lane.gen_setGen_self]
    rfl
  · exact Lane.gen_setGen_other _ n _

theorem tpCfgWrite_acts (s : State) (l : LaneId) (n : Fin 2) (v : Word) (h : ¬(s.lane l).tpAwaits n) :
    ∃ t, exec (.tpCfgWrite l n v) s = .next t ∧ OnlyLane l s t ∧ OnlyRegs l [tpCfg n, tpStat n] s t ∧
      ((t.lane l).gen n).pending = none ∧
      (let w := fieldNat v 8 20
       let per := 1000 * tpPeriod (fieldNat v 2 4)
       fieldNat ((t.lane l).gen n).cur 8 20 = (if w = 0 then 1 else if per ≤ w then per - 1 else w) ∧
       (per ≤ w → (t.lane l).flag (tpStat n) 4 = true)) ∧
      (t.lane l).gen (1 - n.val) = (s.lane l).gen (1 - n.val) := by
  have lane : (s.modLane l (fun L => L.tpCfgWrite n v)).lane l = _ :=
    (State.lane_modLane ..).trans (Lane.tpCfgWrite_acts v h)
  have width := (s.lane l).width_plainWrite n v
  have period := (s.lane l).period_plainWrite n v
  have written : TimeEdit [tpCfg n, tpStat n] (s.lane l) ((s.lane l).plainWrite (tpCfg n) v) := .wr _ _ List.mem_cons_self
  have other : ((s.lane l).plainWrite (tpCfg n) v).gen (1 - n.val) = (s.lane l).gen (1 - n.val) := rfl
  generalize (s.lane l).plainWrite (tpCfg n) v = M at *
  have gen := Lane.gen_of_time (M.time_tpTake n (M.rd (tpCfg n)))
  have effective := width_tpEffective (M.rd (tpCfg n))
  rw [width, period] at effective
  refine ⟨_, rfl, OnlyLane.modLane l s _, TimeEdit.onlyRegs ?_, ?_, ⟨?_, fun hw => ?_⟩, ?_⟩ <;> rw [lane]
  · exact written.trans (M.edit_tpTake _ (by simp))
  · rw [gen, Lane.gen_setGen_self]
    rfl
  · rw [gen, Lane.gen_setGen_self]
    exact effective
  · exact M.clamp_tpTake n (by rwa [width, period])
  · rw [gen]
    exact (Lane.gen_setGen_other M n _).trans other

/-! ### Leading edges -/

/-- The time by which a generator runs, where there is GNSS time (R87). -/
theorem Lane.tpTime_of_gnssTime {L : Lane} {g : Int} (n : Nat) (h : L.gnssTime = some g) :
    L.tpTime n = some ((g : Rat) - L.timingCable - (L.gen n).phase) := by
  rw [Lane.tpTime, h]
  rfl

theorem Lane.tpDue_unmapped {L : Lane} (n : Nat) (h : L.gnssTime = none) : L.tpDue n = none := by
  rw [Lane.tpDue, Lane.tpTime, h]
  rfl

/-- What a leading edge that is due says (R87): the generator is on, the multiple is new, and the generator's time has
reached it in this tick. -/
theorem Lane.due_of_tpDue {L : Lane} {n : Nat} {k : Int} (h : L.tpDue n = some k) :
    bitOf (L.gen n).cur 0 = true ∧ (L.gen n).idx ≠ some k ∧
      ∃ g : Int, L.gnssTime = some g ∧
        let per : Rat := ((1000000 * tpPeriod (fieldNat (L.gen n).cur 2 4) : Nat) : Rat)
        let x : Rat := (g : Rat) - L.timingCable - (L.gen n).phase
        (k : Rat) * per ≤ x ∧ x < (k : Rat) * per + ((10 * (L.lt - L.time.last) + 1 : Nat) : Rat) := by
  cases hg : L.gnssTime with
  | none =>
    rw [Lane.tpDue_unmapped n hg] at h
    cases h
  | some g =>
    rw [Lane.tpDue, Lane.tpTime_of_gnssTime n hg] at h
    dsimp only at h
    rw [Option.ite_none_right_eq_some, Bool.and_eq_true, Bool.and_eq_true, bne_iff_ne, decide_eq_true_eq,
      Nat.mul_comm (tpPeriod _)] at h
    obtain ⟨⟨⟨on, new⟩, now⟩, hk⟩ := h
    cases hk
    refine ⟨on, new, g, rfl, ?_, by linarith⟩
    obtain ⟨hp, -⟩ := tpPeriod_bounds (fieldNat (L.gen n).cur 2 4)
    have hper : (0 : Rat) < ((1000000 * tpPeriod (fieldNat (L.gen n).cur 2 4) : Nat) : Rat) := by
      exact_mod_cast Nat.mul_pos (by decide) hp
    exact (le_div_iff₀ hper).1 (Rat.floor_le _)

theorem tpLeadingEdge_none {s : State} {l : LaneId} {n : Fin 2}
    (h : s.counts l = false ∨ (s.lane l).tpDue n = none) : exec (.tpLeadingEdge l n) s = .next s := by
  show execTpLeadingEdge l n s = _
  rw [execTpLeadingEdge]
  obtain h | h := h
  · rw [h]
    rfl
  · rw [h]
    exact congrArg Host.Outcome.next (ite_self _)

theorem exec_tpLeadingEdge {s : State} {l : LaneId} {n : Fin 2} {k : Int} (hc : s.counts l = true)
    (hk : (s.lane l).tpDue n = some k) : exec (.tpLeadingEdge l n) s = .next (s.modLane l (fun L => L.tpLead n k)) := by
  show execTpLeadingEdge l n s = _
  rw [execTpLeadingEdge, hc, hk]
  rfl

/-- The generator suppressed, with E47 and data 2 (R90). -/
def Lane.suppressed (L : Lane) (n : Nat) : Lane := (L.setFlag (tpStat n) 2 true).raise 47 2 n 0

/-- The generator no longer suppressed, with E47 and data 3 (R90). -/
def Lane.unsuppressed (L : Lane) (n : Nat) : Lane := (L.setFlag (tpStat n) 2 false).raise 47 3 n 0

/-- A suppressed generator resumes within TP_LIMIT (R90). -/
def Lane.tpResume (L : Lane) (n : Nat) : Lane :=
  let lim : Rat := ((L.rd 0x40020048).toNat : Nat)
  let ok := decide (-lim ≤ (L.gen n).phase) && decide ((L.gen n).phase ≤ lim) && !L.beyondLimit
  if L.flag (tpStat n) 2 && ok then L.unsuppressed n else L

/-- The pulse begins, at a pad that the generator drives unless it is suppressed. -/
def TpGen.begun (g : TpGen) (suppressed : Bool) (lt : Nat) (k : Int) : TpGen :=
  { g with high := bitOf g.cur 0, driven := bitOf g.cur 0 && !suppressed, start := lt, idx := some k }

/-- The lane with the pulse begun. -/
def Lane.tpGive (L : Lane) (n : Nat) (k : Int) : Lane :=
  L.setGen n ((L.gen n).begun (L.flag (tpStat n) 2) L.lt k)

/-- A leading edge with no phase error to slew and no settings that wait. -/
theorem Lane.tpLead_plain {L : Lane} {n : Nat} (k : Int) (hp : (L.gen n).phase = 0) (hs : (L.gen n).pending = none) :
    L.tpLead n k = ((L.tpSuppress n).tpResume n).tpGive n k := by
  have slew : L.slewPhase n = L := if_pos hp
  rw [Lane.tpLead, slew, hs]
  rfl

theorem Lane.tpSuppress_beyond {L : Lane} {n : Nat} (hb : L.beyondLimit = true) (hf : L.flag (tpStat n) 2 = false)
    (on : bitOf (L.gen n).cur 0 = true) : L.tpSuppress n = L.suppressed n := by
  refine if_pos ?_
  rw [hb, show L.flag (0x40020058 + 4 * n) 2 = false from hf, on]
  rfl

theorem Lane.tpSuppress_within {L : Lane} (n : Nat) (hb : L.beyondLimit = false) : L.tpSuppress n = L := by
  refine if_neg ?_
  rw [hb, Bool.false_and, Bool.false_and]
  decide

theorem Lane.tpResume_driving {L : Lane} {n : Nat} (hf : L.flag (tpStat n) 2 = false) : L.tpResume n = L := by
  refine if_neg ?_
  rw [hf, Bool.false_and]
  decide

theorem Lane.tpResume_beyond {L : Lane} (n : Nat) (hb : L.beyondLimit = true) : L.tpResume n = L := by
  refine if_neg ?_
  rw [hb]
  simp

/-- A suppressed generator without a phase error resumes. -/
theorem Lane.tpResume_within {L : Lane} {n : Nat} (hb : L.beyondLimit = false) (hf : L.flag (tpStat n) 2 = true)
    (hp : (L.gen n).phase = 0) : L.tpResume n = L.unsuppressed n := by
  refine if_pos ?_
  rw [hf, hb, hp]
  simp

theorem Lane.edit_setSuppressed (L : Lane) (n : Nat) (b : Bool) : TimeEdit [tpStat n] L (L.setFlag (tpStat n) 2 b) :=
  .wr _ _ List.mem_cons_self

/-- What a change of the suppression, with its event, leaves of a lane. -/
theorem Lane.keeps_setSuppressed (L : Lane) (n : Fin 2) (b : Bool) (d : Nat) :
    ((L.setFlag (tpStat n) 2 b).raise 47 d n 0).flag (tpStat n) 2 = b ∧
      ((L.setFlag (tpStat n) 2 b).raise 47 d n 0).time = L.time ∧
      ∀ a, a ∉ [tpStat n] ++ evRegs → ((L.setFlag (tpStat n) 2 b).raise 47 d n 0).rd a = L.rd a :=
  ⟨(Lane.flag_of_rd (Lane.rd_raise_of_notMem _ d n 0 (by decide) (tpStat_notMem_evRegs n)) 2).trans
      (Lane.flag_setFlag_self _ _ _ (by decide)),
    Lane.time_raise .., fun _ ha => (L.edit_setSuppressed n b).rd_raise d n 0 (by decide) ha⟩

/-- Once suppressed, the uncertainty is still beyond TP_LIMIT. -/
theorem Lane.beyondLimit_suppressed (L : Lane) (n : Fin 2) : (L.suppressed n).beyondLimit = L.beyondLimit := by
  obtain ⟨-, time, rd⟩ := L.keeps_setSuppressed n true 2
  have lt : (L.suppressed n).lt = L.lt := Lane.lt_raise ..
  obtain ⟨stat, limit⟩ := limitRegs_notMem n
  have holdU : (L.suppressed n).holdU = L.holdU := by
    rw [Lane.holdU, lt, show (L.suppressed n).time = L.time from time, Lane.holdU]
  rw [Lane.beyondLimit, holdU, Lane.suppressed, Lane.fld_of_rd (rd _ stat), rd _ limit,
    Lane.beyondLimit]

/-- The three leading edges with no phase error and no settings that wait: driven, resumed and suppressed. -/
theorem Lane.tpLead_driven {L : Lane} {n : Nat} (k : Int) (hp : (L.gen n).phase = 0) (hs : (L.gen n).pending = none)
    (hb : L.beyondLimit = false) (hf : L.flag (tpStat n) 2 = false) : L.tpLead n k = L.tpGive n k := by
  rw [Lane.tpLead_plain k hp hs, Lane.tpSuppress_within n hb, Lane.tpResume_driving hf]

/-- See `Lane.tpLead_driven`. -/
theorem Lane.tpLead_resumed {L : Lane} {n : Nat} (k : Int) (hp : (L.gen n).phase = 0) (hs : (L.gen n).pending = none)
    (hb : L.beyondLimit = false) (hf : L.flag (tpStat n) 2 = true) : L.tpLead n k = (L.unsuppressed n).tpGive n k := by
  rw [Lane.tpLead_plain k hp hs, Lane.tpSuppress_within n hb, Lane.tpResume_within hb hf hp]

/-- See `Lane.tpLead_driven`. -/
theorem Lane.tpLead_suppressed {L : Lane} {n : Fin 2} (k : Int) (hp : (L.gen n).phase = 0)
    (hs : (L.gen n).pending = none) (hb : L.beyondLimit = true) (hf : L.flag (tpStat n) 2 = false)
    (on : bitOf (L.gen n).cur 0 = true) : L.tpLead n k = (L.suppressed n).tpGive n k := by
  rw [Lane.tpLead_plain k hp hs, Lane.tpSuppress_beyond hb hf on,
    Lane.tpResume_beyond n ((L.beyondLimit_suppressed n).trans hb)]

/-! ### Pads -/

theorem State.tpPad_driven {s : State} {l : LaneId} {n : Nat} (hc : s.control = some l)
    (high : ((s.lane l).gen n).high = true) (driven : ((s.lane l).gen n).driven = true) :
    s.tpPad n = !bitOf ((s.lane l).gen n).cur 1 := by
  rw [State.tpPad, hc]
  refine if_pos ?_
  rw [high, driven]
  rfl

theorem OnlyLane.control {l : LaneId} {s t : State} (h : OnlyLane l s t) : t.control = s.control := by
  obtain ⟨-, -, hrind, -⟩ := h
  rw [State.control, hrind, State.control]

/-- The pads follow the lane in control alone. -/
theorem OnlyLane.tpPad_other {l : LaneId} {s t : State} (h : OnlyLane l s t) (hc : s.control = some (other l)) (n : Nat) :
    t.tpPad n = s.tpPad n := by
  have control := h.control
  obtain ⟨lane, -⟩ := h
  rw [State.tpPad, State.tpPad, control, hc]
  simp only [State.tpOut, State.isActive, control, lane]

theorem tpLeadingEdge_driven {s : State} {l : LaneId} {n : Fin 2} {k : Int} (hc : s.counts l = true)
    (hk : (s.lane l).tpDue n = some k) (hp : ((s.lane l).gen n).phase = 0) (hs : ((s.lane l).gen n).pending = none)
    (hb : (s.lane l).beyondLimit = false) (hf : (s.lane l).flag (tpStat n) 2 = false) :
    ∃ t, exec (.tpLeadingEdge l n) s = .next t ∧
      OnlyLane l s t ∧ (t.lane l).regs = (s.lane l).regs ∧ ((t.lane l).gen n).high = true ∧
      ((t.lane l).gen n).idx = some k ∧ ((t.lane l).gen n).start = (s.lane l).lt ∧
      (s.control = some l → t.tpPad n = !bitOf ((s.lane l).gen n).cur 1) ∧
      (s.control = some (other l) → t.tpPad n = s.tpPad n) ∧
      (t.lane l).gen (1 - n.val) = (s.lane l).gen (1 - n.val) ∧ SameMemory l s t := by
  obtain ⟨on, -⟩ := Lane.due_of_tpDue hk
  have only := OnlyLane.modLane l s (fun L => L.tpLead n k)
  have run := exec_tpLeadingEdge hc hk
  have lane : (s.modLane l (fun L => L.tpLead n k)).lane l = (s.lane l).tpGive n k :=
    (State.lane_modLane ..).trans (Lane.tpLead_driven k hp hs hb hf)
  have edit : TimeEdit [] (s.lane l) ((s.lane l).tpGive n k) := .setGen ..
  rw [← lane] at edit
  generalize s.modLane l (fun L => L.tpLead n k) = t at *
  have gen : (t.lane l).gen n = ((s.lane l).gen n).begun false (s.lane l).lt k := by
    rw [lane, Lane.tpGive, Lane.gen_setGen_self, hf]
  have high : ((t.lane l).gen n).high = true := by rw [gen]; exact on
  refine ⟨t, run, only, (congrArg Lane.regs lane).trans rfl, high, ?_, ?_, fun h => ?_, fun h => only.tpPad_other h n, ?_,
    edit.sameMemory⟩
  · rw [gen]
    rfl
  · rw [gen]
    rfl
  · have driven : ((t.lane l).gen n).driven = true := by
      rw [gen]
      exact (Bool.and_true _).trans on
    rw [State.tpPad_driven (only.control.trans h) high driven, gen]
    rfl
  · rw [lane]
    exact Lane.gen_setGen_other _ n _

theorem tpLeadingEdge_resumes {s : State} {l : LaneId} {n : Fin 2} {k : Int} (hc : s.counts l = true)
    (hk : (s.lane l).tpDue n = some k) (hp : ((s.lane l).gen n).phase = 0) (hs : ((s.lane l).gen n).pending = none)
    (hb : (s.lane l).beyondLimit = false) (hf : (s.lane l).flag (tpStat n) 2 = true) :
    ∃ t, exec (.tpLeadingEdge l n) s = .next t ∧ OnlyLane l s t ∧
      OnlyRegs l ([tpStat n] ++ evRegs) s t ∧ (t.lane l).flag (tpStat n) 2 = false ∧ ((t.lane l).gen n).high = true ∧
      ((t.lane l).gen n).driven = true ∧ Raises l 47 3 n 0 s t := by
  obtain ⟨on, -⟩ := Lane.due_of_tpDue hk
  have lane : (s.modLane l (fun L => L.tpLead n k)).lane l = ((s.lane l).unsuppressed n).tpGive n k :=
    (State.lane_modLane ..).trans (Lane.tpLead_resumed k hp hs hb hf)
  obtain ⟨flag, time, rd⟩ := (s.lane l).keeps_setSuppressed n false 3
  have gen : (((s.lane l).unsuppressed n).tpGive n k).gen n = ((s.lane l).gen n).begun false ((s.lane l).unsuppressed n).lt k := by
    rw [Lane.tpGive, Lane.gen_setGen_self, Lane.unsuppressed, flag, Lane.gen_of_time time]
  refine ⟨_, exec_tpLeadingEdge hc hk, OnlyLane.modLane l s _, fun a ha => ?_, ?_, ?_, ?_,
    ((s.lane l).edit_setSuppressed n false).raises (by decide) (tpStat_low n) ((congrArg Lane.regs lane).trans rfl)
      ((congrArg Lane.ev lane).trans rfl)⟩
  · rw [State.reg, lane]
    exact rd a ha
  · rw [lane]
    exact flag
  · rw [lane, gen]
    exact on
  · rw [lane, gen]
    exact (Bool.and_true _).trans on

theorem tpLeadingEdge_suppressed {s : State} {l : LaneId} {n : Fin 2} {k : Int} (hc : s.counts l = true)
    (hk : (s.lane l).tpDue n = some k) (hp : ((s.lane l).gen n).phase = 0) (hs : ((s.lane l).gen n).pending = none)
    (hb : (s.lane l).beyondLimit = true) (hf : (s.lane l).flag (tpStat n) 2 = false) :
    ∃ t, exec (.tpLeadingEdge l n) s = .next t ∧ OnlyLane l s t ∧
      OnlyRegs l ([tpStat n] ++ evRegs) s t ∧ (t.lane l).flag (tpStat n) 2 = true ∧
      ((t.lane l).gen n).driven = false ∧ Raises l 47 2 n 0 s t := by
  obtain ⟨on, -⟩ := Lane.due_of_tpDue hk
  have lane : (s.modLane l (fun L => L.tpLead n k)).lane l = ((s.lane l).suppressed n).tpGive n k :=
    (State.lane_modLane ..).trans (Lane.tpLead_suppressed k hp hs hb hf on)
  obtain ⟨flag, -, rd⟩ := (s.lane l).keeps_setSuppressed n true 2
  have gen : (((s.lane l).suppressed n).tpGive n k).gen n =
      (((s.lane l).suppressed n).gen n).begun true ((s.lane l).suppressed n).lt k := by
    rw [Lane.tpGive, Lane.gen_setGen_self, Lane.suppressed, flag]
  refine ⟨_, exec_tpLeadingEdge hc hk, OnlyLane.modLane l s _, fun a ha => ?_, ?_, ?_,
    ((s.lane l).edit_setSuppressed n true).raises (by decide) (tpStat_low n) ((congrArg Lane.regs lane).trans rfl)
      ((congrArg Lane.ev lane).trans rfl)⟩
  · rw [State.reg, lane]
    exact rd a ha
  · rw [lane]
    exact flag
  · rw [lane, gen]
    exact Bool.and_false _

/-! ### Suppression -/

theorem State.tpOut_suppressed {s : State} {l : LaneId} {n : Nat} (h : (s.lane l).flag (tpStat n) 2 = true) :
    s.tpOut l n = false := by
  rw [State.tpOut, show (s.lane l).flag (0x40020058 + 4 * n) 2 = true from h]
  exact Bool.and_false _

theorem Lane.beyondLimit_iff (L : Lane) : L.beyondLimit = true ↔
    L.fld 0x4002000C 0 2 = 2 ∧ (((L.rd 0x40020048).toNat : Nat) : Rat) < L.holdU := by
  rw [Lane.beyondLimit, Bool.and_eq_true, beq_iff_eq, decide_eq_true_eq]

theorem tpSuppress_suppresses {s : State} {l : LaneId} {n : Fin 2} (hm : (s.lane l).fld 0x4002000C 0 2 = 2)
    (hf : (s.lane l).flag (tpStat n) 2 = false) (on : bitOf ((s.lane l).gen n).cur 0 = true)
    (hu : ((((s.lane l).rd 0x40020048).toNat : Nat) : Rat) < (s.lane l).holdU) :
    ∃ t, exec (.tpSuppress l n) s = .next t ∧
      RaisesOnly l 47 2 n 0 [tpStat n] s t ∧ (t.lane l).flag (tpStat n) 2 = true ∧ t.tpOut l n = false := by
  have lane : (s.modLane l (fun L => L.tpSuppress n)).lane l = (s.lane l).suppressed n :=
    (State.lane_modLane ..).trans (Lane.tpSuppress_beyond ((s.lane l).beyondLimit_iff.2 ⟨hm, hu⟩) hf on)
  obtain ⟨flag, -, rd⟩ := (s.lane l).keeps_setSuppressed n true 2
  have out : ((s.modLane l (fun L => L.tpSuppress n)).lane l).flag (tpStat n) 2 = true := by
    rw [lane]
    exact flag
  refine ⟨_, rfl, ⟨OnlyLane.modLane l s _, ?_, fun a ha => ?_,
    ((s.lane l).edit_setSuppressed n true).raises (by decide) (tpStat_low n) (congrArg Lane.regs lane)
      (congrArg Lane.ev lane)⟩, out, ?_⟩
  · rw [SameBulk, lane]
    exact Lane.sameBulk_trans (Lane.sameBulk_wr (s.lane l) _ _) (Lane.sameBulk_raise ..)
  · rw [State.reg, lane]
    exact rd a ha
  · exact State.tpOut_suppressed out

theorem tpSuppress_within {s : State} {l : LaneId} (n : Fin 2)
    (hu : (s.lane l).holdU ≤ ((((s.lane l).rd 0x40020048).toNat : Nat) : Rat)) :
    exec (.tpSuppress l n) s = .next s := by
  have within : (s.lane l).beyondLimit = false :=
    Bool.eq_false_iff.2 fun h => not_and_of_not_right _ (not_lt.2 hu) ((s.lane l).beyondLimit_iff.1 h)
  exact congrArg Host.Outcome.next (State.modLane_id (Lane.tpSuppress_within n within))

/-! ### Trailing edges -/

/-- A pulse's WIDTH in ticks (R96). -/
theorem TpGen.width_eq (g : TpGen) : g.width = 100 * fieldNat g.cur 8 20 := Nat.mul_comm ..

theorem tpTrailingEdge_ends {s : State} {l : LaneId} {n : Fin 2} (high : ((s.lane l).gen n).high = true)
    (hw : ((s.lane l).gen n).start + 100 * fieldNat ((s.lane l).gen n).cur 8 20 ≤ (s.lane l).lt) :
    ∃ t, exec (.tpTrailingEdge l n) s = .next t ∧ OnlyLane l s t ∧ (t.lane l).regs = (s.lane l).regs ∧
      ((t.lane l).gen n).high = false ∧ ((t.lane l).gen n).driven = false ∧
      ((t.lane l).gen n).cur = ((s.lane l).gen n).cur ∧ (t.lane l).gen (1 - n.val) = (s.lane l).gen (1 - n.val) := by
  refine ⟨s.modLane l (fun L => L.setGen n { L.gen n with high := false, driven := false }), ?_,
    OnlyLane.modLane l s _, ?_⟩
  · show execTpTrailingEdge l n s = _
    rw [execTpTrailingEdge, high, TpGen.width_eq, decide_eq_true hw]
    rfl
  · rw [State.lane_modLane, Lane.gen_setGen_self]
    exact ⟨rfl, rfl, rfl, rfl, Lane.gen_setGen_other _ n _⟩

theorem tpTrailingEdge_lasts {s : State} {l : LaneId} {n : Fin 2} (h : ((s.lane l).gen n).high = false ∨
      (s.lane l).lt < ((s.lane l).gen n).start + 100 * fieldNat ((s.lane l).gen n).cur 8 20) :
    exec (.tpTrailingEdge l n) s = .next s := by
  show execTpTrailingEdge l n s = _
  rw [execTpTrailingEdge, TpGen.width_eq]
  refine congrArg Host.Outcome.next (if_neg ?_)
  rw [Bool.and_eq_true, decide_eq_true_eq, not_and_or, Bool.not_eq_true, not_le]
  exact h

theorem timePulsesAreGenerated : Sys2Proof.Claims.TimePulsesAreGenerated := by
  intro s l n v
  refine ⟨fun on mapped => tpCfgWrite_waits s l n v ⟨on, mapped⟩, fun h => tpCfgWrite_acts s l n v ?_,
    fun k => Lane.due_of_tpDue, tpLeadingEdge_none,
    fun k hc hk hp hs => ⟨tpLeadingEdge_driven hc hk hp hs, tpLeadingEdge_resumes hc hk hp hs,
      tpLeadingEdge_suppressed hc hk hp hs⟩,
    tpSuppress_suppresses, tpSuppress_within n, tpTrailingEdge_ends, tpTrailingEdge_lasts⟩
  rintro ⟨on, mapped⟩
  obtain h | h := h
  · exact absurd (on.symm.trans h) (by decide)
  · exact mapped h

/-- Settles O35: GNSS time by the fix's three commands, the time pulses by their settings, edges and suppression. -/
theorem gnssTimeAndTimePulses : Obligations.GnssTimeAndTimePulses := ⟨gnssTimeFollowsItsFix, timePulsesAreGenerated⟩

end Sys2Proof.Machine
end

