-- ==== Sys2Proof/Proofs/DataFaults.lean ====
section
/-!
SUPPORT. The memory map and the protection regions, the causes a data access meets, and the faults of loads and stores
(R104, R120 to R122, R633).
-/

namespace Sys2Proof.Machine

/-! ### The memory map (R116, R117) -/

theorem mapKind_eq_hole_iff (a : Nat) : mapKind a = .hole ↔ ¬(a < 0x600000 ∨ (0x10000000 ≤ a ∧ a < 0x14000000) ∨
    (0x20000000 ≤ a ∧ a < 0x20010000) ∨ (0x40000000 ≤ a ∧ a < 0x40180000)) := by
  fun_cases mapKind a <;> simp_all

theorem mapKind_eq_sram_iff (a : Nat) : mapKind a = .sram ↔ a < 0x600000 := by
  fun_cases mapKind a <;> simp_all

theorem mapKind_eq_flash_iff (a : Nat) : mapKind a = .flash ↔ 0x10000000 ≤ a ∧ a < 0x14000000 := by
  fun_cases mapKind a <;> simp_all
  omega

theorem mapKind_eq_ctxFile_iff (a : Nat) : mapKind a = .ctxFile ↔ 0x20000000 ≤ a ∧ a < 0x20010000 := by
  fun_cases mapKind a <;> simp_all <;> omega

theorem mapKind_eq_block_iff (a : Nat) : mapKind a = .block ↔ 0x40000000 ≤ a ∧ a < 0x40180000 := by
  fun_cases mapKind a <;> simp_all <;> omega

theorem supervisorOnly_iff (a : Nat) : supervisorOnly a = true ↔
    (0x40030000 ≤ a ∧ a < 0x40050000) ∨ (0x40150000 ≤ a ∧ a < 0x40170000) ∨
      (0x20000000 ≤ a ∧ a < 0x20010000) ∨ a = 0x40000018 ∨ a = 0x4000001C := by
  simp only [supervisorOnly, supervisorBlock, Bool.or_eq_true, beq_iff_eq, mapKind_eq_ctxFile_iff]
  omega

/-! ### The causes in their order (R633) -/

/-- The causes of R633 that a data access meets, one condition after the other. -/
theorem dataAccessCausesInOrder : Sys2Proof.Claims.DataAccessCausesInOrder := by
  intro L c a n store wordOp hole priv prot kind
  have hhole : mapKind a = .hole ↔ hole := mapKind_eq_hole_iff a
  have hpriv : (c.val ≠ 0 ∧ supervisorOnly a = true) ↔ priv :=
    and_congr (not_congr Fin.val_eq_zero_iff) (supervisorOnly_iff a)
  have hprot : (!(L.ctx c).granted c (if store then 1 else 0) a) = true ↔ prot := by rw [Bool.not_eq_true']
  have hblock : ¬hole → ((0x40000000 ≤ a ∧ wordOp = false) ↔ (mapKind a = .block ∧ (!wordOp) = true)) := fun h => by
    rw [mapKind_eq_block_iff, Bool.not_eq_true']
    exact and_congr_left fun _ => ⟨fun ha => by omega, And.left⟩
  have hflash : (0x10000000 ≤ a ∧ a < 0x14000000 ∧ store = true) ↔ (mapKind a = .flash ∧ store = true) := by
    rw [mapKind_eq_flash_iff, and_assoc]
  have hbank : (mapKind a = .sram ∧ (!L.coreReaches (bankOf a)) = true) ↔
      a < 0x600000 ∧ L.coreReaches (a / 0x40000) = false := by
    rw [mapKind_eq_sram_iff, Bool.not_eq_true', bankOf]
  simp only [Lane.dataFault, hhole, hpriv, hprot, hbank]
  refine ⟨fun h => if_pos h, fun h ha => ?_, fun h ha hp => ?_, fun h ha hp hg => ?_, fun h ha hp hg hk => ?_,
    fun h ha hp hg hk hs hr => ?_, fun h ha hp hg hk hr => ?_⟩
  · rw [if_neg h, if_pos ha]
  · rw [if_neg h, if_neg (not_not.2 ha), if_pos hp]
  · rw [if_neg h, if_neg (not_not.2 ha), if_neg hp, if_pos hg]
  · rw [if_neg h, if_neg (not_not.2 ha), if_neg hp, if_neg hg]
    obtain hk | hk := hk
    · rw [if_pos ((hblock h).1 hk)]
    · rw [if_pos (hflash.1 hk), ite_self]
  · obtain ⟨hk1, hk2⟩ := not_or.1 hk
    rw [if_neg h, if_neg (not_not.2 ha), if_neg hp, if_neg hg, if_neg (mt (hblock h).2 hk1), if_neg (mt hflash.2 hk2),
      if_pos ⟨hs, hr⟩]
  · obtain ⟨hk1, hk2⟩ := not_or.1 hk
    rw [if_neg h, if_neg (not_not.2 ha), if_neg hp, if_neg hg, if_neg (mt (hblock h).2 hk1), if_neg (mt hflash.2 hk2),
      if_neg fun k => Bool.eq_false_iff.1 k.2 (hr k.1)]

/-! ### Protection regions (R104, R120, R121) -/

theorem Ctx.regionGrants_iff (x : Ctx) (r bit a : Nat) : x.regionGrants r bit a = true ↔
    (Tab.get x.rgnBase 0 r).getLsbD 3 = true ∧ (Tab.get x.rgnBase 0 r).getLsbD bit = true ∧
      64 * ((Tab.get x.rgnBase 0 r).toNat / 64) ≤ a ∧ a < 64 * ((Tab.get x.rgnLim 0 r).toNat / 64) := by
  simp only [Ctx.regionGrants, bitOf, Bool.and_eq_true, decide_eq_true_eq, Nat.mul_comm 64, and_assoc]

theorem Ctx.granted_zero (x : Ctx) (bit a : Nat) : x.granted 0 bit a = true := rfl

theorem Ctx.granted_iff (x : Ctx) {c : Nat} (bit a : Nat) (hc : c ≠ 0) : x.granted c bit a = true ↔
    ¬(bit = 2 ∧ (mapKind a = .block ∨ mapKind a = .ctxFile)) ∧ ∃ r, r < 8 ∧ x.regionGrants r bit a = true := by
  rw [Ctx.granted, beq_eq_false_iff_ne.2 hc, Bool.false_or, Bool.and_eq_true, Bool.not_eq_true', List.any_eq_true,
    Bool.eq_false_iff]
  simp only [ne_eq, Bool.and_eq_true, Bool.or_eq_true, beq_iff_eq, List.mem_range]

theorem regionsGrantAccess : Sys2Proof.Claims.RegionsGrantAccess := by
  intro x c bit a _
  refine ⟨fun h => h ▸ x.granted_zero bit a, fun h => ?_⟩
  rw [x.granted_iff bit a (mt Fin.val_eq_zero_iff.1 h), mapKind_eq_block_iff, mapKind_eq_ctxFile_iff]
  simp only [Ctx.regionGrants_iff]

/-! ### Loads and stores that fault (R122) -/

theorem State.loadIns_fault {s : State} {l : LaneId} {c : CtxNo} {wf : Bool} {rs1 : RegNo} {off : BitVec 14} {n k : Nat}
    {wordOp : Bool} (put : List Byte → Ctx → Ctx) (h : Ready s l c) (hw : wf = true)
    (hk : (s.lane l).dataFault c ((s.ctxOf l c).ea rs1 off) n false wordOp = some k) :
    s.loadIns l c wf rs1 off n wordOp put =
      s.takeFault l c k (some (BitVec.ofNat 32 ((s.ctxOf l c).ea rs1 off))) := by
  rw [State.loadIns, State.issue_ready h hw (.inl rfl), State.load, ← State.ctxOf, hk]

theorem State.storeIns_fault {s : State} {l : LaneId} {c : CtxNo} {wf : Bool} {rs1 : RegNo} {off : BitVec 14} {n k : Nat}
    {wordOp : Bool} (get : Ctx → Nat) (ks : List Clash) (h : Ready s l c) (hw : wf = true)
    (hk : (s.lane l).dataFault c ((s.ctxOf l c).ea rs1 off) n true wordOp = some k) :
    s.storeIns l c wf rs1 off n wordOp get ks =
      s.takeFault l c k (some (BitVec.ofNat 32 ((s.ctxOf l c).ea rs1 off))) := by
  rw [State.storeIns, State.issue_ready h hw (.inl rfl), ← State.ctxOf, hk]

section
variable {i : Instr} {s : State} {l : LaneId} {c : CtxNo} {wf : Bool} {rs1 : RegNo} {off : BitVec 14} {n k : Nat}
  {wordOp : Bool}

theorem Faults.of_loadIns {put : List Byte → Ctx → Ctx} (he : exec i s = .next (s.loadIns l c wf rs1 off n wordOp put))
    (h : Ready s l c) (hc : c ≠ 0) (hw : wf = true)
    (hk : (s.lane l).dataFault c ((s.ctxOf l c).ea rs1 off) n false wordOp = some k) :
    Faults i l c k (some (BitVec.ofNat 32 ((s.ctxOf l c).ea rs1 off))) s :=
  .of_takeFault (by rw [he, State.loadIns_fault put h hw hk]) hc

theorem Faults.of_storeIns {get : Ctx → Nat} {ks : List Clash}
    (he : exec i s = .next (s.storeIns l c wf rs1 off n wordOp get ks)) (h : Ready s l c) (hc : c ≠ 0) (hw : wf = true)
    (hk : (s.lane l).dataFault c ((s.ctxOf l c).ea rs1 off) n true wordOp = some k) :
    Faults i l c k (some (BitVec.ofNat 32 ((s.ctxOf l c).ea rs1 off))) s :=
  .of_takeFault (by rw [he, State.storeIns_fault get ks h hw hk]) hc

end

/-- A word that no row defines is an ILLEGAL fault. -/
theorem execIllegalEncoding_ready {s : State} {l : LaneId} {c : CtxNo} {w : Word} (h : Ready s l c)
    (hw : decodeKfx l c w = none) : exec (.illegalEncoding l c w) s = .next (s.takeFault l c 1 none) := by
  show execIllegalEncoding l c w s = _
  rw [execIllegalEncoding, if_pos (by rw [hw]; rfl), State.issue_illegal h]

theorem memoryFaultsArePrecise : Sys2Proof.Claims.MemoryFaultsArePrecise := by
  intro s l c rt rs1 off ks w k h hc a d
  exact ⟨fun f => ⟨.of_loadIns rfl h hc rfl f, .of_loadIns rfl h hc rfl f⟩,
    fun f => ⟨.of_loadIns rfl h hc rfl f, .of_loadIns rfl h hc rfl f⟩,
    fun f => ⟨.of_loadIns rfl h hc rfl f, .of_loadIns rfl h hc rfl f⟩,
    fun f hp => .of_loadIns rfl h hc (decide_eq_true hp) f,
    fun f hv => .of_loadIns rfl h hc (decide_eq_true hv) f,
    fun f => .of_storeIns rfl h hc rfl f, fun f => .of_storeIns rfl h hc rfl f,
    fun f => ⟨.of_storeIns rfl h hc rfl f, .of_storeIns rfl h hc rfl f⟩,
    fun f hp => .of_storeIns rfl h hc (decide_eq_true hp) f,
    fun f hv => .of_storeIns rfl h hc (decide_eq_true hv) f,
    fun hw => .of_takeFault (execIllegalEncoding_ready h hw) hc⟩

/-- Settles O17: the causes in R633's order, the regions' grants, and the faults of loads, stores and undefined words. -/
theorem dataAccessFaultsArePrecise : Obligations.DataAccessFaultsArePrecise :=
  ⟨dataAccessCausesInOrder, regionsGrantAccess, memoryFaultsArePrecise⟩

end Sys2Proof.Machine
end

