-- ==== Sys2Proof/Proofs/FetchFaults.lean ====
section
/-!
SUPPORT. Every instruction is issued, so its fetch and its fields come first; a fault in context 0 resets the lane (R122, R123,
R137, R138, R633).
-/

namespace Sys2Proof.Machine

/-! ### Issuing, whatever the instruction is (R122, R633) -/

/-- The outcome of a command is that of issuing an instruction, whose word is none where `wf` is false. -/
def IssuesAs (wf : Bool) (l : LaneId) (c : CtxNo) (s : State) (o : Host.Outcome State Fault Refusal) : Prop :=
  ∃ ok priv body, o = .next (s.issue l c ok priv body) ∧ (wf = false → ok = false)

/-- The outcome is that of issuing an instruction whose every word is one. -/
theorem IssuesAs.total {wf ok priv : Bool} {body : IRes} {l : LaneId} {c : CtxNo} {s : State} (h : wf = true) :
    IssuesAs wf l c s (.next (s.issue l c ok priv body)) :=
  ⟨_, _, _, rfl, fun k => absurd (h.symm.trans k) (by decide)⟩

/-- The outcome is that of issuing an instruction with the fields that its row allows. -/
theorem IssuesAs.fields {wf priv : Bool} {body : IRes} {l : LaneId} {c : CtxNo} {s : State} :
    IssuesAs wf l c s (.next (s.issue l c wf priv body)) := ⟨_, _, _, rfl, id⟩

/-- The same for an integer result. -/
theorem IssuesAs.alu {wf : Bool} {l : LaneId} {c : CtxNo} {s : State} {rd : RegNo} {f : Ctx → Word} (h : wf = true) :
    IssuesAs wf l c s (.next (s.alu l c rd f)) := .total h

/-- The check on the word asks for more than the fields. -/
theorem IssuesAs.and {wf b priv : Bool} {body : IRes} {l : LaneId} {c : CtxNo} {s : State} :
    IssuesAs wf l c s (.next (s.issue l c (wf && b) priv body)) := ⟨_, _, _, rfl, fun k => by rw [k, Bool.false_and]⟩

/-- Every instruction of a context is issued. -/
theorem exec_issuesAs {i : Instr} (s : State) {l : LaneId} {c : CtxNo} (h : issuerOf i = some (l, c)) :
    IssuesAs (Instr.wf i) l c s (exec i s) := by
  cases i
  case add | sub | and | or | xor | sll | srl | sra | slt | sltu | min | max | minu | maxu | clz | mul | mulh
    | mulhu | div | divu | rem | remu | addi | andi | ori | xori | slti | sltiu | lhi | rdflg =>
    cases h
    exact .alu rfl
  case wrflg | ltrd | fadd | fsub | fmul | fdiv | fsqrt | fmin | fmax | fneg | fabs | fma | fms | fnma | fnms | feq | flt | fle
    | ftoi | ftou | itof | utof | fmvx | fmvf | jlr | jal | beq | bne | blt | bge | bltu | bgeu
    | lb | lbu | lh | lhu | lw | flw | sb | sh | sw | fsw | yield | exit | haltInstruction | brk | relinq | ctxc
    | pair | setEdge | drain | crdst | lpwr | lprd | lphold | mmul | mmult | madd | msub | mscal | mchol | msolve
    | mwait =>
    cases h
    exact .total rfl
  case vabs | vneg | vtof | vtoq =>
    cases h
    exact .and
  case vadd | vsub | vmul | vmac | vmin | vmax | vfadd | vfsub | vfmul | vfma | vfmin | vfmax
    | vsplt | vins | vext | vsum | vdot | slli | srli | srai | ldp | vld | sdp | vst
    | wtlt | wtev | evpost | qput | qget | lkacq | lkrel | wtflt | edge | curd =>
    cases h
    exact .fields
  all_goals cases h

theorem IssuesAs.not_issuing {wf : Bool} {l : LaneId} {c : CtxNo} {s : State} {o : Host.Outcome State Fault Refusal}
    (k : IssuesAs wf l c s o) (h : s.canIssue l c = false) : o = .next s := by
  obtain ⟨ok, priv, body, rfl, -⟩ := k
  rw [State.issue_not h]

theorem IssuesAs.fetchFault {wf : Bool} {l : LaneId} {c : CtxNo} {s : State} {o : Host.Outcome State Fault Refusal}
    (k : IssuesAs wf l c s o) (h : s.canIssue l c = true) {cause : Nat}
    (hf : (s.lane l).fetchFault c (s.ctxOf l c).pc.toNat = some cause) : o = .next (s.takeFault l c cause none) := by
  obtain ⟨ok, priv, body, rfl, -⟩ := k
  rw [State.ctxOf] at hf
  unfold State.issue
  rw [if_pos h, hf]

theorem IssuesAs.illegal {l : LaneId} {c : CtxNo} {s : State} {o : Host.Outcome State Fault Refusal}
    (k : IssuesAs false l c s o) (h : Ready s l c) : o = .next (s.takeFault l c 1 none) := by
  obtain ⟨ok, priv, body, rfl, hok⟩ := k
  rw [hok rfl, State.issue_illegal h]

theorem fetchFaultsComeFirst : Sys2Proof.Claims.FetchFaultsComeFirst := by
  intro i s l c hi
  exact ⟨(exec_issuesAs s hi).not_issuing, fun h hc k hf => .of_takeFault ((exec_issuesAs s hi).fetchFault h hf) hc⟩

theorem illegalFieldsFault : Sys2Proof.Claims.IllegalFieldsFault := by
  intro i s l c hi h hc hw
  exact .of_takeFault (IssuesAs.illegal (hw ▸ exec_issuesAs s hi) h) hc

/-! ### Context 0 (R123) -/

theorem State.beat_giveUp {s : State} {l : LaneId} (cause reason : Nat) (h : (s.lane l).gaveUp = false) :
    ((s.giveUp l cause reason).rind.beat.get l).hold = false := by
  have hf : ¬(s.lane l).flag 0x40140004 5 = true := by rw [← Lane.gaveUp, h]; decide
  rw [State.giveUp, if_neg hf, State.raiseBoth, State.rind_bothLanes, State.rind_modRind, Two.get_set_self]

theorem State.pending_giveUp (s : State) (l : LaneId) (cause reason : Nat) :
    (s.giveUp l cause reason).pending = s.pending := by
  rw [State.giveUp]
  split
  · split
    · exact State.pending_modLane ..
    · rfl
  · rw [State.raiseBoth, State.pending_bothLanes, State.pending_modRind, State.pending_modLane]

theorem State.pending_cutLinks (s : State) (l : LaneId) : (s.cutLinks l).pending = s.pending := by
  rw [State.cutLinks, State.pending_modRind, State.peerLost, State.pending_modLane, State.linkDown, State.pending_modDie,
    State.pending_modLane]

theorem State.pending_laneReset (s : State) (l : LaneId) (give cause : Nat) :
    (s.laneReset l give cause).pending = s.pending := by
  rw [State.laneReset, State.pending_modLane, State.pending_cutLinks, State.pending_giveUp]

theorem State.beat_laneReset {s : State} {l : LaneId} (give cause : Nat) (h : (s.lane l).gaveUp = false) :
    ((s.laneReset l give cause).rind.beat.get l).hold = false := by
  obtain ⟨tx, hr⟩ := State.rind_cutLinks (s.giveUp l give 0) l
  rw [State.laneReset, State.rind_modLane, hr]
  exact State.beat_giveUp give 0 h

theorem faultsOfContextZeroResetTheLane : Sys2Proof.Claims.FaultsOfContextZeroResetTheLane := by
  intro s l w h hw
  obtain ⟨phase, cause, flash, lt, ctxs, units, -, -, gave⟩ := LaneWasReset.laneReset s l (cause := 5) (by decide)
  exact ⟨s.laneReset l 1 5, execIllegalEncoding_ready h hw, phase, fun c => by rw [ctxs]; rfl, cause, lt, flash,
    fun hg => ⟨State.beat_laneReset 1 5 hg, (gave hg).1⟩, units, State.pending_laneReset ..⟩

/-- Settles O18: every instruction is issued, so its fetch and its fields are met first; context 0's fault resets the
lane. -/
theorem fetchAndIllegalFaultsComeFirst : Obligations.FetchAndIllegalFaultsComeFirst :=
  ⟨fetchFaultsComeFirst, illegalFieldsFault, faultsOfContextZeroResetTheLane⟩

end Sys2Proof.Machine
end

