-- ==== Sys2Proof/Proofs/ContextTable.lean ====
section
/-!
SUPPORT. The context commands and what a context that leaves does with its locks (R103, R106, R109, R115, R130).
-/

namespace Sys2Proof.Machine

/-- A lane operation that changes one context, seen from the module. -/
theorem OnlyCtx.of_lane {s : State} {l : LaneId} {c : Nat} {f : Lane → Lane}
    (h : { f (s.lane l) with ctxs := [] } = { s.lane l with ctxs := [] })
    (hd : ∀ d, d ≠ c → (f (s.lane l)).ctx d = (s.lane l).ctx d) : OnlyCtx l c s (s.modLane l f) := by
  refine ⟨.modLane l s f, ?_, fun d hne => ?_, fun a => ?_⟩
  · rw [State.lane_modLane, h]
  · rw [State.ctxOf, State.lane_modLane, hd d hne, State.ctxOf]
  · have hs := congrArg Lane.sram h
    dsimp only at hs
    rw [State.byte, State.lane_modLane, hs, State.byte]

theorem OnlyCtx.of_modCtx {s : State} {l : LaneId} {c : Nat} {f : Lane → Lane} {g : Ctx → Ctx}
    (h : f (s.lane l) = (s.lane l).modCtx c g) :
    OnlyCtx l c s (s.modLane l f) ∧ (s.modLane l f).ctxOf l c = g (s.ctxOf l c) := by
  refine ⟨.of_lane (by rw [h]; rfl) fun d hd => by rw [h, Lane.ctx_modCtx_ne _ _ hd], ?_⟩
  rw [State.ctxOf, State.lane_modLane, h, Lane.ctx_modCtx_self, State.ctxOf]

theorem SameMemory.of_sameBulk {s t : State} {l : LaneId} (h : (s.lane l).sameBulk (t.lane l)) : SameMemory l s t :=
  .of_lane (Lane.sameBulk_sram h) (Lane.sameBulk_flash h)

/-! ### Commands that the table does not permit (R103, R130) -/

/-- A command is ignored: no context changes, and CTX.STAT.CMD_ERR is set. -/
theorem cmdErr_ignores {i : Instr} {s : State} {l : LaneId} {f : Lane → Lane} (he : exec i s = .next (s.modLane l f))
    (hf : f (s.lane l) = (s.lane l).cmdErr) :
    ∃ t, exec i s = .next t ∧ OnlyLane l s t ∧ (∀ d, t.ctxOf l d = s.ctxOf l d) ∧
      (t.lane l).flag 0x40030004 0 = true ∧ OnlyRegs l [0x40030004] s t ∧ SameMemory l s t := by
  have hl : (s.modLane l f).lane l = (s.lane l).cmdErr := by rw [State.lane_modLane, hf]
  refine ⟨_, he, .modLane l s f, fun d => ?_, ?_, .setFlag hl fun _ => rfl, .of_sameBulk ?_⟩
  · rw [State.ctxOf, hl, Lane.cmdErr, Lane.ctx_setFlag]; rfl
  · rw [hl, Lane.cmdErr, Lane.flag_setFlag_self _ _ _ (by decide)]
  · rw [hl]
    exact Lane.sameBulk_wr ..

section
variable {L : Lane} {n : CtxNo}

theorem Lane.start_ignored (h : n = 0 ∨ (L.ctx n).st ≠ .free) : L.start n = L.cmdErr :=
  if_neg fun k => h.elim (fun h0 => k.1 (by rw [h0]; rfl)) fun hs => hs k.2

theorem Lane.haltCtx_ignored (h : n = 0 ∨ (L.ctx n).st = .free ∨ (L.ctx n).st = .halted) : L.haltCtx n = L.cmdErr := by
  refine if_neg fun k => ?_
  obtain ⟨k0, ks⟩ := k
  obtain rfl | hs | hs := h
  · exact k0 rfl
  · simp [hs] at ks
  · simp [hs] at ks

theorem Lane.resume_ignored (h : n = 0 ∨ (L.ctx n).st ≠ .halted) : L.resume n = L.cmdErr :=
  if_neg fun k => h.elim (fun h0 => k.1 (by rw [h0]; rfl)) fun hs => hs k.2

theorem Lane.kill_ignored (h : n = 0 ∨ (L.ctx n).st = .free) : L.kill n = L.cmdErr :=
  if_neg fun k => h.elim (fun h0 => k.1 (by rw [h0]; rfl)) k.2

/-! ### START, HALT and RESUME (R101, R103, R109, R155) -/

/-- What START makes of a FREE context. -/
def Ctx.started (lt : Nat) (x : Ctx) : Ctx :=
  ({ x with st := .ready, cause := 0, yielded := false, wait := Wait.none }.clearLatches).arm lt

/-- What RESUME makes of a HALTED context. -/
def Ctx.resumed (lt : Nat) (x : Ctx) : Ctx :=
  { (if x.wait.abandoned then x.wx x.wait.rd x.wait.abandonCode else x) with
    st := .ready, cause := 0, wait := Wait.none }.arm lt

theorem Lane.start_free (h0 : n ≠ 0) (h : (L.ctx n).st = .free) : L.start n = L.modCtx n (Ctx.started L.lt) :=
  if_pos ⟨mt Fin.val_eq_zero_iff.1 h0, h⟩

theorem Lane.resume_halted (h0 : n ≠ 0) (h : (L.ctx n).st = .halted) : L.resume n = L.modCtx n (Ctx.resumed L.lt) :=
  if_pos ⟨mt Fin.val_eq_zero_iff.1 h0, h⟩

theorem Lane.haltCtx_active (h0 : n ≠ 0) (h : (L.ctx n).st = .ready ∨ (L.ctx n).st = .running) :
    L.haltCtx n = L.moveTo n .halted := by
  have hw : (L.ctx n).st ≠ .waiting := by rintro k; simp [k] at h
  rw [Lane.haltCtx, if_pos ⟨mt Fin.val_eq_zero_iff.1 h0, by tauto⟩, if_neg hw]

/-- A context that is on no core changes its state alone. -/
theorem Lane.moveTo_off_core {c : Nat} (st : CtxSt) (h : (L.ctx c).st ≠ .running) :
    L.moveTo c st = L.modCtx c (fun x => { x with st := st }) := by
  rw [Lane.moveTo, if_neg (by rwa [beq_iff_eq])]

/-- A context whose wait is not over is HALTED with the wait abandoned. -/
theorem Lane.haltCtx_waiting (h0 : n ≠ 0) (h : (L.ctx n).st = .waiting) (hm : L.condMet n = false)
    (ht : L.timedOut n = false) :
    L.haltCtx n = (L.modCtx n (fun x => { x with wait := { x.wait with abandoned := true } })).modCtx n
      (fun x => { x with st := .halted }) := by
  rw [Lane.haltCtx, if_pos ⟨mt Fin.val_eq_zero_iff.1 h0, .inr (.inl h)⟩, if_pos h, if_neg (by rw [hm]; decide),
    if_neg (by rw [ht]; decide), Lane.moveTo_off_core]
  rw [Lane.ctx_modCtx_self]
  exact fun k => absurd (h.symm.trans k) (by decide)

theorem Lane.kill_eq (h0 : n ≠ 0) (h : (L.ctx n).st ≠ .free) :
    L.kill n = (((L.moveTo n .free).modCtx n (fun x => { x.clearLatches with wait := Wait.none })).dropLocks n) :=
  if_pos ⟨mt Fin.val_eq_zero_iff.1 h0, h⟩

end

/-! ### Locks that pass on (R106, R115) -/

/-- What the locks of a context that leaves may change of a lane: locks, registers, and contexts that wait. -/
structure LockFrame (L M : Lane) : Prop where
  sram : M.sram = L.sram
  flash : M.flash = L.flash
  spx : M.spx = L.spx
  ctx : ∀ c, (L.ctx c).st ≠ .waiting → M.ctx c = L.ctx c

theorem LockFrame.refl (L : Lane) : LockFrame L L := ⟨rfl, rfl, rfl, fun _ _ => rfl⟩

theorem LockFrame.trans {L M N : Lane} (h : LockFrame L M) (k : LockFrame M N) : LockFrame L N :=
  ⟨k.sram.trans h.sram, k.flash.trans h.flash, k.spx.trans h.spx, fun c hc =>
    (k.ctx c (by rwa [h.ctx c hc])).trans (h.ctx c hc)⟩

@[simp] theorem Lane.ctx_setLock (L : Lane) (n : Nat) (k : LockSt) (c : Nat) : (L.setLock n k).ctx c = L.ctx c := by
  rw [Lane.setLock, Lane.ctx_wr]
  rfl

theorem Lane.waiting_setLock (L : Lane) (n : Nat) (k : LockSt) (q m : Nat) :
    (L.setLock n k).waiting q m = L.waiting q m := by simp only [Lane.waiting, Lane.ctx_setLock]

theorem LockFrame.setLock (L : Lane) (n : Nat) (k : LockSt) : LockFrame L (L.setLock n k) :=
  ⟨rfl, rfl, rfl, fun c _ => L.ctx_setLock n k c⟩

theorem LockFrame.finishWait {L : Lane} {c : Nat} (v : Word) (h : (L.ctx c).st = .waiting) :
    LockFrame L (L.finishWait c v) :=
  ⟨rfl, rfl, rfl, fun _ hd => Lane.ctx_finishWait_ne L v fun e => hd (e ▸ h)⟩

theorem Lane.mem_rankInsert {L : Lane} {c d : Nat} {xs : List Nat} (h : d ∈ L.rankInsert c xs) : d = c ∨ d ∈ xs := by
  induction xs with
  | nil => simpa [Lane.rankInsert] using h
  | cons x xs ih =>
    rw [Lane.rankInsert] at h
    split at h
    · simpa using h
    · obtain rfl | h := List.mem_cons.1 h
      · simp
      · exact (ih h).imp_right (List.mem_cons_of_mem x)

/-- Ranking contexts adds none. -/
theorem Lane.mem_byRank {L : Lane} {d : Nat} {cs : List Nat} (h : d ∈ L.byRank cs) : d ∈ cs := by
  induction cs with
  | nil => exact h
  | cons c cs ih => exact (Lane.mem_rankInsert h).elim (· ▸ List.mem_cons_self) fun k => List.mem_cons_of_mem c (ih k)

theorem LockFrame.passLock (L : Lane) (n : Nat) (ab : Bool) : LockFrame L (L.passLock n ab) := by
  rw [Lane.passLock]
  split
  · exact .setLock ..
  · next w ws hw =>
    have hmem : w ∈ L.waiting 5 n := Lane.mem_byRank (hw ▸ List.mem_cons_self)
    exact (LockFrame.setLock L n _).trans (.finishWait _ ((L.ctx_setLock ..).symm ▸ Lane.mem_waiting hmem))

theorem LockFrame.dropLocks (L : Lane) (c : Nat) : LockFrame L (L.dropLocks c) := by
  rw [Lane.dropLocks]
  induction List.range 64 generalizing L with
  | nil => exact .refl L
  | cons n ns ih =>
    refine LockFrame.trans ?_ (ih _)
    dsimp only
    split
    · exact .passLock ..
    · exact .refl L

/-- A lock that nobody waits for is left free; the holder that goes marks it ABANDONED. -/
theorem Lane.passLock_alone {L : Lane} {n : Nat} (ab : Bool) (h : L.waiting 5 n = []) :
    L.passLock n ab = L.setLock n ⟨false, 0, ab || (L.lock n).abandoned⟩ := by
  rw [Lane.passLock, h]
  rfl

theorem Lane.lock_setLock (L : Lane) (n m : Nat) (k : LockSt) :
    (L.setLock n k).lock m = if m = n then k else L.lock m := Tab.get_set ..

/-- Lock `n` is held by context `c`. -/
def Lane.holds (L : Lane) (c n : Nat) : Prop := (L.lock n).held = true ∧ (L.lock n).holder = c

/-- The release of one of a leaving context's locks. -/
def Lane.dropLock (c : Nat) (L : Lane) (n : Nat) : Lane :=
  if (L.lock n).held && (L.lock n).holder == c then L.passLock n true else L

theorem Lane.dropLocks_eq (L : Lane) (c : Nat) : L.dropLocks c = (List.range 64).foldl (Lane.dropLock c) L := rfl

theorem Lane.waiting_dropLock {L : Lane} (c n : Nat) (h : ∀ m, L.waiting 5 m = []) (m : Nat) :
    (L.dropLock c n).waiting 5 m = [] := by
  rw [Lane.dropLock]
  split
  · rw [Lane.passLock_alone true (h n), Lane.waiting_setLock, h]
  · exact h m

/-- With no context waiting, a lock that the leaving context holds becomes free and ABANDONED, and no other changes. -/
theorem Lane.lock_dropLock {L : Lane} (c n m : Nat) (h : L.waiting 5 n = []) :
    (L.holds c m → m = n → (L.dropLock c n).lock m = ⟨false, 0, true⟩) ∧
      (¬(L.holds c m ∧ m = n) → (L.dropLock c n).lock m = L.lock m) := by
  have hb : ((L.lock n).held && (L.lock n).holder == c) = true ↔ L.holds c n := by
    rw [Bool.and_eq_true, beq_iff_eq, Lane.holds]
  rw [Lane.dropLock, Lane.passLock_alone true h]
  refine ⟨fun hm e => ?_, fun hm => ?_⟩
  · rw [if_pos (hb.2 (by rwa [← e])), Lane.lock_setLock, if_pos e, Bool.true_or]
  · split
    · next hh => rw [Lane.lock_setLock, if_neg fun e => hm ⟨by rw [e]; exact hb.1 hh, e⟩]
    · rfl

/-- A lock that is free and ABANDONED stays so while a context's locks are released. -/
theorem Lane.lock_foldl_dropLock {L : Lane} (c m : Nat) (ns : List Nat) (h : ∀ n, L.waiting 5 n = [])
    (hm : (L.holds c m ∧ m ∈ ns) ∨ L.lock m = ⟨false, 0, true⟩) :
    (ns.foldl (Lane.dropLock c) L).lock m = ⟨false, 0, true⟩ := by
  induction ns generalizing L with
  | nil => exact hm.elim (fun k => absurd k.2 List.not_mem_nil) id
  | cons n ns ih =>
    obtain ⟨free, same⟩ := Lane.lock_dropLock c n m (h n)
    refine ih (Lane.waiting_dropLock c n h) ?_
    by_cases hn : L.holds c m ∧ m = n
    · exact .inr (free hn.1 hn.2)
    · rw [Lane.holds, same hn]
      exact hm.imp_left fun k =>
        ⟨k.1, (List.mem_cons.1 k.2).resolve_left fun e => hn ⟨k.1, e⟩⟩

theorem Lane.lock_dropLocks {L : Lane} {c m : Nat} (h : ∀ n, L.waiting 5 n = []) (hm : L.holds c m) (h64 : m < 64) :
    (L.dropLocks c).lock m = ⟨false, 0, true⟩ :=
  Lane.lock_foldl_dropLock c m _ h (.inl ⟨hm, List.mem_range.2 h64⟩)

/-! ### A context that leaves (R106, R150) -/

theorem SameMemory.of_lockFrame {s t : State} {l : LaneId} {L : Lane} (h : (s.lane l).sameBulk L)
    (k : LockFrame L (t.lane l)) : SameMemory l s t :=
  .of_lane (k.sram.trans (Lane.sameBulk_sram h)) (k.flash.trans (Lane.sameBulk_flash h))

/-- A context that leaves is FREE and waits for nothing; the others wait as before. -/
theorem Lane.waiting_left {L M : Lane} {c : Nat} (hc : (M.ctx c).st = .free) (hd : ∀ d, d ≠ c → M.ctx d = L.ctx d)
    {k a : Nat} (h : L.waiting k a = []) : M.waiting k a = [] := by
  refine Lane.waiting_nil_of_ctx (fun d => ?_) h
  obtain rfl | hne := eq_or_ne d c
  · exact .inr (by rw [hc]; decide)
  · exact .inl (hd d hne)

/-- The lane as KILL leaves it before the killed context's locks pass on. -/
def Lane.cleared (n : Nat) (L : Lane) : Lane :=
  (L.moveTo n .free).modCtx n (fun x => { x.clearLatches with wait := Wait.none })

theorem Lane.ctx_cleared (L : Lane) (n : Nat) :
    (L.cleared n).ctx n = { ({ L.ctx n with st := .free } : Ctx).clearLatches with wait := Wait.none } := by
  rw [Lane.cleared, Lane.ctx_modCtx_self, Lane.ctx_moveTo_self]

theorem Lane.st_cleared (L : Lane) (n : Nat) : ((L.cleared n).ctx n).st = .free := by
  rw [Lane.ctx_cleared]
  rfl

theorem Lane.ctx_cleared_ne (L : Lane) {n d : Nat} (h : d ≠ n) : (L.cleared n).ctx d = L.ctx d := by
  rw [Lane.cleared, Lane.ctx_modCtx_ne _ _ h, Lane.ctx_moveTo_ne _ _ h]

theorem Lane.sameBulk_cleared (L : Lane) (n : Nat) : L.sameBulk (L.cleared n) :=
  Lane.sameBulk_trans (Lane.sameBulk_moveTo L n .free) (Lane.sameBulk_modCtx _ n _)

/-- The lane as EXIT leaves it before the context's locks pass on. -/
def Lane.exited (c : Nat) (L : Lane) : Lane := (L.modCtx c (fun x => x.step id)).moveTo c .free

theorem Lane.ctx_exited (L : Lane) (c : Nat) :
    (L.exited c).ctx c = { L.ctx c with pc := (L.ctx c).pc + 4, st := .free } := by
  rw [Lane.exited, Lane.ctx_moveTo_self, Lane.ctx_modCtx_self]
  rfl

theorem Lane.ctx_exited_ne (L : Lane) {c d : Nat} (h : d ≠ c) : (L.exited c).ctx d = L.ctx d := by
  rw [Lane.exited, Lane.ctx_moveTo_ne _ _ h, Lane.ctx_modCtx_ne _ _ h]

theorem Lane.sameBulk_exited (L : Lane) (c : Nat) : L.sameBulk (L.exited c) :=
  Lane.sameBulk_trans (Lane.sameBulk_modCtx L c _) (Lane.sameBulk_moveTo _ c .free)

theorem Lane.holds_of_sameBulk {L M : Lane} {c n : Nat} (h : L.sameBulk M) (k : L.holds c n) : M.holds c n := by
  rwa [Lane.holds, Lane.lock, Lane.sameBulk_locks h]

theorem lane_kill {s : State} {l : LaneId} {n : CtxNo} (h0 : n ≠ 0) (h : (s.ctxOf l n).st ≠ .free) :
    (s.modLane l (fun L => L.kill n)).lane l = ((s.lane l).cleared n).dropLocks n := by
  rw [State.lane_modLane, Lane.kill_eq h0 h, Lane.cleared]

theorem kill_frees {s : State} {l : LaneId} {n : CtxNo} (h0 : n ≠ 0) (h : (s.ctxOf l n).st ≠ .free) :
    ∃ t, exec (.kill l n) s = .next t ∧ OnlyLane l s t ∧ SameMemory l s t ∧
      (t.ctxOf l n).st = .free ∧ (t.ctxOf l n).wait = Wait.none ∧ (t.ctxOf l n).outLatch = [] ∧
      (t.lane l).spx = (s.lane l).spx := by
  have hl := lane_kill h0 h
  have hb := (s.lane l).sameBulk_cleared n
  have hf := LockFrame.dropLocks ((s.lane l).cleared n) n
  have hx : (s.modLane l (fun L => L.kill n)).ctxOf l n = ((s.lane l).cleared n).ctx n := by
    rw [State.ctxOf, hl, hf.ctx n (by rw [Lane.st_cleared]; decide)]
  refine ⟨_, rfl, .modLane l s _, .of_lockFrame hb (hl ▸ hf), ?_, ?_, ?_, ?_⟩
  · rw [hx, Lane.st_cleared]
  · rw [hx, Lane.ctx_cleared]
  · rw [hx, Lane.ctx_cleared]; rfl
  · rw [hl, hf.spx, Lane.sameBulk_spx hb]

theorem kill_abandons {s : State} {l : LaneId} {c : CtxNo} (h0 : c ≠ 0) (hw : ∀ n, (s.lane l).waiting 5 n = [])
    (h : (s.ctxOf l c).st ≠ .free) : ∃ t, exec (.kill l c) s = .next t ∧
      ∀ n, n < 64 → ((s.lane l).lock n).held = true → ((s.lane l).lock n).holder = c.val →
        (t.lane l).lock n = ⟨false, 0, true⟩ := by
  refine ⟨_, rfl, fun n hn held holder => ?_⟩
  rw [lane_kill h0 h]
  exact Lane.lock_dropLocks (fun m => Lane.waiting_left (Lane.st_cleared ..) (fun d => Lane.ctx_cleared_ne _) (hw m))
    (Lane.holds_of_sameBulk ((s.lane l).sameBulk_cleared c) ⟨held, holder⟩) hn

theorem exit_abandons {s : State} {l : LaneId} {c : CtxNo} (h0 : c ≠ 0) (hw : ∀ n, (s.lane l).waiting 5 n = [])
    (h : Ready s l c) : ∃ t, exec (.exit l c) s = .next t ∧ OnlyLane l s t ∧ SameMemory l s t ∧
      (t.ctxOf l c).st = .free ∧ (t.ctxOf l c).pc = (s.ctxOf l c).pc + 4 ∧
      ∀ n, n < 64 → ((s.lane l).lock n).held = true → ((s.lane l).lock n).holder = c.val →
        (t.lane l).lock n = ⟨false, 0, true⟩ := by
  have he : exec (.exit l c) s = .next (s.modLane l (fun L => (L.exited c).dropLocks c)) := by
    show execExit l c s = _
    rw [execExit, State.issue_ready h (decide_eq_true (mt Fin.val_eq_zero_iff.1 h0)) (.inl rfl)]
    rfl
  have hl : (s.modLane l (fun L => (L.exited c).dropLocks c)).lane l = ((s.lane l).exited c).dropLocks c :=
    State.lane_modLane ..
  have hb := (s.lane l).sameBulk_exited c
  have hf := LockFrame.dropLocks ((s.lane l).exited c) c
  have hx : (s.modLane l (fun L => (L.exited c).dropLocks c)).ctxOf l c = ((s.lane l).exited c).ctx c := by
    rw [State.ctxOf, hl, hf.ctx c (by rw [Lane.ctx_exited]; exact CtxSt.noConfusion)]
  refine ⟨_, he, .modLane l s _, .of_lockFrame hb (hl ▸ hf), ?_, ?_, fun n hn held holder => ?_⟩
  · rw [hx, Lane.ctx_exited]
  · rw [hx, Lane.ctx_exited, State.ctxOf]
  · rw [hl]
    exact Lane.lock_dropLocks (fun m => Lane.waiting_left (by rw [Lane.ctx_exited]) (fun d => Lane.ctx_exited_ne _) (hw m))
      (Lane.holds_of_sameBulk hb ⟨held, holder⟩) hn

theorem locksOfALeavingContextAreAbandoned : Sys2Proof.Claims.LocksOfALeavingContextAreAbandoned :=
  fun _ _ _ h0 hw => ⟨exit_abandons h0 hw, kill_abandons h0 hw⟩

/-! ### The table (R103) -/

theorem start_free {s : State} {l : LaneId} {n : CtxNo} (h0 : n ≠ 0) (h : (s.ctxOf l n).st = .free) :
    ∃ t, exec (.start l n) s = .next t ∧ OnlyCtx l n s t ∧
      t.ctxOf l n = (s.ctxOf l n).started (s.lane l).lt :=
  ⟨_, rfl, OnlyCtx.of_modCtx (Lane.start_free h0 h)⟩

theorem halt_active {s : State} {l : LaneId} {n : CtxNo} (h0 : n ≠ 0)
    (h : (s.ctxOf l n).st = .ready ∨ (s.ctxOf l n).st = .running) :
    ∃ t, exec (.halt l n) s = .next t ∧ OnlyLane l s t ∧ t.ctxOf l n = { s.ctxOf l n with st := .halted } ∧
      (∀ d, d ≠ n.val → t.ctxOf l d = s.ctxOf l d) ∧ SameMemory l s t := by
  have hl : (s.modLane l (fun L => L.haltCtx n)).lane l = (s.lane l).moveTo n .halted := by
    rw [State.lane_modLane, Lane.haltCtx_active h0 h]
  refine ⟨_, rfl, .modLane l s _, ?_, fun d hd => ?_, .of_sameBulk ?_⟩
  · rw [State.ctxOf, hl, Lane.ctx_moveTo_self, State.ctxOf]
  · rw [State.ctxOf, hl, Lane.ctx_moveTo_ne _ _ hd, State.ctxOf]
  · rw [hl]
    exact Lane.sameBulk_moveTo ..

theorem halt_waiting {s : State} {l : LaneId} {n : CtxNo} (h0 : n ≠ 0) (h : (s.ctxOf l n).st = .waiting)
    (hm : (s.lane l).condMet n = false) (ht : (s.lane l).timedOut n = false) :
    ∃ t, exec (.halt l n) s = .next t ∧ OnlyCtx l n s t ∧
      t.ctxOf l n = { s.ctxOf l n with wait := { (s.ctxOf l n).wait with abandoned := true }, st := .halted } := by
  have hl := Lane.haltCtx_waiting h0 h hm ht
  refine ⟨_, rfl, .of_lane (by rw [hl]; rfl) fun d hd => ?_, ?_⟩
  · rw [hl, Lane.ctx_modCtx_ne _ _ hd, Lane.ctx_modCtx_ne _ _ hd]
  · rw [State.ctxOf, State.lane_modLane, hl, Lane.ctx_modCtx_self, Lane.ctx_modCtx_self, State.ctxOf]

theorem resume_halted {s : State} {l : LaneId} {n : CtxNo} (h0 : n ≠ 0) (h : (s.ctxOf l n).st = .halted) :
    ∃ t, exec (.resume l n) s = .next t ∧ OnlyCtx l n s t ∧
      t.ctxOf l n = (s.ctxOf l n).resumed (s.lane l).lt :=
  ⟨_, rfl, OnlyCtx.of_modCtx (Lane.resume_halted h0 h)⟩

/-- A resumed context that has a wait abandoned finds its code in rd. -/
theorem Ctx.rx_resumed (x : Ctx) (lt : Nat) (h : x.wait.abandoned = true) (hr : x.wait.rd ≠ 0) :
    (x.resumed lt).rx x.wait.rd = if x.wait.kind = 5 then 3 else 2 := by
  have hx : (x.resumed lt).rx x.wait.rd = (x.wx x.wait.rd x.wait.abandonCode).rx x.wait.rd := by
    rw [Ctx.resumed, h]
    rfl
  rw [hx, Ctx.rx_wx, if_pos ⟨rfl, hr⟩, Wait.abandonCode]

theorem contextCommandsFollowTheRows : Sys2Proof.Claims.ContextCommandsFollowTheTable := by
  intro s l n v x ignored
  refine ⟨fun h0 h => ?_, fun h0 h => ?_, fun h0 h hm ht => ?_, fun h0 h => ?_, kill_frees,
    fun h => cmdErr_ignores rfl (Lane.start_ignored h), fun h => cmdErr_ignores rfl (Lane.haltCtx_ignored h),
    fun h => cmdErr_ignores rfl (Lane.resume_ignored h), fun h => cmdErr_ignores rfl (Lane.kill_ignored h), rfl⟩
  · obtain ⟨t, he, ho, hx⟩ := start_free h0 h
    exact ⟨t, he, ho, by rw [hx]; exact ⟨rfl, rfl, rfl, rfl, rfl, rfl, rfl⟩⟩
  · obtain ⟨t, he, ho, hx, hd⟩ := halt_active h0 h
    exact ⟨t, he, ho, by rw [hx], by rw [hx], by rw [hx], hd⟩
  · obtain ⟨t, he, ho, hx⟩ := halt_waiting h0 h hm ht
    exact ⟨t, he, ho, by rw [hx], by rw [hx], by rw [hx]⟩
  · obtain ⟨t, he, ho, hx⟩ := resume_halted h0 h
    refine ⟨t, he, ho, by rw [hx]; rfl, by rw [hx]; rfl, ?_, fun ha => ?_, fun ha hr => ?_⟩
    · rw [hx, Ctx.resumed]
      cases x.wait.abandoned <;> simp [Ctx.arm, x]
    · rw [hx, Ctx.resumed, show (s.ctxOf l n).wait.abandoned = false from ha]; rfl
    · rw [hx]
      exact Ctx.rx_resumed x _ ha hr

/-- Settles O19: the rows of the table command by command, and the locks of a context that leaves. -/
theorem contextCommandsFollowTheTable : Obligations.ContextCommandsFollowTheTable :=
  ⟨contextCommandsFollowTheRows, locksOfALeavingContextAreAbandoned⟩

end Sys2Proof.Machine
end

