-- ==== Sys2Proof/Proofs/WaitRules.lean ====
section
/-!
SUPPORT. What a wait does to its context, and the rules of queues, locks and signals (R111 to R115).
-/

namespace Sys2Proof.Machine

/-! ### A ready context (R103) -/

theorem Ready.running {s : State} {l : LaneId} {c : CtxNo} (h : Ready s l c) : ((s.lane l).ctx c).st = .running := by
  have hi := h.1
  simp only [State.canIssue, Bool.and_eq_true, beq_iff_eq] at hi
  exact hi.2

theorem Ready.not_halted {s : State} {l : LaneId} {c : CtxNo} (h : Ready s l c) : (s.lane l).halted = false := by
  have hi := h.1
  simp only [State.canIssue, Bool.and_eq_true, Bool.not_eq_true'] at hi
  exact hi.1.1.2

/-- A timeout field that R154 allows. -/
theorem tmOk_of {tm : Bool} {b : RegNo} (h : tm = true ∧ b.val % 2 = 0 ∨ tm = false ∧ b = 0) : tmOk tm b = true := by
  obtain ⟨rfl, hb⟩ | ⟨rfl, rfl⟩ := h
  · exact beq_iff_eq.2 hb
  · rfl

/-- An effect on the lane that a ready context's instruction has. -/
theorem State.issue_modLane {s : State} {l : LaneId} {c : CtxNo} {wf priv : Bool} {f : Lane → Lane} {M : Lane}
    (h : Ready s l c) (hw : wf = true) (hp : priv = false ∨ c.val = 0) (hf : f (s.lane l) = M) :
    s.issue l c wf priv (.ok (s.modLane l f)) = s.setLane l M := by
  rw [State.issue_ready h hw hp, State.modLane, hf]

theorem State.issue_onLane {s : State} {l : LaneId} {c : CtxNo} {wf : Bool} {f : Lane → Lane} (h : Ready s l c)
    (hw : wf = true) :
    s.issue l c wf false (s.onLane l c f) = s.setLane l (f ((s.lane l).modCtx c (fun x => x.step id))) := by
  rw [State.onLane, State.issue_modLane h hw (.inl rfl) rfl]

/-! ### Going on (R154) -/

theorem Ctx.rx_goOn (x : Ctx) (rd : Nat) (v : Word) (r : Nat) :
    (x.step (fun y => y.wx rd v)).rx r = if r = rd ∧ r ≠ 0 then v else x.rx r := Ctx.rx_wx x r rd v

theorem Ctx.st_goOn (x : Ctx) (rd : Nat) (v : Word) : (x.step (fun y => y.wx rd v)).st = x.st := Ctx.st_wx ..
theorem Ctx.wait_goOn (x : Ctx) (rd : Nat) (v : Word) : (x.step (fun y => y.wx rd v)).wait = x.wait := Ctx.wait_wx ..

theorem Lane.ctx_goOn_self (L : Lane) (c rd : Nat) (v : Word) :
    (L.goOn c rd v).ctx c = (L.ctx c).step (fun y => y.wx rd v) := Lane.ctx_modCtx_self ..
theorem Lane.ctx_goOn_ne (L : Lane) {c d : Nat} (rd : Nat) (v : Word) (h : d ≠ c) : (L.goOn c rd v).ctx d = L.ctx d :=
  Lane.ctx_modCtx_ne _ _ h
theorem Lane.sameBulk_goOn (L : Lane) (c rd : Nat) (v : Word) : L.sameBulk (L.goOn c rd v) := rfl
@[simp] theorem Lane.rd_goOn (L : Lane) (c rd : Nat) (v : Word) (a : Nat) : (L.goOn c rd v).rd a = L.rd a := rfl

/-- A context whose state and wait stay is on the same lists of waiting contexts. -/
theorem Lane.waiting_modCtx (L : Lane) (c : Nat) {f : Ctx → Ctx} (hs : (f (L.ctx c)).st = (L.ctx c).st)
    (hw : (f (L.ctx c)).wait = (L.ctx c).wait) (k a : Nat) : (L.modCtx c f).waiting k a = L.waiting k a := by
  have hx : ∀ d, ((L.modCtx c f).ctx d).st = (L.ctx d).st ∧ ((L.modCtx c f).ctx d).wait = (L.ctx d).wait := fun d => by
    obtain rfl | hd := eq_or_ne d c
    · rw [Lane.ctx_modCtx_self]; exact ⟨hs, hw⟩
    · rw [Lane.ctx_modCtx_ne _ _ hd]; exact ⟨rfl, rfl⟩
  simp only [Lane.waiting, hx]

theorem Lane.waiting_goOn (L : Lane) (c rd : Nat) (v : Word) (k a : Nat) :
    (L.goOn c rd v).waiting k a = L.waiting k a :=
  Lane.waiting_modCtx L c (Ctx.st_goOn ..) (Ctx.wait_goOn ..) k a

theorem Lane.waiting_step (L : Lane) (c k a : Nat) :
    (L.modCtx c (fun x => x.step id)).waiting k a = L.waiting k a := Lane.waiting_modCtx L c rfl rfl k a

theorem WroteX.of_ctx {s t : State} {l : LaneId} {c : CtxNo} {rd : RegNo} {v : Word}
    (h : (t.lane l).ctx c = ((s.lane l).ctx c).step (fun y => y.wx rd v)) : WroteX l c rd v s t := by
  refine ⟨?_, fun r => ?_⟩
  · rw [State.ctxOf, h, State.ctxOf]; rfl
  · rw [State.ctxOf, h, Ctx.rx_goOn, State.ctxOf]

section
variable {i : Instr} {s : State} {l : LaneId} {c : CtxNo}

/-- An instruction that goes on with a value in rd. -/
theorem GivesX.of_goOn {rd : RegNo} {v : Word} (he : exec i s = .next (s.setLane l ((s.lane l).goOn c rd v))) :
    GivesX i l c rd (fun _ => v) s := by
  obtain ⟨ho, hx⟩ := OnlyCtx.of_modCtx (s := s) (l := l) (f := fun L => L.goOn c rd v)
    (g := fun x => x.step (fun y => y.wx rd v)) rfl
  refine ⟨_, he, ho, ?_, fun r => ?_, ?_⟩
  · exact (congrArg Ctx.pc hx).trans rfl
  · exact (congrArg (fun x => Ctx.rx x r) hx).trans (Ctx.rx_goOn ..)
  · refine (congrArg (fun x : Ctx => { x with x := [], pc := 0 }) hx).trans ?_
    simp only [Ctx.step, Ctx.wx]
    split <;> rfl

/-! ### Beginning a wait (R111, R112) -/

/-- The lane as a wait begins. -/
def Lane.inWait (c : Nat) (w : Wait) (L : Lane) : Lane :=
  (L.moveTo c .waiting).modCtx c (fun x => { x.step id with wait := w })

theorem Lane.beginWait_waits {L : Lane} {w : Wait} (c : Nat) (h : w.tmo = true → L.lt < w.time) :
    L.beginWait c w = L.inWait c w := by
  rw [Lane.beginWait, if_neg, Lane.inWait]
  rw [Bool.and_eq_true, decide_eq_true_eq]
  exact fun k => absurd k.2 (not_le.2 (h k.1))

theorem Lane.beginWait_passed {L : Lane} {w : Wait} (c : Nat) (h : w.tmo = true) (ht : w.time ≤ L.lt) :
    L.beginWait c w = L.goOn c w.rd 1 := by
  rw [Lane.beginWait, if_pos (by rw [h, decide_eq_true ht]; rfl), Lane.goOn]

theorem Lane.ctx_inWait_self (L : Lane) (c : Nat) (w : Wait) :
    (L.inWait c w).ctx c = { L.ctx c with st := .waiting, pc := (L.ctx c).pc + 4, wait := w } := by
  rw [Lane.inWait, Lane.ctx_modCtx_self, Lane.ctx_moveTo_self]
  rfl

theorem Lane.ctx_inWait_ne (L : Lane) {c d : Nat} (w : Wait) (h : d ≠ c) : (L.inWait c w).ctx d = L.ctx d := by
  rw [Lane.inWait, Lane.ctx_modCtx_ne _ _ h, Lane.ctx_moveTo_ne _ _ h]

theorem Lane.rd_inWait (L : Lane) (c a : Nat) (w : Wait)
    (ha : a ∉ (List.range 6).map (fun k => 0x40030080 + 4 * k)) : (L.inWait c w).rd a = L.rd a := by
  rw [Lane.inWait, Lane.rd_modCtx, Lane.rd_moveTo _ _ _ _ ha]

theorem Lane.sameBulk_inWait (L : Lane) (c : Nat) (w : Wait) : L.sameBulk (L.inWait c w) :=
  Lane.sameBulk_trans (Lane.sameBulk_moveTo L c .waiting) (Lane.sameBulk_modCtx _ c _)

/-- An instruction that begins a wait whose timeout has not passed. -/
theorem Waits.of_beginWait {w : Wait} (he : exec i s = .next (s.setLane l ((s.lane l).beginWait c w)))
    (h : w.tmo = true → (s.lane l).lt < w.time) : Waits i l c w.kind w.arg s := by
  rw [Lane.beginWait_waits c h] at he
  have hl : (s.setLane l ((s.lane l).inWait c w)).lane l = (s.lane l).inWait c w := State.lane_setLane ..
  have hx : (s.setLane l ((s.lane l).inWait c w)).ctxOf l c =
      { s.ctxOf l c with st := .waiting, pc := (s.ctxOf l c).pc + 4, wait := w } := by
    rw [State.ctxOf, hl, Lane.ctx_inWait_self, State.ctxOf]
  refine ⟨_, he, .setLane l s _, .of_sameBulk ?_, fun d hd => ?_, ?_, ?_, ?_, ?_, ?_, ?_, ?_,
    fun a ha => ?_⟩
  · rw [hl]
    exact Lane.sameBulk_inWait ..
  · rw [State.ctxOf, hl, Lane.ctx_inWait_ne _ _ hd, State.ctxOf]
  · rw [hx]
  · rw [hx]
  · rw [hx]
  · rw [hx]
  · rw [hx]
  · rw [hx]
  · rw [hx]
  · rw [State.reg, hl, Lane.rd_inWait _ _ _ _ ha, State.reg]

/-- An instruction that begins a wait whose timeout has passed. -/
theorem GivesX.of_passed {w : Wait} {rd : RegNo} (he : exec i s = .next (s.setLane l ((s.lane l).beginWait c w)))
    (hr : w.rd = rd.val) (h : w.tmo = true) (ht : w.time ≤ (s.lane l).lt) : GivesX i l c rd (fun _ => 1) s :=
  .of_goOn (by rw [he, Lane.beginWait_passed c h ht, hr])

end

/-! ### The end of a wait (R111, R112) -/

theorem Ctx.rx_arm (x : Ctx) (lt r : Nat) : (x.arm lt).rx r = x.rx r := rfl

theorem Lane.st_finishWait (L : Lane) (c : Nat) (v : Word) : ((L.finishWait c v).ctx c).st = .ready := by
  rw [Lane.finishWait, Lane.ctx_modCtx_self]
  rfl

theorem Lane.wait_finishWait (L : Lane) (c : Nat) (v : Word) : ((L.finishWait c v).ctx c).wait = Wait.none := by
  rw [Lane.finishWait, Lane.ctx_modCtx_self]
  rfl

theorem Lane.pc_finishWait (L : Lane) (c : Nat) (v : Word) : ((L.finishWait c v).ctx c).pc = (L.ctx c).pc := by
  rw [Lane.finishWait, Lane.ctx_modCtx_self]
  exact Ctx.pc_wx ..

theorem Lane.rx_finishWait (L : Lane) (c : Nat) (v : Word) (r : Nat) : ((L.finishWait c v).ctx c).rx r =
    if r = (L.ctx c).wait.rd ∧ r ≠ 0 then v else (L.ctx c).rx r := by
  rw [Lane.finishWait, Lane.ctx_modCtx_self]
  exact Ctx.rx_wx ..

/-- A context's wait ends with a code in its register, and nothing else changes. -/
theorem finishWait_ends {i : Instr} {s : State} {l : LaneId} {d : CtxNo} {v : Word}
    (he : exec i s = .next (s.setLane l ((s.lane l).finishWait d v))) :
    ∃ t, exec i s = .next t ∧ OnlyCtx l d s t ∧ (t.ctxOf l d).st = .ready ∧ (t.ctxOf l d).wait = Wait.none ∧
      (t.ctxOf l d).pc = (s.ctxOf l d).pc ∧
      ∀ r, (t.ctxOf l d).rx r = if r = (s.ctxOf l d).wait.rd ∧ r ≠ 0 then v else (s.ctxOf l d).rx r := by
  have hl : (s.setLane l ((s.lane l).finishWait d v)).lane l = (s.lane l).finishWait d v := State.lane_setLane ..
  refine ⟨_, he, (OnlyCtx.of_modCtx (f := fun L => L.finishWait d v) rfl).1, ?_, ?_, ?_, fun r => ?_⟩
  · rw [State.ctxOf, hl, Lane.st_finishWait]
  · rw [State.ctxOf, hl, Lane.wait_finishWait]
  · rw [State.ctxOf, hl, Lane.pc_finishWait, State.ctxOf]
  · rw [State.ctxOf, hl, Lane.rx_finishWait, State.ctxOf]

@[simp] theorem Lane.lock_finishWait (L : Lane) (c : Nat) (v : Word) (n : Nat) : (L.finishWait c v).lock n = L.lock n :=
  rfl

/-! ### Queues (R114, R131) -/

theorem Lane.byRank_singleton (L : Lane) (c : Nat) : L.byRank [c] = [c] := rfl

@[simp] theorem Lane.ctx_setQueue (L : Lane) (q : Nat) (ws : List Word) (c : Nat) :
    (L.setQueue q ws).ctx c = L.ctx c := by
  rw [Lane.setQueue, Lane.ctx_wr]
  rfl

theorem Lane.waiting_setQueue (L : Lane) (q : Nat) (ws : List Word) (k a : Nat) :
    (L.setQueue q ws).waiting k a = L.waiting k a := by simp only [Lane.waiting, Lane.ctx_setQueue]

theorem Lane.queue_setQueue (L : Lane) (q : Nat) (ws : List Word) : (L.setQueue q ws).queue q = ws :=
  Tab.get_set_self ..

theorem Lane.queueSpace_none {L : Lane} {q : Nat} (h : L.waiting 4 q = []) : L.queueSpace q = L := by
  rw [Lane.queueSpace, h]
  rfl

theorem Lane.queuePut_none {L : Lane} {q : Nat} (w : Word) (h : L.waiting 3 q = []) :
    L.queuePut q w = L.setQueue q (L.queue q ++ [w]) := by
  rw [Lane.queuePut, h, show L.byRank [] = [] from rfl, ite_self]

/-- A word put goes to the one context that waits for it. -/
theorem Lane.queuePut_one {L : Lane} {q d : Nat} (w : Word) (hh : L.halted = false) (h : L.waiting 3 q = [d]) :
    L.queuePut q w = (L.finishWait d 0).modCtx d (fun x => x.wx (L.ctx d).wait.rd2 w) := by
  rw [Lane.queuePut, h, hh, Lane.byRank_singleton]
  rfl

/-! ### Locks and signals (R113, R115) -/

theorem Lane.passLock_one {L : Lane} {n d : Nat} (ab : Bool) (h : L.waiting 5 n = [d]) :
    L.passLock n ab = (L.setLock n ⟨true, d, false⟩).finishWait d (if ab then 2 else 0) := by
  rw [Lane.passLock, h, Lane.byRank_singleton]

theorem Lane.post_one {L : Lane} {n d : Nat} (hh : L.halted = false) (h : L.waiting 2 n = [d]) :
    L.post n = L.finishWait d 0 := by
  rw [Lane.post, h, hh]
  rfl

theorem Lane.post_none {L : Lane} {n : Nat} (h : L.waiting 2 n = []) : L.post n = L.setBitOf 0x40030040 n true := by
  rw [Lane.post, h, ite_self]

theorem Lane.bitAt_setBitOf_self (L : Lane) (base n : Nat) (b : Bool) : (L.setBitOf base n b).bitAt base n = b :=
  Lane.flag_setFlag_self _ _ _ (Nat.mod_lt _ (by decide))

end Sys2Proof.Machine
end

