-- ==== Sys2Proof/Proofs/Waits.lean ====
section
/-!
SUPPORT. Waits that are met, waits that are not, and what ends a wait (R111 to R115, R122, R154).
-/

namespace Sys2Proof.Machine

/-! ### Waits that are met (R154) -/

theorem pairNat_eq (lo hi : Word) : pairNat lo hi = lo.toNat + 2 ^ 32 * hi.toNat := by
  rw [pairNat, Nat.mul_comm]

section
variable {s : State} {l : LaneId} {c : CtxNo} {rd a b : RegNo} {tm : Bool} {n : BitVec 8}

theorem ltrd_reads (h : Ready s l c) : ∃ t, exec (.ltrd l c rd a) s = .next t ∧ OnlyCtx l c s t ∧
    (t.ctxOf l c).pc = (s.ctxOf l c).pc + 4 ∧
    ∀ r, (t.ctxOf l c).rx r = if r = a ∧ r ≠ 0 then BitVec.ofNat 32 ((s.lane l).lt / 2 ^ 32)
      else if r = rd ∧ r ≠ 0 then BitVec.ofNat 32 (s.lane l).lt else (s.ctxOf l c).rx r := by
  obtain ⟨ho, hx⟩ := State.issue_onCtx (wf := true)
    (fun x => (x.wx rd (loWord (s.lane l).lt)).wx a (hiWord (s.lane l).lt)) h rfl
  refine ⟨_, rfl, ho, congrArg Ctx.pc hx, fun r => ?_⟩
  rw [← Ctx.rx_wx (s.ctxOf l c) r rd (BitVec.ofNat 32 (s.lane l).lt)]
  exact (congrArg (fun x => Ctx.rx x r) hx).trans (Ctx.rx_wx ((s.ctxOf l c).wx rd _) r a _)

theorem wtlt_met (h : Ready s l c) (ha : a.val % 2 = 0)
    (ht : ((s.ctxOf l c).rx a).toNat + 2 ^ 32 * ((s.ctxOf l c).rx (a.val + 1)).toNat ≤ (s.lane l).lt) :
    GivesX (.wtlt l c rd a) l c rd (fun _ => 0) s := by
  rw [← pairNat_eq] at ht
  exact .of_goOn (congrArg Host.Outcome.next (State.issue_modLane h (beq_iff_eq.2 ha) (.inl rfl) (if_pos ht)))

theorem wtev_met (h : Ready s l c) (ht : tmOk tm b = true) (hn : n.toNat < 160)
    (hb : (s.lane l).bitAt 0x40030040 n.toNat = true) :
    ∃ t, exec (.wtev l c rd tm b n) s = .next t ∧ OnlyLane l s t ∧ SameMemory l s t ∧ WroteX l c rd 0 s t ∧
      (t.lane l).bitAt 0x40030040 n.toNat = false ∧ OnlyRegs l [0x40030040 + 4 * (n.toNat / 32)] s t ∧
      (t.ctxOf l c).st = (s.ctxOf l c).st := by
  have hl := State.lane_setLane s l (((s.lane l).goOn c rd 0).setBitOf 0x40030040 n.toNat false)
  have hx : ((s.setLane l (((s.lane l).goOn c rd 0).setBitOf 0x40030040 n.toNat false)).lane l).ctx c =
      ((s.lane l).ctx c).step (fun y => y.wx rd 0) := by
    rw [hl, Lane.setBitOf, Lane.ctx_setFlag, Lane.ctx_goOn_self]
  refine ⟨_, congrArg Host.Outcome.next
    (State.issue_modLane h (by rw [ht, decide_eq_true hn]; rfl) (.inl rfl) (if_pos hb)), .setLane l s _,
    .of_sameBulk ?_, .of_ctx hx, ?_, .setFlag hl fun k => Lane.rd_goOn .., ?_⟩
  · rw [hl]
    exact Lane.sameBulk_trans (Lane.sameBulk_goOn _ c rd 0) (Lane.sameBulk_wr ..)
  · rw [hl, Lane.bitAt_setBitOf_self]
  · rw [State.ctxOf, hx, Ctx.st_goOn, State.ctxOf]

theorem qget_met (h : Ready s l c) (ht : tmOk tm b = true) (hn : n.toNat < 32)
    (hp : (s.lane l).waiting 4 n.toNat = []) {w : Word} {ws : List Word} (hq : (s.lane l).queue n.toNat = w :: ws) :
    ∃ t, exec (.qget l c rd a tm b n) s = .next t ∧ OnlyLane l s t ∧ SameMemory l s t ∧
      (t.lane l).queue n.toNat = ws ∧ (t.ctxOf l c).pc = (s.ctxOf l c).pc + 4 ∧
      (∀ r, (t.ctxOf l c).rx r = if r = a ∧ r ≠ 0 then w else if r = rd ∧ r ≠ 0 then 0 else (s.ctxOf l c).rx r) ∧
      (t.lane l).rd (0x40030100 + 4 * n.toNat) = BitVec.ofNat 32 ws.length := by
  have hw : (((s.lane l).goOn c rd 0).modCtx c (fun x => x.wx a w)).waiting 4 n.toNat = [] := by
    rw [Lane.waiting_modCtx _ c (Ctx.st_wx ..) (Ctx.wait_wx ..), Lane.waiting_goOn, hp]
  have he : exec (.qget l c rd a tm b n) s = .next (s.setLane l
      ((((s.lane l).goOn c rd 0).modCtx c (fun x => x.wx a w)).setQueue n.toNat ws)) := by
    refine congrArg Host.Outcome.next
      (State.issue_modLane h (by rw [ht, decide_eq_true hn]; rfl) (.inl rfl) ?_)
    dsimp only
    rw [hq]
    exact Lane.queueSpace_none (by rw [Lane.waiting_setQueue, hw])
  have hl := State.lane_setLane s l ((((s.lane l).goOn c rd 0).modCtx c (fun x => x.wx a w)).setQueue n.toNat ws)
  refine ⟨_, he, .setLane l s _, .of_lane (by rw [hl]; rfl) (by rw [hl]; rfl), ?_, ?_, fun r => ?_, ?_⟩
  · rw [hl, Lane.queue_setQueue]
  · rw [State.ctxOf, hl, Lane.ctx_setQueue, Lane.ctx_modCtx_self, Ctx.pc_wx, Lane.ctx_goOn_self]
    rfl
  · rw [State.ctxOf, hl, Lane.ctx_setQueue, Lane.ctx_modCtx_self, Ctx.rx_wx, Lane.ctx_goOn_self, Ctx.rx_goOn, State.ctxOf]
  · rw [hl, Lane.setQueue, Lane.rd_wr_self]

theorem qput_met (h : Ready s l c) (ht : tmOk tm b = true) (hn : n.toNat < 32)
    (hp : (s.lane l).waiting 3 n.toNat = []) (hq : ((s.lane l).queue n.toNat).length < 64) :
    ∃ t, exec (.qput l c rd a tm b n) s = .next t ∧ OnlyLane l s t ∧ SameMemory l s t ∧ WroteX l c rd 0 s t ∧
      (t.lane l).queue n.toNat = (s.lane l).queue n.toNat ++ [(s.ctxOf l c).rx a] := by
  have he : exec (.qput l c rd a tm b n) s = .next (s.setLane l
      (((s.lane l).goOn c rd 0).setQueue n.toNat ((s.lane l).queue n.toNat ++ [(s.ctxOf l c).rx a]))) := by
    refine congrArg Host.Outcome.next
      (State.issue_modLane h (by rw [ht, decide_eq_true hn]; rfl) (.inl rfl) ((if_pos hq).trans ?_))
    exact Lane.queuePut_none _ (by rw [Lane.waiting_goOn, hp])
  have hl := State.lane_setLane s l
    (((s.lane l).goOn c rd 0).setQueue n.toNat ((s.lane l).queue n.toNat ++ [(s.ctxOf l c).rx a]))
  refine ⟨_, he, .setLane l s _, .of_lane (by rw [hl]; rfl) (by rw [hl]; rfl), .of_ctx ?_, ?_⟩
  · rw [hl, Lane.ctx_setQueue, Lane.ctx_goOn_self]
  · rw [hl, Lane.queue_setQueue]

/-- A lock that its own holder does not ask for. -/
theorem held_by_other {k : LockSt} {c : Nat} (h : k.held = true → k.holder ≠ c) : ¬(k.held && k.holder == c) = true := by
  rw [Bool.and_eq_true, beq_iff_eq]
  exact fun hk => h hk.1 hk.2

theorem lkacq_met (h : Ready s l c) (ht : tmOk tm b = true) (hn : n.toNat < 64)
    (hk : ((s.lane l).lock n.toNat).held = false) :
    ∃ t, exec (.lkacq l c rd tm b n) s = .next t ∧ OnlyLane l s t ∧ SameMemory l s t ∧
      WroteX l c rd (if ((s.lane l).lock n.toNat).abandoned then 2 else 0) s t ∧
      (t.lane l).lock n.toNat = ⟨true, c, false⟩ ∧
      ∀ m, m ≠ n.toNat → (t.lane l).lock m = (s.lane l).lock m := by
  have hwf : (tmOk tm b && decide (n.toNat < 64)) = true := by rw [ht, decide_eq_true hn]; rfl
  have he : exec (.lkacq l c rd tm b n) s = .next (s.setLane l (((s.lane l).goOn c rd
      (if ((s.lane l).lock n.toNat).abandoned then 2 else 0)).setLock n.toNat ⟨true, c, false⟩)) := by
    show execLkacq l c rd tm b n s = _
    rw [execLkacq, if_neg (held_by_other fun k => absurd (k.symm.trans hk) (by decide))]
    exact congrArg Host.Outcome.next (State.issue_modLane h hwf (.inl rfl) (if_pos (by rw [hk]; rfl)))
  have hl := State.lane_setLane s l (((s.lane l).goOn c rd
    (if ((s.lane l).lock n.toNat).abandoned then 2 else 0)).setLock n.toNat ⟨true, c, false⟩)
  have hf := LockFrame.setLock ((s.lane l).goOn c rd (if ((s.lane l).lock n.toNat).abandoned then 2 else 0)) n.toNat
    ⟨true, c, false⟩
  refine ⟨_, he, .setLane l s _, .of_lane (by rw [hl]; exact hf.sram) (by rw [hl]; exact hf.flash), .of_ctx ?_, ?_,
    fun m hm => ?_⟩
  · rw [hl, Lane.ctx_setLock, Lane.ctx_goOn_self]
  · rw [hl, Lane.lock_setLock, if_pos rfl]
  · rw [hl, Lane.lock_setLock, if_neg hm]
    rfl

theorem faultPend_iff (L : Lane) : (List.range 4).any (fun i => L.rd (0x40030020 + 4 * i) != 0) = true ↔
    ∃ k, k < 4 ∧ L.rd (0x40030020 + 4 * k) ≠ 0 := by
  simp only [List.any_eq_true, List.mem_range, bne_iff_ne]

theorem wtflt_met (h : Ready s l c) (ht : tmOk tm b = true) (hc : c = 0)
    (hf : ∃ k, k < 4 ∧ (s.lane l).rd (0x40030020 + 4 * k) ≠ 0) : GivesX (.wtflt l c rd tm b) l c rd (fun _ => 0) s :=
  .of_goOn (congrArg Host.Outcome.next
    (State.issue_modLane h ht (.inr (Fin.val_eq_zero_iff.2 hc)) (if_pos ((faultPend_iff _).2 hf))))

theorem execLkrel_held (h : Ready s l c) (hn : n.toNat < 64) (hk : ((s.lane l).lock n.toNat).held = true)
    (ho : ((s.lane l).lock n.toNat).holder = c.val) : exec (.lkrel l c n) s =
      .next (s.setLane l (((s.lane l).modCtx c (fun x => x.step id)).passLock n.toNat false)) := by
  show execLkrel l c n s = _
  rw [execLkrel, if_pos (by rw [hk, ho, beq_self_eq_true]; rfl), State.issue_onLane h (decide_eq_true hn)]

theorem lkrel_alone (h : Ready s l c) (hn : n.toNat < 64) (hk : ((s.lane l).lock n.toNat).held = true)
    (ho : ((s.lane l).lock n.toNat).holder = c.val) (hw : (s.lane l).waiting 5 n.toNat = []) :
    ∃ t, exec (.lkrel l c n) s = .next t ∧ OnlyLane l s t ∧ SameMemory l s t ∧
      ((t.lane l).lock n.toNat).held = false ∧ (t.ctxOf l c).pc = (s.ctxOf l c).pc + 4 ∧
      (t.ctxOf l c).x = (s.ctxOf l c).x := by
  have hp := Lane.passLock_alone (L := (s.lane l).modCtx c (fun x => x.step id)) false
    (by rw [Lane.waiting_step, hw])
  have hx : ((s.setLane l (((s.lane l).modCtx c (fun x => x.step id)).passLock n.toNat false)).lane l).ctx c =
      ((s.lane l).ctx c).step id := by
    rw [State.lane_setLane, hp, Lane.ctx_setLock, Lane.ctx_modCtx_self]
  refine ⟨_, execLkrel_held h hn hk ho, .setLane l s _, .of_lane ?_ ?_, ?_, ?_, ?_⟩
  · rw [State.lane_setLane, hp]; rfl
  · rw [State.lane_setLane, hp]; rfl
  · rw [State.lane_setLane, hp, Lane.lock_setLock, if_pos rfl]
  · rw [State.ctxOf, hx]; rfl
  · rw [State.ctxOf, hx]; rfl

theorem execEvpost_ready (h : Ready s l c) (hn : n.toNat < 64) : exec (.evpost l c n) s =
    .next (s.setLane l (((s.lane l).modCtx c (fun x => x.step id)).post (96 + n.toNat))) := by
  show execEvpost l c n s = _
  rw [execEvpost, State.issue_onLane h (decide_eq_true hn)]

theorem evpost_alone (h : Ready s l c) (hn : n.toNat < 64) (hw : (s.lane l).waiting 2 (96 + n.toNat) = []) :
    ∃ t, exec (.evpost l c n) s = .next t ∧ OnlyLane l s t ∧ SameMemory l s t ∧
      (t.lane l).bitAt 0x40030040 (96 + n.toNat) = true ∧ (t.ctxOf l c).pc = (s.ctxOf l c).pc + 4 ∧
      OnlyRegs l [0x40030040 + 4 * ((96 + n.toNat) / 32)] s t := by
  have hp := Lane.post_none (L := (s.lane l).modCtx c (fun x => x.step id)) (n := 96 + n.toNat)
    (by rw [Lane.waiting_step, hw])
  have hl : (s.setLane l (((s.lane l).modCtx c (fun x => x.step id)).post (96 + n.toNat))).lane l =
      ((s.lane l).modCtx c (fun x => x.step id)).setBitOf 0x40030040 (96 + n.toNat) true := by
    rw [State.lane_setLane, hp]
  refine ⟨_, execEvpost_ready h hn, .setLane l s _, .of_sameBulk ?_, ?_, ?_, .setFlag hl fun k => Lane.rd_modCtx ..⟩
  · rw [hl]
    exact Lane.sameBulk_trans (Lane.sameBulk_modCtx _ c _) (Lane.sameBulk_wr ..)
  · rw [hl, Lane.bitAt_setBitOf_self]
  · rw [State.ctxOf, hl, Lane.setBitOf, Lane.ctx_setFlag, Lane.ctx_modCtx_self]
    rfl

/-! ### Waits that are not met (R111, R112, R122) -/

/-- The timeout that R154 reads from the pair, as the claims write it. -/
theorem Ctx.timeout_true (x : Ctx) (b : RegNo) :
    x.timeout true b = (x.rx b).toNat + 2 ^ 32 * (x.rx (b.val + 1)).toNat := pairNat_eq ..

/-- A wait with a timeout that has not passed, or with none. -/
theorem timeout_ahead {x : Ctx} {lt : Nat}
    (h : (tm = true ∧ b.val % 2 = 0 ∧ lt < (x.rx b).toNat + 2 ^ 32 * (x.rx (b.val + 1)).toNat) ∨ (tm = false ∧ b = 0)) :
    tm = true → lt < x.timeout tm b := by
  rintro rfl
  obtain ⟨-, -, hlt⟩ | ⟨hf, -⟩ := h
  · rwa [Ctx.timeout_true]
  · exact absurd hf (by decide)

theorem execWtev_unmet (h : Ready s l c) (ht : tmOk tm b = true) (hn : n.toNat < 160)
    (hb : (s.lane l).bitAt 0x40030040 n.toNat = false) : exec (.wtev l c rd tm b n) s = .next (s.setLane l
      ((s.lane l).beginWait c ⟨2, n.toNat, tm, ((s.lane l).ctx c).timeout tm b, rd, 0, 0, false, none⟩)) :=
  congrArg Host.Outcome.next (State.issue_modLane h (by rw [ht, decide_eq_true hn]; rfl) (.inl rfl)
    (if_neg (by rw [hb]; decide)))

theorem execQget_unmet (h : Ready s l c) (ht : tmOk tm b = true) (hn : n.toNat < 32)
    (hq : (s.lane l).queue n.toNat = []) : exec (.qget l c rd a tm b n) s = .next (s.setLane l
      ((s.lane l).beginWait c ⟨3, n.toNat, tm, ((s.lane l).ctx c).timeout tm b, rd, a, 0, false, none⟩)) := by
  refine congrArg Host.Outcome.next (State.issue_modLane h (by rw [ht, decide_eq_true hn]; rfl) (.inl rfl) ?_)
  dsimp only
  rw [hq]

theorem execQput_unmet (h : Ready s l c) (ht : tmOk tm b = true) (hn : n.toNat < 32)
    (hq : 64 ≤ ((s.lane l).queue n.toNat).length) : exec (.qput l c rd a tm b n) s = .next (s.setLane l
      ((s.lane l).beginWait c
        ⟨4, n.toNat, tm, ((s.lane l).ctx c).timeout tm b, rd, 0, ((s.lane l).ctx c).rx a, false, none⟩)) :=
  congrArg Host.Outcome.next (State.issue_modLane h (by rw [ht, decide_eq_true hn]; rfl) (.inl rfl)
    (if_neg (not_lt.2 hq)))

theorem execLkacq_unmet (h : Ready s l c) (ht : tmOk tm b = true) (hn : n.toNat < 64)
    (hk : ((s.lane l).lock n.toNat).held = true) (ho : ((s.lane l).lock n.toNat).holder ≠ c.val) :
    exec (.lkacq l c rd tm b n) s = .next (s.setLane l
      ((s.lane l).beginWait c ⟨5, n.toNat, tm, ((s.lane l).ctx c).timeout tm b, rd, 0, 0, false, none⟩)) := by
  have hwf : (tmOk tm b && decide (n.toNat < 64)) = true := by rw [ht, decide_eq_true hn]; rfl
  show execLkacq l c rd tm b n s = _
  rw [execLkacq, if_neg (held_by_other fun _ => ho)]
  exact congrArg Host.Outcome.next (State.issue_modLane h hwf (.inl rfl) (if_neg (by rw [hk]; decide)))

theorem execWtflt_unmet (h : Ready s l c) (ht : tmOk tm b = true) (hc : c = 0)
    (hf : ∀ k, k < 4 → (s.lane l).rd (0x40030020 + 4 * k) = 0) : exec (.wtflt l c rd tm b) s = .next (s.setLane l
      ((s.lane l).beginWait c ⟨7, 0, tm, ((s.lane l).ctx c).timeout tm b, rd, 0, 0, false, none⟩)) :=
  congrArg Host.Outcome.next (State.issue_modLane h ht (.inr (Fin.val_eq_zero_iff.2 hc))
    (if_neg (mt (faultPend_iff _).1 fun ⟨k, hk, hr⟩ => hr (hf k hk))))

theorem wtlt_unmet (h : Ready s l c) (ha : a.val % 2 = 0)
    (ht : (s.lane l).lt < ((s.ctxOf l c).rx a).toNat + 2 ^ 32 * ((s.ctxOf l c).rx (a.val + 1)).toNat) :
    Waits (.wtlt l c rd a) l c 1 0 s := by
  rw [← pairNat_eq] at ht
  exact .of_beginWait (w := ⟨1, 0, false, ((s.lane l).ctx c).rPair a, rd, 0, 0, false, none⟩)
    (congrArg Host.Outcome.next (State.issue_modLane h (beq_iff_eq.2 ha) (.inl rfl) (if_neg (not_le.2 ht))))
    (fun k => absurd k Bool.false_ne_true)

theorem wtflt_priv (h : Ready s l c) (ht : tmOk tm b = true) (hc : c ≠ 0) : Faults (.wtflt l c rd tm b) l c 2 none s := by
  refine .of_takeFault ?_ hc
  show execWtflt l c rd tm b s = _
  rw [execWtflt, ht, State.issue_priv h (mt Fin.val_eq_zero_iff.1 hc)]

theorem lkacq_own (h : Ready s l c) (ht : tmOk tm b = true) (hc : c ≠ 0) (hn : n.toNat < 64)
    (hk : ((s.lane l).lock n.toNat).held = true) (ho : ((s.lane l).lock n.toNat).holder = c.val) :
    Faults (.lkacq l c rd tm b n) l c 7 none s := by
  refine .of_takeFault ?_ hc
  show execLkacq l c rd tm b n s = _
  rw [execLkacq, if_pos (by rw [hk, ho, beq_self_eq_true]; rfl),
    State.issue_ready h (by rw [ht, decide_eq_true hn]; rfl) (.inl rfl)]

theorem lkrel_other (h : Ready s l c) (hc : c ≠ 0) (hn : n.toNat < 64)
    (hk : ((s.lane l).lock n.toNat).held = false ∨ ((s.lane l).lock n.toNat).holder ≠ c.val) :
    Faults (.lkrel l c n) l c 7 none s := by
  refine .of_takeFault ?_ hc
  show execLkrel l c n s = _
  rw [execLkrel, if_neg (held_by_other fun k => hk.resolve_left fun f => absurd (k.symm.trans f) (by decide)),
    State.issue_ready h (decide_eq_true hn) (.inl rfl)]

end

theorem metWaitsGoOn : Sys2Proof.Claims.MetWaitsGoOn := by
  intro s l c rd a b tm n h L x
  refine ⟨ltrd_reads h, wtlt_met h, fun ht => ?_, lkrel_alone h, evpost_alone h⟩
  have hb := tmOk_of ht
  exact ⟨wtev_met h hb, fun hn hp w ws => qget_met h hb hn hp, qput_met h hb, lkacq_met h hb, wtflt_met h hb⟩

theorem unmetWaitsWait : Sys2Proof.Claims.UnmetWaitsWait := by
  intro s l c rd a b tm n h L x limit
  refine ⟨wtlt_unmet h, fun ht => ?_, fun ht hb hp => ?_, fun hc hn hk ho ht => lkacq_own h (tmOk_of ht) hc hn hk ho,
    lkrel_other h⟩
  · have hb : tmOk tm b = true := tmOk_of (ht.imp_left fun k => ⟨k.1, k.2.1⟩)
    have hlt := timeout_ahead ht
    exact ⟨fun hn k => .of_beginWait (execWtev_unmet h hb hn k) hlt,
      fun hn k => .of_beginWait (execQget_unmet h hb hn k) hlt,
      fun hn k => .of_beginWait (execQput_unmet h hb hn k) hlt,
      fun hn k ho => .of_beginWait (execLkacq_unmet h hb hn k ho) hlt,
      fun hc k => .of_beginWait (execWtflt_unmet h hb hc k) hlt, wtflt_priv h hb⟩
  · have ho := tmOk_of (.inl ⟨ht, hb⟩)
    have hpast : ((s.lane l).ctx c).timeout tm b ≤ (s.lane l).lt := by
      rw [ht, Ctx.timeout_true]
      exact hp
    exact ⟨fun hn k => .of_passed (execWtev_unmet h ho hn k) rfl ht hpast,
      fun hn k => .of_passed (execQget_unmet h ho hn k) rfl ht hpast⟩

/-! ### What ends a wait (R112 to R115) -/

section
variable {s : State} {l : LaneId} {c d : CtxNo} {rd a : RegNo} {n : BitVec 8}

theorem waitComplete_time (hp : (s.lane l).phase = .run) (hh : (s.lane l).halted = false)
    (hs : (s.ctxOf l d).st = .waiting) (hk : (s.ctxOf l d).wait.kind = 1)
    (ht : (s.ctxOf l d).wait.time ≤ (s.lane l).lt) :
    exec (.waitComplete l d) s = .next (s.setLane l ((s.lane l).finishWait d 0)) := by
  rw [State.ctxOf] at hs hk ht
  have hm : (s.lane l).condMet d = true := by
    simp only [Lane.condMet, hk]
    exact decide_eq_true ht
  have hw : (s.lane l).completeWait d = (s.lane l).finishWait d 0 := by simp only [Lane.completeWait, hk]
  show execWaitComplete l d s = _
  rw [execWaitComplete, if_pos (by rw [Lane.running, hp, hh, hs, hm]; rfl), State.modLane, hw]

theorem waitTimeout_expired (hp : (s.lane l).phase = .run) (hh : (s.lane l).halted = false)
    (hs : (s.ctxOf l d).st = .waiting) (ht : (s.lane l).timedOut d = true) (hm : (s.lane l).condMet d = false) :
    exec (.waitTimeout l d) s = .next (s.setLane l ((s.lane l).finishWait d 1)) := by
  rw [State.ctxOf] at hs
  show execWaitTimeout l d s = _
  rw [execWaitTimeout, if_pos (by rw [Lane.running, hp, hh, hs, hm, ht]; rfl), State.modLane]

theorem evpost_wakes (h : Ready s l c) (hcd : c ≠ d) (hn : n.toNat < 64)
    (hw : (s.lane l).waiting 2 (96 + n.toNat) = [d.val]) :
    ∃ t, exec (.evpost l c n) s = .next t ∧ OnlyLane l s t ∧ (t.ctxOf l d).st = .ready ∧
      (∀ r, (t.ctxOf l d).rx r = if r = (s.ctxOf l d).wait.rd ∧ r ≠ 0 then 0 else (s.ctxOf l d).rx r) ∧
      (t.lane l).regs = (s.lane l).regs := by
  have hne : d.val ≠ c.val := fun k => hcd (Fin.ext k.symm)
  have hp := Lane.post_one (L := (s.lane l).modCtx c (fun x => x.step id)) (n := 96 + n.toNat) h.not_halted
    (by rw [Lane.waiting_step, hw])
  have hl : (s.setLane l (((s.lane l).modCtx c (fun x => x.step id)).post (96 + n.toNat))).lane l =
      ((s.lane l).modCtx c (fun x => x.step id)).finishWait d 0 := by rw [State.lane_setLane, hp]
  refine ⟨_, execEvpost_ready h hn, .setLane l s _, ?_, fun r => ?_, by rw [hl]; rfl⟩
  · rw [State.ctxOf, hl, Lane.st_finishWait]
  · rw [State.ctxOf, hl, Lane.rx_finishWait, Lane.ctx_modCtx_ne _ _ hne, State.ctxOf]

theorem qput_wakes (h : Ready s l c) (hcd : c ≠ d) (hn : n.toNat < 32) (hw : (s.lane l).waiting 3 n.toNat = [d.val])
    (hq : ((s.lane l).queue n.toNat).length < 64) :
    ∃ t, exec (.qput l c rd a false 0 n) s = .next t ∧ OnlyLane l s t ∧ (t.ctxOf l d).st = .ready ∧
      (∀ r, (t.ctxOf l d).rx r = if r = (s.ctxOf l d).wait.rd2 ∧ r ≠ 0 then (s.ctxOf l c).rx a
        else if r = (s.ctxOf l d).wait.rd ∧ r ≠ 0 then 0 else (s.ctxOf l d).rx r) ∧
      (t.lane l).queue n.toNat = (s.lane l).queue n.toNat := by
  have hne : d.val ≠ c.val := fun k => hcd (Fin.ext k.symm)
  have hd := Lane.ctx_goOn_ne (s.lane l) rd.val 0 hne
  have hp := Lane.queuePut_one (L := (s.lane l).goOn c rd 0) (q := n.toNat) (((s.lane l).ctx c).rx a) h.not_halted
    (by rw [Lane.waiting_goOn, hw])
  rw [hd] at hp
  have he : exec (.qput l c rd a false 0 n) s = .next (s.setLane l ((((s.lane l).goOn c rd 0).finishWait d 0).modCtx d
      (fun x => x.wx ((s.lane l).ctx d).wait.rd2 (((s.lane l).ctx c).rx a)))) :=
    congrArg Host.Outcome.next (State.issue_modLane h (by rw [decide_eq_true hn]; rfl) (.inl rfl) ((if_pos hq).trans hp))
  have hx : ((s.setLane l ((((s.lane l).goOn c rd 0).finishWait d 0).modCtx d
      (fun x => x.wx ((s.lane l).ctx d).wait.rd2 (((s.lane l).ctx c).rx a)))).lane l).ctx d =
      ((((s.lane l).goOn c rd 0).finishWait d 0).ctx d).wx ((s.lane l).ctx d).wait.rd2 (((s.lane l).ctx c).rx a) := by
    rw [State.lane_setLane, Lane.ctx_modCtx_self]
  refine ⟨_, he, .setLane l s _, ?_, fun r => ?_, by rw [State.lane_setLane]; rfl⟩
  · rw [State.ctxOf, hx, Ctx.st_wx, Lane.st_finishWait]
  · rw [State.ctxOf, hx, Ctx.rx_wx, Lane.rx_finishWait, hd, State.ctxOf, State.ctxOf]

theorem lkrel_passes (h : Ready s l c) (hn : n.toNat < 64) (hw : (s.lane l).waiting 5 n.toNat = [d.val])
    (hk : ((s.lane l).lock n.toNat).held = true) (ho : ((s.lane l).lock n.toNat).holder = c.val) :
    ∃ t, exec (.lkrel l c n) s = .next t ∧ OnlyLane l s t ∧ (t.ctxOf l d).st = .ready ∧
      (t.lane l).lock n.toNat = ⟨true, d, false⟩ := by
  have hp := Lane.passLock_one (L := (s.lane l).modCtx c (fun x => x.step id)) (n := n.toNat) false
    (by rw [Lane.waiting_step, hw])
  refine ⟨_, execLkrel_held h hn hk ho, .setLane l s _, ?_, ?_⟩
  · rw [State.ctxOf, State.lane_setLane, hp, Lane.st_finishWait]
  · rw [State.lane_setLane, hp, Lane.lock_finishWait, Lane.lock_setLock, if_pos rfl]

end

theorem waitersReceiveWhatTheyWaitFor : Sys2Proof.Claims.WaitersReceiveWhatTheyWaitFor :=
  fun _ _ _ _ _ _ _ => ⟨fun hp hh hs hk ht => finishWait_ends (waitComplete_time hp hh hs hk ht),
    fun hp hh hs ht hm => finishWait_ends (waitTimeout_expired hp hh hs ht hm), evpost_wakes, qput_wakes,
    fun h _ hn hw => lkrel_passes h hn hw⟩

/-- Settles O21: waits that are met, waits that begin or fault, and what completes them. -/
theorem waitsFollowTheirConditions : Obligations.WaitsFollowTheirConditions :=
  ⟨metWaitsGoOn, unmetWaitsWait, waitersReceiveWhatTheyWaitFor⟩

end Sys2Proof.Machine
end

