-- ==== Sys2Proof/Proofs/Scheduling.lean ====
section
/-!
SUPPORT. The scheduler, deadlines, the debug port and the context file (R107, R108, R110, R125, R126).
-/

namespace Sys2Proof.Machine

/-! ### The scheduler (R107, R108) -/

/-- The lowest idle core that the affinity admits is taken. -/
theorem Lane.coreFor_idle {L : Lane} {c k : Nat} (hk : k < 6) (ha : (L.affinity c).testBit k = true)
    (hf : L.flag (0x40030080 + 4 * k) 7 = true) (hlt : ∀ j, j < k → L.flag (0x40030080 + 4 * j) 7 = false) :
    L.coreFor c [] = some k := by
  have hhead : (((List.range 6).filter (fun k => (L.affinity c).testBit k && !([] : List Nat).contains k)).filter
      (fun k => L.flag (0x40030080 + 4 * k) 7)).head? = some k := by
    rw [List.filter_filter, List.head?_filter, List.find?_range_eq_some]
    refine ⟨by rw [hf, ha]; rfl, List.mem_range.2 hk, fun j hj => ?_⟩
    rw [hlt j hj]
    rfl
  obtain ⟨rest, hrest⟩ := List.head?_eq_some_iff.1 hhead
  rw [Lane.coreFor, hrest]

/-- What the scheduler makes of the lane when it gives an idle core to a context. -/
def Lane.onCore (L : Lane) (k c : Nat) : Lane :=
  (({ L with saved := Tab.set L.saved Ctx.reset c (L.ctx c) } : Lane).modCtx c
    (fun x => { x with st := .running, core := k, yielded := false })).wr (0x40030080 + 4 * k) (BitVec.ofNat 32 c)

theorem Lane.giveCore_idle {L : Lane} {k : Nat} (c : Nat) (hf : L.flag (0x40030080 + 4 * k) 7 = true) :
    L.giveCore k c = L.onCore k c := by
  rw [Lane.giveCore, if_pos hf]
  rfl

theorem Lane.ctx_onCore_self (L : Lane) (k c : Nat) :
    (L.onCore k c).ctx c = { L.ctx c with st := .running, core := k, yielded := false } := by
  rw [Lane.onCore, Lane.ctx_wr, Lane.ctx_modCtx_self]
  rfl

theorem Lane.ctx_onCore_ne (L : Lane) {k c d : Nat} (h : d ≠ c) : (L.onCore k c).ctx d = L.ctx d := by
  rw [Lane.onCore, Lane.ctx_wr, Lane.ctx_modCtx_ne _ _ h]
  rfl

theorem Lane.rd_onCore_ne (L : Lane) {k c a : Nat} (h : a ≠ 0x40030080 + 4 * k) : (L.onCore k c).rd a = L.rd a := by
  rw [Lane.onCore, Lane.rd_wr_ne _ _ h]
  rfl

theorem Lane.sameBulk_onCore (L : Lane) (k c : Nat) : L.sameBulk (L.onCore k c) := rfl

theorem dispatch_nothing {s : State} {l : LaneId} (hr : s.coresRun l = true) (h : (s.lane l).inState .ready = []) :
    exec (.schedulerDispatch l) s = .next s := by
  show execSchedulerDispatch l s = _
  rw [execSchedulerDispatch, if_pos hr, State.modLane_id]
  rw [h]
  rfl

theorem dispatch_one {s : State} {l : LaneId} {c k : Nat} (hr : s.coresRun l = true)
    (h : (s.lane l).inState .ready = [c]) (hk : k < 6) (ha : ((s.lane l).affinity c).testBit k = true)
    (hf : (s.lane l).flag (0x40030080 + 4 * k) 7 = true)
    (hlt : ∀ j, j < k → (s.lane l).flag (0x40030080 + 4 * j) 7 = false) :
    ∃ t, exec (.schedulerDispatch l) s = .next t ∧ OnlyLane l s t ∧ t.lane l = (s.lane l).onCore k c := by
  have hl : (s.lane l).dispatch ((s.lane l).byRank ((s.lane l).inState .ready)) [] = (s.lane l).onCore k c := by
    rw [h, Lane.byRank_singleton, Lane.dispatch, Lane.coreFor_idle hk ha hf hlt]
    exact Lane.giveCore_idle c hf
  refine ⟨_, if_pos hr |> congrArg Host.Outcome.next, .modLane l s _, ?_⟩
  rw [State.lane_modLane, hl]

/-! ### Deadlines (R110) -/

/-- What a missed deadline leaves on the lane. -/
def Lane.missed (c : Nat) (L : Lane) : Lane :=
  ((L.modCtx c (fun x => { x with missed := true, dlmiss := true })).setBitOf 0x40030030 c true).bump 0x40030060

theorem Lane.ctx_missed (L : Lane) (c : Nat) :
    (L.missed c).ctx c = { L.ctx c with missed := true, dlmiss := true } := by
  rw [Lane.missed, Lane.bump, Lane.ctx_wr, Lane.setBitOf, Lane.ctx_setFlag, Lane.ctx_modCtx_self]

theorem Lane.rd_missed (L : Lane) {c : Nat} (h : c < 128) :
    (L.missed c).rd 0x40030060 = satAdd (L.rd 0x40030060) 1 := by
  rw [Lane.missed, Lane.bump, Lane.rd_wr_self, Lane.setBitOf, Lane.rd_setFlag_ne _ _ _ (by omega), Lane.rd_modCtx]

theorem Lane.bitAt_missed (L : Lane) {c : Nat} (h : c < 128) : (L.missed c).bitAt 0x40030030 c = true := by
  rw [Lane.missed, Lane.bitAt, Lane.flag, Lane.bump, Lane.rd_wr_ne _ _ (by omega), ← Lane.flag, Lane.setBitOf,
    Lane.flag_setFlag_self _ _ _ (Nat.mod_lt _ (by decide))]

theorem Lane.sameBulk_missed (L : Lane) (c : Nat) : L.sameBulk (L.missed c) :=
  Lane.sameBulk_trans (Lane.sameBulk_modCtx L c _) (Lane.sameBulk_trans (Lane.sameBulk_wr _ _ _) (Lane.sameBulk_wr _ _ _))

theorem execDeadlineMiss_due {s : State} {l : LaneId} {c : CtxNo} (hp : (s.lane l).phase = .run)
    (hs : (s.ctxOf l c).st = .ready ∨ (s.ctxOf l c).st = .running) (hm : (s.ctxOf l c).missed = false)
    (hd : (s.ctxOf l c).deadline ≤ (s.lane l).lt) :
    exec (.deadlineMiss l c) s = .next (s.modLane l (Lane.missed c)) := by
  show execDeadlineMiss l c s = _
  rw [State.ctxOf] at hs hm hd
  rw [execDeadlineMiss, if_pos]
  · rfl
  · rw [Lane.running, hp, hm, decide_eq_true hd]
    obtain hs | hs := hs <;> rw [hs] <;> rfl

theorem execDeadlineMiss_missed {s : State} {l : LaneId} {c : CtxNo} (hm : (s.ctxOf l c).missed = true) :
    exec (.deadlineMiss l c) s = .next s := by
  show execDeadlineMiss l c s = _
  rw [State.ctxOf] at hm
  rw [execDeadlineMiss, hm, Bool.not_true, Bool.and_false, Bool.false_and]
  rfl

/-! ### The debug port (R124, R125, R150) -/

theorem debugHalt_halts {s : State} {l : LaneId} (hp : (s.lane l).phase = .run) (ho : (s.lane l).debugOpen = true) :
    ∃ t, exec (.debugHalt l) s = .next t ∧ (t.lane l).halted = true ∧ OnlyLane l s t ∧
      { t.lane l with halted := false } = { s.lane l with halted := false } := by
  have he : exec (.debugHalt l) s = .next (s.modLane l Lane.debugHalt) := by
    show execDebugHalt l s = _
    rw [execDebugHalt, Lane.running, hp, ho]
    rfl
  exact ⟨_, he, by rw [State.lane_modLane]; rfl, .modLane l s _, by rw [State.lane_modLane]; rfl⟩

/-- The PC at which a context halted by brk goes on. -/
def goPc (go : Option Word) (pc : Word) : Word :=
  match go with
  | none => pc + 4
  | some v => v &&& 0xFFFFFFFC

/-- The lane that brk halted, its cores running again, before the waits that fell due complete. -/
def Lane.goesOn (c : Nat) (go : Option Word) (L : Lane) : Lane :=
  { L.modCtx c (fun x => { x with pc := goPc go x.pc }) with halted := false, brkCtx := none }

theorem Lane.ctx_goesOn_self (L : Lane) (c : Nat) (go : Option Word) :
    (L.goesOn c go).ctx c = { L.ctx c with pc := goPc go (L.ctx c).pc } :=
  L.ctx_modCtx_self c (fun x => { x with pc := goPc go x.pc })

theorem Lane.ctx_goesOn_ne (L : Lane) {c d : Nat} (go : Option Word) (h : d ≠ c) : (L.goesOn c go).ctx d = L.ctx d :=
  L.ctx_modCtx_ne (fun x => { x with pc := goPc go x.pc }) h

/-- Moving a context's PC leaves every context in its state. -/
theorem Lane.inState_goesOn (L : Lane) (c : Nat) (go : Option Word) (st : CtxSt) :
    (L.goesOn c go).inState st = L.inState st := by
  have hst : ∀ d, ((L.goesOn c go).ctx d).st = (L.ctx d).st := fun d => by
    obtain rfl | hd := eq_or_ne d c
    · rw [Lane.ctx_goesOn_self]
    · rw [Lane.ctx_goesOn_ne _ _ hd]
  simp only [Lane.inState, hst]

theorem Lane.completeDue_none {L : Lane} (h : L.inState .waiting = []) : L.completeDue = L := by
  rw [Lane.completeDue, h]
  rfl

theorem execDebugResume_brk {s : State} {l : LaneId} {c : Nat} (go : Option Word) (hh : (s.lane l).halted = true)
    (hw : (s.lane l).inState .waiting = []) (hb : (s.lane l).brkCtx = some c) :
    ∃ t, exec (.debugResume ⟨l, go⟩) s = .next t ∧ OnlyLane l s t ∧
      t.lane l = ((s.lane l).goesOn c go).restartWdog := by
  have hpc : ∀ pc, (go.map (fun v => v &&& 0xFFFFFFFC)).getD (pc + 4) = goPc go pc := fun pc => by cases go <;> rfl
  refine ⟨_, congrArg Host.Outcome.next (if_pos hh), .modLane l s _, ?_⟩
  simp only [State.lane_modLane, hb, hpc]
  exact congrArg Lane.restartWdog (Lane.completeDue_none ((Lane.inState_goesOn ..).trans hw))

/-! ### The context file (R126, R127) -/

section
variable {s : State} {l : LaneId} {c : Nat} {ofs : Fin 0x10000}

theorem contextFileWrite_pc (v : Word) (hc : ofs.val / 0x200 = c)
    (hs : (s.ctxOf l c).st = .free ∨ (s.ctxOf l c).st = .halted) (ho : ofs.val % 0x200 = 0x180) :
    ∃ t, exec (.contextFileWrite l ofs v) s = .next t ∧ OnlyCtx l c s t ∧
      t.ctxOf l c = { s.ctxOf l c with pc := v &&& 0xFFFFFFFC } := by
  have hl : (s.lane l).ctxFileWrite ofs v = (s.lane l).modCtx c (fun x => { x with pc := v &&& 0xFFFFFFFC }) := by
    rw [Lane.ctxFileWrite, hc, ho]
    exact if_pos hs
  obtain ⟨ho, hx⟩ := OnlyCtx.of_modCtx (f := fun L => L.ctxFileWrite ofs v) hl
  exact ⟨_, rfl, ho, hx⟩

theorem contextFileWrite_refused (v : Word) (hc : ofs.val / 0x200 = c)
    (hs : (s.ctxOf l c).st = .ready ∨ (s.ctxOf l c).st = .running ∨ (s.ctxOf l c).st = .waiting) :
    ∃ t, exec (.contextFileWrite l ofs v) s = .next t ∧ (∀ d, t.ctxOf l d = s.ctxOf l d) ∧
      (t.lane l).flag 0x40030004 1 = true ∧ OnlyRegs l [0x40030004] s t := by
  have hn : ¬((s.ctxOf l c).st = .free ∨ (s.ctxOf l c).st = .halted) := by
    obtain hs | hs | hs := hs <;> rw [hs] <;> decide
  have hl : (s.modLane l (fun L => L.ctxFileWrite ofs v)).lane l = (s.lane l).setFlag 0x40030004 1 true := by
    rw [State.lane_modLane, Lane.ctxFileWrite, hc]
    exact if_neg hn
  refine ⟨_, rfl, fun d => ?_, ?_, .setFlag hl fun _ => rfl⟩
  · rw [State.ctxOf, hl, Lane.ctx_setFlag, State.ctxOf]
  · rw [hl, Lane.flag_setFlag_self _ _ _ (by decide)]

end

/-- Settles O22: a dispatch, a missed deadline, the debug port's halt and resume, and writes of the context file. -/
theorem schedulerDeadlinesAndDebug : Obligations.SchedulerDeadlinesAndDebug := by
  intro s l c k ofs v L x
  refine ⟨dispatch_nothing, fun hr h ha hf hlt => ?_, fun hp hs hm hd => ?_, debugHalt_halts, fun hh hw hb go => ?_,
    fun hc hs ho => contextFileWrite_pc v hc hs ho, fun hc hs => contextFileWrite_refused v hc hs⟩
  · obtain ⟨t, he, ho, hl⟩ := dispatch_one hr h k.isLt ha hf hlt
    refine ⟨t, he, ho, .of_sameBulk (hl ▸ Lane.sameBulk_onCore ..), ?_, ?_, ?_, ?_, fun d hd => ?_, fun a ha => ?_⟩
    · rw [State.ctxOf, hl, Lane.ctx_onCore_self]
    · rw [State.ctxOf, hl, Lane.ctx_onCore_self]
    · rw [hl, Lane.onCore, Lane.rd_wr_self]
    · rw [State.ctxOf, hl, Lane.ctx_onCore_self]; rfl
    · rw [State.ctxOf, hl, Lane.ctx_onCore_ne _ hd, State.ctxOf]
    · rw [State.reg, hl, Lane.rd_onCore_ne _ (by simpa using ha), State.reg]
  · have hl : (s.modLane l (Lane.missed c)).lane l = (s.lane l).missed c := State.lane_modLane ..
    have hx : (s.modLane l (Lane.missed c)).ctxOf l c = { s.ctxOf l c with missed := true, dlmiss := true } := by
      rw [State.ctxOf, hl, Lane.ctx_missed, State.ctxOf]
    refine ⟨_, execDeadlineMiss_due hp hs hm hd, .modLane l s _, .of_sameBulk (hl ▸ Lane.sameBulk_missed ..), ?_, ?_, ?_,
      ?_, execDeadlineMiss_missed ?_⟩
    · rw [hx]
    · rw [hx]
    · rw [hl, Lane.bitAt_missed _ c.isLt]
    · rw [hl, Lane.rd_missed _ c.isLt]
    · rw [hx]
  · obtain ⟨t, he, ho, hl⟩ := execDebugResume_brk go hh hw hb
    refine ⟨t, he, by rw [hl]; rfl, ho, ?_, fun d hd => ?_, by rw [hl]; rfl⟩
    · rw [State.ctxOf, hl]
      exact ((s.lane l).ctx_goesOn_self c go).trans (by cases go <;> rfl)
    · rw [State.ctxOf, hl]
      exact (s.lane l).ctx_goesOn_ne go hd

end Sys2Proof.Machine
end

