-- ==== Sys2Proof/Proofs/MemoryForms.lean ====
section
/-!
SUPPORT. Lanes with the same memories, and lanes whose memories are in canonical form.
-/

namespace Sys2Proof.Machine

/-- Two lanes have the same memories: SRAM and flash die. -/
@[simp] abbrev Lane.SameMem (L M : Lane) : Prop := M.sram = L.sram ∧ M.flash = L.flash

/-- A lane's memories are in canonical form. -/
def Lane.Canon (L : Lane) : Prop := Memory.wf L.sram = true ∧ Tab.wf L.flash 0xFF = true

@[simp] theorem Lane.sram_ite (p : Prop) [Decidable p] (L M : Lane) :
    (if p then L else M).sram = if p then L.sram else M.sram := apply_ite Lane.sram p L M
@[simp] theorem Lane.flash_ite (p : Prop) [Decidable p] (L M : Lane) :
    (if p then L else M).flash = if p then L.flash else M.flash := apply_ite Lane.flash p L M

@[simp] theorem Lane.fst_ite {β : Type} (p : Prop) [Decidable p] (q r : Lane × β) :
    (if p then q else r).1 = if p then q.1 else r.1 := apply_ite Prod.fst p q r

@[simp] theorem Lane.sameMem_foldl {α : Type} {f : Lane → α → Lane} (hf : ∀ (L : Lane) x, L.SameMem (f L x)) (xs : List α)
    (L : Lane) : L.SameMem (xs.foldl f L) := by
  induction xs generalizing L with
  | nil => exact ⟨rfl, rfl⟩
  | cons x xs ih => rw [List.foldl_cons]; exact ⟨(ih _).1.trans (hf _ _).1, (ih _).2.trans (hf _ _).2⟩

/-- A run of updates that carry a result beside the lane. -/
theorem Lane.sameMem_foldl_fst {α β : Type} {f : Lane × β → α → Lane × β}
    (hf : ∀ (q : Lane × β) x, q.1.SameMem (f q x).1) (xs : List α) (q : Lane × β) : q.1.SameMem (xs.foldl f q).1 := by
  induction xs generalizing q with
  | nil => exact ⟨rfl, rfl⟩
  | cons x xs ih => exact ⟨(ih _).1.trans (hf q x).1, (ih _).2.trans (hf q x).2⟩

theorem Lane.Canon.foldl {α : Type} {f : Lane → α → Lane} (hf : ∀ (L : Lane) x, L.Canon → (f L x).Canon)
    {L : Lane} (xs : List α) (h : L.Canon) : (xs.foldl f L).Canon := by
  induction xs generalizing L with
  | nil => exact h
  | cons x xs ih => exact ih (hf _ _ h)

theorem Lane.SameMem.trans {L M N : Lane} (h : L.SameMem M) (k : M.SameMem N) : L.SameMem N :=
  ⟨k.1.trans h.1, k.2.trans h.2⟩

theorem Lane.Canon.same {L M : Lane} (h : L.Canon) (k : L.SameMem M) : M.Canon := by
  obtain ⟨ks, kf⟩ := k
  rwa [Lane.Canon, ks, kf]

theorem Lane.Canon.ite {p : Prop} [Decidable p] {L M : Lane} (h : L.Canon) (k : M.Canon) :
    (if p then L else M).Canon := by
  split
  · exact h
  · exact k

theorem Lane.Canon.store {L : Lane} (a : Nat) (bs : List Byte) (h : L.Canon) : (L.store a bs).Canon :=
  ⟨Memory.wf_write a bs h.1, h.2⟩

end Sys2Proof.Machine
end

