-- ==== Sys2Proof/Proofs/MemoryFrames.lean ====
section
/-!
SUPPORT. The operations on a lane that leave its SRAM and its flash die alone.
-/

namespace Sys2Proof.Machine

@[simp] theorem Lane.sameMem_wr (L : Lane) (a : Nat) (v : Word) : L.SameMem (L.wr a v) := by
  simp [Lane.wr]

@[simp] theorem Lane.sameMem_setFlag (L : Lane) (a i : Nat) (b : Bool) : L.SameMem (L.setFlag a i b) := by
  simp [Lane.setFlag]

@[simp] theorem Lane.sameMem_bump (L : Lane) (a : Nat) : L.SameMem (L.bump a) := by
  simp [Lane.bump]

@[simp] theorem Lane.sameMem_enqueue (L : Lane) (n d0 d1 : Nat) (d2 : Word) :
    L.SameMem (L.enqueue n d0 d1 d2) := by
  simp [Lane.enqueue]

@[simp] theorem Lane.sameMem_setBitOf (L : Lane) (base n : Nat) (b : Bool) : L.SameMem (L.setBitOf base n b) := by
  simp [Lane.setBitOf]

@[simp] theorem Lane.sameMem_setCtx (L : Lane) (c : Nat) (x : Ctx) : L.SameMem (L.setCtx c x) := by
  simp [Lane.setCtx]

@[simp] theorem Lane.sameMem_modCtx (L : Lane) (c : Nat) (f : Ctx → Ctx) : L.SameMem (L.modCtx c f) := by
  simp [Lane.modCtx]

@[simp] theorem Lane.sameMem_finishWait (L : Lane) (c : Nat) (code : Word) : L.SameMem (L.finishWait c code) := by
  simp [Lane.finishWait]

@[simp] theorem Lane.sameMem_post (L : Lane) (n : Nat) : L.SameMem (L.post n) := by
  fun_cases Lane.post <;> simp

@[simp] theorem Lane.sameMem_raise (L : Lane) (n d0 d1 : Nat) (d2 : Word) : L.SameMem (L.raise n d0 d1 d2) := by
  simp [Lane.raise]

@[simp] theorem Lane.sameMem_setFld (L : Lane) (a lo w v : Nat) : L.SameMem (L.setFld a lo w v) := by
  simp [Lane.setFld]

@[simp] theorem Lane.sameMem_restartWdog (L : Lane) : L.SameMem L.restartWdog := by
  unfold Lane.restartWdog
  simp -implicitDefEqProofs

@[simp] theorem Lane.sameMem_kick (L : Lane) : L.SameMem L.kick := by
  simp [Lane.kick]

@[simp] theorem Lane.sameMem_plainWrite (L : Lane) (a : Nat) (v : Word) : L.SameMem (L.plainWrite a v) := by
  simp [Lane.plainWrite]

@[simp] theorem Lane.sameMem_writeRate (L : Lane) (v : Word) : L.SameMem (L.writeRate v) := by
  simp [Lane.writeRate]

@[simp] theorem Lane.sameMem_setGen (L : Lane) (n : Nat) (g : TpGen) : L.SameMem (L.setGen n g) := by
  simp [Lane.setGen]

@[simp] theorem Lane.sameMem_setPhase (L : Lane) (n : Nat) (p : Rat) : L.SameMem (L.setPhase n p) := by
  unfold Lane.setPhase
  simp -implicitDefEqProofs

@[simp] theorem Lane.sameMem_cableWrite (L : Lane) (a : Nat) (v : Word) : L.SameMem (L.cableWrite a v) := by
  simp [Lane.cableWrite]

@[simp] theorem Lane.sameMem_tpTake (L : Lane) (n : Nat) (v : Word) : L.SameMem (L.tpTake n v) := by
  simp [Lane.tpTake]

@[simp] theorem Lane.sameMem_tpCfgWrite (L : Lane) (n : Nat) (v : Word) : L.SameMem (L.tpCfgWrite n v) := by
  simp [Lane.tpCfgWrite]

@[simp] theorem Lane.sameMem_wr64 (L : Lane) (a n : Nat) : L.SameMem (L.wr64 a n) := by
  simp [Lane.wr64]

@[simp] theorem Lane.sameMem_xsubGo (L : Lane) (i : Nat) : L.SameMem (L.xsubGo i) := by
  unfold Lane.xsubGo
  simp -implicitDefEqProofs

@[simp] theorem Lane.sameMem_xsrcWrite (L : Lane) (i : Nat) (tick : Bool) (v : Word) :
    L.SameMem (L.xsrcWrite i tick v) := by
  simp [Lane.xsrcWrite]

@[simp] theorem Lane.sameMem_busLt (L : Lane) (a : Nat) (v : Word) : L.SameMem (L.busLt a v) := by
  unfold Lane.busLt
  simp -implicitDefEqProofs

@[simp] theorem Lane.sameMem_cmdErr (L : Lane) : L.SameMem L.cmdErr := by
  simp [Lane.cmdErr]

@[simp] theorem Lane.sameMem_start (L : Lane) (t : Nat) : L.SameMem (L.start t) := by
  simp [Lane.start]

@[simp] theorem Lane.sameMem_setQueue (L : Lane) (q : Nat) (ws : List Word) : L.SameMem (L.setQueue q ws) := by
  simp [Lane.setQueue]

@[simp] theorem Lane.sameMem_queueSpace (L : Lane) (q : Nat) : L.SameMem (L.queueSpace q) := by
  unfold Lane.queueSpace
  split <;> simp

@[simp] theorem Lane.sameMem_queuePut (L : Lane) (q : Nat) (w : Word) : L.SameMem (L.queuePut q w) := by
  unfold Lane.queuePut
  split <;> simp

@[simp] theorem Lane.sameMem_setLock (L : Lane) (n : Nat) (k : LockSt) : L.SameMem (L.setLock n k) := by
  simp [Lane.setLock]

@[simp] theorem Lane.sameMem_completeWait (L : Lane) (c : Nat) : L.SameMem (L.completeWait c) := by
  fun_cases Lane.completeWait <;> simp +zetaDelta

@[simp] theorem Lane.sameMem_freeCore (L : Lane) (c : Nat) : L.SameMem (L.freeCore c) := by
  simp [Lane.freeCore]

@[simp] theorem Lane.sameMem_moveTo (L : Lane) (c : Nat) (st : CtxSt) : L.SameMem (L.moveTo c st) := by
  simp [Lane.moveTo]

@[simp] theorem Lane.sameMem_haltCtx (L : Lane) (t : Nat) : L.SameMem (L.haltCtx t) := by
  simp [Lane.haltCtx]

@[simp] theorem Lane.sameMem_resume (L : Lane) (t : Nat) : L.SameMem (L.resume t) := by
  simp [Lane.resume]

@[simp] theorem Lane.sameMem_passLock (L : Lane) (n : Nat) (ab : Bool) : L.SameMem (L.passLock n ab) := by
  unfold Lane.passLock
  split <;> simp

@[simp] theorem Lane.sameMem_dropLocks (L : Lane) (c : Nat) : L.SameMem (L.dropLocks c) := by
  simp [Lane.dropLocks]

@[simp] theorem Lane.sameMem_kill (L : Lane) (t : Nat) : L.SameMem (L.kill t) := by
  simp [Lane.kill]

@[simp] theorem Lane.sameMem_ctxCmd (L : Lane) (v : Word) : L.SameMem (L.ctxCmd v) := by
  unfold Lane.ctxCmd
  split <;> simp

@[simp] theorem Lane.sameMem_bankOwner (L : Lane) (k own : Nat) : L.SameMem (L.bankOwner k own) := by
  simp [Lane.bankOwner]

@[simp] theorem Lane.sameMem_secLoad (L : Lane) : L.SameMem L.secLoad := by
  simp [Lane.secLoad]

@[simp] theorem Lane.sameMem_setWin (L : Lane) (x y : Int) : L.SameMem (L.setWin x y) := by
  unfold Lane.setWin
  simp -implicitDefEqProofs

@[simp] theorem Lane.sameMem_refused (L : Lane) : L.SameMem L.refused := by
  simp [Lane.refused]

@[simp] theorem Lane.sameMem_setTile (L : Lane) (k st : Nat) : L.SameMem (L.setTile k st) := by
  simp [Lane.setTile]

@[simp] theorem Lane.sameMem_setLayer (L : Lane) (k : Nat) (y : Layer) : L.SameMem (L.setLayer k y) := by
  simp [Lane.setLayer]

@[simp] theorem Lane.sameMem_fieldWrite (L : Lane) (v : Word) : L.SameMem (L.fieldWrite v) := by
  simp [Lane.fieldWrite]

@[simp] theorem Lane.sameMem_setRx (L : Lane) (k st reason : Nat) : L.SameMem (L.setRx k st reason) := by
  simp [Lane.setRx]

@[simp] theorem Lane.sameMem_rxActivate (L : Lane) (k : Nat) : L.SameMem (L.rxActivate k) := by
  simp [Lane.rxActivate]

@[simp] theorem Lane.sameMem_rxDeactivate (L : Lane) (k : Nat) : L.SameMem (L.rxDeactivate k) := by
  simp [Lane.rxDeactivate]

@[simp] theorem Lane.sameMem_rxCmd (L : Lane) (v : Word) : L.SameMem (L.rxCmd v) := by
  unfold Lane.rxCmd
  split <;> simp

@[simp] theorem Lane.sameMem_setBin (L : Lane) (i : Nat) (b : BinSt) : L.SameMem (L.setBin i b) := by
  simp [Lane.setBin]

@[simp] theorem Lane.sameMem_binStale (L : Lane) (i : Nat) (b : Bool) : L.SameMem (L.binStale i b) := by
  simp [Lane.binStale]

@[simp] theorem Lane.sameMem_binSub (L : Lane) (i : Nat) : L.SameMem (L.binSub i) := by
  simp [Lane.binSub]

@[simp] theorem Lane.sameMem_send (L : Lane) (m : LinkMsg) : L.SameMem (L.send m) := by
  simp [Lane.send]

@[simp] theorem Lane.sameMem_prsSub (L : Lane) : L.SameMem L.prsSub := by
  simp [Lane.prsSub]

@[simp] theorem Lane.sameMem_meterLoad (L : Lane) : L.SameMem L.meterLoad := by
  simp [Lane.meterLoad]

@[simp] theorem Lane.sameMem_setQuality (L : Lane) (q : Nat) (ok : Bool) : L.SameMem (L.setQuality q ok) := by
  simp [Lane.setQuality]

@[simp] theorem Lane.sameMem_imuOff (L : Lane) : L.SameMem L.imuOff := by
  simp [Lane.imuOff]

@[simp] theorem Lane.sameMem_checkNoPc (L : Lane) : L.SameMem L.checkNoPc := by
  unfold Lane.checkNoPc
  simp -implicitDefEqProofs

@[simp] theorem Lane.sameMem_fusCtrl (L : Lane) (v : Word) : L.SameMem (L.fusCtrl v) := by
  simp [Lane.fusCtrl]

@[simp] theorem Lane.sameMem_orgGo (L : Lane) : L.SameMem L.orgGo := by
  unfold Lane.orgGo
  simp -implicitDefEqProofs

@[simp] theorem Lane.sameMem_unalign (L : Lane) (i : Nat) : L.SameMem (L.unalign i) := by
  simp [Lane.unalign]

@[simp] theorem Lane.sameMem_srcConsistent (L : Lane) (i : Nat) (ok : Bool) :
    L.SameMem (L.srcConsistent i ok) := by
  simp [Lane.srcConsistent]

@[simp] theorem Lane.sameMem_setSlot (L : Lane) (i : Nat) (x : FusSlot) : L.SameMem (L.setSlot i x) := by
  simp [Lane.setSlot]

@[simp] theorem Lane.sameMem_addInput (L : Lane) (x : FusIn) : L.SameMem (L.addInput x) := by
  simp [Lane.addInput]

@[simp] theorem Lane.sameMem_addPcInput (L : Lane) (x : FusIn) : L.SameMem (L.addPcInput x) := by
  simp [Lane.addPcInput]

@[simp] theorem Lane.sameMem_acceptSample (L : Lane) (i kind stamp : Nat) (d : List Word) :
    L.SameMem (L.acceptSample i kind stamp d) := by
  simp [Lane.acceptSample]

@[simp] theorem Lane.sameMem_fusSubmit (L : Lane) (i : Nat) : L.SameMem (L.fusSubmit i) := by
  simp [Lane.fusSubmit]

@[simp] theorem Lane.sameMem_srcWrite (L : Lane) (i : Nat) (v : Word) : L.SameMem (L.srcWrite i v) := by
  simp [Lane.srcWrite]

@[simp] theorem Lane.sameMem_calCtrl (L : Lane) (v : Word) : L.SameMem (L.calCtrl v) := by
  simp [Lane.calCtrl]

@[simp] theorem Lane.sameMem_busFus (L : Lane) (a : Nat) (v : Word) : L.SameMem (L.busFus a v) := by
  simp [Lane.busFus]

@[simp] theorem Lane.sameMem_trkCtrl (L : Lane) (v : Word) : L.SameMem (L.trkCtrl v) := by
  simp [Lane.trkCtrl]

@[simp] theorem Lane.sameMem_modGns (L : Lane) (f : Gns → Gns) : L.SameMem (L.modGns f) := by
  simp [Lane.modGns]

@[simp] theorem Lane.sameMem_deselect (L : Lane) : L.SameMem L.deselect := by
  unfold Lane.deselect
  split <;> simp

@[simp] theorem Lane.sameMem_useFree (L : Lane) : L.SameMem L.useFree := by
  simp [Lane.useFree]

@[simp] theorem Lane.sameMem_engRead (L : Lane) (m : Master) (a n : Nat) : L.SameMem (L.engRead m a n).2 := by
  unfold Lane.engRead
  split <;> simp

@[simp] theorem Lane.sameMem_gnssStart (L : Lane) : L.SameMem L.gnssStart := by
  simp [Lane.gnssStart]

@[simp] theorem Lane.sameMem_gnssStop (L : Lane) : L.SameMem L.gnssStop := by
  unfold Lane.gnssStop
  simp -implicitDefEqProofs

@[simp] theorem Lane.sameMem_notchWrite (L : Lane) (m : Nat) (v : Word) : L.SameMem (L.notchWrite m v) := by
  simp [Lane.notchWrite]

@[simp] theorem Lane.sameMem_corrData (L : Lane) (v : Word) : L.SameMem (L.corrData v) := by
  simp [Lane.corrData]

@[simp] theorem Lane.sameMem_corrGo (L : Lane) (v : Word) : L.SameMem (L.corrGo v) := by
  simp [Lane.corrGo]

@[simp] theorem Lane.sameMem_modLkp (L : Lane) (f : Lkp → Lkp) : L.SameMem (L.modLkp f) := by
  simp [Lane.modLkp]

@[simp] theorem Lane.sameMem_lkStop (L : Lane) (cause : Nat) : L.SameMem (L.lkStop cause) := by
  simp [Lane.lkStop]

@[simp] theorem Lane.sameMem_lkStopClr (L : Lane) : L.SameMem L.lkStopClr := by
  simp [Lane.lkStopClr]

@[simp] theorem Lane.sameMem_lkCtrlWrite (L : Lane) (v : Word) : L.SameMem (L.lkCtrlWrite v) := by
  simp [Lane.lkCtrlWrite]

@[simp] theorem Lane.sameMem_impSub (L : Lane) : L.SameMem L.impSub := by
  simp [Lane.impSub]

@[simp] theorem Lane.sameMem_actUWrite (L : Lane) (a : Nat) (v : Word) : L.SameMem (L.actUWrite a v) := by
  simp [Lane.actUWrite]

@[simp] theorem Lane.sameMem_busLkp (L : Lane) (a : Nat) (v : Word) : L.SameMem (L.busLkp a v) := by
  simp [Lane.busLkp]

@[simp] theorem Lane.sameMem_tblWrite (L : Lane) (a : Nat) (v : Word) : L.SameMem (L.tblWrite a v) := by
  simp [Lane.tblWrite]

@[simp] theorem Lane.sameMem_sendCmd (L : Lane) (unit at_ : Nat) (act : PulseAct) (curd : Option Nat) :
    L.SameMem (L.sendCmd unit at_ act curd) := by
  simp [Lane.sendCmd]

@[simp] theorem Lane.sameMem_endCoast (L : Lane) (e : Coast) : L.SameMem (L.endCoast e) := by
  simp [Lane.endCoast]

@[simp] theorem Lane.sameMem_setEnc (L : Lane) (n : Nat) (e : EncSt) : L.SameMem (L.setEnc n e) := by
  simp [Lane.setEnc]

@[simp] theorem Lane.sameMem_encCfg (L : Lane) (n : Nat) (v : Word) : L.SameMem (L.encCfg n v) := by
  simp [Lane.encCfg]

@[simp] theorem Lane.sameMem_encZcfg (L : Lane) (n : Nat) (v : Word) : L.SameMem (L.encZcfg n v) := by
  simp [Lane.encZcfg]

@[simp] theorem Lane.sameMem_countWrite (L : Lane) (n : Nat) (v : Word) : L.SameMem (L.countWrite n v) := by
  simp [Lane.countWrite]

@[simp] theorem Lane.sameMem_absCfg (L : Lane) (p : Nat) (v : Word) : L.SameMem (L.absCfg p v) := by
  simp [Lane.absCfg]

@[simp] theorem Lane.sameMem_busEnc (L : Lane) (a : Nat) (v : Word) : L.SameMem (L.busEnc a v) := by
  simp [Lane.busEnc]

@[simp] theorem Lane.sameMem_setCan (L : Lane) (c : Nat) (x : CanSt) : L.SameMem (L.setCan c x) := by
  simp [Lane.setCan]

@[simp] theorem Lane.sameMem_canWithdraw (L : Lane) (c : Nat) : L.SameMem (L.canWithdraw c) := by
  simp [Lane.canWithdraw]

@[simp] theorem Lane.sameMem_canMode (L : Lane) (c was now : Nat) : L.SameMem (L.canMode c was now) := by
  simp [Lane.canMode]

@[simp] theorem Lane.sameMem_strRelease (L : Lane) (c k : Nat) (v : Word) : L.SameMem (L.strRelease c k v) := by
  simp [Lane.strRelease]

@[simp] theorem Lane.sameMem_refusedAt (L : Lane) (a : Nat) : L.SameMem (L.refusedAt a) := by
  simp [Lane.refusedAt]

@[simp] theorem Lane.sameMem_mramErr (L : Lane) (c : Nat) : L.SameMem (L.mramErr c) := by
  simp [Lane.mramErr]

@[simp] theorem Lane.sameMem_canCount (L : Lane) (c res : Nat) : L.SameMem (L.canCount c res) := by
  unfold Lane.canCount
  split <;> simp

@[simp] theorem Lane.sameMem_txrAdvance (L : Lane) (c : Nat) : L.SameMem (L.txrAdvance c) := by
  simp [Lane.txrAdvance]

@[simp] theorem Lane.sameMem_canRelease (L : Lane) (c src : Nat) : L.SameMem (L.canRelease c src) := by
  simp [Lane.canRelease]

@[simp] theorem Lane.sameMem_canAbort (L : Lane) (c : Nat) (v : Word) : L.SameMem (L.canAbort c v) := by
  simp [Lane.canAbort]

@[simp] theorem Lane.sameMem_canFlush (L : Lane) (c : Nat) (v : Word) : L.SameMem (L.canFlush c v) := by
  simp [Lane.canFlush]

@[simp] theorem Lane.sameMem_setEth (L : Lane) (n : Nat) (x : EthSt) : L.SameMem (L.setEth n x) := by
  simp [Lane.setEth]

@[simp] theorem Lane.sameMem_ethDown (L : Lane) (n : Nat) : L.SameMem (L.ethDown n) := by
  simp [Lane.ethDown]

@[simp] theorem Lane.sameMem_ethCfg (L : Lane) (n : Nat) (v : Word) : L.SameMem (L.ethCfg n v) := by
  simp [Lane.ethCfg]

@[simp] theorem Lane.sameMem_dmaErr (L : Lane) (n a : Nat) : L.SameMem (L.dmaErr n a) := by
  simp [Lane.dmaErr]

@[simp] theorem Lane.sameMem_modVault (L : Lane) (f : Vault → Vault) : L.SameMem (L.modVault f) := by
  simp [Lane.modVault]

@[simp] theorem Lane.sameMem_enrGo (L : Lane) (v : Word) : L.SameMem (L.enrGo v) := by
  simp [Lane.enrGo]

@[simp] theorem Lane.sameMem_wrRef (L : Lane) : L.SameMem L.wrRef := by
  simp [Lane.wrRef]

@[simp] theorem Lane.sameMem_readNowLo (L : Lane) (c : Nat) : L.SameMem (L.readNowLo c).2 := by
  simp [Lane.readNowLo]

@[simp] theorem Lane.sameMem_readGtLo (L : Lane) (c : Nat) : L.SameMem (L.readGtLo c).2 := by
  unfold Lane.readGtLo
  split <;> simp

@[simp] theorem Lane.sameMem_capture (L : Lane) (c : Nat) (addrs : List Nat) : L.SameMem (L.capture c addrs) := by
  simp [Lane.capture]

@[simp] theorem Lane.sameMem_ncRead (L : Lane) (c : Nat) : L.SameMem (L.ncRead c) := by
  simp [Lane.ncRead]

@[simp] theorem Lane.sameMem_pcRead (L : Lane) (c : Nat) : L.SameMem (L.pcRead c) := by
  simp [Lane.pcRead]

@[simp] theorem Lane.sameMem_solRead (L : Lane) (c : Nat) : L.SameMem (L.solRead c) := by
  simp [Lane.solRead]

@[simp] theorem Lane.sameMem_rateRead (L : Lane) (c n : Nat) : L.SameMem (L.rateRead c n) := by
  simp [Lane.rateRead]

@[simp] theorem Lane.sameMem_zcapRead (L : Lane) (c n : Nat) : L.SameMem (L.zcapRead c n) := by
  simp [Lane.zcapRead]

@[simp] theorem Lane.sameMem_setChal (L : Lane) (bs : List Byte) : L.SameMem (L.setChal bs) := by
  simp [Lane.setChal]

@[simp] theorem Lane.sameMem_issueChal (L : Lane) (l : LaneId) : L.SameMem (L.issueChal l) := by
  simp [Lane.issueChal]

@[simp] theorem Lane.sameMem_plainAfter (L : Lane) (a : Nat) : L.SameMem (L.plainAfter a) := by
  simp [Lane.plainAfter]

@[simp] theorem Lane.sameMem_busAfter (L : Lane) (l : LaneId) (c a : Nat) : L.SameMem (L.busAfter l c a) := by
  simp [Lane.busAfter]

@[simp] theorem Lane.sameMem_imuCompare (L : Lane) (l : LaneId) (stamp : Nat) (w other_ : List Word) :
    L.SameMem (L.imuCompare l stamp w other_) := by
  unfold Lane.imuCompare
  split <;> simp

@[simp] theorem Lane.sameMem_imuArrive (L : Lane) (l : LaneId) (which stamp : Nat) (w : List Word) :
    L.SameMem (L.imuArrive l which stamp w) := by
  simp [Lane.imuArrive]

@[simp] theorem Lane.sameMem_setEnt (L : Lane) (e : Nat) (x : CurdE) : L.SameMem (L.setEnt e x) := by
  simp [Lane.setEnt]

@[simp] theorem Lane.sameMem_freeEnt (L : Lane) (e res : Nat) : L.SameMem (L.freeEnt e res) := by
  simp [Lane.freeEnt]

@[simp] theorem Lane.sameMem_mapEdges (L : Lane) (f : EdgeH → EdgeH) : L.SameMem (L.mapEdges f) := by
  simp [Lane.mapEdges]

@[simp] theorem Lane.sameMem_markEdge (L : Lane) (key st : Nat) : L.SameMem (L.markEdge key st) := by
  simp [Lane.markEdge]

@[simp] theorem Lane.sameMem_spxLinkDown (L : Lane) : L.SameMem L.spxLinkDown := by
  simp [Lane.spxLinkDown]

@[simp] theorem Lane.sameMem_takeMirror (L : Lane) (hs : List EdgeH) : L.SameMem (L.takeMirror hs) := by
  simp [Lane.takeMirror]

@[simp] theorem Lane.sameMem_bumpFld (L : Lane) (a lo w : Nat) : L.SameMem (L.bumpFld a lo w) := by
  simp [Lane.bumpFld]

@[simp] theorem Lane.sameMem_setLoop (L : Lane) (k : Nat) (x : LoopSt) : L.SameMem (L.setLoop k x) := by
  simp [Lane.setLoop]

@[simp] theorem Lane.sameMem_putSp (L : Lane) (k t : Nat) (v : Word) : L.SameMem (L.putSp k t v) := by
  simp [Lane.putSp]

@[simp] theorem Lane.sameMem_meterSp (L : Lane) (k t : Nat) (v : Word) : L.SameMem (L.meterSp k t v) := by
  simp [Lane.meterSp]

@[simp] theorem Lane.sameMem_recheckMeters (L : Lane) : L.SameMem L.recheckMeters := by
  simp [Lane.recheckMeters]

@[simp] theorem Lane.sameMem_setNz (L : Lane) (n : Nat) (z : NozSt) : L.SameMem (L.setNz n z) := by
  simp [Lane.setNz]

@[simp] theorem Lane.sameMem_takeLearned (L : Lane) : L.SameMem L.takeLearned := by
  simp [Lane.takeLearned]

@[simp] theorem Lane.sameMem_checkMeters (L : Lane) : L.SameMem L.checkMeters := by
  fun_cases Lane.checkMeters <;> simp +zetaDelta

@[simp] theorem Lane.sameMem_takeLayers (L : Lane) : L.SameMem L.takeLayers := by
  refine Lane.sameMem_foldl (fun M k => ?_) _ L
  dsimp only
  split <;> simp

@[simp] theorem Lane.sameMem_checkExclusion (L : Lane) : L.SameMem L.checkExclusion := by
  unfold Lane.checkExclusion
  extract_lets sel c M
  have noted : L.SameMem M := ⟨rfl, rfl⟩
  clear_value M
  split
  · simp
  · split
    · exact noted.trans (Lane.sameMem_setFlag ..)
    · exact noted.trans ((Lane.sameMem_setFlag ..).trans (Lane.sameMem_raise ..))

@[simp] theorem Lane.sameMem_takePressure (L : Lane) (t0 : Nat) : L.SameMem (L.takePressure t0) := by
  unfold Lane.takePressure
  dsimp only
  split <;> split <;> simp

@[simp] theorem Lane.sameMem_setSeg (L : Lane) (g : Nat) (e : List Rat) : L.SameMem (L.setSeg g e) := by
  simp [Lane.setSeg]

@[simp] theorem Lane.sameMem_blendSegment (L : Lane) (t0 g : Nat) (cal : Nat → Rat) :
    L.SameMem (L.blendSegment t0 g cal) := by
  simp [Lane.blendSegment]

@[simp] theorem Lane.sameMem_takeBoom (L : Lane) (t0 : Nat) : L.SameMem (L.takeBoom t0) := by
  simp [Lane.takeBoom]

@[simp] theorem Lane.sameMem_blend (L : Lane) (t0 : Nat) (cal : Nat → Rat) : L.SameMem (L.blend t0 cal) := by
  simp [Lane.blend]

@[simp] theorem Lane.sameMem_nozzleDelays (L : Lane) (n : Nat) : L.SameMem (L.nozzleDelays n) := by
  simp [Lane.nozzleDelays]

@[simp] theorem Lane.sameMem_noteConfidence (L : Lane) (n : Nat) : L.SameMem (L.noteConfidence n) := by
  simp [Lane.noteConfidence]

@[simp] theorem Lane.sameMem_takeConditions (L : Lane) : L.SameMem L.takeConditions := by
  simp [Lane.takeConditions]

@[simp] theorem Lane.sameMem_dropEdge (L : Lane) (e : SecEdge) (base : Bool) : L.SameMem (L.dropEdge e base) := by
  simp [Lane.dropEdge]

@[simp] theorem Lane.sameMem_addEdge (L : Lane) (ch at_ : Nat) (level : Bool) (st key dly : Nat) :
    L.SameMem (L.addEdge ch at_ level st key dly) := by
  simp [Lane.addEdge]

@[simp] theorem Lane.sameMem_compensate (L : Lane) (e : CurdE) (key t : Nat) :
    L.SameMem (L.compensate e key t).2.2 := by
  fun_cases Lane.compensate <;> simp +zetaDelta

@[simp] theorem Lane.sameMem_noteSet (L : Lane) (h : EdgeH) : L.SameMem (L.noteSet h) := by
  simp [Lane.noteSet]

@[simp] theorem Lane.sameMem_noteOcc (L : Lane) (was : Nat) : L.SameMem (L.noteOcc was) := by
  unfold Lane.noteOcc
  simp -implicitDefEqProofs

@[simp] theorem Lane.sameMem_curd (L : Lane) (ch : Nat) (level pwm : Bool) (at_ dl src dly : Nat) :
    L.SameMem (L.curd ch level pwm at_ dl src dly).2 := by
  fun_cases Lane.curd <;> simp +zetaDelta -implicitDefEqProofs

@[simp] theorem Lane.sameMem_issueEdge (L : Lane) (acc : Said) (n tc te : Nat) (level late : Bool) :
    L.SameMem (L.issueEdge acc n tc te level late).1 := by
  fun_cases Lane.issueEdge <;> simp +zetaDelta -implicitDefEqProofs

@[simp] theorem Lane.sameMem_issueAll (L : Lane) (acc : Said) (n t0 : Nat) (cs : List (Nat × Bool)) :
    L.SameMem (L.issueAll acc n t0 cs).1 :=
  Lane.sameMem_foldl_fst (fun a c => by simp) _ _

@[simp] theorem Lane.sameMem_once67 (L : Lane) (said : Said) (kind n : Nat) :
    L.SameMem (L.once67 said kind n).1 := by
  unfold Lane.once67
  split <;> simp

@[simp] theorem Lane.sameMem_setSat (L : Lane) (n : Nat) (b : Bool) : L.SameMem (L.setSat n b) := by
  simp [Lane.setSat]

@[simp] theorem Lane.sameMem_duty (L : Lane) (acc : Said) (n : Nat) : L.SameMem (L.duty acc n).1 := by
  unfold Lane.duty
  simp -implicitDefEqProofs

@[simp] theorem Lane.sameMem_meter (L : Lane) (acc : Said) (i : Nat) : L.SameMem (L.meter acc i).1 := by
  unfold Lane.meter
  simp -implicitDefEqProofs

@[simp] theorem Lane.sameMem_checkFlows (L : Lane) (t0 : Nat) : L.SameMem (L.checkFlows t0) := by
  simp [Lane.checkFlows]

@[simp] theorem Lane.sameMem_metering (L : Lane) (t0 : Nat) : L.SameMem (L.metering t0) := by
  unfold Lane.metering
  extract_lets q r
  have duties : L.SameMem q.1 := Lane.sameMem_foldl_fst (fun a n => Lane.sameMem_duty ..) _ _
  have meters : q.1.SameMem r.1 := Lane.sameMem_foldl_fst (fun a i => Lane.sameMem_meter ..) _ _
  exact duties.trans (meters.trans (Lane.sameMem_checkFlows ..))

@[simp] theorem Lane.sameMem_notePoint (L : Lane) (n t0 : Nat) : L.SameMem (L.notePoint n t0) := by
  simp [Lane.notePoint]

@[simp] theorem Lane.sameMem_paintedOutside (L : Lane) (n : Nat) : L.SameMem (L.paintedOutside n) := by
  unfold Lane.paintedOutside
  simp -implicitDefEqProofs

@[simp] theorem Lane.sameMem_joinTime (L P : Lane) (up : Bool) : L.SameMem (L.joinTime P up) := by
  simp [Lane.joinTime]

@[simp] theorem Lane.sameMem_bankTested (L : Lane) (t : SramNo × BitVec 9) : L.SameMem (L.bankTested t) := by
  simp [Lane.bankTested]

@[simp] theorem Lane.sameMem_startSupervisor (L : Lane) (entry : Word) : L.SameMem (L.startSupervisor entry) := by
  simp [Lane.startSupervisor]

@[simp] theorem Lane.sameMem_startFill (L : Lane) : L.SameMem L.startFill := by
  simp [Lane.startFill]

@[simp] theorem Lane.sameMem_netPower (L : Lane) (p t : Nat) : L.SameMem (L.netPower p t) := by
  simp [Lane.netPower]

@[simp] theorem Lane.sameMem_gnssWake (t : Nat) (L : Lane) : L.SameMem (L.gnssWake t) := by
  simp [Lane.gnssWake]

@[simp] theorem Lane.sameMem_takeRate (L : Lane) : L.SameMem L.takeRate := by
  simp [Lane.takeRate]

@[simp] theorem Lane.sameMem_enterHoldover (sigma : Rat) (L : Lane) : L.SameMem (L.enterHoldover sigma) := by
  simp [Lane.enterHoldover]

@[simp] theorem Lane.sameMem_tpSuppress (L : Lane) (n : Nat) : L.SameMem (L.tpSuppress n) := by
  simp [Lane.tpSuppress]

@[simp] theorem Lane.sameMem_slewPhase (L : Lane) (n : Nat) : L.SameMem (L.slewPhase n) := by
  simp [Lane.slewPhase]

@[simp] theorem Lane.sameMem_tpLead (L : Lane) (n : Nat) (k : Int) : L.SameMem (L.tpLead n k) := by
  unfold Lane.tpLead
  dsimp only
  split <;> simp

@[simp] theorem Lane.sameMem_giveCore (L : Lane) (k c : Nat) : L.SameMem (L.giveCore k c) := by
  simp [Lane.giveCore]

@[simp] theorem Lane.sameMem_dispatch (L : Lane) (cs given : List Nat) : L.SameMem (L.dispatch cs given) := by
  induction cs generalizing L given with
  | nil => simp [Lane.dispatch]
  | cons c cs ih =>
    unfold Lane.dispatch
    split
    · exact (Lane.sameMem_giveCore ..).trans (ih ..)
    · exact ih ..

@[simp] theorem Lane.sameMem_debugHalt (L : Lane) : L.SameMem L.debugHalt := by
  simp [Lane.debugHalt]

@[simp] theorem Lane.sameMem_completeDue (L : Lane) : L.SameMem L.completeDue := by
  simp [Lane.completeDue]

@[simp] theorem Lane.sameMem_ctxFileWrite (L : Lane) (ofs : Nat) (v : Word) :
    L.SameMem (L.ctxFileWrite ofs v) := by
  simp [Lane.ctxFileWrite]

@[simp] theorem Lane.sameMem_spxTake (L : Lane) : L.SameMem L.spxTake := by
  simp [Lane.spxTake]

@[simp] theorem Lane.sameMem_setLoopAcc (L : Lane) (k p : Nat) (v : Word) : L.SameMem (L.setLoopAcc k p v) := by
  simp [Lane.setLoopAcc]

@[simp] theorem Lane.sameMem_loopWrite (L : Lane) (k p : Nat) (v : Word) : L.SameMem (L.loopWrite k p v) := by
  simp [Lane.loopWrite]

@[simp] theorem Lane.sameMem_loopClrf (L : Lane) (k : Nat) : L.SameMem (L.loopClrf k) := by
  simp [Lane.loopClrf]

@[simp] theorem Lane.sameMem_loopRegs (L : Lane) : L.SameMem L.loopRegs := by
  unfold Lane.loopRegs
  simp -implicitDefEqProofs

@[simp] theorem Lane.sameMem_loopStart (L : Lane) (k : Nat) : L.SameMem (L.loopStart k) := by
  simp [Lane.loopStart]

@[simp] theorem Lane.sameMem_lpeTake (L : Lane) (n : Nat) : L.SameMem (L.lpeTake n) := by
  simp [Lane.lpeTake]

@[simp] theorem Lane.sameMem_ctxFault (L : Lane) (c : Nat) (pc : Word) (cause : Nat) (addr : Option Word) :
    L.SameMem (L.ctxFault c pc cause addr) := by
  simp [Lane.ctxFault]

@[simp] theorem Lane.sameMem_lkQueue (L : Lane) : L.SameMem L.lkQueue := by
  unfold Lane.lkQueue
  split <;> simp

@[simp] theorem Lane.sameMem_lkFailures (L : Lane) : L.SameMem L.lkFailures := by
  simp [Lane.lkFailures]

@[simp] theorem Lane.sameMem_issueOut (L : Lane) (tk j : Nat) (u : Rat) : L.SameMem (L.issueOut tk j u) := by
  simp [Lane.issueOut]

@[simp] theorem Lane.sameMem_lkLate (L : Lane) (tk : Nat) : L.SameMem (L.lkLate tk) := by
  unfold Lane.lkLate
  simp -implicitDefEqProofs

@[simp] theorem Lane.sameMem_lkGiveUp (L : Lane) (tk : Nat) : L.SameMem (L.lkGiveUp tk) := by
  simp [Lane.lkGiveUp]

@[simp] theorem Lane.sameMem_wrWords (L : Lane) (a : Nat) (ws : List Word) : L.SameMem (L.wrWords a ws) := by
  simp [Lane.wrWords]

@[simp] theorem Lane.sameMem_lkResiduals (L : Lane) (tk : Nat) (tau res : List Rat) :
    L.SameMem (L.lkResiduals tk tau res) := by
  unfold Lane.lkResiduals
  simp -implicitDefEqProofs

@[simp] theorem Lane.sameMem_lkFinish (L : Lane) (z : LkSolve) : L.SameMem (L.lkFinish z) := by
  simp [Lane.lkFinish]

@[simp] theorem Lane.sameMem_lkNext (L : Lane) (z : LkSolve) : L.SameMem (L.lkNext z) := by
  simp [Lane.lkNext]

@[simp] theorem Lane.sameMem_lkMatrixDone (L : Lane) (t : Word) (st : Nat) : L.SameMem (L.lkMatrixDone t st) := by
  unfold Lane.lkMatrixDone
  split <;> simp

@[simp] theorem Lane.sameMem_resnap (L old : Lane) : L.SameMem (L.resnap old) := by
  simp [Lane.resnap]

@[simp] theorem Lane.sameMem_corrected (L : Lane) (a : Nat) : L.SameMem (L.corrected a) := by
  unfold Lane.corrected
  simp -implicitDefEqProofs

@[simp] theorem Lane.sameMem_ueAddr (L : Lane) (a : Nat) : L.SameMem (L.ueAddr a) := by
  unfold Lane.ueAddr
  simp -implicitDefEqProofs

@[simp] theorem Lane.sameMem_eccAccess (L : Lane) (a n : Nat) : L.SameMem (L.eccAccess a n).1 := by
  refine Lane.sameMem_foldl_fst (fun acc i => ?_) _ _
  dsimp only
  split <;> simp

@[simp] theorem Lane.sameMem_collide (L : Lane) (a m : Nat) : L.SameMem (L.collide a m) := by
  unfold Lane.collide
  simp -implicitDefEqProofs

@[simp] theorem Lane.sameMem_ctxFileStore (L : Lane) (o : Nat) (bs : List Byte) :
    L.SameMem (L.ctxFileStore o bs) := by
  simp [Lane.ctxFileStore]

@[simp] theorem Lane.sameMem_goOn (L : Lane) (c rd : Nat) (v : Word) : L.SameMem (L.goOn c rd v) := by
  simp [Lane.goOn]

@[simp] theorem Lane.sameMem_beginWait (L : Lane) (c : Nat) (w : Wait) : L.SameMem (L.beginWait c w) := by
  simp [Lane.beginWait]

@[simp] theorem Lane.sameMem_setCalFlag (L : Lane) (i : Nat) (b : Bool) : L.SameMem (L.setCalFlag i b) := by
  simp [Lane.setCalFlag]

@[simp] theorem Lane.sameMem_setConverged (L : Lane) (i : Nat) (b : Bool) : L.SameMem (L.setConverged i b) := by
  simp [Lane.setConverged]

@[simp] theorem Lane.sameMem_putConverged (L : Lane) (l : LaneId) (i : Nat) (ok : Bool) :
    L.SameMem (L.putConverged l i ok) := by
  simp [Lane.putConverged]

@[simp] theorem Lane.sameMem_setCal (L : Lane) (i : Nat) (p : CalPar) : L.SameMem (L.setCal i p) := by
  simp [Lane.setCal]

@[simp] theorem Lane.sameMem_calLoadNow (L : Lane) (l : LaneId) : L.SameMem (L.calLoadNow l).1 := by
  unfold Lane.calLoadNow
  split
  · simp
  · dsimp only
    split <;> simp -implicitDefEqProofs

@[simp] theorem Lane.sameMem_takeOrigin (L : Lane) : L.SameMem L.takeOrigin := by
  simp [Lane.takeOrigin]

@[simp] theorem Lane.sameMem_ownInput (L : Lane) (t0 kind slot : Nat) (data : List Word) (par : List Rat) :
    L.SameMem (L.ownInput t0 kind slot data par) := by
  simp [Lane.ownInput]

@[simp] theorem Lane.sameMem_enterAll (L : Lane) (l : LaneId) (t0 : Nat) : L.SameMem (L.enterAll l t0) := by
  simp [Lane.enterAll]

@[simp] theorem Lane.sameMem_initAttitude (L : Lane) (t0 : Nat) : L.SameMem (L.initAttitude t0) := by
  fun_cases Lane.initAttitude <;> simp +zetaDelta

@[simp] theorem Lane.sameMem_gateReport (L : Lane) (tested : List (FusIn × Bool × Bool)) (inc : List Nat) :
    L.SameMem (L.gateReport tested inc) := by
  unfold Lane.gateReport
  simp -implicitDefEqProofs

@[simp] theorem Lane.sameMem_markNc (L : Lane) (t0 : Nat) : L.SameMem (L.markNc t0) := by
  unfold Lane.markNc
  simp -implicitDefEqProofs

@[simp] theorem Lane.sameMem_trimInputs (L : Lane) (t0 : Nat) : L.SameMem (L.trimInputs t0) := by
  simp [Lane.trimInputs]

@[simp] theorem Lane.sameMem_calRefine (L : Lane) (i : Nat) (d sg : Rat) : L.SameMem (L.calRefine i d sg) := by
  unfold Lane.calRefine
  simp -implicitDefEqProofs

@[simp] theorem Lane.sameMem_calConverge (L : Lane) (l : LaneId) (i : Nat) : L.SameMem (L.calConverge l i) := by
  simp [Lane.calConverge]

@[simp] theorem Lane.sameMem_calCond (L : Lane) (l : LaneId) : L.SameMem (L.calCond l) := by
  simp [Lane.calCond]

@[simp] theorem Lane.sameMem_calCycle (L : Lane) (l : LaneId) (t0 : Nat) (st : List Rat) :
    L.SameMem (L.calCycle l t0 st) := by
  simp [Lane.calCycle]

@[simp] theorem Lane.sameMem_loseReplay (L : Lane) : L.SameMem L.loseReplay := by
  simp [Lane.loseReplay]

@[simp] theorem Lane.sameMem_reportDrops (L : Lane) : L.SameMem L.reportDrops := by
  simp [Lane.reportDrops]

@[simp] theorem Lane.sameMem_comparePeer (L : Lane) : L.SameMem L.comparePeer := by
  unfold Lane.comparePeer
  split <;> simp

@[simp] theorem Lane.sameMem_takePeer (L : Lane) (p : Option (Nat × Int × Int)) : L.SameMem (L.takePeer p) := by
  simp [Lane.takePeer]

@[simp] theorem Lane.sameMem_markPc (L : Lane) (seq : Nat) (new : List FusIn) : L.SameMem (L.markPc seq new) := by
  simp [Lane.markPc]

@[simp] theorem Lane.sameMem_trimPc (L : Lane) (p e : Nat) : L.SameMem (L.trimPc p e) := by
  simp [Lane.trimPc]

@[simp] theorem Lane.sameMem_noteWindow (L : Lane) (tov : Nat) (opp : Bool) :
    L.SameMem (L.noteWindow tov opp) := by
  simp [Lane.noteWindow]

@[simp] theorem Lane.sameMem_emptyTracks (L : Lane) : L.SameMem L.emptyTracks := by
  simp [Lane.emptyTracks]

@[simp] theorem Lane.sameMem_predictAll (L : Lane) (t0 t1 : Nat) : L.SameMem (L.predictAll t0 t1) := by
  simp [Lane.predictAll]

@[simp] theorem Lane.sameMem_setTrack (L : Lane) (k : Nat) (t : Option Track) : L.SameMem (L.setTrack k t) := by
  simp [Lane.setTrack]

@[simp] theorem Lane.sameMem_assign (L : Lane) (os : List ObjIn) (tov p : Nat) :
    L.SameMem (L.assign os tov p).1 := by
  refine Lane.sameMem_foldl_fst (fun acc g => ?_) _ _
  split
  · split <;> simp
  · simp

@[simp] theorem Lane.sameMem_takeLate (L : Lane) (os : List ObjIn) (tov p : Nat) :
    L.SameMem (L.takeLate os tov p) := by
  refine (Lane.sameMem_assign L os tov p).trans (Lane.sameMem_foldl (fun M i => ?_) _ _)
  split <;> simp

@[simp] theorem Lane.sameMem_birth (L : Lane) (full : Bool) (c : Cand) (o : ObjIn) (tov p : Nat) (opp : Bool) :
    L.SameMem (L.birth full c o tov p opp).1 := by
  fun_cases Lane.birth <;> simp +zetaDelta -implicitDefEqProofs

@[simp] theorem Lane.sameMem_addCand (L : Lane) (o : ObjIn) (tov p : Nat) (opp : Bool) :
    L.SameMem (L.addCand o tov p opp) := by
  simp [Lane.addCand]

/-- A left-over detection that meets a candidate. -/
@[simp] theorem Lane.sameMem_seed (a : Lane × Bool × List ObjIn) (o : ObjIn) (tov p : Nat) (opp : Bool) :
    a.1.SameMem (Lane.seed a o tov p opp).1 := by
  fun_cases Lane.seed <;> simp +zetaDelta

@[simp] theorem Lane.sameMem_seedAll (L : Lane) (left : List ObjIn) (tov p : Nat) (opp : Bool) :
    L.SameMem (L.seedAll left tov p opp) := by
  unfold Lane.seedAll
  extract_lets xs age r _ _ M M'
  have seeded : L.SameMem r.1 := Lane.sameMem_foldl_fst (fun a o => Lane.sameMem_seed ..) _ _
  have added : M.SameMem M' := Lane.sameMem_foldl (fun N o => Lane.sameMem_addCand ..) _ _
  exact seeded.trans (Lane.SameMem.trans (M := M) ⟨rfl, rfl⟩ (added.trans ⟨rfl, rfl⟩))

@[simp] theorem Lane.sameMem_ageTrack (L : Lane) (tov : Nat) (opp : Bool) (k : Nat) :
    L.SameMem (L.ageTrack tov opp k) := by
  unfold Lane.ageTrack
  split <;> simp

@[simp] theorem Lane.sameMem_notchMove (L : Lane) (m : Nat) (locked : Bool) (centre : BitVec 16) :
    L.SameMem (L.notchMove m locked centre) := by
  simp [Lane.notchMove]

@[simp] theorem Lane.sameMem_checkEph (L : Lane) (os : List GnsObs) : L.SameMem (L.checkEph os).1 := by
  simp [Lane.checkEph]

@[simp] theorem Lane.sameMem_ambiguities (L : Lane) (os : List GnsObs) (epoch was : Nat) :
    L.SameMem (L.ambiguities os epoch was) := by
  unfold Lane.ambiguities
  simp -implicitDefEqProofs

@[simp] theorem Lane.sameMem_takeCorr (L : Lane) (epoch : Nat) : L.SameMem (L.takeCorr epoch) := by
  simp [Lane.takeCorr]

@[simp] theorem Lane.sameMem_baseline (L : Lane) (os : List GnsObs) (epoch : Nat) :
    L.SameMem (L.baseline os epoch) := by
  simp [Lane.baseline]

@[simp] theorem Lane.sameMem_feedFusion (L : Lane) (epoch : Nat) (recs : List (Nat × List Word)) :
    L.SameMem (L.feedFusion epoch recs) := by
  simp [Lane.feedFusion]

@[simp] theorem Lane.sameMem_reportSolution (L : Lane) (os : List GnsObs) (epoch sol hdg : Nat) (preds :
    List Nat) :
    L.SameMem (L.reportSolution os epoch sol hdg preds) := by
  unfold Lane.reportSolution
  simp -implicitDefEqProofs

@[simp] theorem Lane.sameMem_epochRate (L : Lane) : L.SameMem L.epochRate := by
  simp [Lane.epochRate]

@[simp] theorem Lane.sameMem_selectStation (L : Lane) (id : Nat) (arp : List Word) :
    L.SameMem (L.selectStation id arp) := by
  simp [Lane.selectStation]

@[simp] theorem Lane.sameMem_arpMessage (L : Lane) (bs : List Byte) : L.SameMem (L.arpMessage bs) := by
  unfold Lane.arpMessage
  split <;> simp

@[simp] theorem Lane.sameMem_msmMessage (L : Lane) (bs : List Byte) : L.SameMem (L.msmMessage bs) := by
  simp [Lane.msmMessage]

@[simp] theorem Lane.sameMem_lkMirror (L : Lane) (b : Nat × List Word × Rat × Rat × Rat) :
    L.SameMem (L.lkMirror b) := by
  simp [Lane.lkMirror]

@[simp] theorem Lane.sameMem_takePath (L : Lane) : L.SameMem L.takePath.1 := by
  fun_cases Lane.takePath <;> simp +zetaDelta

@[simp] theorem Lane.sameMem_lkRefuse (L : Lane) (code : Nat) : L.SameMem (L.lkRefuse code) := by
  simp [Lane.lkRefuse]

@[simp] theorem Lane.sameMem_lkPathSel (L : Lane) : L.SameMem L.lkPathSel := by
  simp [Lane.lkPathSel]

@[simp] theorem Lane.sameMem_lkEnter (L : Lane) (m : Nat) : L.SameMem (L.lkEnter m) := by
  simp [Lane.lkEnter]

@[simp] theorem Lane.sameMem_lkRequest (L : Lane) (q : Nat) : L.SameMem (L.lkRequest q) := by
  unfold Lane.lkRequest
  split <;> simp

@[simp] theorem Lane.sameMem_takeImp (L : Lane) (tk : Nat) : L.SameMem (L.takeImp tk) := by
  fun_cases Lane.takeImp <;> simp

@[simp] theorem Lane.sameMem_lkBegin (L : Lane) (tk q : Nat) (mir : Option (Nat × List Word × Rat × Rat × Rat)) :
    L.SameMem (L.lkBegin tk q mir) := by
  unfold Lane.lkBegin
  split <;> simp

@[simp] theorem Lane.sameMem_lkReport (L : Lane) (x : LkErr) : L.SameMem (L.lkReport x) := by
  simp [Lane.lkReport]

@[simp] theorem Lane.sameMem_lkIntegrate (L : Lane) (c tau1 : Rat) : L.SameMem (L.lkIntegrate c tau1) := by
  simp [Lane.lkIntegrate]

@[simp] theorem Lane.sameMem_lkAllocate (L : Lane) (tk : Nat) (tau : List Rat) :
    L.SameMem (L.lkAllocate tk tau) := by
  simp [Lane.lkAllocate]

@[simp] theorem Lane.sameMem_lkAct (L : Lane) (tk : Nat) (x : LkErr) (late : Bool) :
    L.SameMem (L.lkAct tk x late) := by
  simp [Lane.lkAct]

@[simp] theorem Lane.sameMem_lkEnd (L : Lane) (tk : Nat) (late : Bool) : L.SameMem (L.lkEnd tk late) := by
  simp [Lane.lkEnd]

@[simp] theorem Lane.sameMem_pathEnd (L : Lane) : L.SameMem L.pathEnd := by
  simp [Lane.pathEnd]

@[simp] theorem Lane.sameMem_followPath (L : Lane) : L.SameMem L.followPath := by
  simp [Lane.followPath]

@[simp] theorem Lane.sameMem_judgeRef (L : Lane) (f : LkFrame) (b : LkBallot) (pa pc : Option Rat) (x : LkRef) :
    L.SameMem (L.judgeRef f b pa pc x).1 := by
  fun_cases Lane.judgeRef <;> simp +zetaDelta

@[simp] theorem Lane.sameMem_reportVote (L : Lane) (tk : Nat) (b : LkBallot) (absValid : Bool) :
    L.SameMem (L.reportVote tk b absValid) := by
  unfold Lane.reportVote
  simp -implicitDefEqProofs

@[simp] theorem Lane.sameMem_reanchor (L : Lane) (tk : Nat) (b : LkBallot) (pos : Rat × Rat) (sig : Rat) :
    L.SameMem (L.reanchor tk b pos sig) := by
  unfold Lane.reanchor
  extract_lets two vs M lag
  have voted : L.SameMem M := Lane.sameMem_modLkp ..
  clear_value M
  split
  · split
    · exact voted.trans (Lane.sameMem_modLkp ..)
    · exact voted
  · exact voted

@[simp] theorem Lane.sameMem_lkVote (L : Lane) (l : LaneId) (tk : Nat) (peer : Option (List Word)) :
    L.SameMem (L.lkVote l tk peer) := by
  unfold Lane.lkVote
  extract_lets M all f tol m step prevRaw prev old ok b1 d1 o1 pa pc N refs b o P oldF raw pr pres had Q R
  have tracked : L.SameMem M := Lane.sameMem_modLkp ..
  clear_value M f all pa pc b1
  have judged : M.SameMem N := by
    refine Lane.sameMem_foldl (fun P r => ?_) _ _
    cases all.find? (fun x => x.r == r) with
    | some x => exact (Lane.sameMem_setFld ..).trans (Lane.sameMem_judgeRef ..)
    | none => exact (Lane.sameMem_setFld ..).trans (Lane.sameMem_setFlag ..)
  clear_value N b
  have used : N.SameMem P := Lane.sameMem_foldl (fun _ _ => Lane.sameMem_setFlag ..) _ _
  clear_value P
  have kept : P.SameMem Q := Lane.sameMem_modLkp ..
  clear_value Q
  have told : Q.SameMem R := Lane.sameMem_reportVote ..
  have voted : L.SameMem R := tracked.trans (judged.trans (used.trans (kept.trans told)))
  clear_value R
  split
  · exact voted.trans (Lane.sameMem_reanchor ..)
  · exact voted

@[simp] theorem Lane.sameMem_lkRun (L : Lane) (l : LaneId) (tk : Nat) (peer : Option (List Word))
    (mir : Option (Nat × List Word × Rat × Rat × Rat)) (late : Bool) : L.SameMem (L.lkRun l tk peer mir late) := by
  unfold Lane.lkRun
  extract_lets q M N
  have given : L.SameMem M := by
    unfold M
    split <;> simp
  split <;> simpa [N] using given

@[simp] theorem Lane.sameMem_loopOver (L : Lane) (k : Nat) : L.SameMem (L.loopOver k) := by
  simp [Lane.loopOver]

@[simp] theorem Lane.sameMem_loopTake (L : Lane) (k : Nat) : L.SameMem (L.loopTake k) := by
  simp [Lane.loopTake]

@[simp] theorem Lane.sameMem_loopStop (L : Lane) (k : Nat) : L.SameMem (L.loopStop k) := by
  unfold Lane.loopStop
  simp -implicitDefEqProofs

@[simp] theorem Lane.sameMem_supervise (L : Lane) (k : Nat) (pv : Word) : L.SameMem (L.supervise k pv) := by
  fun_cases Lane.supervise <;> simp

@[simp] theorem Lane.sameMem_illegalEdge (L : Lane) (n : Nat) : L.SameMem (L.illegalEdge n) := by
  simp [Lane.illegalEdge]

@[simp] theorem Lane.sameMem_encMark (L : Lane) (n stamp : Nat) : L.SameMem (L.encMark n stamp) := by
  simp [Lane.encMark]

@[simp] theorem Lane.sameMem_encRate (L : Lane) (n : Nat) (neg : Bool) (win : List Nat) (stamp : Nat) :
    L.SameMem (L.encRate n neg win stamp) := by
  simp [Lane.encRate]

@[simp] theorem Lane.sameMem_index (L : Lane) (n stamp : Nat) : L.SameMem (L.index n stamp) := by
  unfold Lane.index
  simp -implicitDefEqProofs

@[simp] theorem Lane.sameMem_setAbs (L : Lane) (p : Nat) (a : AbsSt) : L.SameMem (L.setAbs p a) := by
  simp [Lane.setAbs]

@[simp] theorem Lane.sameMem_absEnd (L : Lane) (p : Nat) (started low : Bool) (data : Word) (err warn : Bool) (crc stamp : Nat) :
    L.SameMem (L.absEnd p started low data err warn crc stamp) := by
  simp [Lane.absEnd]

@[simp] theorem Lane.sameMem_canErrors (L : Lane) (c tec rec_ : Nat) : L.SameMem (L.canErrors c tec rec_) := by
  simp [Lane.canErrors]

@[simp] theorem Lane.sameMem_canRecvOk (L : Lane) (c : Nat) : L.SameMem (L.canRecvOk c) := by
  simp [Lane.canRecvOk]

@[simp] theorem Lane.sameMem_detDone (L : Lane) (c data : Nat) : L.SameMem (L.detDone c data) := by
  simp [Lane.detDone]

@[simp] theorem Lane.sameMem_detGood (L : Lane) (c : Nat) (brs : Bool) : L.SameMem (L.detGood c brs) := by
  unfold Lane.detGood
  simp -implicitDefEqProofs

@[simp] theorem Lane.sameMem_canLost (L : Lane) (c d0 : Nat) (d2 : Word) : L.SameMem (L.canLost c d0 d2) := by
  simp [Lane.canLost]

@[simp] theorem Lane.sameMem_strAdvance (L : Lane) (a n : Nat) : L.SameMem (L.strAdvance a n) := by
  simp [Lane.strAdvance]

@[simp] theorem Lane.sameMem_canStored (L : Lane) (c dest : Nat) : L.SameMem (L.canStored c dest) := by
  simp [Lane.canStored]

@[simp] theorem Lane.sameMem_canSentOk (L : Lane) (c : Nat) : L.SameMem (L.canSentOk c) := by
  simp [Lane.canSentOk]

@[simp] theorem Lane.sameMem_ethDrop (L : Lane) (n : Nat) : L.SameMem (L.ethDrop n) := by
  simp [Lane.ethDrop]

@[simp] theorem Lane.sameMem_modHost (L : Lane) (f : HostSt → HostSt) : L.SameMem (L.modHost f) := by
  simp [Lane.modHost]

@[simp] theorem Lane.sameMem_commitResp (L : Lane) (r : Resp) : L.SameMem (L.commitResp r) := by
  fun_cases Lane.commitResp <;> simp +zetaDelta

@[simp] theorem Lane.sameMem_fetch (L : Lane) (complete : Bool) : L.SameMem (L.fetch complete) := by
  unfold Lane.fetch
  split <;> simp

@[simp] theorem Lane.sameMem_keepResp (L : Lane) (op : Nat) (bs : List Byte) (act n : Nat) :
    L.SameMem (L.keepResp op bs act n) := by
  simp [Lane.keepResp]

@[simp] theorem Lane.sameMem_setSess (L : Lane) (n : Nat) (x : Option Sess) : L.SameMem (L.setSess n x) := by
  simp [Lane.setSess]

@[simp] theorem Lane.sameMem_closeSess (L : Lane) (n d0 : Nat) : L.SameMem (L.closeSess n d0) := by
  simp [Lane.closeSess]

@[simp] theorem Lane.sameMem_countReq (L : Lane) (n : Nat) : L.SameMem (L.countReq n) := by
  unfold Lane.countReq
  split <;> simp

@[simp] theorem Lane.sameMem_countRefused (L : Lane) (f : Frame) (r : Nat) : L.SameMem (L.countRefused f r) := by
  simp [Lane.countRefused]

@[simp] theorem Lane.sameMem_noteFailure (L : Lane) (f : Frame) (r : Nat) : L.SameMem (L.noteFailure f r) := by
  fun_cases Lane.noteFailure <;> simp +zetaDelta

@[simp] theorem Lane.sameMem_loseResp (L : Lane) : L.SameMem L.loseResp := by
  simp [Lane.loseResp]

@[simp] theorem Lane.sameMem_msgRefused (L : Lane) (base pos : Nat) : L.SameMem (L.msgRefused base pos) := by
  simp [Lane.msgRefused]

@[simp] theorem Lane.sameMem_postMsg (L : Lane) (slot : Nat) : L.SameMem (L.postMsg slot) := by
  simp [Lane.postMsg]

@[simp] theorem Lane.sameMem_failDebug (L : Lane) : L.SameMem L.failDebug := by
  simp [Lane.failDebug]

@[simp] theorem Lane.sameMem_detMiss (L : Lane) (c : Nat) (brs : Bool) : L.SameMem (L.detMiss c brs) := by
  simp [Lane.detMiss]

@[simp] theorem Lane.sameMem_advance (L : Lane) (n : Nat) (d : Rat) : L.SameMem (L.advance n d) := by
  simp [Lane.advance]

@[simp] theorem Lane.sameMem_readWheels (L : Lane) : L.SameMem L.readWheels := by
  simp [Lane.readWheels]

@[simp] theorem Lane.sameMem_wheelTick (was : Nat) (L : Lane) : L.SameMem (L.wheelTick was) := by
  simp [Lane.wheelTick]

end Sys2Proof.Machine
end

