-- ==== Sys2Proof/Proofs/MemoryBanks.lean ====
section
/-!
SUPPORT. Operations on a lane that write its SRAM: resets, banks, tiles, antennas, CAN and Ethernet.
-/

namespace Sys2Proof.Machine

/-- A lane reset lists no byte of SRAM and keeps the flash die. -/
theorem Lane.mem_resetKeep (L : Lane) : L.resetKeep.sram = [] ∧ L.resetKeep.flash = L.flash := by
  unfold Lane.resetKeep
  simp [Lane.reset]

theorem Lane.Canon.resetKeep {L : Lane} (h : L.Canon) : L.resetKeep.Canon := by
  obtain ⟨hs, hf⟩ := Lane.mem_resetKeep L
  exact ⟨hs ▸ rfl, hf ▸ h.2⟩

/-! ### Banks -/

theorem Lane.Canon.fillBank {L : Lane} (k : Nat) (h : L.Canon) : (L.fillBank k).Canon :=
  Lane.Canon.same (L := { L with sram := L.sram.filter (fun e => bankOf e.1 != k) })
    ⟨Memory.wf_filter _ h.1, h.2⟩ (by simp [Lane.fillBank])

theorem Lane.Canon.loseBanks {L : Lane} (h : L.Canon) : L.loseBanks.Canon := ⟨Memory.wf_filter _ h.1, h.2⟩

theorem Lane.Canon.bankPwr {L : Lane} (k p : Nat) (h : L.Canon) : (L.bankPwr k p).Canon :=
  h.ite ((h.same (by simp)).ite ((Lane.Canon.fillBank k (h.same (by simp))).ite (h.same (by simp))))

theorem Lane.Canon.bankCfg {L : Lane} (k : Nat) (v : Word) (h : L.Canon) : (L.bankCfg k v).Canon :=
  (h.bankPwr k (fieldNat v 4 2)).same (by unfold Lane.bankCfg; simp)

theorem Lane.Canon.bankPath {L : Lane} (p t : Nat) (h : L.Canon) : (L.bankPath p t).Canon :=
  h.loseBanks.ite ((h.same (by simp)).ite h)

/-! ### Writes of the engines -/

/-- The section engine's own record is no memory. -/
theorem Lane.Canon.sec {L : Lane} (c : Sec) (h : L.Canon) : ({ L with sec := c } : Lane).Canon := h

theorem Lane.Canon.storeWords {L : Lane} (a : Nat) (ws : List Word) (h : L.Canon) : (L.storeWords a ws).Canon :=
  h.store a _

theorem Lane.Canon.engWrite {L : Lane} (m : Master) (a : Nat) (bs : List Byte) (h : L.Canon) :
    (L.engWrite m a bs).Canon :=
  (h.store a bs).ite (h.same (by simp))

theorem Lane.Canon.enterTile {L : Lane} (tx ty : Int) (h : L.Canon) : (L.enterTile tx ty).Canon := by
  unfold Lane.enterTile
  generalize List.replicate 8192 _ = zeros
  extract_lets k M N
  have written : M.Canon := h.engWrite _ _ _
  clear_value M
  have marked : N.Canon := written.same (Lane.sameMem_setTile ..)
  clear_value N
  exact marked.sec _

theorem Lane.Canon.enterTiles {L : Lane} (ts : List (Int × Int)) (h : L.Canon) :
    (ts.foldl (fun L t => L.enterTile t.1 t.2) L).Canon := by
  refine Lane.Canon.foldl (fun M t k => ?_) ts h
  exact k.enterTile t.1 t.2

/-- What becomes of the window's record leaves the memories alone. -/
theorem Lane.Canon.setWin {L : Lane} (x y : Int) (f : Sec → Sec) (h : L.Canon) :
    ({ L.setWin x y with sec := f (L.setWin x y).sec } : Lane).Canon :=
  h.same (Lane.sameMem_setWin L x y)

theorem Lane.Canon.pageEnable {L : Lane} (h : L.Canon) : L.pageEnable.Canon :=
  Lane.Canon.enterTiles _ (h.setWin _ _ (fun c => { c with want := [] }))

theorem Lane.Canon.secCtrl {L : Lane} (v : Word) (h : L.Canon) : (L.secCtrl v).Canon := by
  unfold Lane.secCtrl
  extract_lets was M N P
  have loaded : N.Canon := Lane.Canon.ite (h.same (by simp [M])) (h.same (by simp [M]))
  have paged : P.Canon := loaded.pageEnable.ite loaded
  exact (paged.same (by simp)).ite paged

theorem Lane.Canon.busSec {L : Lane} (a : Nat) (v : Word) (h : L.Canon) : (L.busSec a v).Canon :=
  (h.secCtrl v).ite (h.same (by simp))

theorem Lane.Canon.writeAid {L : Lane} (h : L.Canon) : L.writeAid.Canon :=
  Lane.Canon.engWrite _ _ _ (h.same (by simp))

theorem Lane.Canon.gnsCtrl {L : Lane} (v : Word) (h : L.Canon) : (L.gnsCtrl v).Canon := by
  unfold Lane.gnsCtrl
  extract_lets was M N P
  have deselected : N.Canon := Lane.Canon.ite (h.same (by simp [M])) (h.same (by simp [M]))
  have written : P.Canon := deselected.writeAid.ite deselected
  exact (written.same (by simp)).ite ((written.same (by simp)).ite written)

theorem Lane.Canon.busGns {L : Lane} (a : Nat) (v : Word) (h : L.Canon) : (L.busGns a v).Canon :=
  (h.gnsCtrl v).ite (h.same (by simp))

/-! ### CAN and Ethernet -/

theorem Lane.Canon.canComplete {L : Lane} (c src res att : Nat) (ts : Word) (h : L.Canon) :
    (L.canComplete c src res att ts).Canon := by
  unfold Lane.canComplete
  extract_lets a w M N
  have stored : M.Canon := h.storeWords _ _
  have counted : N.Canon := stored.same (by simp [N])
  exact (counted.same (by simp)).ite counted

theorem Lane.Canon.ethDone {L : Lane} (n status : Nat) (ts : BitVec 64) (h : L.Canon) :
    (L.ethDone n status ts).Canon := by
  unfold Lane.ethDone
  extract_lets i d w ts M N P Q
  have stored : N.Canon := (h.storeWords _ _).storeWords _ _
  clear_value N
  have counted : Q.Canon := by
    unfold Q
    split <;> exact stored.same (by simp -implicitDefEqProofs [P])
  exact (counted.same (by simp)).ite counted

theorem Lane.Canon.ethScan {L : Lane} (n k : Nat) (h : L.Canon) : (L.ethScan n k).Canon := by
  induction k generalizing L with
  | zero => exact h
  | succ k ih =>
    unfold Lane.ethScan
    refine (h.same (by simp)).ite ?_
    dsimp only
    exact (h.same (by simp)).ite ((h.same (by simp)).ite ((ih (h.ethDone n 1 0)).ite
      ((ih (h.ethDone n 2 0)).ite (h.same (by simp)))))

theorem Lane.Canon.txKick {L : Lane} (n power : Nat) (h : L.Canon) : (L.txKick n power).Canon :=
  h.ite ((h.ethScan n 256).ite (h.same (by simp)))

theorem Lane.Canon.ethResume {L : Lane} (h : L.Canon) : L.ethResume.Canon :=
  h.foldl (fun _ n k => (k.ethScan n 256).ite k) _

theorem Lane.Canon.busEth {L : Lane} (power a : Nat) (v : Word) (h : L.Canon) : (Lane.busEth power L a v).Canon :=
  h.ite ((h.same (by simp)).ite ((h.txKick _ power).ite (h.same (by simp))))

theorem Lane.Canon.ethStore {L : Lane} (n : Nat) (f : EthFrame) (h : L.Canon) : (L.ethStore n f).Canon := by
  unfold Lane.ethStore
  refine (h.same (by simp)).ite ((h.same (by simp)).ite ((h.same (by simp)).ite ?_))
  extract_lets vlan st M N P
  have stored : N.Canon := by
    refine Lane.Canon.same (Lane.Canon.storeWords _ _ ?_) (Lane.sameMem_setFld ..)
    exact (h.store _ _).storeWords _ _
  have counted : P.Canon := stored.ite (stored.same (by simp))
  exact (counted.same (by simp)).ite counted

theorem Lane.Canon.toStream {L : Lane} (c k : Nat) (ws : List Word) (h : L.Canon) : (L.toStream c k ws).Canon := by
  unfold Lane.toStream
  extract_lets n wr rd first full M N
  have room : M.Canon := (h.same (by simp)).ite h
  have stored : N.Canon := room.storeWords _ ws
  exact (h.same (by simp)).ite (stored.same (by simp))

theorem Lane.Canon.toMailbox {L : Lane} (c j : Nat) (ws : List Word) (h : L.Canon) :
    (L.toMailbox c j ws).Canon := by
  unfold Lane.toMailbox
  extract_lets n M N
  have stored : M.Canon := h.storeWords _ ws
  have counted : N.Canon := (stored.same (by simp)).ite stored
  exact counted.same (by simp)

theorem Lane.Canon.canStore {L : Lane} (c : Nat) (f : CanFrame) (h : L.Canon) : (L.canStore c f).Canon := by
  unfold Lane.canStore
  refine h.ite ((h.same (by simp)).ite ?_)
  dsimp only
  split
  · exact h.toStream c 0 _
  · exact h.toStream c 1 _
  · exact h.toMailbox c _ _
  · exact h

/-! ### Tiles -/

theorem Lane.Canon.askTiles {L : Lane} (n : Nat) (h : L.Canon) : (L.askTiles n).Canon := by
  induction n generalizing L with
  | zero => exact h
  | succ n ih =>
    unfold Lane.askTiles
    split
    · exact h
    · generalize List.replicate 8244 _ = zeros
      extract_lets req k field at_ M sec N
      have written : M.Canon := h.engWrite _ _ _
      clear_value M
      have asked : N.Canon := written.sec _
      clear_value N
      exact h.ite (ih (asked.same (by simp -implicitDefEqProofs)))

theorem Lane.Canon.exportTile {L : Lane} (l : LaneId) (tx ty : Int) (h : L.Canon) :
    (L.exportTile l tx ty).Canon := by
  unfold Lane.exportTile
  extract_lets k r unk head tag at_ M sec N
  have written : M.Canon := h.engWrite _ _ _
  clear_value M
  have counted : N.Canon := written.sec _
  clear_value N
  exact counted.same (by simp -implicitDefEqProofs)

theorem Lane.Canon.exportTiles {L : Lane} (l : LaneId) (ts : List (Int × Int)) (h : L.Canon) :
    (ts.foldl (fun L t => L.exportTile l t.1 t.2) L).Canon := by
  refine Lane.Canon.foldl (fun M t k => ?_) ts h
  exact k.exportTile l t.1 t.2

theorem Lane.Canon.shiftWindow {L : Lane} (l : LaneId) (dx dy : Int) (h : L.Canon) :
    (L.shiftWindow l dx dy).Canon :=
  (h.same (Lane.sameMem_setFlag ..)).ite (Lane.Canon.enterTiles _ ((h.exportTiles l _).setWin _ _
    (fun c => { c with want := c.want.filter _ })))

theorem Lane.Canon.page {L : Lane} (l : LaneId) (h : L.Canon) : (L.page l).Canon := by
  unfold Lane.page
  refine h.ite ?_
  extract_lets t rx M ry
  have moved : M.Canon := (h.shiftWindow l (-1) 0).ite ((h.shiftWindow l 1 0).ite h)
  exact (moved.shiftWindow l 0 (-1)).ite ((moved.shiftWindow l 0 1).ite moved)

/-- A tile's state where the tile is in the window. -/
theorem Lane.Canon.setTileIf {L : Lane} (p : Bool) (k st : Nat) (h : L.Canon) :
    (if p then L.setTile k st else L).Canon := (h.same (Lane.sameMem_setTile ..)).ite h

theorem Lane.Canon.mergeTiles {L : Lane} (n : Nat) (h : L.Canon) : (L.mergeTiles n).Canon := by
  induction n generalizing L with
  | zero => exact h
  | succ n ih =>
    unfold Lane.mergeTiles
    refine h.ite ?_
    dsimp only
    split
    · exact ih h
    · next t _ =>
      generalize hM : ({ L with sec := { L.sec with
        merged := (L.sec.merged + 1) % 62, asked := L.sec.asked.filter (fun u => u != t) } } : Lane) = M
      have taken : M.Canon := hM ▸ h
      refine (ih (taken.setTileIf _ _ _)).ite (Lane.Canon.ite (ih ?_) (ih ?_))
      · exact (Lane.Canon.same (taken.engWrite _ _ _) (Lane.sameMem_setTile ..)).ite taken
      · have marked := taken.setTileIf (L.inWindow t.tx t.ty) (tileSlot t.tx t.ty) 2
        exact marked.same (by simp -implicitDefEqProofs)

/-! ### The section engine and the ledger -/

theorem Lane.Canon.setLrn {L : Lane} (n : Nat) (ws : List Word) (h : L.Canon) : (L.setLrn n ws).Canon :=
  Lane.Canon.engWrite _ _ _ (h.same (Lane.sameMem_setNz ..))

end Sys2Proof.Machine
end

