-- ==== Sys2Proof/Proofs/MemorySections.lean ====
section
/-!
SUPPORT. Operations on a lane that write its SRAM: the learner, the row windows and the painted cells.
-/

namespace Sys2Proof.Machine

/-! ### The engines' own records -/

section
variable {L : Lane} (h : L.Canon)
include h

theorem Lane.Canon.spx (c : Spx) : ({ L with spx := c } : Lane).Canon := h
theorem Lane.Canon.fus (c : Fus) : ({ L with fus := c } : Lane).Canon := h
theorem Lane.Canon.trk (c : Trk) : ({ L with trk := c } : Lane).Canon := h
theorem Lane.Canon.mat (c : Matrix) : ({ L with mat := c } : Lane).Canon := h
theorem Lane.Canon.raise (n d0 d1 : Nat) (d2 : Word) : (L.raise n d0 d1 d2).Canon := h.same (Lane.sameMem_raise ..)
theorem Lane.Canon.bump (a : Nat) : (L.bump a).Canon := h.same (Lane.sameMem_bump ..)
theorem Lane.Canon.setFlag (a i : Nat) (b : Bool) : (L.setFlag a i b).Canon := h.same (Lane.sameMem_setFlag ..)
theorem Lane.Canon.setFld (a lo w v : Nat) : (L.setFld a lo w v).Canon := h.same (Lane.sameMem_setFld ..)
theorem Lane.Canon.wr (a : Nat) (v : Word) : (L.wr a v).Canon := h.same (Lane.sameMem_wr ..)

end

/-! ### Nozzles: learned delays and painted ground -/

theorem Lane.Canon.learn {L : Lane} (n : Nat) (on : Bool) (res : Nat) (m : Int) (h : L.Canon) :
    (L.learn n on res m).Canon := by
  unfold Lane.learn
  extract_lets e k d conf cnt miss lost bnd lo hi tol cup cdn put A sec dev d' conf' B miss' gone C M
  have refused : A.Canon := (h.setLrn _ _).bump _
  have taken : B.Canon := h.setLrn _ _
  have missed : C.Canon := (h.setLrn _ _).bump _
  clear_value A B C
  have learned : M.Canon := Lane.Canon.ite
    (Lane.Canon.ite (refused.ite ((refused.sec _).raise _ _ _ _)) (((taken.setFlag _ _ _).raise _ _ _ _).ite taken))
    (((missed.setFlag _ _ _).raise _ _ _ _).ite missed)
  clear_value M
  exact h.ite (learned.same (Lane.sameMem_noteConfidence ..))

theorem Lane.Canon.rowResult {L : Lane} (row te : Nat) (on : Bool) (res : Nat) (m : Int) (h : L.Canon) :
    (L.rowResult row te on res m).Canon := Lane.Canon.learn _ _ _ _ (h.same (Lane.sameMem_setNz ..))

theorem Lane.Canon.rowWindows {L : Lane} (h : L.Canon) : L.rowWindows.Canon := by
  unfold Lane.rowWindows
  refine Lane.Canon.foldl (fun M i k => ?_) _ h
  dsimp only
  refine k.ite (Lane.Canon.foldl (fun N e kn => ?_) _ ?_)
  · exact (kn.rowResult _ _ _ _ _).ite kn
  · split
    · exact (k.rowResult _ _ _ _ _).ite k
    · exact k

theorem Lane.Canon.rowMeasure {L : Lane} (n stamp : Nat) (d : Option Nat) (h : L.Canon) :
    (L.rowMeasure n stamp d).Canon := by
  unfold Lane.rowMeasure
  refine Lane.Canon.foldl (fun M i k => ?_) _ h
  dsimp only
  split
  · exact k
  · exact (k.rowResult _ _ _ _ _).ite k

theorem Lane.Canon.countEvent {L : Lane} (n : Nat) (up : Bool) (stamp : Nat) (h : L.Canon) :
    (L.countEvent n up stamp).Canon := by
  unfold Lane.countEvent
  extract_lets M e0 e st c N P Q rev R
  have marked : M.Canon := h.same (Lane.sameMem_encMark ..)
  clear_value M
  have counted : N.Canon := marked.wr _ _
  clear_value N
  have doubted : P.Canon := (counted.setFlag _ _ _).ite counted
  clear_value P
  have stamped : Q.Canon := (doubted.same (Lane.sameMem_wr64 ..)).setFlag _ _ _
  clear_value Q
  have turned : R.Canon := (stamped.setFlag _ _ _).ite stamped
  clear_value R
  have kept := fun x => turned.same (Lane.sameMem_setEnc R n x)
  split
  · refine Lane.Canon.ite ((kept _).rowMeasure _ _ _) ?_
    exact Lane.Canon.rowMeasure _ _ _ ((kept _).same (Lane.sameMem_encRate ..))
  · exact (kept _).rowMeasure _ _ _

theorem Lane.Canon.paintCell {L : Lane} (i j : Int) (h : L.Canon) : (L.paintCell i j).1.Canon := by
  unfold Lane.paintCell
  split
  · exact h.engWrite _ _ _
  · exact h

/-- A run of updates that carry a result beside the lane. -/
theorem Lane.Canon.foldl_fst {α β : Type} {f : Lane × β → α → Lane × β}
    (hf : ∀ (q : Lane × β) x, q.1.Canon → (f q x).1.Canon) (xs : List α) {q : Lane × β} (h : q.1.Canon) :
    (xs.foldl f q).1.Canon := by
  induction xs generalizing q with
  | nil => exact h
  | cons x xs ih => exact ih (hf q x h)

/-- A run of updates that carry two results beside the lane. -/
theorem Lane.Canon.foldl_fst_fst {α β γ : Type} {f : (Lane × β) × γ → α → (Lane × β) × γ}
    (hf : ∀ (q : (Lane × β) × γ) x, q.1.1.Canon → (f q x).1.1.Canon) (xs : List α) {q : (Lane × β) × γ}
    (h : q.1.1.Canon) : (xs.foldl f q).1.1.Canon := by
  induction xs generalizing q with
  | nil => exact h
  | cons x xs ih => exact ih (hf q x h)

theorem Lane.Canon.paintPart {L : Lane} (n a b : Nat) (p q : Nat × Rat × Rat × Rat × Rat) (h : L.Canon) :
    (L.paintPart n a b p q).1.Canon := by
  unfold Lane.paintPart
  exact Lane.Canon.foldl_fst (fun acc c k => k.paintCell c.1 c.2) _ h

theorem Lane.Canon.paintNozzle {L : Lane} (n t0 : Nat) (hs : List EdgeH) (h : L.Canon) :
    (L.paintNozzle n t0 hs).1.Canon := by
  unfold Lane.paintNozzle
  extract_lets z ls held cuts pairs r y
  have painted : r.1.Canon := by
    refine Lane.Canon.foldl_fst (fun acc pq k => ?_) _ h
    dsimp only
    refine Lane.Canon.foldl_fst_fst (fun st b kst => ?_) _ k
    split
    · exact (kst.paintPart n _ _ _ _).same (Lane.sameMem_setNz ..)
    · exact kst
  clear_value r
  exact painted.same (Lane.sameMem_setNz ..)

end Sys2Proof.Machine
end

