-- ==== Sys2Proof/Proofs/MemoryLedger.lean ====
section
/-!
SUPPORT. Operations on a lane that write its memories: the ledger, the matrix unit and the tracks.
-/

namespace Sys2Proof.Machine

/-! ### The event ledger -/

theorem Lane.Canon.ringWrite {L : Lane} (r : Rec) (h : L.Canon) : (L.ringWrite r).Canon := by
  unfold Lane.ringWrite
  extract_lets wr base M
  have written : M.Canon := h.engWrite _ _ _
  clear_value M
  exact (written.setFld _ _ _ _).spx _

theorem Lane.Canon.lostGap {L : Lane} (h : L.Canon) : L.lostGap.Canon := by
  unfold Lane.lostGap
  exact ((h.ringWrite _).spx _).ite h

theorem Lane.Canon.bootGap {L : Lane} (h : L.Canon) : L.bootGap.Canon := by
  unfold Lane.bootGap
  exact ((h.ringWrite _).spx _).ite h

theorem Lane.Canon.ledger {L : Lane} (r : Rec) (h : L.Canon) : (L.ledger r).Canon := by
  unfold Lane.ledger
  extract_lets M was sx N
  have ready : M.Canon := h.bootGap.lostGap
  clear_value M
  have full : N.Canon := (ready.spx _).bump _
  clear_value N
  exact (ready.ringWrite r).ite (full.ite ((full.setFlag _ _ _).raise _ _ _ _))

theorem Lane.Canon.drainFired {L : Lane} (k : Nat) (e : CurdE) (t tr kind : Nat) (h : L.Canon) :
    (L.drainFired k e t tr kind).Canon := by
  unfold Lane.drainFired
  extract_lets r M comp N P
  have paid : M.Canon := h.same (Lane.sameMem_compensate ..)
  clear_value M
  have noted : N.Canon := paid.ledger _
  clear_value N
  exact (noted.bump _).raise _ _ _ _

theorem Lane.Canon.setEdgeOf {L : Lane} (e tr kind : Nat) (h : L.Canon) : (L.setEdgeOf e tr kind).Canon := by
  unfold Lane.setEdgeOf
  extract_lets x k M N P
  have marked : M.Canon := h.same (Lane.sameMem_markEdge ..)
  clear_value M
  have noted : P.Canon := Lane.Canon.ledger _ (marked.same (Lane.sameMem_noteSet ..))
  clear_value P
  exact noted.same (Lane.sameMem_freeEnt ..)

theorem Lane.Canon.deadlineDue {L : Lane} (e : Nat) (h : L.Canon) : (L.deadlineDue e).Canon := by
  unfold Lane.deadlineDue
  exact Lane.Canon.ite (Lane.Canon.ite (Lane.Canon.same (h.drainFired _ _ _ _ _) (Lane.sameMem_freeEnt ..))
    ((h.setEdgeOf _ _ _).bump _)) h

/-! ### The flash die -/

theorem Lane.Canon.sealBlock {L : Lane} (l : LaneId) (h : L.Canon) : (L.sealBlock l).Canon := by
  unfold Lane.sealBlock
  exact Lane.Canon.lostGap ⟨h.1, Flash.wf_write _ _ (Flash.wf_erase _ _ h.2)⟩

/-- An erase of the flash die, with the vault's record of what it is for. -/
theorem Lane.Canon.erased {L : Lane} (a n : Nat) (v : Vault) (h : L.Canon) :
    ({ L with flash := Flash.erase L.flash a n, vault := v } : Lane).Canon := ⟨h.1, Flash.wf_erase a n h.2⟩

theorem Lane.Canon.pdWr {L : Lane} (h : L.Canon) : L.pdWr.Canon := by
  unfold Lane.pdWr
  extract_lets n dst src
  exact (h.same (Lane.sameMem_wrRef ..)).ite ((h.erased _ _ _).setFlag _ _ _)

/-! ### The small-matrix unit, and stores that collide -/

theorem Lane.Canon.matStore {L : Lane} (c : MBlk) (n p : Nat) (es : List Word) (h : L.Canon) :
    (L.matStore c n p es).Canon := by
  unfold Lane.matStore
  exact Lane.Canon.foldl (fun _ k m => m.store _ _) _ (h.store _ _)

theorem Lane.Canon.finishAll {L : Lane} (cs : List Nat) (v : Word) (h : L.Canon) :
    (cs.foldl (fun L c => L.finishWait c v) L).Canon :=
  Lane.Canon.foldl (fun _ _ k => k.same (Lane.sameMem_finishWait ..)) cs h

theorem Lane.Canon.matComplete {L : Lane} (h : L.Canon) : L.matComplete.Canon := by
  unfold Lane.matComplete
  split
  · exact h
  · next m rest _ =>
    extract_lets old fin
    have ended : ∀ (M : Lane) (st : Nat), M.Canon → (fin M st).Canon := fun M st k => by
      unfold fin
      extract_lets mt N P
      have done : P.Canon := Lane.Canon.same (k.mat _) (Lane.sameMem_resnap ..)
      clear_value P
      exact done.ite (done.finishAll _ _)
    clear_value fin
    refine Lane.Canon.ite (Lane.Canon.ite ?_ ?_) ?_
    · exact ended _ _ (Lane.Canon.same (h.store _ _) (Lane.sameMem_useFree ..))
    · exact ended _ _ (h.same (Lane.sameMem_refusedAt ..))
    · split
      · exact ended _ _ ((h.same (Lane.sameMem_refused ..)).ite h)
      · split
        · exact ended _ _ h
        · next n p _ =>
          extract_lets r M N
          have stuck : M.Canon := Lane.Canon.same (h.same (Lane.sameMem_modCtx ..)) (Lane.sameMem_useFree ..)
          clear_value M
          have freed : N.Canon := stuck.matStore _ _ _ _
          clear_value N
          exact Lane.Canon.ite (ended _ _ (freed.same (Lane.sameMem_useFree ..))) (ended _ _ (stuck.matStore _ _ _ _))

theorem Lane.Canon.clashWith {L : Lane} (core a n : Nat) (k : Clash) (h : L.Canon) :
    (L.clashWith core a n k).Canon := by
  unfold Lane.clashWith
  extract_lets w b wins bytes hit put M
  have stored : M.Canon := Lane.Canon.foldl (fun _ _ m => m.store _ _) _ h
  clear_value M
  exact h.ite (stored.ite (stored.same (Lane.sameMem_collide ..)))

/-! ### Fusion, tracks and GNSS -/

theorem Lane.Canon.fillReplay {L : Lane} (h : L.Canon) : L.fillReplay.Canon :=
  Lane.Canon.same (h.engWrite _ _ _) (Lane.sameMem_useFree ..)

theorem Lane.Canon.calSnapNow {L : Lane} (h : L.Canon) : L.calSnapNow.Canon := by
  unfold Lane.calSnapNow
  extract_lets fus M base N ents P
  have taken : N.Canon := Lane.Canon.engWrite _ _ _ (h.fus _)
  clear_value N
  have written : P.Canon := taken.engWrite _ _ _
  clear_value P
  exact h.ite ((written.setFlag _ _ _).raise _ _ _ _)

theorem Lane.Canon.releaseTracks {L : Lane} (tov : Nat) (h : L.Canon) : (L.releaseTracks tov).Canon := by
  unfold Lane.releaseTracks
  extract_lets c ents M N n P
  have used : M.Canon := h.same (Lane.sameMem_useFree ..)
  clear_value M
  have written : N.Canon := used.engWrite _ _ _
  clear_value N
  have released : P.Canon := Lane.Canon.setFld (Lane.Canon.same (written.wr _ _) (Lane.sameMem_wr64 ..)) _ _ _ _
  clear_value P
  exact released.trk _

theorem Lane.Canon.trackUpdate {L : Lane} (tov p : Nat) (opp : Bool) (h : L.Canon) :
    (L.trackUpdate tov p opp).Canon := by
  unfold Lane.trackUpdate
  extract_lets M N mine now old gates left P was Q trk R S
  have cleared : M.Canon := (Lane.Canon.raise (h.same (Lane.sameMem_emptyTracks ..)) _ _ _ _).ite h
  clear_value M
  have predicted : N.Canon := cleared.same (Lane.sameMem_predictAll ..)
  clear_value N
  have taken : P.Canon := Lane.Canon.same (predicted.same (Lane.sameMem_assign ..)) (Lane.sameMem_takeLate ..)
  clear_value P
  have seeded : Q.Canon := taken.same (Lane.sameMem_seedAll ..)
  clear_value Q
  have moved : R.Canon := seeded.trk _
  clear_value R
  have aged : S.Canon := Lane.Canon.foldl (fun _ _ k => k.same (Lane.sameMem_ageTrack ..)) _ moved
  clear_value S
  exact aged.releaseTracks tov

theorem Lane.Canon.writeRing {L : Lane} (recs : List (List Word)) (h : L.Canon) : (L.writeRing recs).Canon := by
  unfold Lane.writeRing
  extract_lets base M
  have written : M.Canon := Lane.Canon.foldl (fun _ _ k => (k.engWrite _ _ _).setFld _ _ _ _) _ h
  clear_value M
  exact h.ite (written.setFld _ _ _ _)

end Sys2Proof.Machine
end

