-- ==== Sys2Proof/Proofs/MemoryFusion.lean ====
section
/-!
SUPPORT. The cycles of the fusion engine and the epochs of the GNSS receiver keep the form of the memories.
-/

namespace Sys2Proof.Machine

/-! ### Cycles of the fusion engine, and epochs of the GNSS receiver -/

theorem Lane.Canon.ncCycle {L : Lane} (l : LaneId) (t0 : Nat) (h : L.Canon) : (L.ncCycle l t0).Canon := by
  unfold Lane.ncCycle
  extract_lets M xs rpl run tested gnss N est q lim ok a b P fs Q ws R S fs' T
  have entered : M.Canon := Lane.Canon.same (h.same (Lane.sameMem_initAttitude ..)) (Lane.sameMem_enterAll ..)
  clear_value M
  have gated : N.Canon := entered.same (Lane.sameMem_gateReport ..)
  clear_value N
  have flagged : P.Canon := (gated.setFlag _ _ _).setFlag _ _ _
  clear_value P
  have marked : Q.Canon := Lane.Canon.same ((flagged.fus _).same (Lane.sameMem_setQuality ..)) (Lane.sameMem_markNc ..)
  clear_value Q
  have trimmed : R.Canon := Lane.Canon.same (Lane.Canon.same (marked.same (Lane.sameMem_wrWords ..))
    (Lane.sameMem_calCycle ..)) (Lane.sameMem_trimInputs ..)
  clear_value R
  have counted : S.Canon := (trimmed.bump _).ite trimmed
  clear_value S
  exact Lane.Canon.fillReplay (counted.fus _)

theorem Lane.Canon.ncRun {L : Lane} (l : LaneId) (t0 : Nat) (h : L.Canon) : (L.ncRun l t0).Canon := by
  unfold Lane.ncRun
  extract_lets fs M r N P
  have begun : M.Canon := h.fus _
  clear_value M
  have loaded : r.1.Canon := Lane.Canon.same (begun.same (Lane.sameMem_takeOrigin ..)) (Lane.sameMem_calLoadNow ..)
  clear_value r
  have entered : N.Canon := (loaded.same (Lane.sameMem_ownInput ..)).ite loaded
  clear_value N
  have cycled : P.Canon := (entered.ncCycle _ _).ite (Lane.Canon.same (Lane.Canon.same
    (entered.same (Lane.sameMem_loseReplay ..)) (Lane.sameMem_refusedAt ..)) (Lane.sameMem_calCond ..))
  clear_value P
  exact cycled.calSnapNow.same (Lane.sameMem_reportDrops ..)

theorem Lane.Canon.pcCycle {L : Lane} (p e : Nat) (h : L.Canon) : (L.pcCycle p e).Canon := by
  unfold Lane.pcCycle
  extract_lets new rest lines rpl wide pins est v seq was valid fs M N flags ws P Q R
  have taken : M.Canon := h.fus _
  clear_value M
  have marked : N.Canon := taken.same (Lane.sameMem_markPc ..)
  clear_value N
  have trimmed : P.Canon := Lane.Canon.same (Lane.Canon.setFlag (marked.same (Lane.sameMem_wrWords ..)) _ _ _)
    (Lane.sameMem_trimPc ..)
  clear_value P
  have counted : Q.Canon := (trimmed.bump _).ite trimmed
  clear_value Q
  have raised : R.Canon := (counted.raise _ _ _ _).ite counted
  clear_value R
  exact raised.fillReplay

theorem Lane.Canon.gnssEpoch {L : Lane} (e : GnsEpoch) (h : L.Canon) : (L.gnssEpoch e).Canon := by
  unfold Lane.gnssEpoch
  extract_lets M N all wanted P Q r os R sol S hdg preds recs T U
  have moved : M.Canon := Lane.Canon.foldl (fun _ _ k => k.same (Lane.sameMem_notchMove ..)) _ h
  have leapt : N.Canon := by
    unfold N
    split
    · exact moved.same (Lane.sameMem_wr ..)
    · exact moved
  have dropped : P.Canon := (leapt.bump _).ite leapt
  have slipped : Q.Canon := Lane.Canon.foldl (fun _ _ k => (k.bump _).ite k) _ dropped
  have checked : r.1.Canon := slipped.same (Lane.sameMem_checkEph ..)
  have solved : R.Canon := Lane.Canon.same (checked.same (Lane.sameMem_takeCorr ..)) (Lane.sameMem_ambiguities ..)
  have based : S.Canon := solved.same (Lane.sameMem_baseline ..)
  have fed : T.Canon := (based.writeRing _).same (Lane.sameMem_feedFusion ..)
  have reported : U.Canon := fed.same (Lane.sameMem_reportSolution ..)
  exact Lane.Canon.same (Lane.Canon.writeAid (reported.same (Lane.sameMem_modGns ..))) (Lane.sameMem_epochRate ..)

end Sys2Proof.Machine
end

