-- ==== Sys2Proof/Proofs/StateMemories.lean ====
section
/-!
SUPPORT. The memories of both lanes, and the ways a state's lanes change.
-/

namespace Sys2Proof.Machine

/-! ### The memories of both lanes -/

@[simp] theorem State.lane_ite (p : Prop) [Decidable p] (s t : State) (m : LaneId) :
    (if p then s else t).lane m = if p then s.lane m else t.lane m := apply_ite (fun u : State => u.lane m) p s t

@[simp] theorem State.fst_ite {β : Type} (p : Prop) [Decidable p] (q r : State × β) :
    (if p then q else r).1 = if p then q.1 else r.1 := apply_ite Prod.fst p q r

@[simp] theorem State.snd_ite {β : Type} (p : Prop) [Decidable p] (q r : β × State) :
    (if p then q else r).2 = if p then q.2 else r.2 := apply_ite Prod.snd p q r

theorem State.sameMem_set {s : State} {l : LaneId} {L : Lane} (h : (s.lane l).SameMem L) (m : LaneId) :
    (s.lane m).SameMem ((s.setLane l L).lane m) := by
  obtain rfl | hm := eq_or_ne m l
  · rwa [State.lane_setLane]
  · rw [State.lane_setLane_ne _ _ hm]
    exact ⟨rfl, rfl⟩

@[simp] theorem State.sameMem_setLane {s : State} {l : LaneId} {L : Lane}
    (h : L.sram = (s.lane l).sram ∧ L.flash = (s.lane l).flash) (m : LaneId) :
    (s.lane m).SameMem ((s.setLane l L).lane m) := State.sameMem_set h m

@[simp] theorem State.sameMem_modLane (s : State) (l : LaneId) {f : Lane → Lane} (hf : ∀ L : Lane, L.SameMem (f L))
    (m : LaneId) : (s.lane m).SameMem ((s.modLane l f).lane m) := State.sameMem_set (hf (s.lane l)) m

/-- A run of updates that leave the memories alone. -/
@[simp] theorem State.sameMem_foldl {α : Type} {f : State → α → State} {m : LaneId}
    (hf : ∀ (s : State) x, (s.lane m).SameMem ((f s x).lane m)) (xs : List α) (s : State) :
    (s.lane m).SameMem ((xs.foldl f s).lane m) := by
  induction xs generalizing s with
  | nil => exact ⟨rfl, rfl⟩
  | cons x xs ih => exact ⟨(ih _).1.trans (hf s x).1, (ih _).2.trans (hf s x).2⟩

/-- The memories of both lanes are in canonical form. -/
def State.Canon (s : State) : Prop := ∀ l, (s.lane l).Canon

theorem canonicalMemory_iff (s : State) : CanonicalMemory s ↔ s.Canon := Iff.rfl

section
variable {s t : State} (h : s.Canon)
include h

theorem State.Canon.same (k : ∀ m, (s.lane m).SameMem (t.lane m)) : t.Canon := fun m => (h m).same (k m)

theorem State.Canon.setLane (l : LaneId) {L : Lane} (k : L.Canon) : (s.setLane l L).Canon := fun m => by
  obtain rfl | hm := eq_or_ne m l
  · rwa [State.lane_setLane]
  · rw [State.lane_setLane_ne _ _ hm]
    exact h m

theorem State.Canon.modLane (l : LaneId) {f : Lane → Lane} (hf : ∀ L : Lane, L.Canon → (f L).Canon) :
    (s.modLane l f).Canon := h.setLane l (hf _ (h l))

theorem State.Canon.bothLanes {f : Lane → Lane} (hf : ∀ L : Lane, L.Canon → (f L).Canon) : (s.bothLanes f).Canon :=
  fun m => by
    rw [State.lane_bothLanes]
    exact hf _ (h m)

theorem State.Canon.modRind (f : Rind → Rind) : (s.modRind f).Canon := fun m => by
  rw [State.lane_modRind]
  exact h m

theorem State.Canon.modDie (f : Die → Die) : (s.modDie f).Canon := fun m => by
  rw [State.lane_modDie]
  exact h m

theorem State.Canon.ite {p : Prop} [Decidable p] (k : t.Canon) : (if p then s else t).Canon := by
  split
  · exact h
  · exact k

end

theorem State.Canon.foldl {α : Type} {f : State → α → State} (hf : ∀ (s : State) x, s.Canon → (f s x).Canon)
    {s : State} (xs : List α) (h : s.Canon) : (xs.foldl f s).Canon := by
  induction xs generalizing s with
  | nil => exact h
  | cons x xs ih => exact ih (hf s x h)

end Sys2Proof.Machine
end

