-- ==== Sys2Proof/Proofs/StateFrames.lean ====
section
/-!
SUPPORT. The operations on the state that leave the memories of both lanes alone.
-/

namespace Sys2Proof.Machine

@[simp] theorem State.sameMem_setSame (s : State) (l : LaneId) (a : Nat) (same : Word) (m : LaneId) :
    (s.lane m).SameMem ((s.setSame l a same).lane m) := by
  simp [State.setSame]

@[simp] theorem State.sameMem_peerLost (s : State) (l : LaneId) (m : LaneId) :
    (s.lane m).SameMem ((s.peerLost l).lane m) := by
  simp [State.peerLost]

@[simp] theorem State.sameMem_linkDown (s : State) (l : LaneId) (m : LaneId) :
    (s.lane m).SameMem ((s.linkDown l).lane m) := by
  simp [State.linkDown]

@[simp] theorem State.sameMem_cutLinks (s : State) (l : LaneId) (m : LaneId) :
    (s.lane m).SameMem ((s.cutLinks l).lane m) := by
  simp [State.cutLinks]

@[simp] theorem State.sameMem_raiseBoth (s : State) (n d0 d1 : Nat) (d2 : Word) (m : LaneId) :
    (s.lane m).SameMem ((s.raiseBoth n d0 d1 d2).lane m) := by
  simp [State.raiseBoth]

@[simp] theorem State.sameMem_giveUp (s : State) (l : LaneId) (cause reason : Nat) (m : LaneId) :
    (s.lane m).SameMem ((s.giveUp l cause reason).lane m) := by
  simp [State.giveUp]

@[simp] theorem State.sameMem_plainW (s : State) (l : LaneId) (a : Nat) (v : Word) (m : LaneId) :
    (s.lane m).SameMem ((s.plainW l a v).lane m) := by
  simp [State.plainW]

@[simp] theorem State.sameMem_imageW (s : State) (l : LaneId) (a : Nat) (v : Word) (m : LaneId) :
    (s.lane m).SameMem ((s.imageW l a v).lane m) := by
  simp [State.imageW]

@[simp] theorem State.sameMem_busPulse (s : State) (l : LaneId) (a : Nat) (v : Word) (m : LaneId) :
    (s.lane m).SameMem ((s.busPulse l a v).lane m) := by
  unfold State.busPulse
  split <;> simp

@[simp] theorem State.sameMem_payCoast (s : State) (l : LaneId) (m : LaneId) :
    (s.lane m).SameMem ((s.payCoast l).lane m) := by
  simp [State.payCoast]

@[simp] theorem State.sameMem_startTcxo (s : State) (m : LaneId) :
    (s.lane m).SameMem (s.startTcxo.lane m) := by
  simp [State.startTcxo]

@[simp] theorem State.sameMem_stopTcxo (s : State) (m : LaneId) :
    (s.lane m).SameMem (s.stopTcxo.lane m) := by
  simp [State.stopTcxo]

/-- What follows the clock's start and stop leaves the memories as the change that led to it. -/
@[simp] theorem State.sameMem_clocked (s : State) (f : State → State) (m : LaneId) :
    ((f s).lane m).SameMem ((s.clocked f).lane m) := by
  simp [State.clocked]

@[simp] theorem State.sameMem_setSw (s : State) (n : Nat) (w : Sw) (m : LaneId) :
    (s.lane m).SameMem ((s.setSw n w).lane m) := by
  simp [State.setSw]

@[simp] theorem State.sameMem_softOff (s : State) (n : Nat) (m : LaneId) :
    (s.lane m).SameMem ((s.softOff n).lane m) := by
  simp [State.softOff]

@[simp] theorem State.sameMem_directOff (s : State) (m : LaneId) :
    (s.lane m).SameMem (s.directOff.lane m) := by
  simp [State.directOff]

@[simp] theorem State.sameMem_follow (s : State) (n : Nat) (m : LaneId) :
    (s.lane m).SameMem ((s.follow n).lane m) := by
  simp [State.follow]

@[simp] theorem State.sameMem_directFollow (s : State) (m : LaneId) :
    (s.lane m).SameMem (s.directFollow.lane m) := by
  simp [State.directFollow]

@[simp] theorem State.sameMem_caveEdge (s : State) (was : Bool) (m : LaneId) :
    (s.lane m).SameMem ((s.caveEdge was).lane m) := by
  simp [State.caveEdge]

@[simp] theorem State.sameMem_goPower (s : State) (t : Nat) (m : LaneId) :
    (s.lane m).SameMem ((s.goPower t).lane m) := by
  simp [State.goPower]

@[simp] theorem State.sameMem_writePower (s : State) (w : PwrWriter) (v : Word) (m : LaneId) :
    (s.lane m).SameMem ((s.writePower w v).lane m) := by
  simp [State.writePower]

@[simp] theorem State.sameMem_rindWrite (s : State) (l : LaneId) (a : Nat) (v : Word) (m : LaneId) :
    (s.lane m).SameMem ((s.rindWrite l a v).lane m) := by
  simp [State.rindWrite]

@[simp] theorem State.sameMem_directReq (s : State) (l : LaneId) (j : Nat) (on : Bool) (m : LaneId) :
    (s.lane m).SameMem ((s.directReq l j on).lane m) := by
  simp [State.directReq]

@[simp] theorem State.sameMem_busSwd (s : State) (l : LaneId) (a : Nat) (v : Word) (m : LaneId) :
    (s.lane m).SameMem ((s.busSwd l a v).lane m) := by
  simp [State.busSwd]

@[simp] theorem State.sameMem_canCtrl (s : State) (l : LaneId) (c : Nat) (v : Word) (m : LaneId) :
    (s.lane m).SameMem ((s.canCtrl l c v).lane m) := by
  simp [State.canCtrl]

@[simp] theorem State.sameMem_canInitWrite (s : State) (l : LaneId) (c a : Nat) (v : Word) (m : LaneId) :
    (s.lane m).SameMem ((s.canInitWrite l c a v).lane m) := by
  simp [State.canInitWrite]

@[simp] theorem State.sameMem_canConfig (s : State) (l : LaneId) (c which : Nat) (v : Word) (m : LaneId) :
    (s.lane m).SameMem ((s.canConfig l c which v).lane m) := by
  unfold State.canConfig
  extract_lets cnt a
  split
  · exact ⟨rfl, rfl⟩
  · split
    · exact State.sameMem_modLane s l (fun _ => Lane.sameMem_setFlag ..) m
    · refine State.sameMem_modLane s l (fun L => ?_) m
      extract_lets M N x
      have plain : L.SameMem M := Lane.sameMem_plainWrite ..
      clear_value M
      have cleared : M.SameMem N := Lane.sameMem_foldl (fun _ _ => Lane.sameMem_wr ..) _ M
      clear_value N
      exact (plain.trans cleared).trans (Lane.sameMem_setCan ..)

@[simp] theorem State.sameMem_moved (s : State) (d0 : Nat) (m : LaneId) :
    (s.lane m).SameMem ((s.moved d0).lane m) := by
  simp [State.moved]

@[simp] theorem State.sameMem_proofSwap (s : State) (m : LaneId) :
    (s.lane m).SameMem (s.proofSwap.1.lane m) := by
  unfold State.proofSwap
  split <;> simp

@[simp] theorem State.sameMem_cntRef (s : State) (l : LaneId) (m : LaneId) :
    (s.lane m).SameMem ((s.cntRef l).lane m) := by
  simp [State.cntRef]

@[simp] theorem State.sameMem_setMcnt (s : State) (i : Nat) (v : Word) (m : LaneId) :
    (s.lane m).SameMem ((s.setMcnt i v).lane m) := by
  simp [State.setMcnt]

@[simp] theorem State.sameMem_commitFloor (s : State) (l : LaneId) (m : LaneId) :
    (s.lane m).SameMem ((s.commitFloor l).lane m) := by
  simp [State.commitFloor]

@[simp] theorem State.sameMem_writeCfgFloor (s : State) (l : LaneId) (v : Word) (m : LaneId) :
    (s.lane m).SameMem ((s.writeCfgFloor l v).lane m) := by
  simp [State.writeCfgFloor]

@[simp] theorem State.sameMem_busRead (s : State) (l : LaneId) (c a : Nat) (m : LaneId) :
    (s.lane m).SameMem ((s.busRead l c a).2.lane m) := by
  simp [State.busRead]

@[simp] theorem State.sameMem_arriveCmd (s : State) (l : LaneId) (c : PulseCmd) (m : LaneId) :
    (s.lane m).SameMem ((s.arriveCmd l c).lane m) := by
  simp [State.arriveCmd]

@[simp] theorem State.sameMem_cancelAt (s : State) (l : LaneId) (h : Nat) (m : LaneId) :
    (s.lane m).SameMem ((s.cancelAt l h).lane m) := by
  unfold State.cancelAt
  split <;> simp

@[simp] theorem State.sameMem_chEvent (s : State) (e d0 n : Nat) (m : LaneId) :
    (s.lane m).SameMem ((s.chEvent e d0 n).lane m) := by
  simp [State.chEvent]

@[simp] theorem State.sameMem_thermalClear (s : State) (l : LaneId) (n : Nat) (m : LaneId) :
    (s.lane m).SameMem ((s.thermalClear l n).lane m) := by
  simp [State.thermalClear]

@[simp] theorem State.sameMem_lclr (s : State) (l : LaneId) (n : Nat) (m : LaneId) :
    (s.lane m).SameMem ((s.lclr l n).lane m) := by
  simp [State.lclr]

@[simp] theorem State.sameMem_arriveReg (s : State) (l : LaneId) (a : Nat) (v : Word) (m : LaneId) :
    (s.lane m).SameMem ((s.arriveReg l a v).lane m) := by
  simp [State.arriveReg]

@[simp] theorem State.sameMem_arriveMsg (s : State) (l : LaneId) (m : LinkMsg) (w : LaneId) :
    (s.lane w).SameMem ((s.arriveMsg l m).lane w) := by
  unfold State.arriveMsg
  split <;> simp

@[simp] theorem State.sameMem_curdRan (s : State) (l : LaneId) (curd : Option Nat) (m : LaneId) :
    (s.lane m).SameMem ((s.curdRan l curd).lane m) := by
  unfold State.curdRan
  split <;> simp

@[simp] theorem State.sameMem_laneImage (s : State) (l : LaneId) (c : PulseCmd) (m : LaneId) :
    (s.lane m).SameMem ((s.laneImage l c).lane m) := by
  simp [State.laneImage]

@[simp] theorem State.sameMem_setGroup (s : State) (l : LaneId) (u per dut : Nat) (m : LaneId) :
    (s.lane m).SameMem ((s.setGroup l u per dut).lane m) := by
  simp [State.setGroup]

@[simp] theorem State.sameMem_actShadow (s : State) (l : LaneId) (u : Nat) (a : PulseAct) (m : LaneId) :
    (s.lane m).SameMem ((s.actShadow l u a).lane m) := by
  unfold State.actShadow
  split <;> simp

@[simp] theorem State.sameMem_commitUnit (s : State) (l : LaneId) (u : Nat) (m : LaneId) :
    (s.lane m).SameMem ((s.commitUnit l u).lane m) := by
  simp [State.commitUnit]

@[simp] theorem State.sameMem_unitEvent (s : State) (e u d2 : Nat) (m : LaneId) :
    (s.lane m).SameMem ((s.unitEvent e u d2).lane m) := by
  simp [State.unitEvent]

@[simp] theorem State.sameMem_countHeld (s : State) (u : Nat) (m : LaneId) :
    (s.lane m).SameMem ((s.countHeld u).lane m) := by
  simp [State.countHeld]

@[simp] theorem State.sameMem_settleGates (s : State) (u : Nat) (m : LaneId) :
    (s.lane m).SameMem ((s.settleGates u).lane m) := by
  fun_cases State.settleGates <;> simp

@[simp] theorem State.sameMem_settleLine (s : State) (u : Nat) (m : LaneId) :
    (s.lane m).SameMem ((s.settleLine u).lane m) := by
  fun_cases State.settleLine <;> simp

@[simp] theorem State.sameMem_settle (s : State) (u : Nat) (m : LaneId) :
    (s.lane m).SameMem ((s.settle u).lane m) := by
  simp [State.settle]

@[simp] theorem State.sameMem_forceUnit (s : State) (u v : Nat) (m : LaneId) :
    (s.lane m).SameMem ((s.forceUnit u v).lane m) := by
  simp [State.forceUnit]

@[simp] theorem State.sameMem_tripUnit (s : State) (u src : Nat) (m : LaneId) :
    (s.lane m).SameMem ((s.tripUnit u src).lane m) := by
  fun_cases State.tripUnit <;> simp +zetaDelta

@[simp] theorem State.sameMem_clearTrip (s : State) (u : Nat) (m : LaneId) :
    (s.lane m).SameMem ((s.clearTrip u).lane m) := by
  simp [State.clearTrip]

@[simp] theorem State.sameMem_setPartial (s : State) (u : Nat) (m : LaneId) :
    (s.lane m).SameMem ((s.setPartial u).lane m) := by
  simp [State.setPartial]

@[simp] theorem State.sameMem_setDclamp (s : State) (u : Nat) (m : LaneId) :
    (s.lane m).SameMem ((s.setDclamp u).lane m) := by
  simp [State.setDclamp]

@[simp] theorem State.sameMem_transfer (s : State) (u : Nat) (per : Bool) (m : LaneId) :
    (s.lane m).SameMem ((s.transfer u per).lane m) := by
  simp [State.transfer]

@[simp] theorem State.sameMem_bridgeRef (s : State) (u : Nat) (h : Bool) (m : LaneId) :
    (s.lane m).SameMem ((s.bridgeRef u h).lane m) := by
  simp [State.bridgeRef]

@[simp] theorem State.sameMem_bridgePeriod (s : State) (u : Nat) (m : LaneId) :
    (s.lane m).SameMem ((s.bridgePeriod u).lane m) := by
  simp [State.bridgePeriod]

@[simp] theorem State.sameMem_channelPeriod (s : State) (n : Nat) (first : Bool) (m : LaneId) :
    (s.lane m).SameMem ((s.channelPeriod n first).lane m) := by
  simp [State.channelPeriod]

@[simp] theorem State.sameMem_startWave (s : State) (u : Nat) (m : LaneId) :
    (s.lane m).SameMem ((s.startWave u).lane m) := by
  simp [State.startWave]

@[simp] theorem State.sameMem_bridgeEn (s : State) (u : Nat) (on : Bool) (m : LaneId) :
    (s.lane m).SameMem ((s.bridgeEn u on).lane m) := by
  fun_cases State.bridgeEn <;> simp

@[simp] theorem State.sameMem_toLevel (s : State) (u : Nat) (on : Bool) (m : LaneId) :
    (s.lane m).SameMem ((s.toLevel u on).lane m) := by
  simp [State.toLevel]

@[simp] theorem State.sameMem_obeyCfg (s : State) (u : Nat) (old nv v : Word) (m : LaneId) :
    (s.lane m).SameMem ((s.obeyCfg u old nv v).lane m) := by
  simp [State.obeyCfg]

@[simp] theorem State.sameMem_lateHalf (s : State) (u : Nat) (isPer : Bool) (m : LaneId) :
    (s.lane m).SameMem ((s.lateHalf u isPer).lane m) := by
  simp [State.lateHalf]

@[simp] theorem State.sameMem_writeShadow (s : State) (l : LaneId) (u : Nat) (isPer : Bool) (v : Nat) (m : LaneId) :
    (s.lane m).SameMem ((s.writeShadow l u isPer v).lane m) := by
  simp [State.writeShadow]

@[simp] theorem State.sameMem_applyReg (s : State) (l : LaneId) (a : Nat) (v : Word) (m : LaneId) :
    (s.lane m).SameMem ((s.applyReg l a v).lane m) := by
  fun_cases State.applyReg <;> simp +zetaDelta

@[simp] theorem State.sameMem_actOn (s : State) (u : Nat) (a : PulseAct) (m : LaneId) :
    (s.lane m).SameMem ((s.actOn u a).lane m) := by
  unfold State.actOn
  split <;> simp

@[simp] theorem State.sameMem_runCmd (s : State) (l : LaneId) (c : PulseCmd) (m : LaneId) :
    (s.lane m).SameMem ((s.runCmd l c).lane m) := by
  fun_cases State.runCmd <;> simp +zetaDelta

@[simp] theorem State.sameMem_countLate (s : State) (l : LaneId) (c : PulseCmd) (m : LaneId) :
    (s.lane m).SameMem ((s.countLate l c).lane m) := by
  unfold State.countLate
  simp -implicitDefEqProofs

@[simp] theorem State.sameMem_checkModel (s : State) (l : LaneId) (m : LaneId) :
    (s.lane m).SameMem ((s.checkModel l).lane m) := by
  fun_cases State.checkModel <;> simp -implicitDefEqProofs

@[simp] theorem State.sameMem_takeHeld (s : State) (l : LaneId) (m : LaneId) :
    (s.lane m).SameMem ((s.takeHeld l).lane m) := by
  simp [State.takeHeld]

@[simp] theorem State.sameMem_stampEnt (s : State) (l : LaneId) (e : Nat) (m : LaneId) :
    (s.lane m).SameMem ((s.stampEnt l e).lane m) := by
  simp [State.stampEnt]

@[simp] theorem State.sameMem_outputsOff (s : State) (m : LaneId) :
    (s.lane m).SameMem (s.outputsOff.lane m) := by
  simp [State.outputsOff]

@[simp] theorem State.sameMem_setBank (s : State) (k : Nat) (b : BankSup) (m : LaneId) :
    (s.lane m).SameMem ((s.setBank k b).lane m) := by
  simp [State.setBank]

@[simp] theorem State.sameMem_markHold (s : State) (n : Nat) (m : LaneId) :
    (s.lane m).SameMem ((s.markHold n).lane m) := by
  simp [State.markHold]

@[simp] theorem State.sameMem_deferCh (s : State) (n : Nat) (m : LaneId) :
    (s.lane m).SameMem ((s.deferCh n).lane m) := by
  simp [State.deferCh]

@[simp] theorem State.sameMem_openWindow (s : State) (n : Nat) (auto : Bool) (m : LaneId) :
    (s.lane m).SameMem ((s.openWindow n auto).lane m) := by
  simp [State.openWindow]

@[simp] theorem State.sameMem_supplyExit (s : State) (m : LaneId) :
    (s.lane m).SameMem (s.supplyExit.lane m) := by
  simp [State.supplyExit]

@[simp] theorem State.sameMem_reportCopies (s : State) (l : LaneId) (m : LaneId) :
    (s.lane m).SameMem ((s.reportCopies l).lane m) := by
  simp [State.reportCopies]

@[simp] theorem State.sameMem_startLoader (s : State) (l : LaneId) (m : LaneId) :
    (s.lane m).SameMem ((s.startLoader l).lane m) := by
  simp [State.startLoader]

@[simp] theorem State.sameMem_payWake (s : State) (l : LaneId) (m : LaneId) :
    (s.lane m).SameMem ((s.payWake l).lane m) := by
  simp [State.payWake]

@[simp] theorem State.sameMem_showCopies (s : State) (l : LaneId) (m : LaneId) :
    (s.lane m).SameMem ((s.showCopies l).lane m) := by
  simp [State.showCopies]

@[simp] theorem State.sameMem_sendKey (s : State) (m : LaneId) :
    (s.lane m).SameMem (s.sendKey.lane m) := by
  unfold State.sendKey
  split <;> simp

@[simp] theorem State.sameMem_reportVlog (s : State) (l : LaneId) (m : LaneId) :
    (s.lane m).SameMem ((s.reportVlog l).lane m) := by
  simp [State.reportVlog]

@[simp] theorem State.sameMem_wakeBy (s : State) (src : Nat) (m : LaneId) :
    (s.lane m).SameMem ((s.wakeBy src).lane m) := by
  simp [State.wakeBy]

@[simp] theorem State.sameMem_refreshReady (s : State) (l : LaneId) (m : LaneId) :
    (s.lane m).SameMem ((s.refreshReady l).lane m) := by
  simp [State.refreshReady]

@[simp] theorem State.sameMem_loopCtl (s : State) (l : LaneId) (k : Nat) (v : Word) (m : LaneId) :
    (s.lane m).SameMem ((s.loopCtl l k v).lane m) := by
  unfold State.loopCtl
  extract_lets L was M t N P
  have cleared : (s.lane l).SameMem M := by
    unfold M
    split
    · exact Lane.sameMem_loopClrf ..
    · exact ⟨rfl, rfl⟩
  clear_value M
  have kept : (s.lane m).SameMem (t.lane m) := State.sameMem_set cleared m
  have same : t.lane l = M := State.lane_setLane ..
  clear_value t
  subst same
  split
  · split
    · refine kept.trans (State.sameMem_set ?_ m)
      exact (Lane.sameMem_setLoopAcc ..).trans ((Lane.sameMem_loopStart ..).trans (Lane.sameMem_loopRegs ..))
    · refine kept.trans (State.sameMem_set ?_ m)
      simp -implicitDefEqProofs [P]
  · exact State.sameMem_set (cleared.trans ((Lane.sameMem_loopWrite ..).trans (Lane.sameMem_loopRegs ..))) m

@[simp] theorem State.sameMem_landed (s : State) (l : LaneId) (c : Nat) (put : List Byte → Ctx → Ctx) (bs : List Byte) (m : LaneId) :
    (s.lane m).SameMem ((s.landed l c put bs).lane m) := by
  simp [State.landed]

@[simp] theorem State.sameMem_setAnt (s : State) (a : Nat) (x : AntSt) (m : LaneId) :
    (s.lane m).SameMem ((s.setAnt a x).lane m) := by cases m <;> exact ⟨rfl, rfl⟩

@[simp] theorem State.sameMem_lkCycle (s : State) (l : LaneId) (late : Bool) (m : LaneId) :
    (s.lane m).SameMem ((s.lkCycle l late).lane m) := by
  unfold State.lkCycle
  extract_lets tk peer mir
  unfold State.modLane
  exact State.sameMem_set ((s.lane l).sameMem_lkRun l tk peer mir late) m

@[simp] theorem State.sameMem_loopBoundary (s : State) (l : LaneId) (k : Nat) (sense : Option Word) (m : LaneId) :
    (s.lane m).SameMem ((s.loopBoundary l k sense).lane m) := by
  simp [State.loopBoundary]

@[simp] theorem State.sameMem_loopEvaluate (s : State) (l : LaneId) (k : Nat) (sn : LoopSnap) (m : LaneId) :
    (s.lane m).SameMem ((s.loopEvaluate l k sn).lane m) := by
  unfold State.loopEvaluate
  dsimp only
  split <;> simp

@[simp] theorem State.sameMem_passStamp (s : State) (pad stamp : Nat) (m : LaneId) :
    (s.lane m).SameMem ((s.passStamp pad stamp).lane m) := by
  simp [State.passStamp]

@[simp] theorem State.sameMem_seePads (s : State) (u src stamp : Nat) (m : LaneId) :
    (s.lane m).SameMem ((s.seePads u src stamp).lane m) := by
  unfold State.seePads
  extract_lets t
  have stamped : (s.lane m).SameMem (t.lane m) := State.sameMem_foldl (fun _ _ => by simp) _ s
  clear_value t
  rw [State.lane_bothLanes, State.lane_modDie]
  exact stamped.trans (Lane.sameMem_foldl (fun _ _ => Lane.sameMem_setFlag ..) _ _)

@[simp] theorem State.sameMem_openSig (s : State) (n : Nat) (on skip : Bool) (m : LaneId) :
    (s.lane m).SameMem ((s.openSig n on skip).lane m) := by
  simp [State.openSig]

@[simp] theorem State.sameMem_lockout (s : State) (n : Nat) (byEnergy : Bool) (m : LaneId) :
    (s.lane m).SameMem ((s.lockout n byEnergy).lane m) := by
  simp [State.lockout]

@[simp] theorem State.sameMem_cut (s : State) (n kind : Nat) (m : LaneId) :
    (s.lane m).SameMem ((s.cut n kind).lane m) := by
  simp [State.cut]

@[simp] theorem State.sameMem_beginRetry (s : State) (n : Nat) (m : LaneId) :
    (s.lane m).SameMem ((s.beginRetry n).lane m) := by
  simp [State.beginRetry]

@[simp] theorem State.sameMem_obeyCmd (s : State) (u : Nat) (c : PulseCmd) (m : LaneId) :
    (s.lane m).SameMem ((s.obeyCmd u c).lane m) := by
  unfold State.obeyCmd
  split <;> simp

@[simp] theorem State.sameMem_obeyPort (s : State) (u : Nat) (l : LaneId) (m : LaneId) :
    (s.lane m).SameMem ((s.obeyPort u l).1.lane m) := by
  unfold State.obeyPort
  dsimp only
  split <;> simp

@[simp] theorem State.sameMem_canWake (s : State) (b : Nat) (ok : Bool) (f : CanFrame) (dlc : Nat) (m : LaneId) :
    (s.lane m).SameMem ((s.canWake b ok f dlc).lane m) := by
  simp [State.canWake]

@[simp] theorem State.sameMem_direct (s : State) (l : LaneId) {f : Lane → Lane} (hf : ∀ L : Lane, L.SameMem (f L))
    (m : LaneId) : (s.lane m).SameMem ((s.direct l f).lane m) := by
  unfold State.direct
  split
  · exact ⟨rfl, rfl⟩
  · split
    · exact State.sameMem_modLane s l (fun _ => Lane.sameMem_bump ..) m
    · exact State.sameMem_modLane s l hf m

@[simp] theorem State.sameMem_writeSnap (s : State) (v : Word) (m : LaneId) :
    (s.lane m).SameMem ((s.writeSnap v).lane m) := by
  unfold State.writeSnap
  split
  · exact ⟨rfl, rfl⟩
  · cases m <;> exact ⟨rfl, rfl⟩

@[simp] theorem State.sameMem_mgFail (s : State) (m : LaneId) :
    (s.lane m).SameMem (s.mgFail.lane m) := by
  simp [State.mgFail]

@[simp] theorem State.sameMem_abandonPlan (s : State) (m : LaneId) :
    (s.lane m).SameMem (s.abandonPlan.lane m) := by
  simp [State.abandonPlan]

@[simp] theorem State.sameMem_afterSafe (s : State) (l : LaneId) (m : LaneId) :
    (s.lane m).SameMem ((s.afterSafe l).lane m) := by
  simp [State.afterSafe]

/-- A run of updates that carry a count beside the state. -/
theorem State.sameMem_foldl_fst {α β : Type} {f : State × β → α → State × β} {m : LaneId}
    (hf : ∀ (q : State × β) x, (q.1.lane m).SameMem ((f q x).1.lane m)) (xs : List α) (q : State × β) :
    (q.1.lane m).SameMem ((xs.foldl f q).1.lane m) := by
  induction xs generalizing q with
  | nil => exact ⟨rfl, rfl⟩
  | cons x xs ih => exact ⟨(ih _).1.trans (hf q x).1, (ih _).2.trans (hf q x).2⟩

theorem State.sameMem_absClk (s : State) (t : Tab Bool) (m : LaneId) :
    (s.lane m).SameMem (({ s with absClk := t } : State).lane m) := by cases m <;> exact ⟨rfl, rfl⟩

@[simp] theorem State.sameMem_takeControl (s : State) (l : LaneId) (gap : Nat) (m : LaneId) :
    (s.lane m).SameMem ((s.takeControl l gap).lane m) := by
  unfold State.takeControl
  extract_lets moved t all res u v w
  have act : (s.lane m).SameMem (t.lane m) := by simp [t]
  clear_value t
  have obeyed : (t.lane m).SameMem (res.1.lane m) := State.sameMem_foldl_fst (fun _ _ => by simp) _ (t, 0)
  clear_value res
  have safe : (res.1.lane m).SameMem (v.lane m) :=
    Lane.SameMem.trans (State.sameMem_afterSafe res.1 l m) (State.sameMem_absClk _ [] m)
  clear_value v
  have told : (v.lane m).SameMem (w.lane m) := State.sameMem_modLane v l (fun _ => by simp) m
  clear_value w
  refine ((act.trans obeyed).trans (safe.trans told)).trans ?_
  simp

@[simp] theorem State.sameMem_takeover (s : State) (l : LaneId) (m : LaneId) :
    (s.lane m).SameMem ((s.takeover l).lane m) := by
  simp [State.takeover]

@[simp] theorem State.sameMem_arbitrate (s : State) (m : LaneId) :
    (s.lane m).SameMem (s.arbitrate.lane m) := by
  fun_cases State.arbitrate <;> simp +zetaDelta

@[simp] theorem State.sameMem_sendChecks (s : State) (l : LaneId) (us : List Nat) (m : LaneId) :
    (s.lane m).SameMem ((s.sendChecks l us).lane m) := by
  simp [State.sendChecks]

@[simp] theorem State.sameMem_runOn (s : State) (m : LaneId) :
    (s.lane m).SameMem (s.runOn.lane m) := by
  simp [State.runOn]

@[simp] theorem State.sameMem_tick (s : State) (m : LaneId) :
    (s.lane m).SameMem (s.tick.lane m) := by
  simp [State.tick]

end Sys2Proof.Machine
end

