-- ==== Sys2Proof/Proofs/StateBuses.lean ====
section
/-!
SUPPORT. Lane resets and the register bus keep the form of the memories.
-/

namespace Sys2Proof.Machine

/-! ### State operations that write the memories: resets, buses and the speculation engine -/

theorem State.Canon.modSame {s : State} (h : s.Canon) (l : LaneId) {f : Lane → Lane} (hf : ∀ L : Lane, L.SameMem (f L)) :
    (s.modLane l f).Canon := h.same (State.sameMem_modLane s l hf)

theorem Lane.Canon.restarted {L : Lane} (a lo w v : Nat) (h : L.Canon) : (L.resetKeep.setFld a lo w v).Canon :=
  h.resetKeep.setFld _ _ _ _

section
variable {s : State} (h : s.Canon)
include h

theorem State.Canon.laneReset (l : LaneId) (give cause : Nat) : (s.laneReset l give cause).Canon := by
  unfold State.laneReset
  have given : (s.giveUp l give 0).Canon := h.same (fun _ => State.sameMem_giveUp ..)
  have cut : ((s.giveUp l give 0).cutLinks l).Canon := given.same (fun _ => State.sameMem_cutLinks ..)
  exact cut.modLane l (fun _ k => k.restarted _ _ _ _)

theorem State.Canon.laneFault (l : LaneId) (cause : Nat) : (s.laneFault l cause).Canon := h.laneReset l 1 cause

theorem State.Canon.takeFault (l : LaneId) (c cause : Nat) (addr : Option Word) : (s.takeFault l c cause addr).Canon :=
  (h.laneFault l 5).ite (h.modSame l (fun _ => Lane.sameMem_ctxFault ..))

theorem State.Canon.holdLane (l : LaneId) (cause : Nat) : (s.holdLane l cause).Canon := by
  unfold State.holdLane
  have cut : (s.cutLinks l).Canon := h.same (fun _ => State.sameMem_cutLinks ..)
  exact (cut.modLane l (fun _ k => k.restarted _ _ _ _)).modRind _

theorem State.Canon.restartLane (l : LaneId) : (s.restartLane l).Canon := by
  unfold State.restartLane
  have given : (if s.isActive l then s.giveUp l 1 0 else s).Canon := (h.same (fun _ => State.sameMem_giveUp ..)).ite h
  exact (given.same (State.sameMem_cutLinks _ l)).modLane l (fun _ k => k.restarted _ _ _ _)

/-! ### The register bus -/

theorem State.Canon.busSys (l : LaneId) (c a : Nat) (v : Word) : (s.busSys l c a v).Canon :=
  State.Canon.ite ((h.laneReset l 1 6).ite h)
    ((h.modSame l Lane.sameMem_kick).ite (h.same (fun _ => State.sameMem_plainW ..)))

theorem State.Canon.canDrain (l : LaneId) (c n : Nat) (fresh : Bool) : (s.canDrain l c n fresh).Canon := by
  induction n generalizing s fresh with
  | zero => rw [State.canDrain]; exact h
  | succ n ih =>
    rw [State.canDrain]
    have ended : ∀ res, (s.modLane l (fun L => L.canComplete c 8 res 0 0)).Canon := fun _ =>
      h.modLane l (fun _ k => k.canComplete _ _ _ _ _)
    refine h.ite (State.Canon.ite (ih (ended 4) true) ?_)
    split
    · exact ih (ended _) true
    · exact h

theorem State.Canon.canRequest (l : LaneId) (c : Nat) (v : Word) : (s.canRequest l c v).Canon := by
  refine (h.modSame l (fun _ => Lane.sameMem_mramErr ..)).ite (State.Canon.foldl (fun t j k => k.ite ?_) _ h)
  have flagged : (t.modLane l (fun L => L.setFlag (canReg c 0x38) j true)).Canon :=
    k.modSame l (fun _ => Lane.sameMem_setFlag ..)
  dsimp only
  split
  · exact flagged.modLane l (fun _ k => k.canComplete _ _ _ _ _)
  · exact flagged

theorem State.Canon.txrWrite (l : LaneId) (c : Nat) (v : Word) : (s.txrWrite l c v).Canon := by
  unfold State.txrWrite
  have written : (s.modLane l (fun L => L.wr (canReg c 0x48) (v &&& 0x7F))).Canon :=
    h.modSame l (fun _ => Lane.sameMem_wr ..)
  exact h.ite ((h.modSame l (fun _ => Lane.sameMem_mramErr ..)).ite (written.ite (written.canDrain l c 80 false)))

theorem State.Canon.canDone (l : LaneId) (c src : Nat) (sent : Bool) (att : Nat) (ts : Word) :
    (s.canDone l c src sent att ts).Canon := by
  unfold State.canDone
  extract_lets L wd res t u
  have ended : t.Canon := h.modLane l (fun _ k => k.canComplete _ _ _ _ _)
  clear_value t
  have counted : u.Canon := (ended.modSame l (fun _ => Lane.sameMem_canSentOk ..)).ite ended
  exact h.ite ((h.modSame l (fun _ => Lane.sameMem_mramErr ..)).ite (counted.ite (counted.canDrain l c 80 true)))

theorem State.Canon.busCan (l : LaneId) (a : Nat) (v : Word) : (s.busCan l a v).Canon := by
  unfold State.busCan
  extract_lets c o
  refine (h.same (fun _ => State.sameMem_canCtrl ..)).ite ?_
  refine (h.same (fun _ => State.sameMem_canInitWrite ..)).ite ?_
  refine (h.same (fun _ => State.sameMem_canConfig ..)).ite ?_
  refine (h.same (fun _ => State.sameMem_canConfig ..)).ite ?_
  refine (h.same (fun _ => State.sameMem_canConfig ..)).ite ?_
  refine (h.modSame l (fun _ => Lane.sameMem_strRelease ..)).ite ?_
  refine (h.modSame l (fun _ => Lane.sameMem_strRelease ..)).ite ?_
  refine (h.canRequest l c v).ite ?_
  refine (h.modSame l (fun _ => Lane.sameMem_canAbort ..)).ite ?_
  refine (h.txrWrite l c v).ite ?_
  exact (h.modSame l (fun _ => Lane.sameMem_canFlush ..)).ite (h.same (fun _ => State.sameMem_plainW ..))

theorem State.Canon.cfgWr (l : LaneId) : (s.cfgWr l).Canon := by
  unfold State.cfgWr
  extract_lets L i text head ct bs
  refine (h.modSame l Lane.sameMem_wrRef).ite (h.modLane l (fun M k => Lane.Canon.setFlag ?_ _ _ _))
  exact (k.same (Lane.sameMem_useFree M)).erased _ _ _

theorem State.Canon.busTrust (l : LaneId) (a : Nat) (v : Word) : (s.busTrust l a v).Canon := by
  unfold State.busTrust
  extract_lets t u
  have plain : t.Canon := h.same (fun _ => State.sameMem_plainW ..)
  have config : u.Canon := (h.cfgWr l).ite h
  clear_value t u
  refine State.Canon.ite ((plain.same (fun _ => State.sameMem_proofSwap ..)).ite plain) ?_
  refine State.Canon.ite ((h.same (fun _ => State.sameMem_commitFloor ..)).ite h) ?_
  refine (h.modSame l (fun _ => Lane.sameMem_enrGo ..)).ite ?_
  refine (h.same (fun _ => State.sameMem_writeCfgFloor ..)).ite ?_
  exact State.Canon.ite ((config.modLane l (fun _ k => k.pdWr)).ite config) (h.same (fun _ => State.sameMem_plainW ..))

theorem State.Canon.busWrite (l : LaneId) (c a : Nat) (v : Word) : (s.busWrite l c a v).Canon := by
  unfold State.busWrite
  split
  · exact h.busSys l c a v
  · exact h.modSame l (fun _ => Lane.sameMem_busLt ..)
  · exact h.modLane l (fun _ k => (k.same (Lane.sameMem_ctxCmd ..)).ite (k.same (Lane.sameMem_plainWrite ..)))
  · exact h.modLane l (fun _ k => (k.bankCfg _ _).ite (k.same (Lane.sameMem_plainWrite ..)))
  · exact h.modLane l (fun _ k => k.busSec a v)
  · exact h.modSame l (fun _ => Lane.sameMem_busFus ..)
  · exact h.modLane l (fun _ k => (k.same (Lane.sameMem_trkCtrl ..)).ite (k.same (Lane.sameMem_plainWrite ..)))
  · exact h.modLane l (fun _ k => k.busGns a v)
  · exact h.modSame l (fun _ => Lane.sameMem_busLkp ..)
  · exact h.modLane l (fun _ k => (k.same (Lane.sameMem_tblWrite ..)).ite (k.same (Lane.sameMem_plainWrite ..)))
  · exact h.same (fun _ => State.sameMem_busPulse ..)
  · exact h.same (fun _ => State.sameMem_busPulse ..)
  · exact h.same (fun _ => State.sameMem_busSwd ..)
  · exact h.modSame l (fun _ => Lane.sameMem_busEnc ..)
  · exact h.busCan l a v
  · exact h.modLane l (fun _ k => k.busEth _ a v)
  · exact h.busTrust l a v
  · exact h.busTrust l a v
  · exact h.busTrust l a v
  · exact h.same (fun _ => State.sameMem_plainW ..)

end

end Sys2Proof.Machine
end

