-- ==== Sys2Proof/Proofs/StateEngines.lean ====
section
/-!
SUPPORT. The speculation engine, the section cycle, the supply and boot keep the form of the memories.
-/

namespace Sys2Proof.Machine

/-! ### State operations that write the memories: the speculation engine, the section cycle, supply and boot -/

theorem Lane.Canon.keyed {L : Lane} (ks : Tab (List Byte)) (h : L.Canon) : ({ L with keys := ks } : Lane).Canon := h

theorem Lane.Canon.phased {L : Lane} (p : Phase) (h : L.Canon) : ({ L with phase := p } : Lane).Canon := h

theorem Lane.Canon.withSram {L : Lane} {m : List Host.Cell} (h : L.Canon) (k : Memory.wf m = true) :
    ({ L with sram := m } : Lane).Canon := ⟨k, h.2⟩

theorem State.Canon.clocked {s : State} {f : State → State} (k : (f s).Canon) : (s.clocked f).Canon :=
  k.same (State.sameMem_clocked s f)

section
variable {s : State} (h : s.Canon)
include h

/-! #### The speculation engine -/

theorem State.Canon.fireDue (l : LaneId) (e : Nat) : (s.fireDue l e).Canon := by
  unfold State.fireDue
  extract_lets x t
  have stamped : t.Canon := h.same (State.sameMem_stampEnt s l e)
  clear_value t
  refine State.Canon.ite (stamped.modLane l (fun M k => ?_)) h
  extract_lets y hd N P
  have fired : N.Canon := Lane.Canon.same (k.same (Lane.sameMem_setEnt ..)) (Lane.sameMem_markEdge ..)
  clear_value N
  have told : P.Canon := fired.ledger _
  clear_value P
  split
  · exact (told.drainFired _ _ _ _ _).same (Lane.sameMem_freeEnt ..)
  · exact told

theorem State.Canon.dueEnt (l : LaneId) (e : Nat) : (s.dueEnt l e).Canon :=
  (h.fireDue l e).modLane l (fun _ k => k.deadlineDue e)

theorem State.Canon.spxDrain (l : LaneId) (hd : Nat) : (s.spxDrain l hd).2.Canon := by
  unfold State.spxDrain
  split
  · exact h
  · next e _ =>
    extract_lets t x
    have due : t.Canon := h.dueEnt l e
    clear_value t
    simp only [State.snd_ite]
    refine due.ite (due.ite (State.Canon.ite (State.Canon.ite ?_ ?_) ?_))
    · exact due.modLane l (fun _ k => (k.drainFired _ _ _ _ _).same (Lane.sameMem_freeEnt ..))
    · exact due.modSame l (fun _ => Lane.sameMem_setEnt ..)
    · refine State.Canon.modLane (due.same (State.sameMem_stampEnt t l e)) l (fun M k => ?_)
      exact Lane.Canon.same (Lane.Canon.same ((k.spx _).same (Lane.sameMem_markEdge ..)) (Lane.sameMem_send ..))
        (Lane.sameMem_freeEnt ..)

theorem State.Canon.spxSet (l : LaneId) (hd : Nat) : (s.spxSet l hd).2.Canon := by
  unfold State.spxSet
  split
  · exact h
  · next e _ =>
    extract_lets t x
    have due : t.Canon := h.dueEnt l e
    clear_value t
    simp only [State.snd_ite]
    refine due.ite (due.ite (State.Canon.ite ?_ (due.modLane l (fun _ k => k.setEdgeOf _ _ _))))
    exact State.Canon.modLane (due.same (State.sameMem_stampEnt t l e)) l (fun _ k => k.setEdgeOf _ _ _)

theorem State.Canon.spxState (l : LaneId) (hd : Nat) : (s.spxState l hd).2.Canon := by
  unfold State.spxState
  split
  · exact h
  · exact h.dueEnt l _

theorem State.Canon.directEdge (l : LaneId) (ch : Nat) (level : Bool) (t : Nat) : (s.directEdge l ch level t).Canon := by
  refine h.modLane l (fun M k => ?_)
  extract_lets cond N dly P Q
  have paid : N.Canon := k.ite (k.same (Lane.sameMem_useFree ..))
  clear_value N
  have sent : P.Canon := Lane.Canon.same (paid.same (Lane.sameMem_sendCmd ..)) (Lane.sameMem_addEdge ..)
  clear_value P
  have noted : Q.Canon := sent.same (Lane.sameMem_noteSet ..)
  clear_value Q
  exact noted.ledger _

/-! #### The section cycle -/

theorem State.Canon.policy (l : LaneId) (polys : List (Bool × Poly)) (t0 : Nat) (cs : List (Nat × Bool))
    (e : SecEdge) : (s.policy l polys t0 cs e).Canon := by
  unfold State.policy
  extract_lets L setNow
  have dropped : ∀ {t : State} (b : Bool), t.Canon → (t.modLane l (fun L => L.dropEdge e b)).Canon :=
    fun _ k => k.modSame l (fun _ => Lane.sameMem_dropEdge ..)
  have drained : ((s.spxDrain l e.handle).2.modLane l (fun L => L.dropEdge e false)).Canon :=
    dropped _ (h.spxDrain l e.handle)
  refine State.Canon.ite ((dropped _ h).ite h) (State.Canon.ite ?_ (h.ite ?_))
  · exact h.modLane l (fun _ k => (k.sec _).ite (k.same (Lane.sameMem_dropEdge ..)))
  · refine drained.ite (drained.ite (State.Canon.ite ?_ h))
    exact (h.spxSet l e.handle).modLane l (fun _ k => k.sec _)

theorem State.Canon.nozzleCycle (l : LaneId) (polys : List (Bool × Poly)) (t0 : Nat) (acc : Said) (n : Nat) :
    (s.nozzleCycle l polys t0 acc n).1.Canon := by
  unfold State.nozzleCycle
  extract_lets L z horizon base cs mine at_ sorted t r
  have judged : t.Canon := State.Canon.foldl (fun u e k => k.policy l polys t0 cs e) _ h
  clear_value t
  exact judged.setLane l ((judged l).same (Lane.sameMem_issueAll ..))

theorem State.Canon.paint (l : LaneId) (t0 : Nat) : (s.paint l t0).Canon := by
  refine h.modLane l (fun M k => ?_)
  extract_lets hs N r
  have noted : N.Canon := Lane.Canon.foldl (fun _ _ k => k.same (Lane.sameMem_notePoint ..)) _ k
  clear_value N
  have painted : r.1.Canon := by
    refine Lane.Canon.foldl_fst (q := (N, 0)) ?_ _ noted
    exact fun q n k => k.paintNozzle n t0 hs
  clear_value r
  exact painted.same (Lane.sameMem_paintedOutside ..)

/-! #### Supply and power states -/

theorem State.Canon.lanesDown (p t : Nat) : (s.lanesDown p t).Canon := by
  have held : ∀ cause, ((s.holdLane .a cause).holdLane .b cause).Canon := fun c =>
    State.Canon.holdLane (h.holdLane .a c) .b c
  unfold State.lanesDown
  extract_lets keep
  refine State.Canon.ite ?_ ((held 3).ite h)
  have kept : ∀ l, Memory.wf (keep (s.lane l)) = true := fun l => Memory.wf_filter _ (h l).1
  exact State.Canon.modLane ((held 2).modLane .a (fun _ k => k.withSram (kept .a))) .b (fun _ k => k.withSram (kept .b))

theorem State.Canon.payWake (l : LaneId) : (s.payWake l).Canon := h.same (State.sameMem_payWake s l)

theorem State.Canon.enterPower (p t : Nat) : (s.enterPower p t).Canon := by
  unfold State.enterPower
  extract_lets a b c d
  have entered : a.Canon := State.Canon.clocked (h.modRind _)
  clear_value a
  have banks : b.Canon := entered.bothLanes (fun L k => Lane.Canon.bankPath p t (k.same (Lane.sameMem_netPower L p t)))
  clear_value b
  have down : c.Canon := banks.lanesDown p t
  clear_value c
  have resumed : d.Canon := down.bothLanes (fun L k => Lane.Canon.ethResume ((k.same (Lane.sameMem_restartWdog L)).ite k))
  clear_value d
  exact State.Canon.ite ((resumed.payWake .a).payWake .b) down

theorem State.Canon.loseVlog : s.loseVlog.Canon := by
  unfold State.loseVlog
  have held : ((s.holdLane .a 0).holdLane .b 0).Canon := (h.holdLane .a 0).holdLane .b 0
  exact State.Canon.modRind (held.same (State.sameMem_outputsOff _)) _

/-! #### Boot -/

theorem State.Canon.placeCfg (l : LaneId) : (s.placeCfg l).Canon := by
  unfold State.placeCfg
  extract_lets c root seq t
  have placed : t.Canon := by
    refine h.modLane l (fun M k => ?_)
    extract_lets N P Q
    have keyed : N.Canon := k.keyed _
    have shown : P.Canon := (keyed.setFld _ _ _ _).setFlag _ _ _
    have told : Q.Canon := ((shown.setFlag _ _ _).wr _ _).wr _ _
    exact told.ite (told.store _ _)
  clear_value t
  refine State.Canon.ite (placed.modLane l (fun _ k => k.raise _ _ _ _)) (State.Canon.ite ?_ placed)
  exact placed.same (State.sameMem_setMcnt t _ _)

theorem State.Canon.startImage (l : LaneId) : (s.startImage l).Canon := by
  unfold State.startImage
  extract_lets L load t u
  have begun : t.Canon := h.modLane l (fun M k => Lane.Canon.wr (Lane.Canon.wr (k.same (Lane.sameMem_modVault ..)) _ _) _ _)
  clear_value t
  have reported : (t.reportCopies l).Canon := begun.same (State.sameMem_reportCopies t l)
  have shown : ((t.reportCopies l).showCopies l).Canon := reported.same (State.sameMem_showCopies _ l)
  have placed : u.Canon := shown.placeCfg l
  clear_value u
  exact placed.modLane l (fun M k => Lane.Canon.same (k.same (Lane.sameMem_startSupervisor ..)) (Lane.sameMem_restartWdog _))

theorem State.Canon.startLoader (l : LaneId) : (s.startLoader l).Canon := h.same (State.sameMem_startLoader s l)

theorem State.Canon.bootLane (l : LaneId) : (s.bootLane l).Canon := by
  unfold State.bootLane
  extract_lets L mode t n u v
  have begun : t.Canon := h.modSame l (fun _ => Lane.sameMem_modVault ..)
  clear_value t
  have woken : u.Canon := State.Canon.payWake (begun.startImage l) l
  clear_value u
  have booted : v.Canon := by
    have keyed : (if u.isActive l then u.sendKey else u).Canon := (woken.same (State.sameMem_sendKey u)).ite woken
    refine State.Canon.ite (begun.modLane l (fun _ k => k.phased _)) ((begun.startLoader l).ite (keyed.ite ?_))
    exact State.Canon.startLoader (begun.modLane l (fun _ k => k.raise _ _ _ _)) l
  clear_value v
  exact booted.same (State.sameMem_reportVlog v l)

end

end Sys2Proof.Machine
end

