-- ==== Sys2Proof/Proofs/StateCores.lean ====
section
/-!
SUPPORT. Instructions, loads, stores and engine commands keep the form of the memories.
-/

namespace Sys2Proof.Machine

/-! ### What instructions and engine commands write to the memories -/

/-- What an instruction's own effect may do to the memories: nothing that breaks their form. -/
def IRes.Canon : IRes → Prop
  | .ok t => t.Canon
  | .fault _ _ | .hold => True

theorem IRes.Canon.fault (k : Nat) (a : Option Word) : (IRes.fault k a).Canon := trivial

theorem IRes.Canon.hold : IRes.hold.Canon := trivial

theorem IRes.Canon.ite {p : Prop} [Decidable p] {a b : IRes} (ha : a.Canon) (hb : b.Canon) :
    (if p then a else b).Canon := by
  split
  · exact ha
  · exact hb

/-- What an engine makes of a command keeps the form of the memories. -/
def XRes.Canon (r : XRes) : Prop := ∀ v t, r = some (v, t) → t.Canon

theorem XRes.Canon.refused : XRes.Canon none := fun _ _ h => by cases h

theorem XRes.Canon.taken {t : State} (v : Word) (h : t.Canon) : XRes.Canon (some (v, t)) := by
  rintro v' t' ⟨⟩
  exact h

theorem XRes.Canon.ite {p : Prop} [Decidable p] {q r : XRes} (hq : q.Canon) (hr : r.Canon) :
    XRes.Canon (if p then q else r) := by
  split
  · exact hq
  · exact hr

theorem XRes.Canon.handle {s : State} (l : LaneId) (c : Nat) (rs1 : RegNo) {f : State → Nat → Nat × State}
    (hf : ∀ n, (f s n).2.Canon) : (s.xHandle l c rs1 f).Canon :=
  XRes.Canon.ite XRes.Canon.refused (XRes.Canon.taken _ (State.Canon.modSame (hf _) l Lane.sameMem_spxTake))

section
variable {s : State} (h : s.Canon)
include h

theorem State.Canon.issue {body : IRes} (l : LaneId) (c : CtxNo) (wf priv : Bool) (hb : body.Canon) :
    (s.issue l c wf priv body).Canon := by
  unfold State.issue
  refine State.Canon.ite ?_ h
  split
  · exact h.takeFault l c _ _
  · refine h.ite ((h.takeFault l c 1 none).ite ((h.takeFault l c 2 none).ite ?_))
    split
    · exact hb
    · exact h.takeFault l c _ _
    · exact h

theorem IRes.Canon.onCtx (l : LaneId) (c : Nat) (f : Ctx → Ctx) : (s.onCtx l c f).Canon :=
  h.modSame l (fun _ => Lane.sameMem_modCtx ..)

theorem IRes.Canon.onLane (l : LaneId) (c : Nat) {f : Lane → Lane} (hf : ∀ L : Lane, L.SameMem (f L)) :
    (s.onLane l c f).Canon :=
  h.modSame l (fun L => (Lane.sameMem_modCtx L _ _).trans (hf _))

theorem State.Canon.alu (l : LaneId) (c : CtxNo) (rd : RegNo) (f : Ctx → Word) : (s.alu l c rd f).Canon :=
  h.issue l c true false (IRes.Canon.onCtx h l c _)

/-! #### Loads and stores -/

theorem State.Canon.landed (l : LaneId) (c : Nat) (put : List Byte → Ctx → Ctx) (bs : List Byte) :
    (s.landed l c put bs).Canon := h.same (State.sameMem_landed s l c put bs)

theorem State.Canon.ecc (l : LaneId) (a n : Nat) : (s.setLane l ((s.lane l).eccAccess a n).1).Canon :=
  h.setLane l ((h l).same (Lane.sameMem_eccAccess ..))

theorem IRes.Canon.loadFrom (l : LaneId) (c a n : Nat) (put : List Byte → Ctx → Ctx) :
    (s.loadFrom l c a n put).Canon := by
  unfold State.loadFrom
  dsimp only
  split
  · exact IRes.Canon.ite IRes.Canon.hold (IRes.Canon.ite ((h.ecc l a n).laneFault l 5) ((h.ecc l a n).landed l c put _))
  · exact h.landed l c put _
  · exact h.landed l c put _
  · exact State.Canon.landed (h.same (State.sameMem_busRead s l c a)) l c put _
  · exact IRes.Canon.fault _ _

theorem IRes.Canon.load (l : LaneId) (c a n : Nat) (wordOp : Bool) (put : List Byte → Ctx → Ctx) :
    (s.load l c a n wordOp put).Canon := by
  unfold State.load
  split
  · exact IRes.Canon.fault _ _
  · exact IRes.Canon.loadFrom h l c a n put

theorem State.Canon.loadIns (l : LaneId) (c : CtxNo) (wf : Bool) (rs1 : RegNo) (off : BitVec 14) (n : Nat)
    (wordOp : Bool) (put : List Byte → Ctx → Ctx) : (s.loadIns l c wf rs1 off n wordOp put).Canon :=
  h.issue l c wf false (IRes.Canon.load h l c _ n wordOp put)

theorem IRes.Canon.storeSram (l : LaneId) (c a : Nat) (bs : List Byte) (clash : List Clash) :
    (s.storeSram l c a bs clash).Canon := by
  unfold State.storeSram
  extract_lets L e M
  have checked : e.1.Canon := by
    unfold e
    rw [Lane.fst_ite]
    exact ((h l).same (Lane.sameMem_eccAccess ..)).ite (h l)
  clear_value e
  have stored : M.Canon := Lane.Canon.store a bs (checked.same (Lane.sameMem_modCtx ..))
  clear_value M
  refine IRes.Canon.ite IRes.Canon.hold (IRes.Canon.ite ((h.setLane l checked).laneFault l 5) ?_)
  exact h.setLane l (Lane.Canon.foldl (fun _ k hm => hm.clashWith _ _ _ k) clash stored)

theorem IRes.Canon.storeTo (l : LaneId) (c a : Nat) (bs : List Byte) (clash : List Clash) :
    (s.storeTo l c a bs clash).Canon := by
  unfold State.storeTo
  extract_lets t
  have stepped : t.Canon := h.modSame l (fun _ => Lane.sameMem_modCtx ..)
  clear_value t
  split
  · exact IRes.Canon.storeSram h l c a bs clash
  · exact stepped.modSame l (fun _ => Lane.sameMem_ctxFileStore ..)
  · exact stepped.busWrite l c a _
  · exact IRes.Canon.fault _ _
  · exact IRes.Canon.fault _ _

theorem State.Canon.storeIns (l : LaneId) (c : CtxNo) (wf : Bool) (rs1 : RegNo) (off : BitVec 14) (n : Nat)
    (wordOp : Bool) (get : Ctx → Nat) (clash : List Clash) : (s.storeIns l c wf rs1 off n wordOp get clash).Canon := by
  refine h.issue l c wf false ?_
  split
  · exact IRes.Canon.fault _ _
  · exact IRes.Canon.storeTo h _ _ _ _ _

/-! #### Engine commands -/

theorem State.Canon.xIssue (l : LaneId) (c : CtxNo) (rd : RegNo) (wf full : Bool) (i : Instr) {r : XRes}
    (hr : r.Canon) : (s.xIssue l c rd wf full i r).Canon := by
  refine h.issue l c wf false (IRes.Canon.ite (h.modSame l (fun _ => Lane.sameMem_beginWait ..)) ?_)
  split
  · exact IRes.Canon.fault _ _
  · next v t => exact State.Canon.modSame (hr v t rfl) l (fun _ => Lane.sameMem_goOn ..)

theorem State.Canon.xRefuse (l : LaneId) (c : Nat) : (s.xRefuse l c).Canon :=
  (h.laneFault l 5).ite (h.modSame l (fun _ => Lane.sameMem_ctxFault ..))

theorem XRes.Canon.edge (l : LaneId) (c : Nat) (rs1 rs2 : RegNo) : (s.xEdge l c rs1 rs2).Canon := by
  unfold State.xEdge
  dsimp only
  cases edgeDesc (((s.lane l).ctx c).rx rs1) with
  | none => exact XRes.Canon.refused
  | some d => exact XRes.Canon.taken _ (h.directEdge l _ _ _)

theorem XRes.Canon.pair (l : LaneId) (c : Nat) (rs1 rs2 rs3 : RegNo) : (s.xPair l c rs1 rs2 rs3).Canon :=
  XRes.Canon.ite (XRes.Canon.taken _ (h.modSame l (fun _ => Lane.sameMem_sendCmd ..))) XRes.Canon.refused

theorem XRes.Canon.curd (l : LaneId) (c : Nat) (rs1 rs2 rs3 : RegNo) : (s.xCurd l c rs1 rs2 rs3).Canon := by
  unfold State.xCurd
  dsimp only
  split
  · exact XRes.Canon.refused
  · refine XRes.Canon.ite XRes.Canon.refused (XRes.Canon.taken _ (h.setLane l ?_))
    exact Lane.Canon.same ((h l).same (Lane.sameMem_curd ..)) (Lane.sameMem_spxTake _)

theorem XRes.Canon.set (l : LaneId) (c : Nat) (rs1 : RegNo) : (s.xSet l c rs1).Canon :=
  XRes.Canon.handle l c rs1 (h.spxSet l)

theorem XRes.Canon.drain (l : LaneId) (c : Nat) (rs1 : RegNo) : (s.xDrain l c rs1).Canon :=
  XRes.Canon.handle l c rs1 (h.spxDrain l)

theorem XRes.Canon.crdst (l : LaneId) (c : Nat) (rs1 : RegNo) : (s.xCrdst l c rs1).Canon :=
  XRes.Canon.handle l c rs1 (h.spxState l)

theorem XRes.Canon.mat (l : LaneId) (c op : Nat) (rs1 rs2 : RegNo) (rs3 : Nat) (nb : Bool) :
    (s.xMat l c op rs1 rs2 rs3 nb).Canon :=
  XRes.Canon.ite XRes.Canon.refused (XRes.Canon.taken _ (h.modLane l (fun _ k => k.mat _)))

theorem XRes.Canon.lpwr (l : LaneId) (c : Nat) (rs1 rs2 : RegNo) (p : Nat) : (s.xLpwr l c rs1 rs2 p).Canon := by
  refine XRes.Canon.ite XRes.Canon.refused (XRes.Canon.ite (XRes.Canon.taken _ ?_) (XRes.Canon.taken _ ?_))
  · exact State.Canon.modSame (h.same (State.sameMem_loopCtl s l _ _)) l (fun _ => Lane.sameMem_lpeTake ..)
  · exact h.setLane l (Lane.Canon.same ((h l).same (Lane.sameMem_loopWrite ..)) (Lane.sameMem_lpeTake ..))

theorem XRes.Canon.lprd (l : LaneId) (c : Nat) (rs1 : RegNo) (p : Nat) : (s.xLprd l c rs1 p).Canon :=
  XRes.Canon.ite XRes.Canon.refused (XRes.Canon.taken _ (h.modSame l (fun _ => Lane.sameMem_lpeTake ..)))

theorem XRes.Canon.lphold (l : LaneId) (c : Nat) (rs1 rs2 : RegNo) : (s.xLphold l c rs1 rs2).Canon := by
  refine XRes.Canon.ite XRes.Canon.refused (XRes.Canon.taken _ (h.setLane l ?_))
  exact Lane.Canon.same (Lane.Canon.same ((h l).same (Lane.sameMem_loopWrite ..)) (Lane.sameMem_loopRegs _))
    (Lane.sameMem_lpeTake ..)

/-- What an engine makes of a command that waits keeps the form of the memories. -/
theorem XRes.Canon.answer {l : LaneId} {c : Nat} {i : Instr} {full : Bool} {r : XRes}
    (hr : s.xAnswer l c i = some (full, r)) : r.Canon := by
  unfold State.xAnswer at hr
  dsimp only at hr
  split at hr <;> cases hr
  · exact XRes.Canon.edge h l c _ _
  · exact XRes.Canon.pair h l c _ _ _
  · exact XRes.Canon.curd h l c _ _ _
  · exact XRes.Canon.set h l c _
  · exact XRes.Canon.drain h l c _
  · exact XRes.Canon.crdst h l c _
  · exact XRes.Canon.lpwr h l c _ _ _
  · exact XRes.Canon.lprd h l c _ _
  · exact XRes.Canon.lphold h l c _ _
  all_goals exact XRes.Canon.mat h l c _ _ _ _ _

end

end Sys2Proof.Machine
end

