-- ==== Sys2Proof/Proofs/StatePorts.lean ====
section
/-!
SUPPORT. The host port and the management port keep the form of the memories.
-/

namespace Sys2Proof.Machine

/-! ### The host port and the management port -/

theorem Ans.canon_fail {t : State} (r : Nat) (h : t.Canon) : (Ans.fail t r).st.Canon := h

theorem Ans.canon_ok {t : State} (pay : List Byte) (h : t.Canon) : (Ans.ok t pay).st.Canon := h

theorem Lane.Canon.withFlash {L : Lane} {m : List Host.Cell} (h : L.Canon) (k : Tab.wf m 0xFF = true) :
    ({ L with flash := m } : Lane).Canon := ⟨h.1, k⟩

section
variable {s : State} (h : s.Canon)
include h

theorem State.Canon.answer (l : LaneId) (f : Frame) {body : State → List Byte → Ans}
    (hb : ∀ t pay, State.Canon t → (body t pay).st.Canon) : (s.answer l f body).Canon := by
  unfold State.answer
  extract_lets L r x a
  have acted : a.st.Canon := hb _ _ h
  clear_value a
  refine State.Canon.ite (h.modLane l (fun M k => ?_)) (acted.ite ?_)
  · exact Lane.Canon.same (Lane.Canon.same (k.same (Lane.sameMem_noteFailure ..)) (Lane.sameMem_countRefused ..))
      (Lane.sameMem_keepResp ..)
  · exact State.Canon.modSame (acted.modSame l (fun _ => Lane.sameMem_countReq ..)) l (fun _ => Lane.sameMem_keepResp ..)

theorem State.Canon.command (l : LaneId) (op : Nat) (f : List Byte) {body : State → List Byte → Ans}
    (hb : ∀ t pay, State.Canon t → (body t pay).st.Canon) : (s.command l op f body).Canon :=
  h.ite (State.Canon.ite (h.modSame l (fun _ => Lane.sameMem_bump ..))
    (State.Canon.answer (h.modSame l Lane.sameMem_loseResp) l _ hb))

theorem State.Canon.sessInit (l : LaneId) (ses : Nat) (pay : List Byte) : (s.sessInit l ses pay).st.Canon := by
  unfold State.sessInit
  extract_lets L
  split
  · exact Ans.canon_fail _ (h.modLane l (fun _ k => k.raise _ _ _ _))
  · split
    · exact h
    · split
      · exact h
      · refine Ans.canon_ok _ (h.modLane l (fun M k => Lane.Canon.raise ?_ _ _ _ _))
        exact Lane.Canon.same (Lane.Canon.same (k.same (Lane.sameMem_useFree ..)) (Lane.sameMem_modVault ..))
          (Lane.sameMem_setSess ..)

theorem State.Canon.evRead (l : LaneId) (stamp : Nat) (pay : List Byte) : (s.evRead l stamp pay).st.Canon := by
  unfold State.evRead
  extract_lets n es
  split
  · exact h
  · split
    · exact h
    · exact h

theorem State.Canon.msgWrite (l : LaneId) (pay : List Byte) : (s.msgWrite l pay).st.Canon := by
  unfold State.msgWrite
  extract_lets L wr rd
  split
  · exact Ans.canon_fail _ (h.modSame l (fun _ => Lane.sameMem_msgRefused ..))
  · split
    · exact h
    · refine Ans.canon_ok _ (h.modLane l (fun M k => ?_))
      exact Lane.Canon.same ((k.store _ _).setFld _ _ _ _) (Lane.sameMem_postMsg ..)

theorem State.Canon.msgStep (l : LaneId) {next : State → Ans} (hn : ∀ t : State, t.Canon → (next t).st.Canon) :
    (s.msgStep l next).st.Canon := by
  unfold State.msgStep
  extract_lets L rd
  split
  · exact h
  · split
    · exact Ans.canon_fail _ (h.modSame l (fun _ => Lane.sameMem_msgRefused ..))
    · extract_lets w
      split
      · exact hn _ (h.modLane l (fun M k => Lane.Canon.bump (k.setFld _ _ _ _) _))
      · exact h

theorem State.Canon.msgRead (l : LaneId) (n : Nat) : (s.msgRead l n).st.Canon := by
  induction n generalizing s with
  | zero => exact h
  | succ n ih =>
    rw [State.msgRead_succ]
    exact h.msgStep l (fun _ k => ih k)

theorem State.Canon.corrH (l : LaneId) (pay : List Byte) : (s.corrH l pay).st.Canon := by
  unfold State.corrH
  extract_lets L
  split
  · exact h
  · split
    · exact Ans.canon_ok _ (h.modSame l (fun _ => Lane.sameMem_modGns ..))
    · exact Ans.canon_ok _ (h.modLane l (fun _ k => k.bump _))

theorem State.Canon.engRead (l : LaneId) (m : Master) (a n : Nat) :
    (s.setLane l ((s.lane l).engRead m a n).2).Canon := h.setLane l ((h l).same (Lane.sameMem_engRead ..))

theorem State.Canon.tileTake (l : LaneId) : (s.tileTake l).st.Canon := by
  unfold State.tileTake
  extract_lets L r
  have read : (s.setLane l r.2).Canon := h.engRead l _ _ _
  clear_value r
  split
  · exact h
  · exact read

theorem State.Canon.tileReq (l : LaneId) : (s.tileReq l).st.Canon := by
  unfold State.tileReq
  split
  · exact h
  · exact Ans.canon_ok _ (h.engRead l _ _ _)

theorem State.Canon.tileAns (l : LaneId) (pay : List Byte) : (s.tileAns l pay).st.Canon := by
  unfold State.tileAns
  split
  · exact h
  · exact Ans.canon_ok _ (h.modLane l (fun _ k => (k.engWrite _ _ _).wr _ _))

theorem State.Canon.ldgRead (l : LaneId) : (s.ldgRead l).st.Canon := by
  unfold State.ldgRead
  extract_lets L
  split
  · exact h
  · exact h

/-! #### Updates -/

theorem State.Canon.updAns (l : LaneId) (code : Nat) : (updAns s l code).st.Canon := h

theorem State.Canon.updBegin (l : LaneId) (ses : Nat) (pay : List Byte) (low : Bool) :
    (s.updBegin l ses pay low).st.Canon := by
  unfold State.updBegin
  extract_lets total code run
  split
  · exact h.updAns l _
  · exact State.Canon.updAns (h.modSame l (fun _ => Lane.sameMem_modHost ..)) l 0

theorem State.Canon.updData (l : LaneId) (ses : Nat) (pay : List Byte) (low : Bool) :
    (s.updData l ses pay low).st.Canon := by
  unfold State.updData
  split
  · exact h.updAns l _
  · split
    · exact h.updAns l _
    · extract_lets ofs bs
      split
      · exact h.updAns l _
      · split
        · exact h.updAns l _
        · split
          · exact h.updAns l _
          · refine State.Canon.updAns (h.modLane l (fun M k => ?_)) l 0
            extract_lets N
            have noted : N.Canon := k.same (Lane.sameMem_modHost ..)
            clear_value N
            exact noted.withFlash (Flash.wf_write _ _ (Flash.wf_erase _ _ k.2))

theorem State.Canon.updEnd (l : LaneId) (ses : Nat) : (s.updEnd l ses).st.Canon := by
  unfold State.updEnd
  split
  · exact h.updAns l _
  · split
    · exact h.updAns l _
    · split
      · exact h.updAns l _
      · exact h.restartLane l

theorem State.Canon.upd (l : LaneId) (ses : Nat) (pay : List Byte) (low : Bool) : (s.upd l ses pay low).st.Canon := by
  unfold State.upd
  split
  · exact h
  · split
    · exact h.updBegin l ses pay low
    · split
      · exact h
      · exact h.updData l ses pay low
    · exact h.updEnd l ses
    · exact h.updAns l 0
    · exact h

theorem State.Canon.updRow (l : LaneId) (f : List Byte) (sub : Nat) (low : Bool) : (s.updRow l f sub low).Canon :=
  h.ite (h.command l 0x70 f (fun _ _ k => k.upd l _ _ low))

/-! #### The management port -/

theorem State.Canon.holdOff (v : Word) (l : LaneId) :
    (if bitOf v (laneNo l) && !s.laneOff l then (if s.isActive l then s.giveUp l 4 0 else s).holdLane l 8
      else s).Canon := by
  have given : (if s.isActive l then s.giveUp l 4 0 else s).Canon := (h.same (State.sameMem_giveUp s l 4 0)).ite h
  exact (given.holdLane l 8).ite h

theorem State.Canon.writeLaneOff (v : Word) : (s.writeLaneOff v).1.Canon := by
  unfold State.writeLaneOff
  split
  · exact h
  · exact State.Canon.modRind (State.Canon.holdOff (h.holdOff v .a) v .b) _

theorem State.Canon.protectedWrite (a : Nat) (v : Word) : (s.protectedWrite a v).1.Canon := by
  unfold State.protectedWrite
  simp only [State.fst_ite]
  refine State.Canon.ite (h.same (State.sameMem_writePower s _ v)) (State.Canon.ite (h.writeLaneOff v) ?_)
  refine State.Canon.ite ((h.same (State.sameMem_proofSwap s)).ite h) ?_
  exact (h.same (State.sameMem_writeSnap s v)).ite h

theorem State.Canon.mgGo : s.mgGo.Canon := by
  unfold State.mgGo
  extract_lets r t w
  have numbered : t.Canon := h.modRind _
  clear_value t
  refine State.Canon.ite (numbered.modRind _) ?_
  split
  · exact numbered.modRind _
  · refine State.Canon.ite ?_ (numbered.same (State.sameMem_mgFail t))
    exact State.Canon.modRind (numbered.protectedWrite _ _) _

theorem State.Canon.mgmtWord (a : Nat) (v : Word) : (s.mgmtWord a v).Canon :=
  h.mgGo.ite ((h.modRind _).ite ((h.modRind _).ite h))

theorem State.Canon.wakeBy (src : Nat) : (s.wakeBy src).Canon := h.same (State.sameMem_wakeBy s src)

end

end Sys2Proof.Machine
end

