-- ==== Sys2Proof/Proofs/MemoryCommands.lean ====
section
/-!
SUPPORT. The commands that write the memories keep their form.
-/

namespace Sys2Proof.Machine

/-! ### Commands that may write the memories -/

/-- The next state, where there is one, has its memories in canonical form. -/
def KeepsCanon (o : Host.Outcome State Fault Refusal) : Prop := ∀ t, o = .next t → t.Canon

theorem KeepsCanon.next {t : State} (h : t.Canon) : KeepsCanon (.next t) := by
  rintro u ⟨⟩
  exact h

theorem KeepsCanon.fault (f : Fault) : KeepsCanon (.fault f) := fun _ h => by cases h

theorem Lane.sameMem_ecc (L : Lane) (t : Tab Nat) : L.SameMem { L with ecc := t } := ⟨rfl, rfl⟩

theorem Lane.Canon.written {L : Lane} (a : Nat) (bs : List Byte) (v : Vault) (h : L.Canon) :
    ({ L with flash := Flash.write L.flash a bs, vault := v } : Lane).Canon := ⟨h.1, Flash.wf_write a bs h.2⟩

/-- What the section cycle does before its nozzles. -/
def Lane.sectioned (l : LaneId) (t0 : Nat) (L : Lane) : Lane :=
  let L := { L with sec := { L.sec with t0 := t0, rejSaid := false } }
  let L := (((L.checkExclusion).takeLayers).checkMeters).mergeTiles 31
  let L := (L.page l).askTiles 256
  let L := (L.blend t0 L.calA).takePressure t0
  L.nozzles.foldl (fun L n => L.nozzleDelays n) L.rowWindows

theorem Lane.Canon.sectioned {L : Lane} (l : LaneId) (t0 : Nat) (h : L.Canon) : (L.sectioned l t0).Canon := by
  unfold Lane.sectioned
  extract_lets c M N P Q
  have begun : M.Canon := h.sec _
  clear_value M
  have merged : N.Canon := Lane.Canon.mergeTiles 31 (Lane.Canon.same (Lane.Canon.same
    (begun.same (Lane.sameMem_checkExclusion _)) (Lane.sameMem_takeLayers _)) (Lane.sameMem_checkMeters _))
  clear_value N
  have paged : P.Canon := (merged.page l).askTiles 256
  clear_value P
  have blended : Q.Canon := Lane.Canon.same (paged.same (Lane.sameMem_blend ..)) (Lane.sameMem_takePressure ..)
  clear_value Q
  exact Lane.Canon.foldl (fun _ _ k => k.same (Lane.sameMem_nozzleDelays ..)) _ blended.rowWindows

theorem State.Canon.foldl_nozzleCycle (l : LaneId) (polys : List (Bool × Poly)) (t0 : Nat) (ns : List Nat)
    (acc : State × Said) (h : acc.1.Canon) :
    (ns.foldl (fun a n => a.1.nozzleCycle l polys t0 a.2 n) acc).1.Canon := by
  induction ns generalizing acc with
  | nil => exact h
  | cons n ns ih => exact ih _ (h.nozzleCycle l polys t0 acc.2 n)

section
variable {s : State} (h : s.Canon)
include h

theorem KeepsCanon.registerWrite (l : LaneId) (addr : Word) (v : SyncWord) :
    KeepsCanon (execRegisterWrite l addr v s) := by
  unfold execRegisterWrite
  split
  · exact .next (State.Canon.same (h.busWrite l 0 addr.toNat v.value) (State.sameMem_setSame _ l _ _))
  · exact .fault _

/-! #### Cores and engine commands -/

theorem KeepsCanon.illegalEncoding (l : LaneId) (c : CtxNo) (w : Word) : KeepsCanon (execIllegalEncoding l c w s) :=
  .next ((h.issue l c false false IRes.Canon.hold).ite h)

theorem KeepsCanon.jlr (l : LaneId) (c : CtxNo) (rd rs1 : RegNo) (imm : BitVec 14) :
    KeepsCanon (execJlr l c rd rs1 imm s) :=
  .next (h.issue _ _ _ _ (.ite (.fault _ _) (h.modSame l (fun _ => Lane.sameMem_modCtx ..))))

theorem KeepsCanon.brk (l : LaneId) (c : CtxNo) : KeepsCanon (execBrk l c s) :=
  .next (h.issue _ _ _ _ (.ite (h.modSame l (fun L => Lane.sameMem_debugHalt L)) (.fault _ _)))

theorem KeepsCanon.relinq (l : LaneId) (c : CtxNo) (rs1 : RegNo) : KeepsCanon (execRelinq l c rs1 s) :=
  .next (h.issue _ _ _ _ (.ite
    (State.Canon.same (h.modSame l (fun _ => Lane.sameMem_modCtx ..)) (State.sameMem_giveUp _ l 3 _)) (.fault _ _)))

theorem KeepsCanon.lkacq (l : LaneId) (c : CtxNo) (rd : RegNo) (tm : Bool) (rs2 : RegNo) (n : BitVec 8) :
    KeepsCanon (execLkacq l c rd tm rs2 n s) :=
  .next (h.issue _ _ _ _ (.ite (.fault _ _) (h.modSame l (fun L => by
    split
    · exact (Lane.sameMem_goOn ..).trans (Lane.sameMem_setLock ..)
    · exact Lane.sameMem_beginWait ..))))

theorem KeepsCanon.lkrel (l : LaneId) (c : CtxNo) (n : BitVec 8) : KeepsCanon (execLkrel l c n s) :=
  .next (h.issue _ _ _ _ (.ite (.onLane h _ _ (fun _ => Lane.sameMem_passLock ..)) (.fault _ _)))

theorem KeepsCanon.mwait (l : LaneId) (c : CtxNo) (rd rs1 : RegNo) : KeepsCanon (execMwait l c rd rs1 s) :=
  .next (h.issue _ _ _ _ (h.modSame l (fun L => by
    dsimp only
    split
    · exact Lane.sameMem_goOn ..
    · exact Lane.sameMem_beginWait ..)))

theorem KeepsCanon.qget (l : LaneId) (c : CtxNo) (rd rs1 : RegNo) (tm : Bool) (rs2 : RegNo) (n : BitVec 8) :
    KeepsCanon (execQget l c rd rs1 tm rs2 n s) :=
  .next (h.issue _ _ _ _ (h.modSame l (fun L => by
    split
    · exact ((Lane.sameMem_goOn ..).trans (Lane.sameMem_modCtx ..)).trans
        ((Lane.sameMem_setQueue ..).trans (Lane.sameMem_queueSpace ..))
    · exact Lane.sameMem_beginWait ..)))

theorem KeepsCanon.engineCommandAccept (l : LaneId) (c : CtxNo) : KeepsCanon (execEngineCommandAccept l c s) := by
  refine .next ?_
  split
  · exact h
  · split
    · exact h
    · exact h
    · exact h.xRefuse l c
    · next v t k => exact State.Canon.modSame (XRes.Canon.answer h k v t rfl) l (fun _ => Lane.sameMem_finishWait ..)

theorem KeepsCanon.matrixCommandComplete (l : LaneId) : KeepsCanon (execMatrixCommandComplete l s) := by
  refine .next (State.Canon.ite (h.modLane l (fun L k => ?_)) h)
  split
  · exact k
  · exact k.matComplete.same (Lane.sameMem_lkMatrixDone ..)

/-! #### Supply, reset and boot -/

theorem KeepsCanon.resetNAssert : KeepsCanon (execResetNAssert s) := by
  have held : ((s.holdLane .a 1).holdLane .b 1).Canon := State.Canon.holdLane (h.holdLane .a 1) .b 1
  exact .next (h.ite (State.Canon.modRind (held.same (State.sameMem_outputsOff _)) _))

theorem KeepsCanon.vlogLoss : KeepsCanon (execVlogLoss s) := .next (State.Canon.ite (State.Canon.clocked h.loseVlog) h)

theorem KeepsCanon.pwrTransitionComplete : KeepsCanon (execPwrTransitionComplete s) := by
  refine .next ?_
  split
  · exact h.enterPower _ _
  · exact h

theorem KeepsCanon.parkBurstEnd (sats : List (Fin 4 × Fin 64)) : KeepsCanon (execParkBurstEnd sats s) := by
  have ended : (s.modRind (fun r => r.setFlag 0x104 3 false)).Canon := h.modRind _
  refine .next (State.Canon.ite ?_ h)
  dsimp only
  split
  · exact State.Canon.ite (ended.modLane _ (fun _ k => k.writeAid)) ended
  · exact ended

theorem KeepsCanon.watchdogExpiry (l : LaneId) : KeepsCanon (execWatchdogExpiry l s) :=
  .next (State.Canon.ite ((h.laneFault l 4).modLane l (fun _ k => k.setFlag _ _ _)) h)

theorem KeepsCanon.loaderRestart (l : LaneId) : KeepsCanon (execLoaderRestart l s) := by
  refine .next ?_
  split
  · exact State.Canon.ite (State.Canon.restartLane (h.modSame l (fun _ => Lane.sameMem_modVault ..)) l) h
  · exact h

theorem KeepsCanon.scrub (l : LaneId) (a : SramWord) (err : Fin 3) : KeepsCanon (execScrub l a err s) := by
  refine .next (State.Canon.ite ?_ h)
  split
  · exact h
  · exact h.modSame l (fun _ => Lane.sameMem_corrected ..)
  · have marked : (s.modLane l (fun L => { L with ecc := Tab.set L.ecc 0 a.val 2 }.ueAddr (4 * a.val))).Canon :=
      h.modSame l (fun L => (Lane.sameMem_ecc L _).trans (Lane.sameMem_ueAddr ..))
    exact State.Canon.ite (marked.modLane l (fun _ k => k.setFlag _ _ _)) (marked.laneFault l 5)

/-! #### Engines -/

theorem KeepsCanon.drainLateCancel (l : LaneId) (hd : BitVec 22) : KeepsCanon (execDrainLateCancel l hd s) := by
  refine .next ?_
  split
  · exact h
  · refine h.modLane l (fun L k => ?_)
    dsimp only
    exact Lane.Canon.setFlag (Lane.Canon.drainFired _ _ _ _ _ ((k.spx _).ledger _)) _ _ _

theorem KeepsCanon.ledgerBlockSeal (l : LaneId) : KeepsCanon (execLedgerBlockSeal l s) :=
  .next (h.modLane l (fun _ k => (k.sealBlock l).ite k))

theorem KeepsCanon.pageEnable (l : LaneId) : KeepsCanon (execPageEnable l s) :=
  .next (h.modLane l (fun _ k => k.ite (k.setFlag _ _ _).pageEnable))

theorem KeepsCanon.signatureWindowEnd (n : ChNo) (i0 : Rat) (xs : List Rat) :
    KeepsCanon (execSignatureWindowEnd n i0 xs s) := by
  refine .next ?_
  split
  · exact h
  · split
    · exact h
    · refine State.Canon.foldl (fun t l k => ?_) _ (h.modDie _)
      split
      · exact k
      · exact State.Canon.ite (k.modLane l (fun _ m => m.learn _ _ _ _)) k

theorem KeepsCanon.sectionEngineCycle (l : LaneId) : KeepsCanon (execSectionEngineCycle l s) := by
  unfold execSectionEngineCycle
  extract_lets L t0 a b c polys r d e
  have checked : a.Canon := h.same (State.sameMem_checkModel s l)
  clear_value a
  have windows : b.Canon := checked.modLane l (fun _ k => k.sectioned l t0)
  clear_value b
  have conditions : c.Canon :=
    State.Canon.modSame (windows.same (State.sameMem_takeHeld b l)) l Lane.sameMem_takeConditions
  clear_value c
  have nozzles : r.1.Canon := State.Canon.foldl_nozzleCycle l polys t0 _ (c, []) conditions
  clear_value r
  have metered : d.Canon := nozzles.modSame l (fun _ => Lane.sameMem_metering ..)
  clear_value d
  have painted : e.Canon := metered.paint l t0
  clear_value e
  exact .next (State.Canon.ite (painted.modSame l (fun _ => Lane.sameMem_wr64 ..)) h)

theorem KeepsCanon.fusionNcCycle (l : LaneId) : KeepsCanon (execFusionNcCycle l s) := by
  unfold execFusionNcCycle
  extract_lets L t0 t mine u
  have ran : t.Canon := h.modLane l (fun _ k => k.ncRun l t0)
  clear_value t
  have told : u.Canon := (ran.modSame _ (fun _ => Lane.sameMem_takePeer ..)).ite ran
  clear_value u
  exact .next (State.Canon.ite (told.modSame l Lane.sameMem_comparePeer) h)

theorem KeepsCanon.fusionPcCycle (l : LaneId) : KeepsCanon (execFusionPcCycle l s) := by
  refine .next (State.Canon.ite (h.modLane l (fun L k => Lane.Canon.ite (k.pcCycle _ _) ?_)) h)
  exact Lane.Canon.fus (Lane.Canon.same (k.same (Lane.sameMem_loseReplay ..)) (Lane.sameMem_refusedAt ..)) _

theorem KeepsCanon.trackUpdate (l : LaneId) : KeepsCanon (execTrackUpdate l s) := by
  refine .next (State.Canon.ite (State.Canon.ite ?_ (State.Canon.ite ?_ (State.Canon.ite ?_ h))) h)
  · exact State.Canon.ite (h.modLane l (fun _ k => k.releaseTracks _)) h
  · exact h.modLane l (fun _ k => (k.trackUpdate _ _ _).same (Lane.sameMem_noteWindow ..))
  · refine h.modLane l (fun _ k => Lane.Canon.raise (Lane.Canon.same (k.same ?_) (Lane.sameMem_noteWindow ..)) _ _ _ _)
    exact Lane.sameMem_refusedAt ..

theorem KeepsCanon.correctionFrame (l : LaneId) : KeepsCanon (execCorrectionFrame l s) := by
  refine .next (h.modLane l (fun L k => ?_))
  split
  · exact k
  · refine k.ite ?_
    extract_lets M t
    have taken : M.Canon := k.same (Lane.sameMem_modGns ..)
    clear_value M
    refine (taken.same (Lane.sameMem_arpMessage ..)).ite ((taken.same (Lane.sameMem_msmMessage ..)).ite ?_)
    exact taken.writeAid.ite (taken.bump _)

theorem KeepsCanon.encoderEvent (l : LaneId) (n : FbNo) (a b : Bool) (stamp : Nat) :
    KeepsCanon (execEncoderEvent l n a b stamp s) := by
  refine .next (State.Canon.ite (h.modLane l (fun L k => ?_)) h)
  extract_lets st a0 b0 mode M
  have seen : M.Canon := (k.setFlag _ _ _).setFlag _ _ _
  clear_value M
  refine (seen.same (Lane.sameMem_illegalEdge ..)).ite ?_
  split
  · exact seen.countEvent _ _ _
  · exact seen

/-! #### Networks -/

theorem KeepsCanon.canFrameRx (l : LaneId) (c : Fin 4) (f : CanFrame) : KeepsCanon (execCanFrameRx l c f s) := by
  refine .next (State.Canon.ite (h.modLane l (fun L k => ?_)) h)
  extract_lets M
  have counted : M.Canon := (k.same (Lane.sameMem_canRecvOk ..)).ite ((k.same (Lane.sameMem_detGood ..)).ite k)
  clear_value M
  exact counted.canStore _ _

theorem KeepsCanon.ethLinkChange (l : LaneId) (n : Fin 2) (up : Bool) (sqi : Fin 8) :
    KeepsCanon (execEthLinkChange l n up sqi s) := by
  refine .next (h.modLane l (fun L k => Lane.Canon.ite (Lane.Canon.ite ?_ k) ?_))
  · exact Lane.Canon.ite (k.setFld _ _ _ _) (Lane.Canon.raise ((k.setFld _ _ _ _).setFlag _ _ _) _ _ _ _)
  · extract_lets M
    have down : M.Canon := k.same (Lane.sameMem_ethDown ..)
    clear_value M
    exact (down.ethScan _ _).ite down

theorem KeepsCanon.ethFrameRx (l : LaneId) (n : Fin 2) (f : EthFrame) : KeepsCanon (execEthFrameRx l n f s) :=
  .next (h.modLane l (fun _ k => k.ite ((k.bump _).ite (k.ite ((k.ethStore _ _).ite k)))))

theorem KeepsCanon.ethTxComplete (l : LaneId) (n : Fin 2) (ts : BitVec 64) :
    KeepsCanon (execEthTxComplete l n ts s) :=
  .next (h.modLane l (fun _ k => ((k.ethDone _ _ _).ethScan _ _).ite k))

/-! #### The management port and the configuration store -/

theorem State.Canon.foldl_mgmtWord (addr : Nat) (es : List (Word × Nat)) :
    (es.foldl (fun (t : State) (e : Word × Nat) => t.mgmtWord ((addr + 4 * e.2) % 65536) e.1) s).Canon :=
  State.Canon.foldl (fun _ _ k => k.mgmtWord _ _) es h

theorem KeepsCanon.cfgWriteComplete (l : LaneId) (ok : Bool) : KeepsCanon (execCfgWriteComplete l ok s) := by
  refine .next (h.modLane l (fun L k => ?_))
  split
  · refine Lane.Canon.ite ?_ k
    extract_lets bs N v M good
    have written : M.Canon := Lane.Canon.written _ _ _ (k.same (Lane.sameMem_useFree L))
    clear_value M
    exact (written.setFlag _ _ _).setFlag _ _ _
  · exact k

theorem KeepsCanon.pdWriteComplete (l : LaneId) : KeepsCanon (execPdWriteComplete l s) := by
  refine .next (h.modLane l (fun L k => ?_))
  split
  · exact k.ite (Lane.Canon.setFlag (Lane.Canon.written _ _ _ k) _ _ _)
  · exact k

end

end Sys2Proof.Machine
end

