-- ==== Sys2Proof/Proofs/QuietCommands.lean ====
section
/-!
SUPPORT. The commands that leave the memories alone after a choice, and the release of a lane from reset.
-/

namespace Sys2Proof.Machine

/-! ### Commands that leave the memories alone, after a choice -/

theorem Lane.sameMem_link (L : Lane) (ms : List LinkMsg) : L.SameMem { L with link := ms } := ⟨rfl, rfl⟩

theorem Lane.Canon.timed {L : Lane} (t : TimeSt) (h : L.Canon) : ({ L with time := t } : Lane).Canon := h

/-- What a lane keeps of its SRAM when it leaves reset: the low part when it slept, and nothing else. -/
theorem Lane.Canon.woken {L : Lane} (p : Prop) [Decidable p] (f : Host.Cell → Bool) (h : L.Canon) :
    ({ L with sram := if p then L.sram.filter f else [] } : Lane).Canon := by
  refine h.withSram ?_
  split
  · exact Memory.wf_filter f h.1
  · rfl

theorem Lane.Canon.restamped {L : Lane} (n : Nat) (t : TimeSt) (h : L.Canon) :
    ({ L with lt := n, time := t } : Lane).Canon := h

section
variable {s : State} (h : s.Canon)
include h

theorem KeepsCanon.rcRead (l : LaneId) (addr : Word) : KeepsCanon (execRcRead l addr s) := by
  unfold execRcRead
  split
  · exact .next (h.same (State.sameMem_busRead s l _ _))
  · exact .fault _

/-! #### Changes of one lane -/

theorem KeepsCanon.pageTimeout (l : LaneId) (k : Fin 31) : KeepsCanon (execPageTimeout l k s) :=
  .next (h.modSame l (fun L => by dsimp only; split <;> simp))

theorem KeepsCanon.rxVerifyComplete (l : LaneId) (layer : Fin 4) : KeepsCanon (execRxVerifyComplete l layer s) := by
  refine .next (h.modSame l (fun L => ?_))
  dsimp only
  split
  · simp
  · split <;> simp

theorem KeepsCanon.flowToleranceExpiry (l : LaneId) (sect : Fin 64) : KeepsCanon (execFlowToleranceExpiry l sect s) :=
  .next (h.modSame l (fun L => by split <;> simp))

theorem KeepsCanon.meterToleranceExpiry (l : LaneId) (m : Fin 24) : KeepsCanon (execMeterToleranceExpiry l m s) :=
  .next (h.modSame l (fun L => by split <;> simp))

theorem KeepsCanon.drTimeout (l : LaneId) : KeepsCanon (execDrTimeout l s) :=
  .next (h.modSame l (fun L => by split <;> simp))

theorem KeepsCanon.sessionTimeout (l : LaneId) (n : Fin 4) : KeepsCanon (execSessionTimeout l n s) :=
  .next (h.modSame l (fun L => by split <;> simp))

theorem KeepsCanon.handoverComplete (l : LaneId) (k : SramNo) : KeepsCanon (execHandoverComplete l k s) :=
  .next (h.modSame l (fun L => by split <;> simp))

theorem KeepsCanon.enrolmentComplete (l : LaneId) (ok : Bool) : KeepsCanon (execEnrolmentComplete l ok s) :=
  .next (h.modSame l (fun L => by split <;> simp))

theorem KeepsCanon.debugResponse (l : LaneId) (pub sig : List Byte) : KeepsCanon (execDebugResponse l pub sig s) := by
  refine .next (h.modSame l (fun L => ?_))
  split
  · split <;> simp
  · simp

theorem KeepsCanon.debugLockExpiry (l : LaneId) : KeepsCanon (execDebugLockExpiry l s) :=
  .next (h.modSame l (fun L => by split <;> simp))

theorem KeepsCanon.tpLeadingEdge (l : LaneId) (n : Fin 2) : KeepsCanon (execTpLeadingEdge l n s) := by
  refine .next (State.Canon.ite ?_ h)
  split
  · exact h.modSame l (fun _ => Lane.sameMem_tpLead ..)
  · exact h

theorem KeepsCanon.ownershipDisagree (l : LaneId) : KeepsCanon (execOwnershipDisagree l s) := by
  refine .next (State.Canon.ite (h.modLane l (fun _ k => k.raise _ _ _ _)) ?_)
  split
  · exact h.modLane l (fun _ k => k.raise _ _ _ _)
  · exact h

theorem KeepsCanon.canBusError (l : LaneId) (c : Fin 4) (tec : Fin 512) (rec_ : Fin 256) (brs : Bool) :
    KeepsCanon (execCanBusError l c tec rec_ brs s) := by
  refine .next (State.Canon.ite ?_ h)
  split
  · exact h.modSame l (fun _ => Lane.sameMem_canErrors ..)
  · exact h.modSame l (fun _ => Lane.sameMem_detMiss ..)
  · exact h

theorem KeepsCanon.cancelArrival (l : LaneId) (k : BitVec 22) : KeepsCanon (execCancelArrival l k s) := by
  refine .next ?_
  split
  · exact State.Canon.ite
      (State.Canon.same (h.modSame l (fun L => Lane.sameMem_link L _)) (State.sameMem_cancelAt _ l _)) h
  · exact h

theorem KeepsCanon.switchLinkFrame (l : LaneId) (toDie crcOk : Bool) :
    KeepsCanon (execSwitchLinkFrame l toDie crcOk s) := by
  refine .next (h.ite (State.Canon.ite (h.modLane l (fun _ k => k.setFlag _ _ _)) (State.Canon.ite ?_ h)))
  split
  · exact h
  · exact State.Canon.same (h.modSame l (fun L => Lane.sameMem_link L _)) (State.sameMem_arriveMsg _ l _)

theorem KeepsCanon.debugResume (g : DebugGo) : KeepsCanon (execDebugResume g s) := by
  refine .next (State.Canon.ite (h.modSame _ (fun L => ?_)) h)
  dsimp only
  split <;> simp

theorem KeepsCanon.sessFin (l : LaneId) (f : List Byte) : KeepsCanon (execSessFin l f s) :=
  .next (h.command l _ _ (fun _ _ k => Ans.canon_ok _ (k.modSame l (fun _ => Lane.sameMem_closeSess ..))))

theorem KeepsCanon.laneResetRelease (l : LaneId) (mode : Fin 8) (tests : List (SramNo × BitVec 9)) :
    KeepsCanon (execLaneResetRelease l mode tests s) := by
  unfold execLaneResetRelease
  extract_lets t0 up P a b
  have held : a.Canon := h.modRind _
  clear_value a
  have freed : b.Canon := by
    refine held.modLane l (fun L k => ?_)
    extract_lets slept t M N Q R
    have begun : M.Canon := Lane.Canon.same (M := M) k ⟨rfl, rfl⟩
    clear_value M
    have joined : N.Canon := Lane.Canon.setFld (begun.same (Lane.sameMem_joinTime ..)) _ _ _ _
    clear_value N
    have told : Q.Canon := joined.setFlag _ _ _
    clear_value Q
    have woken : R.Canon := told.woken _ _
    clear_value R
    exact woken.ite (Lane.Canon.foldl (fun _ _ k => k.same (Lane.sameMem_bankTested ..)) _ woken)
  clear_value b
  exact .next (State.Canon.ite (freed.same (State.sameMem_payCoast b l)) h)

/-! #### Changes of both lanes -/

theorem State.Canon.absClock (t : Tab Bool) : ({ s with absClk := t } : State).Canon :=
  h.same (State.sameMem_absClk s t)

theorem State.Canon.laneLinked (b : Bool) : ({ s with laneLink := b } : State).Canon := fun m => by
  cases m
  · exact h .a
  · exact h .b

theorem KeepsCanon.laneLinkDown : KeepsCanon (execLaneLinkDown s) :=
  .next (State.Canon.bothLanes (h.laneLinked false) (fun _ k => Lane.Canon.setFlag (k.timed _) _ _ _))

theorem KeepsCanon.laneLinkUp : KeepsCanon (execLaneLinkUp s) :=
  .next (State.Canon.bothLanes (h.laneLinked _) (fun _ k => k.setFlag _ _ _))

theorem KeepsCanon.absFrameStart (p : Fin 4) : KeepsCanon (execAbsFrameStart p s) := by
  refine .next ?_
  split
  · exact h
  · refine State.Canon.ite (State.Canon.bothLanes (h.absClock _) (fun _ k => ?_)) h
    exact (k.same (Lane.sameMem_setAbs ..)).ite k

theorem KeepsCanon.absFrameEnd (p : Fin 4) (started low : Bool) (data : Word) (err warn : Bool) (crc : BitVec 6)
    (stamp : Nat) : KeepsCanon (execAbsFrameEnd p started low data err warn crc stamp s) := by
  unfold execAbsFrameEnd
  extract_lets take
  have taken : ∀ l (L : Lane), L.SameMem (take l L) := fun l L => by
    unfold take
    split
    · simp
    · split
      · exact Lane.sameMem_absEnd ..
      · exact Lane.sameMem_setAbs ..
  clear_value take
  exact .next (State.Canon.modSame ((h.absClock _).modSame .a (taken .a)) .b (taken .b))

theorem KeepsCanon.holdStoreEmpty : KeepsCanon (execHoldStoreEmpty s) := by
  unfold execHoldStoreEmpty
  extract_lets t
  have empty : t.Canon := fun m => by
    cases m
    · exact h .a
    · exact h .b
  clear_value t
  exact .next (h.ite (empty.bothLanes (fun _ k => k.restamped _ _)))

theorem KeepsCanon.laneLinkMirror : KeepsCanon (execLaneLinkMirror s) := by
  unfold execLaneLinkMirror
  extract_lets same t
  have mirrored : t.Canon := by
    unfold t
    split
    · exact h
    · exact h.modLane _ (fun _ k => Lane.Canon.timed _ (k.same (Lane.sameMem_takeMirror ..)))
  clear_value t
  exact .next (State.Canon.ite (mirrored.bothLanes (fun _ k => Lane.Canon.setFlag (k.spx _) _ _ _)) h)

theorem KeepsCanon.timingFixReturn (gt : Nat) : KeepsCanon (execTimingFixReturn gt s) := by
  refine .next ?_
  split
  · exact h
  · split
    · refine h.bothLanes (fun L k => ?_)
      extract_lets small M N P Q R S
      have slewed : M.Canon := (k.timed _).ite (k.timed _)
      clear_value M
      have stepped : N.Canon := slewed.wr _ _
      clear_value N
      have graded : P.Canon := stepped.setFld _ _ _ _
      clear_value P
      have flagged : Q.Canon := graded.ite (graded.setFlag _ _ _)
      clear_value Q
      have cleared : R.Canon := (flagged.setFlag _ _ _).setFlag _ _ _
      clear_value R
      have phased : S.Canon := Lane.Canon.same (cleared.same (Lane.sameMem_setPhase ..)) (Lane.sameMem_setPhase ..)
      clear_value S
      have rated : ((S.wr 0x40020030 S.freeWord).useFree.takeRate).Canon := Lane.Canon.same
        (Lane.Canon.same (phased.wr _ _) (Lane.sameMem_useFree _)) (Lane.sameMem_takeRate _)
      exact (rated.raise _ _ _ _).ite slewed
    · exact h

/-! #### The die and control -/

theorem KeepsCanon.homeReadyTimeout : KeepsCanon (execHomeReadyTimeout s) := by
  refine .next (State.Canon.ite ?_ h)
  split
  · exact State.Canon.ite (h.same (State.sameMem_takeover s _)) h
  · exact h

theorem KeepsCanon.bankRestoreStep (k : BankNo) : KeepsCanon (execBankRestoreStep k s) := by
  refine .next (h.ite ?_)
  dsimp only
  split
  · exact h.same (fun m => by simp)
  · exact h.same (fun m => by simp)

theorem KeepsCanon.deferredTurnOnStep (k : BankNo) : KeepsCanon (execDeferredTurnOnStep k s) := by
  refine .next (h.ite ?_)
  split
  · exact h
  · exact h.same (fun m => by simp)

theorem State.Canon.latched (i n e d m : Nat) (w : Sw) : (((s.setSw i w).markHold n).chEvent e d m).Canon :=
  State.Canon.same (State.Canon.same (h.same (State.sameMem_setSw s i w)) (State.sameMem_markHold _ n))
    (State.sameMem_chEvent _ e d m)

theorem KeepsCanon.thermalSample (n : ChNo) (tj caseT : Int) : KeepsCanon (execThermalSample n tj caseT s) := by
  unfold execThermalSample
  extract_lets k b bad t u sw v w hot x
  have seen : t.Canon := h.same (State.sameMem_setBank s _ _)
  clear_value t
  have failed : u.Canon := by
    refine State.Canon.ite (State.Canon.same ?_ (State.sameMem_raiseBoth _ _ _ _ _)) seen
    exact seen.bothLanes (fun _ k => k.setFlag _ _ _)
  clear_value u
  have measured : v.Canon := failed.same (State.sameMem_setSw u _ _)
  clear_value v
  have off : x.Canon := measured.same (State.sameMem_softOff v _)
  clear_value x
  exact .next (State.Canon.ite (measured.ite (measured.latched _ _ _ _ _ _))
    (State.Canon.ite (off.latched _ _ _ _ _ _) measured))

theorem KeepsCanon.bankBudgetSample (k : BankNo) : KeepsCanon (execBankBudgetSample k s) := by
  unfold execBankBudgetSample
  extract_lets b now sum above low os rs c overDue recDue t u
  have banked : ∀ x, (s.setBank k x).Canon := fun x => h.same (State.sameMem_setBank s _ x)
  have exceeded : t.Canon := banked _
  clear_value t
  have counted : u.Canon := exceeded.bothLanes (fun _ k => ((k.setFlag _ _ _).bump _).ite k)
  clear_value u
  exact .next (State.Canon.ite (counted.same (State.sameMem_raiseBoth u _ _ _ _))
    (State.Canon.ite ((banked _).same (State.sameMem_raiseBoth _ _ _ _ _)) (banked _)))

end

end Sys2Proof.Machine
end

