-- ==== Sys2Proof/Proofs/MemoriesCanonical.lean ====
section
/-!
SUPPORT. Every command, and so every step, keeps the memories of both lanes in canonical form.
-/

namespace Sys2Proof.Machine

/-- A command keeps the memories of both lanes in canonical form. -/
theorem exec_keepsCanon {s : State} (i : Instr) (h : s.Canon) : KeepsCanon (exec i s) := by
  cases i
  case add | sub | and | or | xor | sll | srl | sra | slt | sltu | min | max | minu | maxu | clz | mul | mulh
    | mulhu | div | divu | rem | remu | addi | andi | ori | xori | slti | sltiu | lhi | rdflg =>
    exact .next (h.alu _ _ _ _)
  case fadd | fsub | fmul | fdiv | fsqrt | fmin | fmax | fneg | fabs | fma | fms | fnma | fnms | feq | flt |
    fle | ftoi | ftou | itof | utof | fmvx | fmvf | vadd | vsub | vmul | vmac | vmin | vmax | vabs | vneg |
    vfadd | vfsub | vfmul | vfma | vfmin | vfmax | vsplt | vins | vext | vsum | vdot | vtof | vtoq | slli |
    srli | srai | wrflg | ltrd =>
    exact .next (h.issue _ _ _ _ (.onCtx h _ _ _))
  case yield | exit | haltInstruction | evpost =>
    exact .next (h.issue _ _ _ _ (.onLane h _ _ (fun _ => by simp)))
  case lb | lbu | lh | lhu | lw | ldp | flw | vld => exact .next (h.loadIns _ _ _ _ _ _ _ _)
  case sb | sh | sw | sdp | fsw | vst => exact .next (h.storeIns _ _ _ _ _ _ _ _ _)
  case ctxc | beq | bne | blt | bge | bltu | bgeu | jal | wtlt | wtev | qput | wtflt =>
    exact .next (h.issue _ _ _ _ (h.modSame _ (fun _ => by simp)))
  case edge => exact .next (h.xIssue _ _ _ _ _ _ (.edge h _ _ _ _))
  case pair => exact .next (h.xIssue _ _ _ _ _ _ (.pair h _ _ _ _ _))
  case curd => exact .next (h.xIssue _ _ _ _ _ _ (.curd h _ _ _ _ _))
  case setEdge => exact .next (h.xIssue _ _ _ _ _ _ (.set h _ _ _))
  case drain => exact .next (h.xIssue _ _ _ _ _ _ (.drain h _ _ _))
  case crdst => exact .next (h.xIssue _ _ _ _ _ _ (.crdst h _ _ _))
  case lpwr => exact .next (h.xIssue _ _ _ _ _ _ (.lpwr h _ _ _ _ _))
  case lprd => exact .next (h.xIssue _ _ _ _ _ _ (.lprd h _ _ _ _))
  case lphold => exact .next (h.xIssue _ _ _ _ _ _ (.lphold h _ _ _ _))
  case mmul | mmult | madd | msub | mscal | mchol | msolve =>
    exact .next (h.xIssue _ _ _ _ _ _ (.mat h _ _ _ _ _ _ _))
  case illegalEncoding => exact .illegalEncoding h _ _ _
  case jlr => exact .jlr h _ _ _ _ _
  case brk => exact .brk h _ _
  case relinq => exact .relinq h _ _ _
  case lkacq => exact .lkacq h _ _ _ _ _ _
  case lkrel => exact .lkrel h _ _ _
  case mwait => exact .mwait h _ _ _ _
  case qget => exact .qget h _ _ _ _ _ _ _
  case engineCommandAccept => exact .engineCommandAccept h _ _
  case matrixCommandComplete => exact .matrixCommandComplete h _
  case registerWrite => exact .registerWrite h _ _ _
  case resetNAssert => exact .resetNAssert h
  case vlogLoss => exact .vlogLoss h
  case pwrTransitionComplete => exact .pwrTransitionComplete h
  case parkBurstEnd => exact .parkBurstEnd h _
  case watchdogExpiry => exact .watchdogExpiry h _
  case loaderRestart => exact .loaderRestart h _
  case scrub => exact .scrub h _ _ _
  case drainLateCancel => exact .drainLateCancel h _ _
  case ledgerBlockSeal => exact .ledgerBlockSeal h _
  case pageEnable => exact .pageEnable h _
  case signatureWindowEnd => exact .signatureWindowEnd h _ _ _
  case sectionEngineCycle => exact .sectionEngineCycle h _
  case fusionNcCycle => exact .fusionNcCycle h _
  case fusionPcCycle => exact .fusionPcCycle h _
  case trackUpdate => exact .trackUpdate h _
  case correctionFrame => exact .correctionFrame h _
  case encoderEvent => exact .encoderEvent h _ _ _ _ _
  case canFrameRx => exact .canFrameRx h _ _ _
  case ethLinkChange => exact .ethLinkChange h _ _ _ _
  case ethFrameRx => exact .ethFrameRx h _ _ _
  case ethTxComplete => exact .ethTxComplete h _ _ _
  case cfgWriteComplete => exact .cfgWriteComplete h _ _
  case pdWriteComplete => exact .pdWriteComplete h _
  case bootComplete => exact .next (State.Canon.ite (h.bootLane _) h)
  case softwareReset => exact .next (State.Canon.ite (h.laneReset _ _ _) h)
  case laneMonitorFire => exact .next (State.Canon.ite (h.laneReset _ _ _) h)
  case curdFire => exact .next (h.fireDue _ _)
  case confirmDeadline => exact .next (h.modLane _ (fun _ k => k.deadlineDue _))
  case gnssStart | stnReset | aidClr => exact .next (State.Canon.ite (h.modLane _ (fun _ k => k.gnsCtrl _)) h)
  case gnssEpoch => exact .next (State.Canon.ite (h.modLane _ (fun _ k => k.gnssEpoch _)) h)
  case txuReq => exact .next (h.canRequest _ _ _)
  case txrWr => exact .next (h.txrWrite _ _ _)
  case canTxComplete => exact .next (h.canDone _ _ _ _ _ _)
  case txKick => exact .next (h.modLane _ (fun _ k => k.txKick _ _))
  case bankPowerWrite => exact .next (State.Canon.ite (h.modLane _ (fun _ k => k.bankPwr _ _)) h)
  case cfgWr => exact .next (State.Canon.ite (h.cfgWr _) h)
  case pdWr => exact .next (h.modLane _ (fun _ k => k.pdWr.ite k))
  case mgGo => exact .next h.mgGo
  case mgmtWrite => exact .next (State.Canon.foldl_mgmtWord (h.wakeBy 1024) _ _)
  case updBegin | updData | updEnd | updQuery => exact .next (h.updRow _ _ _ _)
  case ownRead | visRead => exact .next (h.command _ _ _ (fun _ _ k => k))
  case unknownOpcode => exact .next (h.ite (h.command _ _ _ (fun _ _ k => k)))
  case sessInit => exact .next (h.command _ _ _ (fun _ _ k => k.sessInit _ _ _))
  case evRead => exact .next (h.command _ _ _ (fun _ _ k => k.evRead _ _ _))
  case msgWrite => exact .next (h.command _ _ _ (fun _ _ k => k.msgWrite _ _))
  case msgRead => exact .next (h.command _ _ _ (fun _ _ k => k.msgRead _ _))
  case corrFrame => exact .next (h.command _ _ _ (fun _ _ k => k.corrH _ _))
  case tileTake => exact .next (h.command _ _ _ (fun _ _ k => k.tileTake _))
  case tileReq => exact .next (h.command _ _ _ (fun _ _ k => k.tileReq _))
  case tileAns => exact .next (h.command _ _ _ (fun _ _ k => k.tileAns _ _))
  case ldgRead => exact .next (h.command _ _ _ (fun _ _ k => k.ldgRead _))
  case pageTimeout => exact .pageTimeout h _ _
  case rxVerifyComplete => exact .rxVerifyComplete h _ _
  case flowToleranceExpiry => exact .flowToleranceExpiry h _ _
  case meterToleranceExpiry => exact .meterToleranceExpiry h _ _
  case drTimeout => exact .drTimeout h _
  case sessionTimeout => exact .sessionTimeout h _ _
  case handoverComplete => exact .handoverComplete h _ _
  case enrolmentComplete => exact .enrolmentComplete h _ _
  case debugResponse => exact .debugResponse h _ _ _
  case debugLockExpiry => exact .debugLockExpiry h _
  case laneResetRelease => exact .laneResetRelease h _ _ _
  case debugResume => exact .debugResume h _
  case thermalSample => exact .thermalSample h _ _ _
  case bankBudgetSample => exact .bankBudgetSample h _
  case absFrameEnd => exact .absFrameEnd h _ _ _ _ _ _ _ _
  case sessFin => exact .sessFin h _ _
  case laneLinkDown => exact .laneLinkDown h
  case laneLinkUp => exact .laneLinkUp h
  case absFrameStart => exact .absFrameStart h _
  case rcRead => exact .rcRead h _ _
  case bankRestoreStep => exact .bankRestoreStep h _
  case holdStoreEmpty => exact .holdStoreEmpty h
  case cancelArrival => exact .cancelArrival h _ _
  case homeReadyTimeout => exact .homeReadyTimeout h
  case switchLinkFrame => exact .switchLinkFrame h _ _ _
  case laneLinkMirror => exact .laneLinkMirror h
  case timingFixReturn => exact .timingFixReturn h _
  case tpLeadingEdge => exact .tpLeadingEdge h _ _
  case deferredTurnOnStep => exact .deferredTurnOnStep h _
  case ownershipDisagree => exact .ownershipDisagree h _
  case canBusError => exact .canBusError h _ _ _ _ _
  case wdogKick | tpSuppress | xsubGo | xsrcCfgWrite | tpCfgWrite | nowLoRead | gtLoRead | start | halt | resume
    | kill | contextFileWrite | binSubGo | boomInputStale | fieldWrite | prsSubGo | pressureStale | orgGo |
    fusionSubmit | fusionSourceStale | notchWrite | corrPData | corrPGo | lkpModeRequest | stopReq | stopClr |
    impSubGo | impStale | rateTimeout | countWrite | rateRead | zcapRead | canModeRequest | txuAbort | flush |
    busOffRecovery | canDominantTimeout | canDetectDwell | canDetectTimeout | responseReady | attentionPulseEnd
    | ownershipViewAdopt | fillComplete | enrGo | dbgChalRead | dominantFaultClear | compensationSlot =>
    exact .next (h.modSame _ (fun _ => by simp))
  case imuSample | switchLinkTrained | switchLinkDown | resetNRelease | bankForcedOff | bankRestoreStart |
    parkBurst | holdoverEntry | slewEnd | peerOffsetMeasure | ctxCmdNoEffect | schedulerDispatch | deadlineMiss
    | waitComplete | waitTimeout | debugHalt | secLoad | rxActivate | rxDeactivate | meterLoad | trackClear |
    calLoad | calSnap | antennaShort | antennaBiasRetry | antennaOpen | jamMeasure | lkpCycle | lkpSolveLate |
    loopBoundary | channelPeriodStart | channelDutyEnd | bridgePeriodStart | bridgeMidPeriod | bridgeDutyEnd |
    deadTimeExpiry | forceWrite | trip | tclr | unitFreeze | unitRelease | turnOn | turnOff | inrushWindowEnd |
    heatUpdate | energyCut | backoffReset | cutsAgeOut | reAgeOut | lclr | thermalClear | currentSenseSample |
    directRequest | dirinChange | encoderIndex | canTxenChange | canConfigWrite | statusFrame | fetch |
    attentionPulse | bankOwnerWrite | heartbeat | heartbeatMissed | proofRequest | commitImageFloor |
    cfgFloorWrite | tpTrailingEdge | bootstrapRefreshEnd | vlogPowerUp | directApply | mgmtRead |
    arbiterProposal | noneTimeout | xt32Fail | xt32Restore | proofAgeHour | pwrTargetWrite | wake |
    canWakeDominant | canWakeFrame | commit =>
    exact .next (h.same (fun m => by simp))
  case pulseCommandExecute | timingFixAcquired | loopEvaluation | loopOverrun | loopMirror | pulseRegisterApply
    | shutdownComplete | fastCut | retry | mgLockExpiry | plannedHandover | proofSwapEnd | arbiterDisagreement
    =>
    exact .next (h.same (fun m => by split <;> simp))

theorem State.Canon.tick {s : State} (h : s.Canon) : s.tick.Canon := h.same (State.sameMem_tick s)

theorem State.Canon.popped {s : State} (h : s.Canon) (cs : List Instr) : ({ s with pending := cs } : State).Canon :=
  fun m => by
    cases m
    · exact h .a
    · exact h .b

/-- Settles O7: a step is a tick or a command on the queue's rest, and both keep the form of the memories. -/
theorem memoriesStayCanonical : Obligations.MemoriesStayCanonical := by
  intro s t h hst
  rw [canonicalMemory_iff] at h ⊢
  rw [step] at hst
  split at hst
  · exact KeepsCanon.next h.tick t hst
  · next c rest _ => exact exec_keepsCanon c (h.popped rest) t hst

end Sys2Proof.Machine
end
